-- ==== Sys2Proof/Word.lean ====
section
/-! DEFINITION. The word types of the module and the sparse table that every indexed piece of state is held in. -/

namespace Sys2Proof

/-- One byte (R13: multi-byte fields are little-endian lists of bytes). -/
abbrev Byte := BitVec 8

/-- One 64-bit register or memory word. -/
abbrev Word64 := BitVec 64

/-- An indexed set of cells, as (index, value) pairs. In its canonical form the indexes strictly rise and
no pair holds the value that an unlisted index reads as; the operations in Machine/Ops.lean keep that form. -/
abbrev Sparse (α : Type) := List (Nat × α)

/-- Bits `hi` down to `lo` of a number read as a little-endian field (R13: bit 0 is the least significant). -/
abbrev bits (n hi lo : Nat) : Nat := (n >>> lo) % 2 ^ (hi + 1 - lo)

/-- One bit of a number as a truth value. -/
abbrev bit (n i : Nat) : Bool := n.testBit i

/-- Who sends a command or accesses a register (R470). -/
inductive Source where
  | host | mgmt | peer
  deriving DecidableEq, Repr

/-- A command packet as it was taken from its source (R461): where it came from, the header fields, PARAMS, and
the bytes that the command reads in host memory or in the management data-in buffer. -/
structure Packet where
  src : Source
  /-- Submission ring 0 to 63, for the host. -/
  ring : Nat := 0
  /-- Partner context, for a peer. -/
  ctx : Nat := 0
  /-- Sequence number of the head cell, for a peer. -/
  seq : Nat := 0
  /-- TAG of the message, for the enclosure manager. -/
  tag : BitVec 8 := 0
  cmdId : BitVec 16 := 0
  /-- The reserved header bits: [15:8] as bits [7:0], [63:32] as bits [39:8]. -/
  reserved : BitVec 40 := 0
  /-- PARAMS, bits [511:64]. -/
  params : BitVec 448 := 0
  data : List Byte := []
  deriving DecidableEq, Repr

/-- The tiles that a bank read request asks for, and what its read finds. -/
structure TileRange where
  /-- The first tile of the region. -/
  tile : Nat
  count : Nat := 1
  /-- The receive space that the requester reserved (R241). -/
  space : Nat := 0
  /-- Words of the bank that the read finds uncorrectable (R274). -/
  bad : List Nat := []
  deriving DecidableEq, Repr

/-- The flits of a packet that a router receives. -/
structure Flits where
  /-- Payload flits. -/
  length : Nat
  /-- Tracks on which a flit was corrected (R218). -/
  tracks : List Nat := []
  /-- The payload is complete. -/
  ended : Bool := true
  deriving DecidableEq, Repr

/-- What a field that was switched on reports (R410). -/
structure FieldTest where
  field : Nat
  /-- Cores, routers and store sites that failed its self-test, by 25 × prow + pcol (R413). -/
  failed : List Nat := []
  routers : List Nat := []
  sites : List Nat := []
  deriving DecidableEq, Repr

/-- What the traffic of a module's units moves in HBM (R294). -/
inductive HbmUse where
  /-- A page of the staged copy of a step or of an eval window. -/
  | staged (eval : Bool)
  /-- Owner state of a page. -/
  | owner
  /-- A page's staged reduced gradient. -/
  | gradient
  /-- A bucket image. -/
  | bucket
  /-- A page's slow-tier transfer. -/
  | tier
  /-- A page that a buddy's Keeper mirrors here. -/
  | mirror
  /-- The retained plan, or the table store. -/
  | plan
  deriving DecidableEq, Repr

/-- Whose bytes an HBM burst holds: the partition to which R294 charges them, and the page or bucket. -/
structure HbmOwner where
  use : HbmUse
  part : Nat
  page : Nat := 0
  deriving DecidableEq, Repr

/-- A request of a unit that enters a stack's queues. -/
structure HbmTraffic where
  owner : HbmOwner
  addr : Nat
  bytes : Nat
  write : Bool := false
  deriving DecidableEq, Repr

/-- An issue slot: one pseudo-channel of a stack (R295). -/
structure IssueSlot where
  stack : Nat
  channel : Nat := 0
  deriving DecidableEq, Repr

/-- A burst that is found uncorrectable, and whose it is. -/
structure BadBurst where
  owner : Option HbmOwner := none
  deriving DecidableEq, Repr

/-- A transfer with the slow tier: component 0 W, 1 M or 2 D of a page, or 3 with a bucket in place of the page. -/
structure UioTransfer where
  kpr : Nat
  part : Nat
  page : Nat
  comp : Nat
  write : Bool := false
  deriving DecidableEq, Repr

/-- One request of a slow-tier transfer, by its place in it (R300). -/
structure UioRequest where
  transfer : UioTransfer
  index : Nat := 0
  deriving DecidableEq, Repr

/-- What a station reports to its field controller (R180). -/
structure ErrorReport where
  /-- The error code. -/
  code : Nat
  /-- For code 5: words of its bank that its own read has just found uncorrectable. -/
  bad : List Nat := []
  deriving DecidableEq, Repr

/-- The end of a bank migration's copy. -/
structure CopyEnd where
  /-- The station in its field: 24 times its row, and its column. -/
  station : Nat
  /-- Words that the copy's reads find uncorrectable. -/
  bad : List Nat := []
  deriving DecidableEq, Repr

end Sys2Proof
end

