-- ==== Sys2Proof/Syntax.lean ====
section
/-! DEFINITION. The commands of the module: one constructor for every row of the opcode table. The 46 commands of
spec/15 (R463 to R469) carry the packet as it was taken from its source; the other rows are the events of the
module's agents, and carry what reaches the agent from outside the state (DESIGN CHOICE, log entry 12). -/

namespace Sys2Proof

/-- A command of the module: a row of the opcode table, with the rule that governs it. -/
inductive Instr where
  /-- NOP (R466). -/
  | nop (c : Packet)
  /-- ATTACH (R466). -/
  | attach (c : Packet)
  /-- SET_ID (R466). -/
  | setId (c : Packet)
  /-- RING_CREATE (R466). -/
  | ringCreate (c : Packet)
  /-- RING_DELETE (R466). -/
  | ringDelete (c : Packet)
  /-- LEASE_TAKE (R466). -/
  | leaseTake (c : Packet)
  /-- LEASE_RELEASE (R466). -/
  | leaseRelease (c : Packet)
  /-- RESET (R466). -/
  | reset (c : Packet)
  /-- EVENT_CONFIG (R466). -/
  | eventConfig (c : Packet)
  /-- PART_CREATE (R467). -/
  | partCreate (c : Packet)
  /-- PART_DISSOLVE (R467). -/
  | partDissolve (c : Packet)
  /-- PLAN_LOAD (R194). -/
  | planLoad (c : Packet)
  /-- TABLE_LOAD (R197). -/
  | tableLoad (c : Packet)
  /-- CTX_OPEN (R380). -/
  | ctxOpen (c : Packet)
  /-- CTX_CLOSE (R467). -/
  | ctxClose (c : Packet)
  /-- DQ_CREATE (R467). -/
  | dqCreate (c : Packet)
  /-- DQ_DELETE (R467). -/
  | dqDelete (c : Packet)
  /-- STORE_WRITE (R276). -/
  | storeWrite (c : Packet)
  /-- STORE_READ (R467). -/
  | storeRead (c : Packet)
  /-- STEP_BEGIN (R21). -/
  | stepBegin (c : Packet)
  /-- EVAL_OPEN (R37). -/
  | evalOpen (c : Packet)
  /-- EVAL_CLOSE (R147). -/
  | evalClose (c : Packet)
  /-- SKIP_STEP (R355). -/
  | skipStep (c : Packet)
  /-- REPLAY (R356). -/
  | replay (c : Packet)
  /-- COMMIT_RESUME (R350). -/
  | commitResume (c : Packet)
  /-- PAGE_LOAD (R568). -/
  | pageLoad (c : Packet)
  /-- PAGE_READ (R568). -/
  | pageRead (c : Packet)
  /-- SCALE_READ (R468). -/
  | scaleRead (c : Packet)
  /-- SCALE_WRITE (R81). -/
  | scaleWrite (c : Packet)
  /-- TIER_EVICT (R305). -/
  | tierEvict (c : Packet)
  /-- TIER_FETCH (R304). -/
  | tierFetch (c : Packet)
  /-- MODULE_FENCE (R434). -/
  | moduleFence (c : Packet)
  /-- SPARE_ADMIT (R437). -/
  | spareAdmit (c : Packet)
  /-- SPARE_CONFIG (R429). -/
  | spareConfig (c : Packet)
  /-- SPARE_RELEASE (R468). -/
  | spareRelease (c : Packet)
  /-- DIAG_REPLAY (R447). -/
  | diagReplay (c : Packet)
  /-- POWER_GRANTS (R488). -/
  | powerGrants (c : Packet)
  /-- HALF_CLOCK (R478). -/
  | halfClock (c : Packet)
  /-- FIELD_POWER (R468). -/
  | fieldPower (c : Packet)
  /-- THERMAL_LIMITS (R494). -/
  | thermalLimits (c : Packet)
  /-- TELEMETRY_CONFIG (R528). -/
  | telemetryConfig (c : Packet)
  /-- SNAPSHOT (R529). -/
  | snapshot (c : Packet)
  /-- LIFE_READ (R537). -/
  | lifeRead (c : Packet)
  /-- ATTEST (R541). -/
  | attest (c : Packet)
  /-- FW_UPDATE (R512). -/
  | fwUpdate (c : Packet)
  /-- ID_READ (R539). -/
  | idRead (c : Packet)
  /-- COMMAND_FETCH (R463). -/
  | commandFetch (q : Nat) (entry : BitVec 512) (data : List Byte)
  /-- ARBITRATION_CYCLE (R471). -/
  | arbitrationCycle
  /-- FINAL_COMPLETION_POST (R458). -/
  | finalCompletionPost (q : Nat)
  /-- COMMAND_TIMEOUT (R469). -/
  | commandTimeout (csn : Nat)
  /-- CXL_SQ_TAIL (R457). -/
  | cxlSqTail (q : Nat) (value : BitVec 32)
  /-- CXL_CQ_HEAD (R458). -/
  | cxlCqHead (q : Nat) (value : BitVec 32)
  /-- CXL_RING_CTL_0_WRITE (R459). -/
  | cxlRingCtl0Write (value : BitVec 32)
  /-- CXL_DQ_DB (R460). -/
  | cxlDqDb (p q : Nat) (value : BitVec 32)
  /-- DQ_INPUT_TILE (R460). -/
  | dqInputTile (p q : Nat) (tile : List Byte)
  /-- DQ_OUTPUT_TILE (R460). -/
  | dqOutputTile (p q : Nat) (tile : List Byte)
  /-- CXL_LINK_RESET (R455). -/
  | cxlLinkReset
  /-- HOST_MEM_READ (R283). -/
  | hostMemRead (addr len : Nat)
  /-- HOST_MEM_WRITE (R283). -/
  | hostMemWrite (addr : Nat) (data : List Byte)
  /-- REGISTER_WRITE (R15). -/
  | registerWrite (src : Source) (offset size : Nat) (value : BitVec 64)
  /-- REGISTER_READ_CLEAR (R15). -/
  | registerReadClear (src : Source) (offset size : Nat)
  /-- HBM_REG_CFG_WRITE (R297). -/
  | hbmRegCfgWrite (src : Source) (stk p : Nat) (value : BitVec 64)
  /-- FLD_FAULT_LOG_READ (R419). -/
  | fldFaultLogRead (f : Nat)
  /-- STATION_WINDOW_READ (R138). -/
  | stationWindowRead (st offset : Nat)
  /-- MLV_PORT_ENABLE (R392). -/
  | mlvPortEnable (src : Source) (port : Nat) (enable : Bool)
  /-- RETRAIN (R365). -/
  | retrain (src : Source) (port : Nat)
  /-- COMPUTE_START (R39). -/
  | computeStart (p : Nat)
  /-- EVAL_STAGED (R38). -/
  | evalStaged (p : Nat)
  /-- EVAL_CLOSE_DONE (R147). -/
  | evalCloseDone (p : Nat)
  /-- STEP_FENCE (R31). -/
  | stepFence (p : Nat)
  /-- OP_FETCH (R172). -/
  | opFetch (st : Nat)
  /-- TMUL (R121). -/
  | tmul (st id : Nat)
  /-- TMUL_YIELD (R175). -/
  | tmulYield (st id block : Nat)
  /-- TMUL_RESUME (R175). -/
  | tmulResume (st id : Nat)
  /-- PROMOTION (R176). -/
  | promotion (st id : Nat)
  /-- TEPI (R105). -/
  | tepi (st id : Nat)
  /-- TLOAD (R564). -/
  | tload (st id : Nat)
  /-- TSTORE (R564). -/
  | tstore (st id : Nat)
  /-- TSEND (R564). -/
  | tsend (st id : Nat)
  /-- TRECV (R564). -/
  | trecv (st id : Nat)
  /-- TVEC (R169). -/
  | tvec (st id : Nat)
  /-- TFUN (R200). -/
  | tfun (st id : Nat)
  /-- TACC (R103). -/
  | tacc (st id : Nat)
  /-- TSCALE (R167). -/
  | tscale (st id : Nat)
  /-- TFENCE (R181). -/
  | tfence (st id : Nat)
  /-- TPIP (R184). -/
  | tpip (st id : Nat)
  /-- OP_RETIRE (R177). -/
  | opRetire (st id : Nat)
  /-- INTERIM_SHADOW (R182). -/
  | interimShadow (st : Nat)
  /-- SHADOW_COMPLETE (R182). -/
  | shadowComplete (st : Nat)
  /-- WATCHDOG (R180). -/
  | watchdog (st id : Nat)
  /-- STREAM_TILE (R157). -/
  | streamTile (st stream seq : Nat) (data : List Byte)
  /-- CREDIT_RETURN (R156). -/
  | creditReturn (st stream dest n : Nat)
  /-- BANK_READ_REQUEST (R231, R241). -/
  | bankReadRequest (owner requester region : Nat) (tiles : TileRange)
  /-- MERGE_WINDOW_CLOSE (R231). -/
  | mergeWindowClose (owner region tile : Nat)
  /-- BANK_READ_RESPONSE (R231). -/
  | bankReadResponse (st owner region tile : Nat) (data : List Byte)
  /-- ARRAY_FAULT_LAMB (R130). -/
  | arrayFaultLamb (st lamb : Nat)
  /-- ARRAY_FAULT_WHOLE (R131). -/
  | arrayFaultWhole (st : Nat)
  /-- SYNC_POST (R246), with the pip's two bytes (R243). -/
  | syncPost (node member : Nat) (head value : Byte)
  /-- SYNC_RESULT (R246), with the pip's two bytes (R243). -/
  | syncResult (node : Nat) (head value : Byte)
  /-- HEARTBEAT_POST (R395). -/
  | heartbeatPost (st : Nat)
  /-- HEARTBEAT_MISSING (R395). -/
  | heartbeatMissing (st : Nat)
  /-- ROUTER_PACKET (R223): a header and payload flits have come; with `bad` one of them is uncorrectable
  (R219); `escape` is the control network's escape lane. -/
  | routerPacket (bulk : Bool) (gx gy port : Nat) (header : BitVec 512) (escape : Bool) (flits : Flits) (bad : Bool)
  /-- LINK_STEER_RESUME (R218). -/
  | linkSteerResume (bulk : Bool) (gx gy port : Nat)
  /-- CHECK_FLIT (R219). -/
  | checkFlit (bulk : Bool) (gx gy port : Nat) (ok : Bool)
  /-- TRUNCATION_FLIT (R220). -/
  | truncationFlit (gx gy port : Nat)
  /-- REDUCTION_CONTRIBUTION (R236). -/
  | reductionContribution (p tree site input seq micro offset : Nat) (data : List Byte)
  /-- REMAP_UPDATE (R249). -/
  | remapUpdate (st : Nat) (value : BitVec 32)
  /-- FILL_TRANSFER (R398). -/
  | fillTransfer (st offset : Nat) (data : List Byte)
  /-- STATION_ERROR_REPORT (R396). -/
  | stationErrorReport (st : Nat) (report : ErrorReport)
  /-- FILL_COMPLETE (R400). -/
  | fillComplete (f : Nat)
  /-- ROUTER_FAULT_REPORT (R406); a spare's site has col 24. -/
  | routerFaultReport (st : Nat)
  /-- FIELD_READY (R410). -/
  | fieldReady (test : FieldTest)
  /-- REFRESH_BURST (R267). -/
  | refreshBurst (f prow pcol : Nat)
  /-- STORE_BAND_FALL (R268). -/
  | storeBandFall (f : Nat)
  /-- STORE_CORRECT_WRITEBACK (R271). -/
  | storeCorrectWriteback (f prow pcol word : Nat)
  /-- SCRUB_BLOCK (R272). -/
  | scrubBlock (f prow pcol : Nat) (fixed bad : List Nat)
  /-- SCRUB_OVERDUE (R272). -/
  | scrubOverdue (f prow pcol : Nat) (fixed bad : List Nat)
  /-- WORD_RECOVERY (R275). -/
  | wordRecovery (f prow pcol word : Nat)
  /-- MIGRATION_COPY_DONE (R277). -/
  | migrationCopyDone (f : Nat) (copy : CopyEnd)
  /-- BANK_CONTROLLER_FAULT (R278). -/
  | bankControllerFault (f i : Nat)
  /-- SENSOR_READ (R493). -/
  | sensorRead (readings : List (Nat × Nat))
  /-- HBM_REFRESH_MODE_FALL (R290). -/
  | hbmRefreshModeFall (stk : Nat)
  /-- HBM_ISSUE_SLOT (R295). -/
  | hbmIssueSlot (slot : IssueSlot) (requests : List HbmTraffic) (fixed bad : List Nat)
  /-- HBM_SCRUB_BURST (R293). -/
  | hbmScrubBurst (stk : Nat) (fixed : Bool) (bad : Option BadBurst)
  /-- SLOW_FETCH_COMPLETE (R306). -/
  | slowFetchComplete (k p page comp : Nat) (data : List Byte)
  /-- EVICT_COMPLETE (R305). -/
  | evictComplete (k p page comp : Nat)
  /-- UIO_TIMEOUT (R300). -/
  | uioTimeout (t : Nat) (request : UioRequest)
  /-- BUCKET_TILE (R313). -/
  | bucketTile (k p bucket stream seq : Nat) (data : List Byte)
  /-- BUCKET_ADMIT (R315). -/
  | bucketAdmit (k p : Nat)
  /-- SLICE_ACKNOWLEDGED (R315). -/
  | sliceAcknowledged (k p bucket page : Nat)
  /-- PARK_WRITE_DONE (R322). -/
  | parkWriteDone (k p bucket : Nat)
  /-- PAGE_REDUCED (R319). -/
  | pageReduced (k p page : Nat)
  /-- PAGE_COMMIT (R345). -/
  | pageCommit (k p page : Nat)
  /-- ROLLBACK_DONE (R567). -/
  | rollbackDone (p : Nat)
  /-- TRAINING_PHASE_DONE (R364). -/
  | trainingPhaseDone (port : Nat)
  /-- TRAINING_TIMEOUT (R365). -/
  | trainingTimeout (port : Nat)
  /-- DOWN_RETRAIN (R364). -/
  | downRetrain (port : Nat)
  /-- LIVE (R370). -/
  | live (port : Nat) (word : BitVec 256)
  /-- LACK (R371). -/
  | lack (port : Nat) (word : BitVec 256)
  /-- LNAK (R372). -/
  | lnak (port : Nat) (word : BitVec 256)
  /-- LCREDIT (R373). -/
  | lcredit (port : Nat) (word : BitVec 256)
  /-- LIVE_SEND (R373). -/
  | liveSend (port : Nat)
  /-- LACK_SEND (R371). -/
  | lackSend (port : Nat)
  /-- CELL_RECEIVE (R390). -/
  | cellReceive (port symbols : Nat) (correctable : Bool) (frame : List Byte)
  /-- PORT_DOWN (R374). -/
  | portDown (port : Nat)
  /-- PORT_STALL (R374). -/
  | portStall (port : Nat)
  /-- STALL_RETRAIN (R374). -/
  | stallRetrain (port : Nat)
  /-- HELLO (R380). -/
  | hello (ctx incarnation partnerCtx : Nat)
  /-- HELLO_SEND (R380). -/
  | helloSend (ctx : Nat)
  /-- ACK_SEND (R382). -/
  | ackSend (ctx cls : Nat)
  /-- CELL_RESEND (R383). -/
  | cellResend (ctx cls seq port : Nat)
  /-- CONTEXT_LOST (R383). -/
  | contextLost (ctx cls : Nat)
  /-- WATCH_NULL (R432). -/
  | watchNull (ctx : Nat)
  /-- WATCH_LOST (R432). -/
  | watchLost (ctx : Nat)
  /-- SLICE_HEAD (R317). -/
  | sliceHead (ctx head : Nat) (data : List Byte)
  /-- PAGE_HEAD (R325). -/
  | pageHead (ctx head : Nat) (data : List Byte)
  /-- AMAX (R77). -/
  | amax (ctx head : Nat)
  /-- AMAX_REPORT (R77). -/
  | amaxReport (st k tensor : Nat) (value : BitVec 32)
  /-- PAGE_REQ (R27). -/
  | pageReq (ctx head : Nat)
  /-- SLICE_REQ (R346). -/
  | sliceReq (ctx head : Nat)
  /-- PEER_CMD (R389). -/
  | peerCmd (ctx seq : Nat) (entry : BitVec 512)
  /-- PEER_CPL (R385). -/
  | peerCpl (ctx head : Nat)
  /-- SUM_UP (R387). -/
  | sumUp (ctx head : Nat) (data : List Byte)
  /-- SUM_DOWN (R388). -/
  | sumDown (ctx head : Nat)
  /-- HUSK_GRAD (R424). -/
  | huskGrad (ctx head : Nat) (data : List Byte)
  /-- HUSK_NULL (R424). -/
  | huskNull (ctx head : Nat)
  /-- HUSK_SCHED (R426). -/
  | huskSched (ctx head : Nat) (data : List Byte)
  /-- HUSK_PROG (R422). -/
  | huskProg (ctx head : Nat)
  /-- HUSK_PULL (R428). -/
  | huskPull (ctx head : Nat)
  /-- HUSK_PAGE (R441). -/
  | huskPage (ctx head : Nat) (data : List Byte)
  /-- HUSK_CMP (R326). -/
  | huskCmp (ctx head : Nat)
  /-- HUSK_END (R427). -/
  | huskEnd (ctx head : Nat)
  /-- ADMIT_WAIT_EXPIRY (R437). -/
  | admitWaitExpiry (id : Nat)
  /-- TAKEOVER_BLOCKED (R438). -/
  | takeoverBlocked
  /-- ATT_REQ (R542). -/
  | attReq (ctx head : Nat)
  /-- MGMT_COMMAND (R524). -/
  | mgmtCommand (tag : BitVec 8) (entry : BitVec 512)
  /-- MGMT_DATA_IN (R524). -/
  | mgmtDataIn (tag : BitVec 8) (data : List Byte)
  /-- MGMT_PORT_RESET (R526). -/
  | mgmtPortReset
  /-- REF_LOSS (R479). -/
  | refLoss
  /-- PLL_LOCK_LOSS (R479). -/
  | pllLockLoss
  /-- SUPPLY_UNDERVOLTAGE (R483). -/
  | supplyUndervoltage (a b : Nat)
  /-- SUPPLY_OVERVOLTAGE (R483). -/
  | supplyOvervoltage (a b : Nat)
  /-- UVLO_RESTART (R483). -/
  | uvloRestart (a b : Nat)
  /-- PAIR_LOST (R484). -/
  | pairLost (pair volts : Nat)
  /-- CLIP_ASSERT (R484). -/
  | clipAssert (amps : Nat)
  /-- CLIP_RELEASE (R484). -/
  | clipRelease (amps : Nat)
  /-- EFUSE_TRIP (R485). -/
  | efuseTrip (region : Nat)
  /-- POWER_EVALUATION (R489). -/
  | powerEvaluation (measures : List Nat) (powers : List (Nat × Nat))
  /-- ISSUE_GATE_SAMPLE (R492). -/
  | issueGateSample (region power : Nat)
  /-- THERMAL_CAP_STEP (R495). -/
  | thermalCapStep (region : Nat)
  /-- THERMAL_STAGE_EXIT (R495). -/
  | thermalStageExit (region : Nat)
  /-- THERMAL_DIVIDER_STEP (R496). -/
  | thermalDividerStep (east : Bool)
  /-- COOLANT_FAULT (R500). -/
  | coolantFault (flow outWafer outCarrier : Nat)
  /-- POWER_UP (R504). -/
  | powerUp (a b : Nat)
  /-- BRINGUP_STAGE_TIMEOUT (R506). -/
  | bringupStageTimeout (unit : Nat)
  /-- BRINGUP_READY (R505). -/
  | bringupReady (flashOk : Bool) (ms : Nat) (failed : List Nat)
  /-- CP_WATCHDOG (R514). -/
  | cpWatchdog
  /-- FW_PROGRAM_DONE (R512). -/
  | fwProgramDone (success : Bool)
  /-- ENABLE_DEASSERT (R550). -/
  | enableDeassert
  /-- TELEMETRY_SAMPLE (R527). -/
  | telemetrySample (place : Nat)
  /-- SNAPSHOT_ASSEMBLY (R527). -/
  | snapshotAssembly (hostBusy mgmtBusy : Bool)
  /-- SENSOR_CALIBRATION (R531). -/
  | sensorCalibration (sensor : Nat)
  /-- WEAR_ACCUMULATE (R532). -/
  | wearAccumulate (f centiamps : Nat)
  /-- COUNTER_SET_WRITE (R536). -/
  | counterSetWrite (ok : Bool)
  /-- SLOW_TIER_PERST (R554). -/
  | slowTierPerst (t : Nat)
  /-- PLAN_LOAD_DONE (R194). -/
  | planLoadDone (csn : Nat) (image : List Byte)
  /-- PAGE_LOAD_DONE (R568). -/
  | pageLoadDone (csn : Nat) (data : List Byte)
  /-- PAGE_READ_DONE (R568). -/
  | pageReadDone (csn : Nat)
  /-- STORE_WRITE_DONE (R276). -/
  | storeWriteDone (csn : Nat) (data : List Byte)
  /-- STORE_READ_DONE (R467). -/
  | storeReadDone (csn : Nat)
  /-- SPARE_CONFIG_DONE (R429). -/
  | spareConfigDone (csn : Nat) (images : List (List Byte))
  /-- DIAG_REPLAY_END (R449). -/
  | diagReplayEnd (csn : Nat)
  /-- FW_IMAGE_HELD (R512). -/
  | fwImageHeld (image : List Byte)
  /-- REF_RESTORED (R479). -/
  | refRestored
  /-- PAIR_RESTORED (R484). -/
  | pairRestored (pair volts : Nat)
  /-- MARGINAL_BAND_CHANGE (R482). -/
  | marginalBandChange (a b : Nat)
  /-- KEEPER_FAILURE (R433). -/
  | keeperFailure (k : Nat)
  /-- FIELD_CONTROLLER_FAILURE (R407). -/
  | fieldControllerFailure (f : Nat) (banksIntact : Bool)
  /-- HBM_REFRESH (R290). -/
  | hbmRefresh (stk : Nat)
  /-- SLOW_TIER_LINK_UP (R300). -/
  | slowTierLinkUp (t : Nat) (width : BitVec 2) (speed : Bool)
  /-- REOPEN_TIMEOUT (R433). -/
  | reopenTimeout (ctx : Nat)
  deriving DecidableEq, Repr

end Sys2Proof
end

