-- ==== Sys2Proof/Config.lean ====
section
/-! DEFINITION. What an implementation fixes and the spec leaves open: constants without a value (free values),
and functions the spec names but does not give. Nothing can be proved of a particular value of any of them. -/

namespace Sys2Proof.Config

/-- R202: the coefficients of the shipped function pairs. The spec bounds their error and does not give them:
pair 0 to 6, derivative half or not, segment, coefficient index; the FP32 encoding. (DESIGN CHOICE, log entry 20) -/
opaque shippedCoeff (pair : Nat) (deriv : Bool) (segment coeff : Nat) : BitVec 32

/-- R202: PRE_LO of pair 4: the FP32 value nearest to the decimal that the spec gives. (DESIGN CHOICE, log entry 20) -/
def expPreLo : BitVec 32 := 0x32A57060#32

/-- R91: the accumulator bits after a carry whose lift is refused; the sum does not fit the field and the spec
gives SPECIAL only. (DESIGN CHOICE, log entry 21) -/
opaque refusedCarryAcc (sum : Int) : BitVec 384

/-- R507, R508: whether an XMSS signature over an image verifies under the fused key. (DESIGN CHOICE, log entry 22) -/
opaque imageVerifies (image : List Byte) : Bool

/-- R539, R541: the 2,692-byte identity signature made with a one-time index over a report's first 160 bytes.
 (DESIGN CHOICE, log entry 22) -/
opaque identitySign (index : Nat) (report : List Byte) : List Byte

/-- R539: the 68-byte device public key followed by the 4,096-byte device certificate. (DESIGN CHOICE, log entry 22) -/
opaque identityBlock : List Byte

/-- R541: the digest of the runtime map's bytes in flash, a function of what the map holds; the spec does not give its layout. (DESIGN CHOICE, log entry 22) -/
opaque mapDigest (map : List (List Nat)) : BitVec 256

/-- A free value drawn by counter, where the spec leaves a value of the machine open. (DESIGN CHOICE, log entry 8) -/
opaque freeValue (counter : Nat) : BitVec 64

/-- R67, R74: the random bits with which a unit rounds a source value beyond FP32 range, which the spec does not key:
step, station, operation, element. (DESIGN CHOICE, log entry 25) -/
opaque sourceRound (step station op elem : Nat) : BitVec 16

/-- R26, R74: the parameter whose weight is an element of a mule stream's tile: stream identifier, SEQ of the tile,
element. The spec keys a mule's conversion by it and gives no map from streams to parameters. (DESIGN CHOICE, log entry 158) -/
opaque muleParam (stream seq elem : Nat) : Nat

end Sys2Proof.Config
end

