-- ==== Sys2Proof/Machine/Numerics.lean ====
section
/-! DEFINITION. Exact rational arithmetic, the eleven number formats of R47 to R58, rounding (R64, R65),
the conversions of R67 and R68, MX and per-tensor scaling (R59 to R63), MW16 blocks (R56, R57), and IEEE 754
operations rounded once. Every result is computed exactly over the rationals and narrowed once. -/

namespace Sys2Proof.Machine

/-- 2 to the power `e`. -/
def pow2 (e : Int) : Rat :=
  if 0 ≤ e then ((2 ^ e.toNat : Nat) : Rat) else mkRat 1 (2 ^ (-e).toNat)

/-- floor(log2 x) of a positive rational. -/
def floorLog2 (x : Rat) : Int :=
  let a : Int := (x.num.natAbs.log2 : Int) - (x.den.log2 : Int)
  if pow2 a ≤ x then a else a - 1

/-- ceil(log2 x) of a positive rational. -/
def ceilLog2 (x : Rat) : Int :=
  let a := floorLog2 x
  if pow2 a = x then a else a + 1

/-- A decoded element: a NaN, a signed infinity, or a signed finite magnitude (the sign of a zero is kept, R51). -/
inductive Num where
  | nan
  | inf (neg : Bool)
  | fin (neg : Bool) (mag : Rat)
  deriving DecidableEq, Repr

/-- The signed value of a finite element; 0 for a NaN or an infinity. -/
def Num.val : Num → Rat
  | .fin true m => -m
  | .fin false m => m
  | _ => 0

/-- A finite value as an element; zero is +0. -/
def Num.ofRat (x : Rat) : Num := .fin (x < 0) |x|

/-- +0. -/
def Num.zero : Num := .fin false 0

def Num.isNan : Num → Bool
  | .nan => true
  | _ => false

/-- A NaN or an infinity (the events of R69). -/
def Num.special : Num → Bool
  | .fin _ _ => false
  | _ => true

def Num.neg : Num → Num
  | .nan => .nan
  | .inf s => .inf (!s)
  | .fin s m => .fin (!s) m

/-! ### Rounding -/

/-- The rounding modes of R64; stochastic carries its 16-bit random value r (R65). -/
inductive Rnd where
  | nearest
  | stochastic (r : Nat)
  | towardZero
  deriving DecidableEq, Repr

/-- Rounds a signed multiple of the least-significant-bit weight to an integer: the two's-complement
branch of R65 for stochastic, R64 otherwise. -/
def Rnd.toInt (mode : Rnd) (x : Rat) : Int :=
  let q := x.floor
  let f := x - q
  match mode with
  | .nearest => if f < 1 / 2 then q else if 1 / 2 < f then q + 1 else if q % 2 = 0 then q else q + 1
  | .stochastic r => if (f * 65536).floor + (r : Int) ≥ 65536 then q + 1 else q
  | .towardZero => if x < 0 ∧ f ≠ 0 then q + 1 else q

/-! ### Formats -/

/-- The format codes of R48. -/
inductive Fmt where
  | fp4 | e2m3 | e3m2 | e4m3 | e5m2 | int8 | bf16 | fp16 | fp32 | mw16 | l192
  deriving DecidableEq, Repr

/-- R48: the format of a code; codes 0xB to 0xF are reserved. -/
def Fmt.ofCode : Nat → Option Fmt
  | 0 => some .fp4 | 1 => some .e2m3 | 2 => some .e3m2 | 3 => some .e4m3 | 4 => some .e5m2
  | 5 => some .int8 | 6 => some .bf16 | 7 => some .fp16 | 8 => some .fp32 | 9 => some .mw16
  | 10 => some .l192 | _ => none

def Fmt.code : Fmt → Nat
  | .fp4 => 0 | .e2m3 => 1 | .e3m2 => 2 | .e4m3 => 3 | .e5m2 => 4 | .int8 => 5 | .bf16 => 6
  | .fp16 => 7 | .fp32 => 8 | .mw16 => 9 | .l192 => 10

/-- What the all-ones exponent field encodes (R50). -/
inductive Specials where
  | ieee      -- infinities and NaNs
  | allOnes   -- E4M3: only the all-ones encoding is NaN
  | none      -- every encoding is finite
  deriving DecidableEq, Repr

/-- The parameters of a sign-exponent-fraction format (R50). -/
structure FloatParams where
  expBits : Nat
  fracBits : Nat
  bias : Int
  specials : Specials
  deriving DecidableEq, Repr

/-- R50, row by row (FP32 for the formats that are not of this layout). -/
def Fmt.params : Fmt → FloatParams
  | .fp4 => ⟨2, 1, 1, .none⟩
  | .e2m3 => ⟨2, 3, 1, .none⟩
  | .e3m2 => ⟨3, 2, 3, .none⟩
  | .e4m3 => ⟨4, 3, 7, .allOnes⟩
  | .e5m2 => ⟨5, 2, 15, .ieee⟩
  | .bf16 => ⟨8, 7, 127, .ieee⟩
  | .fp16 => ⟨5, 10, 15, .ieee⟩
  | _ => ⟨8, 23, 127, .ieee⟩

/-- IEEE 754 binary64, in which the Keepers form sums of squares and step constants (R320, R339). -/
def fp64 : FloatParams := ⟨11, 52, 1023, .ieee⟩

def fp32 : FloatParams := ⟨8, 23, 127, .ieee⟩

/-- The largest finite exponent of the format. -/
def FloatParams.maxExp (p : FloatParams) : Int :=
  (2 ^ p.expBits : Int) - 1 - p.bias - (if p.specials = .ieee then 1 else 0)

/-- The largest finite value (R50). -/
def FloatParams.maxFinite (p : FloatParams) : Rat :=
  pow2 (p.maxExp - p.fracBits) *
    ((2 ^ (p.fracBits + 1) - 1 - (if p.specials = .allOnes then 1 else 0) : Nat) : Rat)

/-- Decodes a sign-exponent-fraction encoding (R50, R51). -/
def FloatParams.decode (p : FloatParams) (b : Nat) : Num :=
  let neg := bit b (p.expBits + p.fracBits)
  let e := bits b (p.expBits + p.fracBits - 1) p.fracBits
  let f := b % 2 ^ p.fracBits
  let top := 2 ^ p.expBits - 1
  if p.specials = .ieee ∧ e = top then (if f = 0 then .inf neg else .nan)
  else if p.specials = .allOnes ∧ e = top ∧ f = 2 ^ p.fracBits - 1 then .nan
  else if e = 0 then .fin neg ((f : Rat) * pow2 (1 - p.bias - p.fracBits))
  else .fin neg (((2 ^ p.fracBits + f : Nat) : Rat) * pow2 ((e : Int) - p.bias - p.fracBits))

/-- The weight of the least significant bit at magnitude `x` (the subnormal one below the normal range, R65). -/
def FloatParams.lsb (p : FloatParams) (x : Rat) : Rat :=
  let lo := 1 - p.bias
  pow2 ((if x = 0 then lo else max (floorLog2 x) lo) - p.fracBits)

/-- Encodes a magnitude that the format represents exactly. -/
def FloatParams.encodeFin (p : FloatParams) (neg : Bool) (mag : Rat) : Nat :=
  let s := if neg then 2 ^ (p.expBits + p.fracBits) else 0
  if mag = 0 then s
  else
    let e := floorLog2 mag
    if e < 1 - p.bias then s + (mag / pow2 (1 - p.bias - p.fracBits)).floor.toNat
    else s + (e + p.bias).toNat * 2 ^ p.fracBits + ((mag / pow2 (e - p.fracBits)).floor.toNat - 2 ^ p.fracBits)

/-- The canonical quiet NaN (R52). -/
def FloatParams.nanBits (p : FloatParams) : Nat :=
  match p.specials with
  | .ieee => (2 ^ p.expBits - 1) * 2 ^ p.fracBits + 2 ^ (p.fracBits - 1)
  | .allOnes => 2 ^ (p.expBits + p.fracBits) - 1
  | .none => 0

def FloatParams.infBits (p : FloatParams) (neg : Bool) : Nat :=
  (if neg then 2 ^ (p.expBits + p.fracBits) else 0) + (2 ^ p.expBits - 1) * 2 ^ p.fracBits

/-- Rounds a magnitude to a multiple of the format's least significant bit; sign-magnitude targets are
rounded on the magnitude (R65). -/
def FloatParams.roundMag (p : FloatParams) (mode : Rnd) (x : Rat) : Rat :=
  let l := p.lsb x
  (mode.toInt (x / l) : Rat) * l

/-- What a conversion yields: the encoding, the element it decodes to, and the flags it raises (R68, R69). -/
structure Conv where
  bits : Nat
  num : Num
  nonfinite : Bool := false
  saturate : Bool := false
  deriving DecidableEq, Repr

/-- R68 for a sign-exponent-fraction target. A result too large goes to infinity in the IEEE-style targets
(or to the largest finite value toward zero) and saturates in E4M3, FP6 and FP4. -/
def FloatParams.convert (p : FloatParams) (mode : Rnd) (x : Num) : Conv :=
  let big (neg : Bool) : Conv := ⟨p.encodeFin neg p.maxFinite, .fin neg p.maxFinite, false, true⟩
  match x with
  | .nan =>
    match p.specials with
    | .none => ⟨0, .zero, true, false⟩
    | _ => ⟨p.nanBits, .nan, true, false⟩
  | .inf neg =>
    match p.specials with
    | .ieee => ⟨p.infBits neg, .inf neg, true, false⟩
    | .allOnes => ⟨p.nanBits, .nan, true, false⟩
    | .none => { big neg with nonfinite := true, saturate := false }
  | .fin neg m =>
    let r := p.roundMag mode m
    if r ≤ p.maxFinite then ⟨p.encodeFin neg r, .fin neg r, false, false⟩
    else
      match p.specials, mode with
      | .ieee, .towardZero => big neg
      | .ieee, _ => ⟨p.infBits neg, .inf neg, true, false⟩
      | _, _ => big neg

/-- R68 for an 8-bit integer target; the encoding is two's complement. -/
def convertInt8 (mode : Rnd) (x : Num) : Conv :=
  let enc (q : Int) (nf sat : Bool) : Conv := ⟨(q % 256).toNat, .ofRat q, nf, sat⟩
  match x with
  | .nan => enc 0 true false
  | .inf neg => enc (if neg then -128 else 127) true false
  | .fin _ _ =>
    let q := mode.toInt x.val
    if q > 127 then enc 127 false true else if q < -128 then enc (-128) false true else enc q false false

/-- Converts an element, already divided by its scale, into a format without block structure (R67, R68). -/
def Fmt.convert (f : Fmt) (mode : Rnd) (x : Num) : Conv :=
  match f with
  | .int8 => convertInt8 mode x
  | _ => f.params.convert mode x

/-- Decodes one element without its scale (R50, R53). -/
def Fmt.decode (f : Fmt) (b : Nat) : Num :=
  match f with
  | .int8 => .ofRat (if b < 128 then (b : Int) else (b : Int) - 256)
  | _ => f.params.decode b

/-- Bits per element (R54). -/
def Fmt.elemBits : Fmt → Nat
  | .fp4 => 4 | .e2m3 => 6 | .e3m2 => 6 | .e4m3 => 8 | .e5m2 => 8 | .int8 => 8
  | .bf16 => 16 | .fp16 => 16 | .fp32 => 32 | .mw16 => 16 | .l192 => 208

/-! ### IEEE 754 operations, rounded once -/

/-- The sum of two elements before rounding; an exact zero is -0 only when both terms are negative. -/
def Num.addExact : Num → Num → Num
  | .nan, _ => .nan
  | _, .nan => .nan
  | .inf a, .inf b => if a = b then .inf a else .nan
  | .inf a, _ => .inf a
  | _, .inf b => .inf b
  | .fin a x, .fin b y =>
    let v := (Num.fin a x).val + (Num.fin b y).val
    if v = 0 then .fin (a && b) 0 else .ofRat v

/-- The exact product. Two infinities give the infinity of the product's sign (DEDUCED, log entry 171). -/
def Num.mulExact : Num → Num → Num
  | .nan, _ => .nan
  | _, .nan => .nan
  | .inf a, .inf b => .inf (a != b)
  | .inf a, .fin b y => if y = 0 then .nan else .inf (a != b)
  | .fin a x, .inf b => if x = 0 then .nan else .inf (a != b)
  | .fin a x, .fin b y => .fin (a != b) (x * y)

def Num.divExact : Num → Num → Num
  | .nan, _ => .nan
  | _, .nan => .nan
  | .inf _, .inf _ => .nan
  | .inf a, .fin b _ => .inf (a != b)
  | .fin a _, .inf b => .fin (a != b) 0
  | .fin a x, .fin b y => if y = 0 then (if x = 0 then .nan else .inf (a != b)) else .fin (a != b) (x / y)

/-- One rounding to nearest even. -/
def FloatParams.rne (p : FloatParams) (x : Num) : Num := (p.convert .nearest x).num

def FloatParams.add (p : FloatParams) (x y : Num) : Num := p.rne (x.addExact y)
def FloatParams.mul (p : FloatParams) (x y : Num) : Num := p.rne (x.mulExact y)
def FloatParams.div (p : FloatParams) (x y : Num) : Num := p.rne (x.divExact y)
/-- x × y + z with one rounding. -/
def FloatParams.fma (p : FloatParams) (x y z : Num) : Num := p.rne ((x.mulExact y).addExact z)

/-- The square root rounded once to nearest even: the root of the magnitude scaled by an even power of two
is taken exactly to more bits than the format holds, with a sticky bit below. -/
def FloatParams.sqrt (p : FloatParams) : Num → Num
  | .nan => .nan
  | .inf neg => if neg then .nan else .inf false
  | .fin neg m =>
    if m = 0 then .fin neg 0
    else if neg then .nan
    else
      let sh : Int := 2 * (p.fracBits + 4) - 2 * (floorLog2 m / 2)
      let t := m * pow2 sh
      let q := Nat.sqrt t.floor.toNat
      let v : Rat := if ((q * q : Nat) : Rat) = t then q else (q : Rat) + 1 / 4
      p.rne (.fin false (v * pow2 (-(sh / 2))))

/-- IEEE 754 maximum, NaN propagating (R169). -/
def Num.maximum : Num → Num → Num
  | .nan, _ => .nan
  | _, .nan => .nan
  | .inf true, y => y
  | x, .inf true => x
  | .inf false, _ => .inf false
  | _, .inf false => .inf false
  | .fin a x, .fin b y =>
    if (Num.fin a x).val < (Num.fin b y).val then .fin b y
    else if (Num.fin b y).val < (Num.fin a x).val then .fin a x
    else if a then .fin b y else .fin a x

/-- IEEE 754 minimum, NaN propagating (R169). -/
def Num.minimum (x y : Num) : Num := (Num.maximum x.neg y.neg).neg

/-! ### Scales -/

/-- An FP32 encoding as a number. -/
def f32 (b : Nat) : Num := fp32.decode b

def isPow2 (x : Rat) : Bool := 0 < x ∧ pow2 (floorLog2 x) = x

/-- A finite value that lies within FP32 range: 0, or from the smallest subnormal to the largest finite magnitude. -/
def inFp32 (v : Num) : Bool := v.special || v.val = 0 || (pow2 (-149) ≤ |v.val| && |v.val| ≤ fp32.maxFinite)

/-- R59, R67: value = decode(q) × S in FP32: exact when S is a power of two, else rounded once to nearest even; a value beyond
FP32 range is rounded once by the descriptor. -/
def applyScale (mode : Rnd) (s : Num) (x : Num) : Conv :=
  let v := x.mulExact s
  fp32.convert (if isPow2 s.val = true ∨ inFp32 v = false then mode else .nearest) v

/-- R59: x / S, exact when S is a power of two, otherwise rounded once in FP32. -/
def removeScale (s : Num) (x : Num) : Num :=
  let v := x.divExact s
  if isPow2 s.val then v else fp32.rne v

/-- R60: the E8M0 scale of a code; 0xFF is NaN. -/
def e8m0 (c : Nat) : Num := if c = 255 then .nan else .fin false (pow2 ((c : Int) - 127))

/-- R53, R60, R63: decodes an element of an MX block. MXINT8 elements carry the weight 2^-6. -/
def decodeMx (f : Fmt) (c : Nat) (b : Nat) : Num :=
  if c = 255 then .nan
  else
    let x := f.decode b
    (if f = .int8 then x.mulExact (.fin false (pow2 (-6))) else x).mulExact (e8m0 c)

/-- R62: the element's largest exponent. -/
def mxEmax : Fmt → Int
  | .fp4 => 2 | .e2m3 => 2 | .e3m2 => 4 | .e4m3 => 8 | .e5m2 => 15 | _ => 0

/-- A quantised block: its scale code and its conversions in element order. -/
structure MxBlock where
  scale : Nat
  elems : List Conv
  deriving DecidableEq, Repr

/-- R62 and R63: quantises a block; `mode i` is the rounding of element i. An MXINT8 element that rounds to −128 is kept
without SATURATE. (DEDUCED, log entry 145) -/
def quantiseMx (f : Fmt) (mode : Nat → Rnd) (xs : List Num) : MxBlock :=
  if xs.any Num.special then ⟨255, xs.map fun _ => ⟨0, .nan, true, false⟩⟩
  else
    let a := xs.foldl (fun a x => max a |x.val|) 0
    if a = 0 then ⟨0, xs.map fun _ => ⟨0, .zero, false, false⟩⟩
    else
      let c := max 0 (min 254 (floorLog2 a - mxEmax f + 127))
      let x := pow2 (c - 127)
      ⟨c.toNat, xs.mapIdx fun i v =>
        let w := v.divExact (.fin false x)
        match f with
        | .int8 => convertInt8 (mode i) (w.mulExact (.fin false 64))
        | _ =>
          let r := f.params.convert (mode i) w
          -- R62: a magnitude that rounds above the largest finite value saturates, infinities included
          if r.nonfinite then
            let neg := w.val < 0
            ⟨f.params.encodeFin neg f.params.maxFinite, .fin neg f.params.maxFinite, false, true⟩
          else r⟩

/-! ### MW16 blocks -/

/-- R56: the value of significand `s` in a block with exponent byte `e`; R58: code 0xFF reads as NaN. -/
def mw16Value (e : Nat) (s : Int) : Num :=
  if e = 255 then .nan else .ofRat (s * pow2 ((e : Int) - 142))

/-- An MW16 block: 32 significands and the exponent byte, and whether R57 saturated. Only Keepers write MW16 blocks, and the
spec gives a Keeper no SATURATE flag to show it. (DEDUCED, log entry 146) -/
structure Mw16Block where
  sigs : List Int
  exp : Nat
  saturate : Bool := false
  deriving DecidableEq, Repr

/-- The smallest exponent code from `e` on for which every rounded significand lies in range, by R57's loop. -/
def mw16Search (vs : List Rat) (mode : Nat → Rnd) : Nat → Nat → Mw16Block
  | 0, e =>
    let s := vs.mapIdx fun i v => (mode i).toInt (v * pow2 (142 - (e : Int)))
    ⟨s.map fun q => max (-32768) (min 32767 q), e, s.any fun q => q < -32768 || q > 32767⟩
  | n + 1, e =>
    let s := vs.mapIdx fun i v => (mode i).toInt (v * pow2 (142 - (e : Int)))
    if (s.all fun q => -32768 ≤ q && q ≤ 32767) || e = 254 then
      ⟨s.map fun q => max (-32768) (min 32767 q), e, s.any fun q => q < -32768 || q > 32767⟩
    else mw16Search vs mode n (e + 1)

/-- R57: writes a block of finite values; none where an input is a NaN or an infinity (R68: the block keeps
its previous value). -/
def writeMw16 (mode : Nat → Rnd) (xs : List Num) : Option Mw16Block :=
  if xs.any Num.special then none
  else
    let vs := xs.map Num.val
    let a := vs.foldl (fun a v => max a |v|) 0
    let e : Int := if a = 0 then 0 else max 0 (min 254 (floorLog2 a + 128))
    some (mw16Search vs mode 255 e.toNat)

end Sys2Proof.Machine
end

