-- ==== Sys2Proof/Machine/Philox.lean ====
section
/-! DEFINITION. The module's random bits: Philox-4x32-10 keyed by seed, step, place, stream and element (R72 to R75),
the SHAKE256 digests and the CRC checks that the spec names. -/

namespace Sys2Proof.Machine

/-- One Philox round on the four counter words (R73). -/
def philoxRound (k0 k1 : Nat) (c : Nat × Nat × Nat × Nat) : Nat × Nat × Nat × Nat :=
  let (c0, c1, c2, c3) := c
  let p0 := 0xd2511f53 * c0
  let p1 := 0xcd9e8d57 * c2
  ((p1 >>> 32) ^^^ c1 ^^^ k0, p1 % 2 ^ 32, (p0 >>> 32) ^^^ c3 ^^^ k1, p0 % 2 ^ 32)

/-- `n` rounds; the key is raised between rounds and not after the last (R73). -/
def philoxRounds : Nat → Nat → Nat → Nat × Nat × Nat × Nat → Nat × Nat × Nat × Nat
  | 0, _, _, c => c
  | n + 1, k0, k1, c =>
    philoxRounds n ((k0 + 0x9e3779b9) % 2 ^ 32) ((k1 + 0xbb67ae85) % 2 ^ 32) (philoxRound k0 k1 c)

def philox (c : Nat × Nat × Nat × Nat) (k0 k1 : Nat) : Nat × Nat × Nat × Nat :=
  philoxRounds 10 k0 k1 c

/-- What keys a random value: seed, step number, place class, place and stream identifier (R72, R74). -/
structure RandKey where
  seed : BitVec 64
  step : Nat
  cls : Nat
  place : Nat
  stream : Nat
  deriving DecidableEq, Repr

/-- The counter words of R72 for an element group. -/
def RandKey.counter (k : RandKey) (group : Nat) : Nat × Nat × Nat × Nat :=
  (k.step % 2 ^ 32,
   bits k.step 39 32 + (k.place % 2 ^ 16) * 2 ^ 8 + (k.cls % 16) * 2 ^ 24,
   k.stream % 2 ^ 16 + (group % 2 ^ 16) * 2 ^ 16,
   (group >>> 16) % 2 ^ 32)

/-- R73: the 16-bit random value of the element with index `i`. -/
def RandKey.draw (k : RandKey) (i : Nat) : Nat :=
  let (w0, w1, w2, w3) := philox (k.counter (i >>> 3)) (k.seed.toNat % 2 ^ 32) (k.seed.toNat >>> 32)
  let lane := i % 8
  let w := match lane / 2 with
    | 0 => w0
    | 1 => w1
    | 2 => w2
    | _ => w3
  if lane % 2 = 0 then w % 2 ^ 16 else bits w 31 16

/-- R74: the element index {micro-step[15:0], offset[31:0]} of classes 0x0 to 0x2. -/
def elemIndex (micro offset : Nat) : Nat := (micro % 2 ^ 16) * 2 ^ 32 + offset % 2 ^ 32

/-- R95: the element index {micro-step[15:0], tile[11:0], cell[9:0], event[9:0]} of a lift or a fold. -/
def accIndex (micro tile cell event : Nat) : Nat :=
  (micro % 2 ^ 16) * 2 ^ 32 + (tile % 4096) * 2 ^ 20 + (cell % 1024) * 2 ^ 10 + event % 1024

/-! ### SHAKE256 (FIPS 202), named by R187, R306, R324, R427, R541 -/

/-- One step of the linear feedback register that yields the round constants. -/
def keccakLfsr (r : Nat) : Nat := if r ≥ 128 then ((r * 2) % 256) ^^^ 0x71 else r * 2

/-- The rotation offset of each lane after the first, in the order in which rho and pi visit them. -/
def keccakRot (t : Nat) : Nat := ((t + 1) * (t + 2) / 2) % 64

def rotl64 (x : BitVec 64) (n : Nat) : BitVec 64 := x.rotateLeft (n % 64)

/-- The constant of a round and the register after it: seven bits at positions 2^j - 1. -/
def keccakConst (r : Nat) : BitVec 64 × Nat :=
  (List.range 7).foldl (fun (c, r) j =>
    ((if r % 2 = 1 then c ^^^ (BitVec.ofNat 64 (2 ^ (2 ^ j - 1))) else c), keccakLfsr r)) (0#64, r)

def lane (a : List (BitVec 64)) (i : Nat) : BitVec 64 := a.getD i 0

/-- theta, rho and pi, chi on the 25 lanes (index x + 5y). -/
def keccakMix (a : List (BitVec 64)) : List (BitVec 64) :=
  let c := (List.range 5).map fun x =>
    lane a x ^^^ lane a (x + 5) ^^^ lane a (x + 10) ^^^ lane a (x + 15) ^^^ lane a (x + 20)
  let a := (List.range 25).map fun i =>
    lane a i ^^^ lane c ((i + 4) % 5) ^^^ rotl64 (lane c ((i + 1) % 5)) 1
  let b := ((List.range 24).foldl (fun (st : (List (BitVec 64)) × Nat × Nat × BitVec 64) t =>
      let (b, x, y, cur) := st
      let (x', y') := (y, (2 * x + 3 * y) % 5)
      (b.set (x' + 5 * y') (rotl64 cur (keccakRot t)), x', y', lane a (x' + 5 * y')))
    (a, 1, 0, lane a 1)).1
  (List.range 25).map fun i =>
    let y := i / 5
    lane b i ^^^ ((~~~ lane b ((i + 1) % 5 + 5 * y)) &&& lane b ((i + 2) % 5 + 5 * y))

def keccakF (a : List (BitVec 64)) : List (BitVec 64) :=
  ((List.range 24).foldl (fun (a, r) _ =>
    let (c, r') := keccakConst r
    let m := keccakMix a
    (m.set 0 (lane m 0 ^^^ c), r')) (a, 1)).1

/-- A little-endian number from bytes. -/
def leNat : List Byte → Nat
  | [] => 0
  | b :: bs => b.toNat + 256 * leNat bs

/-- The `n` low bytes of a number, least significant first. -/
def leBytes : Nat → Nat → List Byte
  | 0, _ => []
  | n + 1, x => BitVec.ofNat 8 (x % 256) :: leBytes n (x / 256)

/-- Absorbs one 136-byte block. -/
def keccakAbsorb (a : List (BitVec 64)) (blk : List Byte) : List (BitVec 64) :=
  keccakF (a.mapIdx fun i x =>
    if i < 17 then x ^^^ BitVec.ofNat 64 (leNat ((blk.drop (8 * i)).take 8)) else x)

def keccakBlocks : Nat → List (BitVec 64) → List Byte → List (BitVec 64)
  | 0, a, _ => a
  | n + 1, a, m => keccakBlocks n (keccakAbsorb a (m.take 136)) (m.drop 136)

/-- SHAKE256 truncated to `n` bytes (n at most 136). -/
def shake256 (n : Nat) (m : List Byte) : List Byte :=
  let pad := 136 - m.length % 136
  let tail : List Byte :=
    if pad = 1 then [0x9F#8] else [0x1F#8] ++ List.replicate (pad - 2) 0#8 ++ [0x80#8]
  let full := m ++ tail
  let a := keccakBlocks (full.length / 136) (List.replicate 25 0#64) full
  ((a.take 17).flatMap fun x => leBytes 8 x.toNat).take n

/-- The 128-bit digest of the spec: SHAKE256 truncated to 128 bits. -/
def digest128 (m : List Byte) : BitVec 128 := BitVec.ofNat 128 (leNat (shake256 16 m))

/-! ### CRC (R367, R368) -/

def crcStep (poly width : Nat) (crc : Nat) : Nat :=
  if crc.testBit (width - 1) then ((crc * 2) % 2 ^ width) ^^^ poly else crc * 2

/-- A CRC taken most significant bit first over bytes. -/
def crcBytes (poly width init : Nat) (bs : List Byte) : Nat :=
  bs.foldl (fun crc b =>
    (List.range 8).foldl (fun c _ => crcStep poly width c) (crc ^^^ (b.toNat * 2 ^ (width - 8)))) init

/-- R367: CRC-16, polynomial 0x1021, initial value 0xFFFF. -/
def crc16 (bs : List Byte) : Nat := crcBytes 0x1021 16 0xFFFF bs

def revBits (w n : Nat) : Nat := (List.range w).foldl (fun a i => if n.testBit i then a + 2 ^ (w - 1 - i) else a) 0

/-- R368: CRC-32C, polynomial 0x1EDC_6F41, initial value all ones, final inversion, in the reflected bit
order of the standard of that name. -/
def crc32c (bs : List Byte) : Nat :=
  (revBits 32 (crcBytes 0x1EDC6F41 32 0xFFFFFFFF (bs.map fun b => BitVec.ofNat 8 (revBits 8 b.toNat)))) ^^^ 0xFFFFFFFF

end Sys2Proof.Machine
end

