-- ==== Sys2Proof/Machine/Accum.lean ====
section
/-! DEFINITION. The anchored long accumulator: adding products with lift and fold (R86 to R101), the L192 image
(R102 to R104), the array's fold shapes and cell places (R115 to R118), and the combining routers' sums (R237, R238). -/

namespace Sys2Proof.Machine

/-- SPECIAL of R100. -/
inductive Special where
  | finite | posInf | negInf | nan
  deriving DecidableEq, Repr

def Special.code : Special → Nat
  | .finite => 0 | .posInf => 1 | .negInf => 2 | .nan => 3

def Special.ofCode : Nat → Special
  | 0 => .finite | 1 => .posInf | 2 => .negInf | _ => .nan

def Special.signed (neg : Bool) : Special := if neg then .negInf else .posInf

/-- R101: how a newly recorded special value joins the one already set. -/
def Special.join : Special → Special → Special
  | .finite, b => b
  | a, .finite => a
  | a, b => if a = b then a else .nan

def Special.num : Special → Num
  | .finite => .zero | .posInf => .inf false | .negInf => .inf true | .nan => .nan

/-- One accumulator element: a single cell's, or a ganged pair's (R86, R98, R100). ANCHOR 0 is unset. -/
structure Acc where
  acc : Int := 0
  anchor : Nat := 0
  lifts : Nat := 0
  inexact : Bool := false
  loss : Bool := false
  special : Special := .finite
  deriving DecidableEq, Repr

/-- R87: the unset accumulator. -/
def Acc.unset : Acc := {}

/-- Window width less one: 159 for a single cell, 351 for a ganged pair (R99). -/
def winTop (gang : Bool) : Nat := if gang then 351 else 159

/-- λ, the weight of bit 0 at an anchor code. -/
def accLsb (gang : Bool) (anchor : Nat) : Rat := pow2 ((anchor : Int) - 512 - winTop gang)

/-- R86, R98: the value of an accumulator; an unset one is 0. -/
def Acc.value (gang : Bool) (a : Acc) : Rat :=
  if a.anchor = 0 then 0 else a.acc * accLsb gang a.anchor

/-- A cell's progress through one add: its element, the events drawn so far (R95), whether a lift was refused
and whether the add has ended, and the folds counted. -/
structure AddSt where
  el : Acc
  events : Nat
  folds : Nat := 0
  refused : Bool := false
  ended : Bool := false
  deriving DecidableEq, Repr

/-- R91: lift(x). `draw` gives the random value of an event. -/
def lift (gang : Bool) (draw : Nat → Nat) (x : Rat) (s : AddSt) : AddSt :=
  if s.el.anchor + 32 > 0x3ff then
    let sum := s.el.value gang + x
    { s with
      el := { s.el with special := s.el.special.join (.signed (decide (sum < 0))) }
      refused := true, ended := true }
  else
    let d : Int := s.el.acc % (2 ^ 32 : Int)
    let q0 : Int := s.el.acc / (2 ^ 32 : Int)
    let f : Int := d / (2 ^ 16 : Int)
    let q : Int := if f + (draw s.events : Int) ≥ 0x10000 then q0 + 1 else q0
    { s with
      el := { s.el with
        acc := q, anchor := s.el.anchor + 32, lifts := s.el.lifts + 1
        inexact := true, loss := s.el.loss || d ≠ 0 }
      events := s.events + 1 }

/-- R91: lifts while the product does not lie below 2^e. -/
def liftWhile (gang : Bool) (draw : Nat → Nat) (p : Rat) : Nat → AddSt → AddSt
  | 0, s => s
  | n + 1, s =>
    if s.ended then s
    else if pow2 ((s.el.anchor : Int) - 512) ≤ |p| then liftWhile gang draw p n (lift gang draw p s)
    else s

/-- The bound of the field: 2^191, or 2^383 for a ganged pair (R99). -/
def accBound (gang : Bool) : Int := if gang then 2 ^ 383 else 2 ^ 191

/-- R91: adds one finite nonzero product to a set accumulator. A carry whose lift is refused leaves the field's
bits open (DESIGN CHOICE, log entry 21). -/
def addProduct (gang : Bool) (draw : Nat → Nat) (p : Rat) (s : AddSt) : AddSt :=
  let s := liftWhile gang draw p 33 { s with ended := false }
  if s.ended then s
  else
    let t := p / accLsb gang s.el.anchor
    let s :=
      if t.den = 1 then { s with el := { s.el with acc := s.el.acc + t.num } }
      else
        { s with
          el := { s.el with
            acc := s.el.acc + (Rnd.stochastic (draw s.events)).toInt t
            inexact := true, loss := true }
          events := s.events + 1, folds := s.folds + 1 }
    if s.el.acc < -accBound gang ∨ accBound gang ≤ s.el.acc then
      let s' := lift gang draw 0 s
      if s'.refused ∧ s'.ended then
        let free := (Config.refusedCarryAcc s.el.acc).toInt
        { s' with el := { s'.el with acc := (free + accBound gang) % (2 * accBound gang) - accBound gang } }
      else s'
    else s

/-- R101 and R91: adds the product of two elements, special values included. A finite product that reaches an
element still unset in an anchored tile is dropped (DESIGN CHOICE, log entry 147). -/
def addPair (gang : Bool) (draw : Nat → Nat) (x y : Num) (s : AddSt) : AddSt :=
  match x.mulExact y with
  | .nan => { s with el := { s.el with special := .nan } }
  | .inf neg => { s with el := { s.el with special := s.el.special.join (.signed neg) } }
  | .fin neg m =>
    if m = 0 ∨ s.el.anchor = 0 then s else addProduct gang draw (Num.fin neg m).val s

/-- Adds the products of two operand rows in K order. -/
def addRow (gang : Bool) (draw : Nat → Nat) : List Num → List Num → AddSt → AddSt
  | x :: xs, y :: ys, s => addRow gang draw xs ys (addPair gang draw x y s)
  | _, _, s => s

/-- The largest floor(log2 |x|) over the nonzero finite elements of a list; none where there are none. -/
def maxExp (xs : List Num) : Option Int :=
  xs.foldl (fun m x =>
    match x with
    | .fin _ v => if v = 0 then m else
      match m with
      | none => some (floorLog2 v)
      | some a => some (max a (floorLog2 v))
    | _ => m) none

/-- R88: scans the operand blocks of 32 K positions until both sides hold a nonzero finite element, and gives the
anchor code. Rows are given per output row and column, each from the current K position on. -/
def autoAnchor (guard : Nat) : Nat → List (List Num) → List (List Num) → Option Nat
  | 0, _, _ => none
  | n + 1, as, bs =>
    match maxExp (as.flatMap (·.take 32)), maxExp (bs.flatMap (·.take 32)) with
    | some ma, some mb => some ((max (-511) (min 511 (ma + mb + 2 + guard)) + 512).toNat)
    | _, _ => autoAnchor guard n (as.map (·.drop 32)) (bs.map (·.drop 32))

/-! ### The tile status record and the L192 image -/

/-- R104: the tile status record; GANG is held with the tile. -/
structure TileRec where
  folds : Nat := 0
  liftsTotal : Nat := 0
  inexact : Bool := false
  loss : Bool := false
  special : Bool := false
  gang : Bool := false
  explicit : Bool := false
  deriving DecidableEq, Repr

def b2n (b : Bool) : Nat := if b then 1 else 0

/-- R104: the record as 64 bits. -/
def TileRec.encode (t : TileRec) : Nat :=
  t.folds + t.liftsTotal * 2 ^ 32 + b2n t.inexact * 2 ^ 48 + b2n t.loss * 2 ^ 49 + b2n t.special * 2 ^ 50
    + b2n t.gang * 2 ^ 51 + b2n t.explicit * 2 ^ 52

def TileRec.decode (n : Nat) : TileRec :=
  ⟨bits n 31 0, bits n 47 32, bit n 48, bit n 49, bit n 50, bit n 51, bit n 52⟩

/-- R100: the status nibble. -/
def Acc.status (a : Acc) : Nat := b2n a.inexact + 2 * b2n a.loss + 4 * a.special.code

/-- R102: one 208-bit element; a ganged pair takes two, the even one holding the low bits. -/
def Acc.image (gang odd : Bool) (a : Acc) : Nat :=
  let w := (a.acc % (2 ^ (if gang then 384 else 192))).toNat
  (if odd then w / 2 ^ 192 else w % 2 ^ 192) + a.anchor * 2 ^ 192 + a.lifts * 2 ^ 202

def signedOf (n w : Nat) : Int := if n < 2 ^ (w - 1) then (n : Int) else (n : Int) - 2 ^ w

/-- R102, R103: reads a single-cell element; a malformed one has SPECIAL NaN. The second part says malformed. -/
def Acc.ofImage (n nib : Nat) : Acc × Bool :=
  let a : Acc := ⟨signedOf (bits n 191 0) 192, bits n 201 192, bits n 207 202, bit nib 0, bit nib 1, .ofCode (nib / 4)⟩
  let bad := (a.anchor = 0 && (a.acc ≠ 0 || a.lifts ≠ 0 || a.inexact || a.loss)) || a.lifts > 31
  (if bad then { a with special := .nan } else a, bad)

/-- R102, R103: reads a ganged pair from its two elements; of a malformed pair whose elements differ the even one's
ANCHOR, LIFTS and nibble are kept (DESIGN CHOICE, log entry 148). -/
def Acc.ofPair (n0 n1 nib0 nib1 : Nat) : Acc × Bool :=
  let a : Acc := ⟨signedOf (bits n0 191 0 + bits n1 191 0 * 2 ^ 192) 384, bits n0 201 192, bits n0 207 202,
    bit nib0 0, bit nib0 1, .ofCode (nib0 / 4)⟩
  let bad := (a.anchor = 0 && (a.acc ≠ 0 || a.lifts ≠ 0 || a.inexact || a.loss)) || a.lifts > 31
    || bits n1 201 192 ≠ bits n0 201 192 || bits n1 207 202 ≠ bits n0 207 202 || nib1 ≠ 0
  (if bad then { a with special := .nan } else a, bad)

/-! ### Fold shapes -/

/-- R115: rows and columns (columns counted in pairs in ganged mode) of a virtual block under a fold code. -/
def foldShape (gang : Bool) (fold : Nat) : Nat × Nat :=
  let (h, w) := match fold with
    | 2 => (16, 64)
    | 3 => (64, 16)
    | 4 => (8, 128)
    | 5 => (128, 8)
    | _ => (32, 32)
  (h, if gang then w / 2 else w)

/-- R115: the skew S of a fold shape's internal lambs. -/
def foldSkew : Nat → Nat
  | 2 => 24 | 3 => 24 | 4 => 16 | 5 => 16 | _ => 64

def ceilDiv (a b : Nat) : Nat := (a + b - 1) / b

/-- Virtual blocks of an M × N tile under a fold code. -/
def numBlocks (gang : Bool) (m n fold : Nat) : Nat :=
  ceilDiv m (foldShape gang fold).1 * ceilDiv n (foldShape gang fold).2

/-- R116: FOLD 0 takes the fewest virtual blocks, and the lowest code among equals. -/
def chooseFold (gang : Bool) (m n fold : Nat) : Nat :=
  if fold ≠ 0 then fold
  else [2, 3, 4, 5].foldl (fun best f =>
    if numBlocks gang m n f < numBlocks gang m n best then f else best) 1

/-- R117: the cell (row, column) of the element at offset (r, c) of a virtual block; in ganged mode the even
cell of the pair. -/
def cellOf (gang : Bool) (fold r c : Nat) : Nat × Nat :=
  if gang then
    match fold with
    | 2 => let q := c / 4; (16 * (q / 4) + r, 2 * (4 * (q % 4) + c % 4))
    | 3 => let q := r / 8; (8 * (q / 2) + r % 8, 2 * (8 * (q % 2) + c))
    | 4 => let q := c / 4; (8 * (q / 4) + r, 2 * (4 * (q % 4) + c % 4))
    | 5 => let q := r / 8; (8 * (q / 4) + r % 8, 2 * (4 * (q % 4) + c))
    | _ => (r, 2 * c)
  else
    match fold with
    | 2 => let q := c / 8; (16 * (q / 4) + r, 8 * (q % 4) + c % 8)
    | 3 => let q := r / 8; (8 * (q / 2) + r % 8, 16 * (q % 2) + c)
    | 4 => let q := c / 8; (8 * (q / 4) + r, 8 * (q % 4) + c % 8)
    | 5 => let q := r / 8; (8 * (q / 4) + r % 8, 8 * (q % 4) + c)
    | _ => (r, c)

/-- The index of a cell within the array (R95: 32 × row + column). -/
def cellIndex (gang : Bool) (fold r c : Nat) : Nat :=
  32 * (cellOf gang fold r c).1 + (cellOf gang fold r c).2

/-! ### Combining routers -/

/-- R237: one FP32 output element of a node, rounded once. An exact zero is -0 only when every input is. -/
def combineFp32 (mode : Rnd) (xs : List Num) : Conv :=
  let v := xs.foldl Num.addExact (.fin (xs.all fun x => x = .fin true 0) 0)
  fp32.convert mode v

/-- R238: raises the anchor by 32 while the sum does not lie below 2^(a - 480). -/
def raiseAnchor (v : Rat) : Nat → Nat → Nat
  | 0, a => a
  | n + 1, a => if pow2 ((a : Int) - 480) ≤ |v| ∧ a + 32 ≤ 0x3ff then raiseAnchor v n (a + 32) else a

/-- R238: one EXACT output element of a node with explicit anchor a0; the second part is `rounded`.
The rule is written for single cells; a ganged pair takes λ of R98 (DEDUCED, log entry 23). -/
def combineL192 (gang : Bool) (a0 : Nat) (r : Nat) (xs : List Acc) : Acc × Bool :=
  let sp := xs.foldl (fun s x => s.join x.special) .finite
  let set := xs.filter fun x => x.anchor ≠ 0
  if set.isEmpty then (.unset, false)
  else
    let v := set.foldl (fun t x => t + x.value gang) 0
    let amax := set.foldl (fun m x => max m x.anchor) 0
    let a := raiseAnchor v 32 amax
    let inexact := xs.any (·.inexact) || a > amax
    let loss := xs.any (·.loss)
    if pow2 ((a : Int) - 480) ≤ |v| then
      (⟨0, a, (a - a0) / 32, true, true, .signed (decide (v < 0))⟩, true)
    else
      let acc := (Rnd.stochastic r).toInt (v / accLsb gang a)
      let rounded := decide (acc * accLsb gang a ≠ v)
      (⟨acc, a, (a - a0) / 32, inexact || rounded, loss || rounded, sp⟩, rounded)

end Sys2Proof.Machine
end

