-- ==== Sys2Proof/Machine/State.lean ====
section
/-! DEFINITION. The state of the module as plain data: every register, queue, counter, mode and buffer the spec gives it,
the queue of waiting commands, and the state right after reset. Indexed state is a sparse table whose unlisted
entries read as the default that the structure gives, which is the reset value. -/

namespace Sys2Proof.Machine

/-! ### Fuses, flash, clocks, start-up (spec/00, 16, 17) -/

/-- What is fused into the unit (R6, R509), and the defects found at manufacture (R248). (DESIGN CHOICE, log entry 1) -/
structure Fuses where
  /-- MOD_CAP0.PART: 0x14, 0x10 or 0x08. -/
  part : BitVec 8 := 0x14
  /-- MOD_CAP0.STEPPING: 0xA0 or 0xB0. -/
  stepping : BitVec 8 := 0xB0
  /-- SEC_FLOOR, 0 to 63. -/
  secFloor : Nat := 0
  deriving DecidableEq, Repr

/-- The firmware image in the flash's image region, by what the module reports and checks of it (R507).
(DESIGN CHOICE, log entry 5) -/
structure FlashImage where
  /-- The image passes checks 1 to 5 of R508; otherwise the REASON that the boot ROM gives. -/
  reason : Nat := 0
  secVersion : Nat := 0
  raise : Bool := false
  build : BitVec 32 := 1
  digest : BitVec 256 := 0
  deriving DecidableEq, Repr

/-- The kinds of reset of R514. -/
inductive ResetKind where
  | warm | cold | powerUp
  deriving DecidableEq, Repr

/-- Where a start stands (R504, R510, R515). -/
inductive Stage where
  /-- Switched off: no supply or not enabled. -/
  | off
  /-- Bring-up runs: the boot ROM and firmware (P1 to P4), Keepers and stacks (P5), wave c of the wafer (P6), links (P7). -/
  | carrier
  | keepers
  | wave (c : Nat)
  | links
  /-- CXL-H reports ready (P8, W7, or recovery mode). -/
  | ready
  deriving DecidableEq, Repr

/-- The firmware update in progress (R512). -/
inductive FwStage where
  | reading
  | programming (retried : Bool)
  deriving DecidableEq, Repr

/-- A 64-byte command as it was taken from its source, once decoded into opcode and PARAMS (R461). -/
structure Cmd where
  opcode : Nat
  packet : Packet
  deriving DecidableEq, Repr

/-- An accepted command whose final completion is still due (R458, R469). -/
structure InFlight where
  csn : Nat
  cmd : Cmd
  /-- The ring to which the final completion goes: the one that carried the command, or 0 once it is deleted (R466). -/
  dest : Nat
  /-- The completions are discarded, after a link reset or a port reset (R455, R526). -/
  muted : Bool := false
  deriving DecidableEq, Repr

/-- FW_UPDATE between acceptance and its final completion. -/
structure FwUpdate where
  stage : FwStage
  csn : Nat
  /-- The 64 MiB holding area of carrier RAM. -/
  held : List Byte := []
  deriving DecidableEq, Repr

/-- Start-up and firmware state (R504 to R521). -/
structure Boot where
  stage : Stage := .ready
  kind : ResetKind := .powerUp
  /-- SEC_BOOT_STATUS.MODE: 1 normal, 2 recovery, 3 FAULTED. -/
  mode : Nat := 1
  cause : Nat := 0
  reason : Nat := 0
  secVersion : Nat := 0
  build : BitVec 32 := 1
  updateRunning : Bool := false
  updatePending : Bool := false
  hbmKept : Bool := false
  wdStreak : Nat := 0
  readyMs : Nat := 3700
  pendingBuild : BitVec 32 := 0
  fieldsHeld : Nat := 0
  /-- Recovery mode was entered from a warm reset (R510, R511). -/
  recoveryFromWarm : Bool := false
  /-- The update intent record of the map region (R512). -/
  intent : Bool := false
  flash : FlashImage := {}
  update : Option FwUpdate := none
  /-- A RESET warm or cold held until step 3 of an update ends (R513). -/
  heldReset : Option ResetKind := none
  /-- A Keeper, HBM-group or carrier eFuse has tripped, or a Keeper failed self-test (R506). -/
  faulted : Bool := false
  /-- Coolant flow was low as P5 began: Keepers, HBM and wafer are not powered (R551). -/
  dry : Bool := false
  /-- The digest of the running image (R541). -/
  imageDigest : BitVec 256 := 0
  deriving DecidableEq, Repr

/-- Clocks and local counters (R476 to R481). A local counter reads root time minus its place's mark. -/
structure Clk where
  /-- Periods of the 7.2 GHz root clock. -/
  rootTime : Nat := 0
  cpMark : Nat := 0
  fieldMark : Sparse Nat := []
  kprMark : Sparse Nat := []
  lock : Bool := true
  refLost : Bool := false
  /-- Commanded divider codes, west and east. -/
  westCmd : BitVec 2 := 0
  eastCmd : BitVec 2 := 0
  /-- Thermal divider codes, west and east. -/
  westTherm : BitVec 2 := 0
  eastTherm : BitVec 2 := 0
  divChanges : Nat := 0
  epochMark : BitVec 64 := 0
  /-- CLK_EPOCH_MARK is valid (R538). -/
  markValid : Bool := false
  /-- EPOCH of the last ATTACH (R466). -/
  epoch : BitVec 64 := 0
  /-- An ATTACH has been made since the last start (R534). -/
  epochSinceStart : Bool := false
  deriving DecidableEq, Repr

/-! ### The host interface and the command arbiter (spec/15) -/

/-- A completion entry (R462); PHASE is given when the entry is written. -/
structure Completion where
  status : BitVec 16
  cmdId : BitVec 16
  ring : Nat
  evt : Bool := false
  opcode : BitVec 8
  csn : BitVec 32
  result : BitVec 48 := 0
  deriving DecidableEq, Repr

/-- A submission ring and its completion ring (R457 to R459). (DESIGN CHOICE, log entry 16) -/
structure Ring where
  enable : Bool := false
  size : Nat := 0
  vector : Nat := 0
  sqb : BitVec 64 := 0
  cqb : BitVec 64 := 0
  sqHead : Nat := 0
  sqTail : Nat := 0
  cqTail : Nat := 0
  cqHead : Nat := 0
  phase : Bool := true
  /-- Slots reserved for commands fetched and not yet completed. -/
  reserved : Nat := 0
  err : Bool := false
  /-- Final completions waiting for a slot, oldest first. -/
  finals : List Completion := []
  deriving DecidableEq, Repr

/-- A data queue (R460). -/
structure DataQueue where
  present : Bool := false
  /-- DIR of DQ_CREATE: true for output. -/
  output : Bool := false
  base : BitVec 64 := 0
  index : BitVec 64 := 0
  slots : Nat := 0
  prod : Nat := 0
  cons : Nat := 0
  /-- SEQ of the next tile of the queue's stream at this end (R157). -/
  seq : Nat := 0
  deriving DecidableEq, Repr

/-- EVENT_CONFIG of one master (R466). -/
structure EventCfg where
  ring : Nat := 0
  enable : Bool := false
  mask : BitVec 7 := 0
  deriving DecidableEq, Repr

/-- CXL-H, its rings and data queues (R453 to R460). (DESIGN CHOICE, log entry 137) -/
structure HostIf where
  rings : Sparse Ring := []
  queues : Sparse DataQueue := []
  attached : Bool := false
  width : BitVec 2 := 0
  speed : BitVec 2 := 0
  lostEvents : Bool := false
  linkResets : Nat := 0
  events : EventCfg := {}
  /-- Reads of station windows that wait for a fill, oldest first: offset and size (R138). -/
  reads : List (Nat × Nat) := []
  /-- The ring that was last fetched from (R457); ring 0 comes after 63. -/
  turn : Nat := 63
  deriving DecidableEq, Repr

/-- The command arbiter and the owner leases (R470 to R473). Holders: 0 none, 1 host, 2 enclosure manager. -/
structure Arb where
  lastCsn : Nat := 0
  superseded : Nat := 0
  refusedLease : Nat := 0
  badAccess : Nat := 0
  /-- Holder of partition p. -/
  leasePart : Sparse Nat := []
  /-- Holder of Keeper k; the default is the host. -/
  leaseKpr : Sparse Nat := []
  leasePower : Nat := 2
  leaseIdentity : Nat := 2
  /-- Commands that have passed checks 1 to 7 and await an arbitration cycle, oldest first. -/
  presented : List Cmd := []
  inflight : List InFlight := []
  /-- The completion of each accepted peer command: context, SEQ, and its 16 bytes (R472). -/
  peerDone : List (Nat × Nat × Nat) := []
  deriving DecidableEq, Repr

/-! ### Plans and partitions (spec/01, 05, 11) -/

/-- One section of a plan image: its kind, its SET, and its entries as little-endian numbers (R188, R189). -/
structure Section where
  kind : Nat
  set : Nat
  entries : List Nat
  deriving DecidableEq, Repr

/-- An installed plan: its header, its sections, the retained image, and what other commands add to it. -/
structure Plan where
  header : Nat
  sections : List Section
  image : List Byte
  deriving DecidableEq, Repr

/-- No page: the reading of an unlisted page of a staged copy; versions have 40 bits. -/
def noVersion : Nat := 2 ^ 40

/-- An eval window (R37, R38, R147). -/
structure EvalWindow where
  version : Nat
  staged : Bool := false
  closing : Bool := false
  deriving DecidableEq, Repr

/-- A scale-table entry (R80). -/
structure ScaleEntry where
  hist : List (BitVec 32) := List.replicate 16 0
  scale : BitVec 32 := 0x3F800000
  head : Nat := 15
  valid : Nat := 0
  format : BitVec 4 := 0
  margin : BitVec 2 := 0
  policy : Bool := false
  probed : Bool := false
  step : BitVec 40 := 0
  deriving DecidableEq, Repr

/-- A page of a staged copy (R27 to R29): the version it holds and its bytes (weights, then exponent plane). -/
structure StagedPage where
  version : Nat := noVersion
  bytes : Sparse Byte := []
  /-- SCALE of the tensors whose scale page it is (R78), by tensor-table index. -/
  scales : List (Nat × BitVec 32) := []
  /-- A first check against the owner's digest failed (R325). -/
  failed : Bool := false
  deriving DecidableEq, Repr

/-- A herd round's result as a node keeps it (R387). -/
structure RoundResult where
  step : Nat
  kind : Nat
  result : Bool
  choice : Nat
  sumSq : BitVec 64
  nonfinite : Nat
  deriving DecidableEq, Repr

/-- One record of a SUM_UP (R388). -/
structure SumRec where
  rank : Nat
  nonfinite : Bool
  choice : Nat
  sq : BitVec 64
  deriving DecidableEq, Repr

/-- A herd round in progress at this module's node (R387). -/
structure Round where
  step : Nat
  kind : Nat
  own : Option SumRec := none
  /-- The module's own post has been made. -/
  ownPosted : Bool := false
  /-- Child ranks that have posted, with their records. -/
  children : List (Nat × List SumRec) := []
  /-- The node has posted upward (or, at the root, has formed the result). -/
  sent : Bool := false
  deriving DecidableEq, Repr

/-- Why a rollback runs (R352, R567). -/
inductive RollbackCause where
  | digest      -- R327
  | writeBack   -- R344
  | wafer       -- R275, R405, R406, R408
  deriving DecidableEq, Repr

/-- The phases of R45. -/
inductive Phase where
  | idle | gather | compute | drain | reduce | gate | commit | flipWait | halted | recovery
  deriving DecidableEq, Repr

/-- A partition (R20 to R46, R82, R352, R449). (DESIGN CHOICE, log entry 17) -/
structure Part where
  formed : Bool := false
  rows : BitVec 8 := 0
  plan : Option Plan := none
  step : Nat := 0
  phase : Phase := .idle
  micro : Nat := 0
  microDone : Nat := 0
  /-- The held STEP_BEGIN n+1: its micro-step count and CSN. -/
  held : Option (Nat × Nat) := none
  eval : Option EvalWindow := none
  waferNonfinite : Bool := false
  /-- Field rows whose Keeper has had the result of the step's channel 0 round (R244, R245). -/
  fenceRows : List Nat := []
  kprNonfinite : Bool := false
  version : Nat := 0
  flipPending : Bool := false
  /-- The staged copy, by page. -/
  staged : Sparse StagedPage := []
  /-- The eval window's staged copy, by page. -/
  evalStaged : Sparse StagedPage := []
  /-- A scale probe's measuring pass runs (R82). -/
  probing : Bool := false
  /-- Scale entries by tensor-table index. -/
  scales : Sparse ScaleEntry := []
  /-- Probe scales of the running step's probe, by tensor-table index (R82). -/
  probeScales : Sparse (BitVec 32) := []
  /-- Absolute maxima collected in the step, by tensor-table index (R77). -/
  amax : Sparse (Option (BitVec 32)) := []
  /-- Entries that the running commit has written, in force from the commit pip (R78, R352). -/
  nextScales : Sparse ScaleEntry := []
  /-- A slice of the running step has left the module (R408). -/
  sliceSent : Bool := false
  rollback : Option RollbackCause := none
  /-- The host's choice after a nonfinite verdict: 0 none, 1 SKIP_STEP, 2 REPLAY (R354). -/
  choice : Nat := 0
  /-- The commit of the running step is null (R355). -/
  nullCommit : Bool := false
  /-- Step constants' herd total S, FP64 (R320). -/
  herdSum : BitVec 64 := 0
  /-- Results kept by the module's herd-tree node, newest first (R387). -/
  results : List RoundResult := []
  rounds : List Round := []
  /-- The module's sum of squares and nonfinite count are formed (R319, R33). -/
  reduced : Bool := false
  /-- Route set: 0 normal, 1 seam, 2 field-off (R258). -/
  routeSet : Nat := 0
  offField : Option Nat := none
  /-- Fields of the partition that are lost or switched off. -/
  offFields : List Nat := []
  /-- The retained plan or the table store has been read poisoned: its commands complete with class 3 until a plan is loaded
  (R292). -/
  planBad : Bool := false
  /-- STEP_BEGIN completes with class 6 until a plan is loaded (R443). -/
  unrecoverable : Bool := false
  /-- A field was lost for which the plan has no variant: STEP_BEGIN and EVAL_OPEN complete with class 5 (R408). -/
  layoutLost : Bool := false
  /-- Husk version and PENDING (R424, R451). -/
  hver : Nat := 0
  huskPending : Bool := false
  /-- Probe passes run (R426). -/
  probes : Nat := 0
  /-- A replay of a committed step runs here (R447 to R449): the key ID, and the mask of recorded streams, empty for all. -/
  replayKey : Option Nat := none
  recordMask : List Byte := []
  /-- The replay is one of the whole herd, which also reduces and commits (R450). -/
  herdReplay : Bool := false
  /-- A warm reset has interrupted the commit: no STEP_BEGIN before its commit pip (R21, R349). -/
  resumeDue : Bool := false
  deriving DecidableEq, Repr

/-! ### Keepers (spec/10, 11, 14) -/

/-- A bucket of the running step at its intake Keeper (R313 to R316, R321, R322). -/
structure Bucket where
  seen : Bool := false
  admitted : Bool := false
  /-- Tiles accepted and not yet converted, while the bucket is held. -/
  waiting : List (Nat × Nat × List Byte) := []
  /-- The BF16 image. -/
  image : Sparse Byte := []
  /-- Elements written, by segment stream. -/
  written : Sparse Nat := []
  /-- Pages already sent as slices. -/
  sent : List Nat := []
  /-- Pages whose owner has acknowledged the slice. -/
  acked : List Nat := []
  done : Bool := false
  parking : Bool := false
  parked : Bool := false
  /-- Digests of the parked image, one for each MiB (R306, R322). -/
  parkDigest : List (BitVec 128) := []
  /-- Pages of the parked image that are being read back, each with the context that asked, or 0x1000 for this module. -/
  resend : List (Nat × Nat) := []
  /-- Pages whose digest has failed once (R306). -/
  reread : List Nat := []
  /-- Order of admission, or of arrival before it. -/
  order : Nat := 0
  deriving DecidableEq, Repr

/-- A page's reduction at its owner (R317, R318). -/
structure Reduction where
  /-- A partial slot is taken. -/
  slot : Bool := false
  next : Nat := 0
  partialSum : List (BitVec 32) := []
  /-- Slices held for rank order: rank and BF16 elements. -/
  heldSlices : Sparse (List Byte) := []
  complete : Bool := false
  staged : Bool := false
  deriving DecidableEq, Repr

/-- Residency of a component (R304). -/
inductive Resid where
  | hbm | slow | fetch | evict
  deriving DecidableEq, Repr

/-- CSTATE of a page header (R332). -/
inductive PageState where
  | clean | preimage | stamped
  deriving DecidableEq, Repr

/-- One delta slot (R331, R335): INT8 deltas, then the delta exponents, and its spill records. -/
structure DeltaSlot where
  zero : Bool := true
  bytes : Sparse Byte := []
  /-- Spill records: block index and 64 bytes of significands. -/
  spill : List (Nat × List Byte) := []
  /-- The index of the first of them in the slot's spill area (R336). -/
  first : Nat := 0
  deriving DecidableEq, Repr

/-- What commit changes of a page, and what a pre-image keeps of it (R331, R345). -/
structure PageBody where
  stamp : Nat := 0
  head : Nat := 0
  weights : Sparse Byte := []
  exps : Sparse Byte := []
  m1 : Sparse Byte := []
  m2 : Sparse Byte := []
  deltas : Sparse DeltaSlot := []
  digest : BitVec 256 := 0
  deriving DecidableEq, Repr

/-- An owned page (R331, R332). -/
structure OwnedPage where
  body : PageBody := {}
  cstate : PageState := .clean
  frozen : Bool := false
  group : Nat := 0
  resW : Resid := .hbm
  resM : Resid := .hbm
  resD : Resid := .hbm
  /-- Components in HBM whose slow copy is still valid, until the page's next commit (R305). -/
  slowValid : List Nat := []
  /-- Digests kept at eviction, by component 0 W, 1 M, 2 D (R306). -/
  slowDigest : Sparse (BitVec 128) := []
  /-- Components whose first fetch mismatched (R306). -/
  refetched : List Nat := []
  pre : Option PageBody := none
  /-- The gradient slot: 2^19 BF16 elements (R321). -/
  grad : Option (Sparse Byte) := none
  sumSq : BitVec 64 := 0
  reduction : Reduction := {}
  /-- The page's husk has been pulled and not yet arrived (R352, R446). -/
  awaitingHusk : Bool := false
  /-- Components 0 W, 1 M, 2 D still to come from the husk in a takeover (R439). -/
  missing : List Nat := []
  /-- Requests held until the page can be served: requester and version (R27, R304). A requester is a context, 0x1000 for
  this module's own gather, 0x1001 for that of its eval window. -/
  waiting : List (Nat × Nat) := []
  /-- Components whose eviction waits until the page is committed (R305). -/
  evictLater : List Nat := []
  /-- Requests seen: context, version, count (R325). -/
  asked : List (Nat × Nat × Nat) := []
  /-- The commit has waited for a fetch at this page (R323). -/
  waited : Bool := false
  /-- The buddy's record of the running commit, and the first of its records that mismatched (R326, R327). -/
  buddyRec : Option (BitVec 256) := none
  disputed : Option (BitVec 256) := none
  deriving DecidableEq, Repr

/-- One side of a husk page (R423). -/
structure HuskSide where
  version : Nat := 0
  isAlias : Bool := false
  body : PageBody := {}
  deriving DecidableEq, Repr

/-- A mirrored page in a husk store (R423). -/
structure HuskPage where
  group : Nat := 0
  frozen : Bool := false
  current : HuskSide := {}
  pending : Option HuskSide := none
  /-- The pending side's record has been compared and matched. -/
  compared : Bool := false
  grad : Option (Sparse Byte) := none
  deriving DecidableEq, Repr

/-- A schedule record kept by the buddy (R426), with the progress notes of its step (R422). -/
structure SchedRec where
  /-- The owner: 8 × logical ID + Keeper. -/
  owner : Nat
  step : Nat
  bytes : List Byte
  notes : List (Nat × BitVec 128) := []
  deriving DecidableEq, Repr

/-- Commit states of R358. -/
inductive CState where
  | idle | running | heldSpill | heldResume | flipWait | rollback
  deriving DecidableEq, Repr

/-- One partition at one Keeper: buckets, owned pages, commit record and husk (R310 to R360, R422 to R426). -/
structure KprPart where
  nonfinite : Bool := false
  /-- SATURATE of R57: a significand of a weight write-back or of a PAGE_LOAD has saturated. -/
  saturate : Bool := false
  buckets : Sparse Bucket := []
  admissions : Nat := 0
  pages : Sparse OwnedPage := []
  sumSq : BitVec 64 := 0
  cstate : CState := .idle
  step : Nat := 0
  spillFull : Bool := false
  wbNonfinite : Bool := false
  rolledBack : Bool := false
  null : Bool := false
  done : Nat := 0
  lr : BitVec 32 := 0
  clip : BitVec 32 := 0
  updates : Nat := 0
  skips : Nat := 0
  /-- Records that stand in a slot's spill area, by slot: commit begins the retiring slot's anew (R336). -/
  spillUsed : Sparse Nat := []
  /-- Spill extensions by slot, in records (R348). -/
  spillExt : Sparse Nat := []
  husk : Sparse HuskPage := []
  scheds : List SchedRec := []
  /-- Owned pages still to be sent for a re-mirror, and mirrored pages of which no copy has come (R442). -/
  remirrorLeft : List Nat := []
  lacking : List Nat := []
  /-- REMIRROR and HUSKLESS read their reset values, as a warm reset leaves them (R452). -/
  lackHidden : Bool := false
  /-- Husk pages that wait for the update unit, in ascending order (R424). -/
  huskDue : List Nat := []
  /-- Expected SEQ of each bucket stream (R314). -/
  expected : Sparse Nat := []
  /-- The AMAX messages of the running step have been sent (R77, R316). -/
  amaxSent : Bool := false
  /-- Buckets of the running step whose slices need not be sent again, by the progress notes (R439 K6). -/
  skipBuckets : List Nat := []
  deriving DecidableEq, Repr

/-- A Keeper (R308, R328, R357). Each count saturates at its register's width. -/
structure Kpr where
  parts : Sparse KprPart := []
  seqErr : Bool := false
  lastBucket : Nat := 0
  heldSlices : Nat := 0
  creditHolds : Nat := 0
  parked : Nat := 0
  pagesReduced : Nat := 0
  stagedFails : Nat := 0
  buddyFails : Nat := 0
  ownerFixed : Nat := 0
  buddyFixed : Nat := 0
  rollbacks : Nat := 0
  selfRestores : Nat := 0
  scaleProbes : Nat := 0
  commitWaits : Nat := 0
  fetches : Nat := 0
  digestFails : Nat := 0
  lost : Nat := 0
  deriving DecidableEq, Repr

/-! ### Stations (spec/02 to 06) -/

/-- The scripts of R144; the codes are those of SCRIPT (R140). -/
inductive Script where
  | none | micro | tail | eval
  deriving DecidableEq, Repr

/-- Cycles of the array that the station has yet to count, in root time (R119, R135): of a virtual block or a lamb, numbered
from 1, or of the write-out before them, 0. -/
structure Busy where
  part : Nat
  from' : Nat
  to' : Nat
  /-- Write-out, load or mark-unset; else a product is added. -/
  exchange : Bool
  deriving DecidableEq, Repr

/-- A fetched tile operation (R145, R160, R172). -/
structure OpEntry where
  /-- Number of the operation in order of fetch at the station. -/
  id : Nat
  /-- Script index of the operation. -/
  index : Nat
  script : Script
  /-- The 128 bits of the operation. -/
  op : BitVec 128
  micro : Nat
  /-- Which run of scripts the operation belongs to: a measuring pass, a step or an eval window (R75). -/
  run : Nat := 0
  deferred : Bool
  promoted : Bool := false
  issued : Bool := false
  yielded : Bool := false
  /-- The next virtual block to run after a yield. -/
  block : Nat := 0
  /-- A TMUL began its present run on the array with the write-out of another tile's block (R121). -/
  wroteOut : Bool := false
  /-- A yielded TMUL's cycles that are yet to come (R175). -/
  rest : List Busy := []
  /-- A TSCALE has sent its measurement and waits for the probe scale (R148). -/
  measured : Bool := false
  /-- Slot and bank offset of R75 given to its result at fetch. -/
  offset : Nat := 0
  /-- An await: a round has completed since it issued (R184). -/
  joined : Bool := false
  deriving DecidableEq, Repr

/-- One virtual block's accumulators by cell, with the status records (16 for a flock, R128). -/
structure AccBlock where
  cells : Sparse Acc := []
  recs : Sparse TileRec := []
  deriving DecidableEq, Repr

/-- An accumulator tile (R118, R119). -/
structure AccTile where
  blocks : Sparse AccBlock := []
  /-- The layout of its last TMUL: M, N, fold code (R114); M is the flock index for a flock. -/
  m : Nat := 0
  n : Nat := 0
  fold : Nat := 1
  gang : Bool := false
  flock : Bool := false
  /-- The last TMUL on it had K = 0 (R106). -/
  kZero : Bool := false
  /-- Lifts and folds drawn by each cell in the run and micro-step evKey (R95). -/
  events : Sparse Nat := []
  evKey : Nat := 0
  /-- Image copies in the tile's bank region, by virtual block: 0 none yet, else 1 + copy; and the blocks written out
  since the last shadow (R151, R182). -/
  copies : Sparse Nat := []
  fresh : List Nat := []
  /-- Blocks that a TMUL of K = 0 has marked unset, whose images are stale (R119, R120). -/
  unset : List Nat := []
  /-- Lambs of its last flock TMUL that a fault has aborted (R130). -/
  faulted : List Nat := []
  /-- A TMUL has run on it, so that the layout above is one (R105, R114). -/
  ran : Bool := false
  deriving DecidableEq, Repr

/-- The end of a stream at a station (R156, R157, R159, R183). -/
structure StreamEnd where
  /-- Inbound: next expected. Outbound: next to send. -/
  seq : Nat := 0
  /-- Outbound: credits spent and not returned, by destination (station, 0x10000 + Keeper, 0x20000 tree). -/
  used : Sparse Nat := []
  /-- Outbound: tiles written and not yet sent for want of credits, oldest first (R173). -/
  unsent : List (List Byte) := []
  /-- Inbound: tiles in the receive buffer, oldest first. -/
  buffer : List (List Byte) := []
  dup : Bool := false
  ringHold : Bool := false
  /-- Credit returns held while RING_HOLD (R183). -/
  heldReturns : Nat := 0
  /-- Inbound: tiles accepted since the last shadow, oldest first. -/
  ring : List (List Byte) := []
  /-- Elements carried onto the stream in the run and micro-step offKey (R75). -/
  offset : Nat := 0
  offKey : Nat := 0
  /-- During replay, contributions below this SEQ are suppressed (R399). -/
  suppress : Nat := 0
  /-- Inbound: tiles of the ring that a refilled station has yet to take (R400). -/
  replay : List (List Byte) := []
  /-- Inbound: tiles to be consumed in replay whose credits the failed core had returned (R396, R400). -/
  returned : Nat := 0
  deriving DecidableEq, Repr

/-- Flags and counters of a station that the shadow holds (R70, R107, R133, R182). -/
structure Flags where
  nonfinite : Bool := false
  saturate : Bool := false
  evalNonfinite : Bool := false
  stickyNonfinite : Bool := false
  stickySaturate : Bool := false
  firstStream : Nat := 0
  folds : Nat := 0
  lifts : Nat := 0
  inexact : Bool := false
  loss : Bool := false
  stickyLoss : Bool := false
  anchorOverflow : Bool := false
  deriving DecidableEq, Repr

/-- What a shadow holds of a station, and what a fill restores (R182). -/
structure Core where
  script : Script := .none
  /-- Next operation of the script to fetch. -/
  pos : Nat := 0
  /-- Micro-step, or eval pass, being fetched. -/
  micro : Nat := 0
  probe : Bool := false
  /-- The eval script that a probe or window interleaves; the pass number. -/
  fetched : Nat := 0
  queue : List OpEntry := []
  slots : Sparse (Sparse Byte) := []
  accs : Sparse AccTile := []
  /-- The resident virtual block: accumulator tile and block (R119). -/
  resident : Option (Nat × Nat) := none
  inb : Sparse StreamEnd := []
  outb : Sparse StreamEnd := []
  flags : Flags := {}
  /-- Elements that conversions of classes 0 and 1 have written to slots and banks, with their micro-step (R75). -/
  conv0 : Nat := 0
  conv1 : Nat := 0
  convKey : Nat := 0
  /-- Number of the present run of scripts (a measuring pass, a step or an eval window), and the number of its first
  operation. -/
  run : Nat := 0
  runBase : Nat := 0
  /-- The first training-script operation of the step has begun (R69). -/
  begun : Bool := false
  /-- The running flock TMUL: its lambs that have neither completed nor been aborted; the root time from which they may
  start; one more than the root time at which each has started; and the root time at which each that has all its tiles
  completes (R127). -/
  lambsLeft : List Nat := []
  flockBase : Nat := 0
  lambFrom : Sparse Nat := []
  lambEnd : Sparse Nat := []
  /-- The running TMUL's cycles that are not yet counted (R135). -/
  busy : List Busy := []
  deriving DecidableEq, Repr

/-- A shadow area (R181, R182, R185). -/
structure Shadow where
  core : Core
  interim : Bool
  /-- B of R182: the bytes that the shadow takes. -/
  bytes : Nat
  /-- CORE_SCHED_STATUS.PROMOTED and YIELDS (R179, R186). -/
  promoted : Nat := 0
  yields : Nat := 0
  /-- Root time of its completion. -/
  at' : Nat := 0
  deriving DecidableEq, Repr

/-- A shadow being written (R182). -/
structure ShadowRun where
  interim : Bool
  /-- The TFENCE that it belongs to. -/
  fence : Option Nat := none
  deriving DecidableEq, Repr

/-- Space that a station has reserved for a tile of a remote bank: owner, the owner's region index, tile, the number
of the operation that reads it, and the tile's bytes once arrived (R231). -/
structure BankRead where
  owner : Nat
  region : Nat
  tile : Nat
  op : Nat
  data : Option (List Byte) := none
  deriving DecidableEq, Repr

/-- The fault position of a station (R401, R404): the run of scripts, the operations that it had fetched in it, and those
of them that had not retired. -/
structure FaultPos where
  run : Nat
  fetched : Nat
  waiting : List Nat
  deriving DecidableEq, Repr

/-- A station (R140, R179, R180, R185). -/
structure Station where
  core : Core := {}
  error : Nat := 0
  /-- Halted while its sender is filled (R404), or stopped by an error (R180). -/
  stopped : Bool := false
  lambState : BitVec 32 := 0
  lambFault : BitVec 16 := 0
  flockAbort : Bool := false
  lastLamb : Nat := 0
  productCc : Nat := 0
  exchangeCc : Nat := 0
  promoted : Nat := 0
  yields : Nat := 0
  shadows : Nat := 0
  lastInterim : Bool := false
  copy : Bool := false
  shadowA : Option Shadow := none
  shadowB : Option Shadow := none
  writing : Option ShadowRun := none
  streamSel : BitVec 16 := 0
  streamDir : Bool := false
  /-- The core is fenced and its inbound tiles go to the rings (R396). -/
  fenced : Bool := false
  /-- The stream of the tile that failed R157 or R158, as the error report names it (R404), and the root time of the
  error. -/
  errStream : Nat := 0
  errorAt : Nat := 0
  /-- Where the station's replay must come to, and the stations that are halted until then (R404). -/
  faultPos : Option FaultPos := none
  holds : List Nat := []
  /-- What a station without a complete shadow starts from: its stream ends as they were when it was bound without a fill
  (R405), or as plan load leaves them. -/
  origin : Core := {}
  /-- Root time of the core's last heartbeat (R395). -/
  lastBeat : Nat := 0
  /-- The watchdog is suspended for held bank requests (R274). -/
  watchdogOff : Bool := false
  /-- A lamb fault with RETRY 1 awaits retirement (R130). -/
  retryFault : Bool := false
  /-- One more than the root time of the last lamb fault and of the last whole-array fault of a flock, and the lambs that
have faulted in the cycle of that lamb fault (R132). -/
  lambFaultAt : Nat := 0
  wholeFaultAt : Nat := 0
  lambFaultNow : BitVec 16 := 0
  /-- Channels on which the station has posted in a round that has not completed (R184). -/
  posted : BitVec 16 := 0
  /-- Channels on which the station has ever joined a round (R184). -/
  joinedEver : BitVec 16 := 0
  /-- Space reserved for tiles of remote banks (R231). -/
  bankReads : List BankRead := []
  /-- Loaded function pairs in the table memory (R196). -/
  tables : Sparse (List Byte) := []
  /-- EVAL_CLOSE has taken effect here (R147). -/
  evalClosed : Bool := false
  /-- The core and the bytes of the bank, by offset, as they were when the running measuring pass began (R148). -/
  probeCore : Option Core := none
  probeBank : Sparse Byte := []
  /-- The step-fence pip of the running step has been posted (R181). -/
  fencePosted : Bool := false
  /-- A micro-step's operations retired: next micro-step to count (R23, MICRO_DONE). -/
  microDone : Nat := 0
  deriving DecidableEq, Repr

/-! ### Fields: networks, store, faults (spec/07, 08, 13) -/

/-- A remap entry (R248). -/
structure Remap where
  prow : Nat
  pcol : Nat
  moved : Bool := false
  fenced : Bool := false
  homeDead : Bool := false
  deriving DecidableEq, Repr

/-- A bank binding (R279). -/
structure BankBind where
  bprow : Nat
  bpcol : Nat
  moved : Bool := false
  migrating : Bool := false
  /-- The migration copy is complete and awaits the next tile fence (R277). -/
  copied : Bool := false
  deriving DecidableEq, Repr

/-- A bank: controller state outside its 16 MiB (R266, R273, R276). -/
structure Bank where
  /-- Granules written since the last complete shadow. -/
  epoch : List Nat := []
  /-- Poisoned words, by word address. -/
  poison : List Nat := []
  /-- Uncorrectable words found and not yet recovered, by word address. -/
  bad : List Nat := []
  /-- Rows retired: sub-bank and row. -/
  retired : List (Nat × Nat) := []
  /-- Root times of the corrections of each row, newest first, by 16 × row + sub-bank (R273). -/
  corrections : Sparse (List Nat) := []
  /-- Next 512 B block of patrol scrub, and passes completed. -/
  scrubPos : Nat := 0
  passes : Nat := 0
  /-- Next of the 16 refresh bursts of an interval (R267). -/
  burst : Nat := 0
  /-- Words corrected and awaiting write-back (R271). -/
  writeBack : List Nat := []
  /-- Held remote requests: requester, its receive space, and 2^13 × region + tile (R274). -/
  heldReads : List (Nat × Nat × Nat) := []
  /-- Words that have been recovered by a write, whose rows await retirement (R273). -/
  toRetire : List Nat := []
  /-- Uncorrectable words that a replay will rewrite (R275). -/
  replaying : List Nat := []
  lost : Bool := false
  deriving DecidableEq, Repr

/-- Causes of a fault record (R417), by code. -/
abbrev Cause := Nat

/-- A fault log record (R416). -/
structure FaultRec where
  cause : Nat
  outcome : Nat
  station : Nat
  prow : Nat
  pcol : Nat
  time : Nat
  deriving DecidableEq, Repr

/-- A fill, running or queued (R398, R405). -/
structure Fill where
  station : Nat
  prow : Nat
  pcol : Nat
  /-- The target is the station's own core (R403). -/
  own : Bool := false
  cause : Nat
  /-- Shadow bytes delivered so far. -/
  bytes : Nat := 0
  /-- The endpoint that missed a tile of a stream: a station, or 65,536 + Keeper (R404). -/
  receiver : Option (Nat × Nat) := none
  /-- The field has been reset: the restored station takes the values of a field reset (R407). -/
  reset : Bool := false
  /-- Root time of the fault, for OVERRUN (R401). -/
  start : Nat := 0
  /-- The faulty core, and the field controller's counter at detection, as a second record gives them (R416, R418). -/
  failRow : Nat := 0
  failCol : Nat := 0
  time : Nat := 0
  deriving DecidableEq, Repr

/-- A merge window (R231, R232). -/
structure MergeWin where
  region : Nat
  tile : Nat
  /-- Members with the receive space that each reserved (R241). -/
  members : List (Nat × Nat)
  /-- Members that asked again and wait for the next window. -/
  again : List (Nat × Nat) := []
  /-- The tile as read at W0; none where the read met an uncorrectable word. -/
  data : Option (List Byte) := none
  deriving DecidableEq, Repr

/-- Where a packet on a remap leg is going: gx and gy of the core that its station was bound to (R249); none otherwise. -/
abbrev Leg := Option (Nat × Nat)

/-- A packet that has come to a paused link (R218): header, payload flits, tracks corrected, an uncorrectable flit, the
control network's escape lane, payload complete. -/
structure Arrival where
  header : Nat
  length : Nat
  tracks : List Nat
  bad : Bool
  escape : Bool
  ended : Bool
  deriving DecidableEq, Repr

/-- A copy of a packet for an output port: its header, the control network's escape lane, and its remap leg. -/
structure Copy where
  port : Nat
  header : Nat
  escape : Bool
  leg : Leg := none
  deriving DecidableEq, Repr

/-- A packet in a router (R226, R227, R230): the input port (N 0, E 1, S 2, W 3, local 4, tap 5), its header and escape
lane as it came, the flits that it takes of the port's buffer for its channel, the copies still to be sent, the
outputs taken, the root time of its arrival. -/
structure Head where
  bulk : Bool
  gx : Nat
  gy : Nat
  port : Nat
  header : Nat
  escape : Bool
  flits : Nat
  outs : List Copy
  taken : List Nat := []
  /-- The whole payload has come; payload flits that have. -/
  whole : Bool
  came : Nat := 0
  /-- A branch sends its copies from the group's branch buffer (R230); `stored` says that it lies there. -/
  branch : Bool := false
  stored : Bool := false
  since : Nat
  deriving DecidableEq, Repr

/-- The state of a link's receiving side (R217 to R219, R226). -/
structure Link where
  /-- Flits received. -/
  flits : Nat := 0
  /-- The last eight corrections of each track, newest first, as flit numbers. -/
  corrected : Sparse (List Nat) := []
  /-- Tracks steered out; each uses the redundant track of its group of 32. -/
  steered : List Nat := []
  paused : Bool := false
  /-- Receipts of the present flit found uncorrectable. -/
  retries : Nat := 0
  /-- Flits in the input buffer, and packets sent that have not arrived, oldest first, each with the flits of buffer that it has
  taken and its remap leg, by channel (R226, R249): VC0, VC1, escape on the bulk mesh; REQ, its escape lane, RSP, its escape
  lane on the control network (R242). -/
  buffered : Sparse Nat := []
  onWay : Sparse (List (Nat × Leg)) := []
  /-- Packets that came while the link was paused, oldest first. -/
  arrived : List Arrival := []
  deriving DecidableEq, Repr

/-- A reduction-tree node (R235, R236). -/
structure TreeNode where
  expect : Nat := 0
  /-- Contributions waiting by input index, oldest first, from SEQ `expect` on, and the micro-step and offset of each SEQ. -/
  inputs : Sparse (List (List Byte)) := []
  keys : List (Nat × Nat) := []
  /-- Contributions sent to the parent whose places there are not free again (R235). -/
  used : Nat := 0
  halted : Bool := false
  deriving DecidableEq, Repr

/-- A sync node's state for one channel (R245, R246). -/
structure SyncNode where
  parity : Bool := false
  /-- Members below that have posted in the current round, with their VALUE. -/
  posted : List (Nat × Nat) := []
  /-- Members whose post arrived before the result of the current round and counts for the next (R246). -/
  early : List (Nat × Nat) := []
  sent : Bool := false
  deriving DecidableEq, Repr

/-- FIELD_STATE of R416. -/
inductive FieldState where
  | inService | restarting | offForHeat | lost
  deriving DecidableEq, Repr

/-- A field (R248, R260, R279, R416). (DESIGN CHOICE, log entry 2) -/
structure Field where
  remap : Sparse Remap := []
  banks : Sparse BankBind := []
  /-- Dead routers by prow and pcol, oldest first. The neighbours of one at a home site hold proxy entries for its
  station (R253). -/
  dead : List (Nat × Nat) := []
  steered : Nat := 0
  holding : Bool := false
  treeHalt : Bool := false
  corrected : Nat := 0
  retries : Nat := 0
  merged : Nat := 0
  routerErrors : Nat := 0
  band : Nat := 0
  /-- Band reached by the last reading, in force from the next burst (R268). -/
  nextBand : Nat := 0
  storeTemp : Nat := 0
  scrubEn : Bool := true
  scrubPeriod : BitVec 3 := 0
  unrecoverable : Bool := false
  storeCorrected : Nat := 0
  uncorrectable : Nat := 0
  rowsRetired : Nat := 0
  scrubPasses : Nat := 0
  /-- Patrol-scrub passes completed over all the field's banks (R279). -/
  passesDone : Nat := 0
  state : FieldState := .inService
  fill : Option Fill := none
  queued : List Fill := []
  rollback : Bool := false
  overrun : Bool := false
  exhausted : Bool := false
  logOverflow : Bool := false
  log : List FaultRec := []
  /-- Cores fenced, by 25 × prow + pcol, in the runtime map: 1 for good, 2 where retested at the next start (R415). -/
  fencedCores : Sparse Nat := []
  /-- Stations that rotation has moved, whose home cores rest (R533). -/
  rested : List Nat := []
  /-- The field's powered second of its last rotation (R533). -/
  lastMove : Option Nat := none
  /-- The field has been switched on and is being initialised (R410). -/
  starting : Bool := false
  /-- Cycles of PRODUCT_CC and EXCHANGE_CC of the field's stations since reset (R527). -/
  productTotal : Nat := 0
  exchangeTotal : Nat := 0
  /-- Off at the next step fence has been commanded (R32). -/
  offAtFence : Bool := false
  /-- The field has been reset and a station of it has not yet come to the position that it had (R407, R416). -/
  restarting : Bool := false
  /-- Store sites that failed self-test or whose bank controller failed, by 25 × prow + pcol (R278, R413). -/
  badSites : List Nat := []
  deriving DecidableEq, Repr

/-- State of the wafer's networks that no field holds (R218 to R246). -/
structure Net where
  /-- Merge windows by owner station. -/
  windows : Sparse (List MergeWin) := []
  /-- Router inputs by 16 × (200 × gy + gx) + port (N 0, E 1, S 2, W 3, local 4, tap 5), control plus 8. -/
  links : Sparse Link := []
  /-- Packets in routers, in order of arrival. -/
  heads : List Head := []
  /-- The input port last granted, by output as `links` numbers inputs (R227). -/
  turn : Sparse Nat := []
  /-- Tree nodes by 2^24 × partition + 2^16 × tree + site. -/
  nodes : Sparse TreeNode := []
  /-- Sync nodes by 16 × node number + channel: row nodes are 24 × field + prow, field nodes 1,536 + field, field-row nodes
  1,600 + row. -/
  sync : Sparse SyncNode := []
  /-- NONFINITE levels of channel 1 that are up, by 32 × node + member. -/
  nonfinite : List Nat := []
  /-- Reports of Keepers on the way to field controllers (R314): the sending station, the Keeper and the stream. -/
  reports : List (Nat × Nat × Nat) := []
  deriving DecidableEq, Repr

/-! ### HBM and the slow tier (spec/09) -/

/-- A regulator (R293 to R298): settings and token buckets in units of 1/96 byte. -/
structure Regulator where
  guarantee : BitVec 8 := 0
  ceiling : BitVec 8 := 0
  burst : BitVec 8 := 0
  enable : Bool := false
  guaranteeTokens : Nat := 0
  ceilingTokens : Nat := 0
  /-- Bytes granted below one KiB, and KiB granted. -/
  grantedBytes : Nat := 0
  granted : Nat := 0
  /-- Root periods in which a request of the partition has waited for tokens. -/
  held : Nat := 0
  deriving DecidableEq, Repr

/-- A request waiting in a stack's queues (R288, R295). -/
structure HbmReq where
  /-- Partition 0 to 7, or none for the host and for a write-back. -/
  part : Option Nat
  bytes : Nat
  addr : Nat := 0
  /-- The data of a host's write. -/
  data : Option (List Byte) := none
  write : Bool := false
  /-- Whose bytes a unit's request moves. -/
  owner : Option HbmOwner := none
  /-- The write-back of a corrected burst (R292). -/
  writeBack : Bool := false
  deriving DecidableEq, Repr

/-- A stack (R290 to R298). -/
structure Stack where
  temp : Nat := 0
  refresh2x : Bool := false
  throttled : Bool := false
  fault : Bool := false
  regReject : Bool := false
  scrubActive : Bool := false
  scrubEn : Bool := true
  scrubPeriod : BitVec 3 := 4
  hostCeiling : BitVec 8 := 0x40
  hostTokens : Nat := 0
  corrected : Nat := 0
  uncorrectable : Nat := 0
  scrubPasses : Nat := 0
  scrubPos : Nat := 0
  regs : Sparse Regulator := []
  /-- The read queue and the write queue, in order of entry (R288). -/
  queue : List HbmReq := []
  /-- The direction is that of writes; bytes moved in it (R288). -/
  writing : Bool := false
  moved : Nat := 0
  /-- Keeper cycle of the last token refill. -/
  lastFill : Nat := 0
  /-- The mode to which the next refresh moves (R290). -/
  wantDouble : Bool := false
  deriving DecidableEq, Repr

/-- A slow-tier port (R300, R306). -/
structure TierPort where
  linkUp : Bool := false
  width : BitVec 2 := 0
  speed : Bool := false
  down : Bool := false
  timeouts : Nat := 0
  /-- Transfers on the way, with the requests of each. -/
  transfers : List (UioTransfer × Nat) := []
  /-- Transfers that wait for room among the 1,024 outstanding requests, oldest first (R300). -/
  waiting : List (UioTransfer × Nat) := []
  /-- The Keeper whose transfer began last (R301). -/
  turn : Nat := 7
  /-- Requests already retried once. -/
  retried : List UioRequest := []
  deriving DecidableEq, Repr

/-- HBM as a whole: bytes, poison, stacks, the absent log (R282 to R299). (DESIGN CHOICE, log entry 7) -/
structure Hbm where
  mem : Sparse Byte := []
  /-- Poisoned bursts, by address / 64. -/
  poison : List Nat := []
  stack : Sparse Stack := []
  absentAddr : BitVec 42 := 0
  absentWrite : Bool := false
  absentValid : Bool := false
  absentCount : Nat := 0
  tier : Sparse TierPort := []
  /-- The module table store: loaded pairs by number (R196). -/
  tables : Sparse (List Byte) := []
  deriving DecidableEq, Repr

/-! ### Malvotan (spec/12) -/

/-- A cell as it travels (R367, R368): hop fields, header and payload. -/
structure TxCell where
  cls : Nat
  msg : Nat
  seq : Nat
  payload : List Byte
  ctx : Nat
  /-- Bits 223 to 64 of the cell's header, in their places, as formed when it was first sent (R368). -/
  head : Nat := 0
  /-- The port it was last dealt to (R383). -/
  port : Nat := 0
  /-- Its context has discarded it: it keeps its place in a retry buffer and is dealt to no port again. -/
  gone : Bool := false
  deriving DecidableEq, Repr

/-- Port states of R375. -/
inductive PortState where
  | absent | disabled | training | up | down | failed
  deriving DecidableEq, Repr

/-- A port (R364 to R375, R392). -/
structure Port where
  state : PortState := .disabled
  /-- Training point 1 to 4. -/
  phase : Nat := 0
  stalled : Bool := false
  precode : Bool := false
  trainFails : Nat := 0
  peerId : Nat := 0
  peerPort : Nat := 0
  /-- Root time and corrected symbols of the corrected codewords of the last 1 ms, newest first (R392). -/
  symbols : List (Nat × Nat) := []
  fecCorrected : Nat := 0
  fecUncorrectable : Nat := 0
  resends : Nat := 0
  downs : Nat := 0
  enable : Bool := true
  retrain : Bool := false
  /-- Next LSN to send, and next expected. -/
  txLsn : Nat := 0
  rxLsn : Nat := 0
  /-- Unacknowledged cells, oldest first: LSN, sends on this port, cell. -/
  retry : List (Nat × Nat × TxCell) := []
  /-- Running totals of hop credits received and used, by class (R369). -/
  credTotal : Sparse Nat := []
  credUsed : Sparse Nat := []
  /-- Running totals of the hop credits granted and returned to the other end, by class (R369, R373). -/
  granted : Sparse Nat := []
  /-- Root time of the last LNAK for the LSN that is still expected (R372). -/
  lnakAt : Option Nat := none
  /-- Cells dealt to the port that wait for a hop credit or a retry place, oldest first. -/
  tx : List TxCell := []
  /-- Place in the weighted rotation of R384, and cells that each class has waited. -/
  turn : Nat := 0
  waited : Sparse Nat := []
  deriving DecidableEq, Repr

/-- The message whose cells a class delivers: the MSG of its data cells, those still due (none: any number), those
delivered, and whether it is being discarded (R385, R390). -/
structure Assembly where
  code : Nat := 0
  due : Option Nat := some 0
  got : Nat := 0
  bad : Bool := false
  deriving DecidableEq, Repr

/-- One class of a partner context (R379 to R383). -/
structure CtxClass where
  txSeq : Nat := 0
  rxSeq : Nat := 0
  credits : Nat := 0
  /-- Credits to return to the partner. -/
  owed : Nat := 0
  /-- Unacknowledged cells, oldest first, with the resends of R383. -/
  unacked : List TxCell := []
  resends : Nat := 0
  /-- Cells held for lower SEQs. -/
  heldCells : Sparse TxCell := []
  /-- Cells delivered in SEQ order that no consumer has taken, oldest first, and the message that the last belongs to. A
  message's command takes them without comparing bytes (DESIGN CHOICE, log entry 191). -/
  delivered : List TxCell := []
  message : Assembly := {}
  /-- An acknowledgement is owed. -/
  ackDue : Bool := false
  /-- Cells that wait for a credit, for a place among 1,024 unacknowledged, or for an UP port, oldest first. -/
  waiting : List TxCell := []
  /-- Credits that the partner has spent and this end has not returned. -/
  spent : Nat := 0
  /-- Credits of slices that the Keeper withholds for want of staging SRAM (R318, R381). -/
  withheld : Nat := 0
  deriving DecidableEq, Repr

/-- Context states of R392. -/
inductive CtxState where
  | closed | opening | opened | lost | fenced
  deriving DecidableEq, Repr

/-- A partner context (R378 to R383, R432). -/
structure Ctx where
  state : CtxState := .closed
  kpr : Nat := 0
  partner : Nat := 0
  partnerKpr : Nat := 0
  /-- The partner's context index, learnt from its HELLO. -/
  partnerCtx : Nat := 0
  incarnation : Nat := 0
  partnerInc : Nat := 0
  helloSent : Bool := false
  /-- A HELLO has been received since opening. -/
  helloSeen : Bool := false
  watch : Bool := false
  snoop : Bool := false
  role : Nat := 2
  classes : Sparse CtxClass := []
  /-- Initial credits by class. -/
  grants : Sparse Nat := []
  /-- Root times of the last credit violations, newest first (R390). -/
  violations : List Nat := []
  /-- A FENCED context awaits a HELLO of any incarnation (R437). -/
  awaitHello : Bool := false
  deriving DecidableEq, Repr

/-- Malvotan (R376, R392). -/
structure Mlv where
  ports : Sparse Port := []
  selfId : BitVec 12 := 0xFFF
  ctxSel : BitVec 12 := 0
  classSel : BitVec 3 := 0
  ctxs : Sparse Ctx := []
  hdrErr : Nat := 0
  misrouted : Nat := 0
  ctxErr : Nat := 0
  creditViol : Nat := 0
  retransmits : Nat := 0
  dups : Nat := 0
  msgErr : Nat := 0
  restarts : Nat := 0
  partnersLost : Nat := 0
  deriving DecidableEq, Repr

/-! ### Recovery, husks and replay (spec/14) -/

/-- ROLE of R451. -/
inductive Role where
  | member | standby | armed | taking | replayTarget
  deriving DecidableEq, Repr

/-- A spare's configuration (R429, R430). -/
structure SpareCfg where
  standbyId : Nat
  members : List Nat
  plans : List Plan
  admitWait : Nat
  /-- Staged copies kept by snooping, by standby plan and page: 2^28 × plan + page. -/
  staged : Sparse StagedPage := []
  deriving DecidableEq, Repr

/-- MOD_RECOVERY_STATUS, MOD_REPLAY_STATUS and what lies behind them (R433 to R452). -/
structure Recovery where
  role : Role := .member
  selfFenced : Bool := false
  awaitRejoin : Bool := false
  unrecoverable : Bool := false
  takeoverBlocked : Bool := false
  pull : Nat := 0
  lastId : BitVec 12 := 0xFFF
  lastGen : Nat := 0
  /-- Fence generation held for each logical ID; 0 is none. -/
  gens : Sparse Nat := []
  /-- Generation at which an ID has been admitted, with the admission's CSN and standby ID. -/
  admitted : Sparse (Nat × Nat × Nat) := []
  spare : Option SpareCfg := none
  /-- The ID being taken over and its generation. -/
  taking : Option (Nat × Nat) := none
  /-- The context on which this spare's SPARE_ADMIT went out, until its completion comes (R438). -/
  admitOn : Option Nat := none
  /-- Contexts that the spare configuration has opened (R430). -/
  standbyCtxs : List Nat := []
  /-- Keepers, as 8 × partition + Keeper, whose schedule record has been installed (R439). -/
  scheds : List Nat := []
  replayStep : Nat := 0
  replayRunning : Bool := false
  replayMatch : Bool := false
  replayMismatch : Bool := false
  firstBucket : Nat := 0
  /-- The running DIAG_REPLAY: partition and CSN. -/
  replayCmd : Option (Nat × Nat) := none
  /-- The partition of the running or last replay. -/
  replayPart : Nat := 0
  /-- Keepers of the replayed module whose schedule record has been asked for and has not come (R448). -/
  replayWait : List Nat := []
  /-- A bucket has been formed for which no progress note was there to compare (R449). -/
  replayMissed : Bool := false
  /-- Recorded tiles that wait for the host output queue: stream, SEQ, tile (R449). -/
  record : List (Nat × Nat × List Byte) := []
  deriving DecidableEq, Repr

/-! ### Supply, power, heat (spec/16) -/

/-- The state of the 60 V entry (R482, R483). -/
inductive Supply where
  | operating | marginal | lockout | overvoltage
  deriving DecidableEq, Repr

/-- One entry of a grant table, quantities in 1/256 unit (R488). -/
structure GrantEntry where
  floor : Nat
  ceiling : Nat
  weight : Nat
  deriving DecidableEq, Repr

/-- A limit table (R494). -/
structure Limits where
  throttle : Nat := 85
  half : Nat := 90
  off : Nat := 95
  emerg : Nat := 105
  maxDiv : Nat := 3
  deriving DecidableEq, Repr

/-- A power region (R489 to R496, R501); grants and powers in 1/256 unit. -/
structure Region where
  grant : Nat := 0
  /-- Thermal cap in 1/256 unit, while one is in force. -/
  cap : Option Nat := none
  /-- G0: the effective grant at entry into stage 1. -/
  g0 : Nat := 0
  power : Nat := 0
  issue : Nat := 64
  /-- Consecutive samples below 0.9 of the grant. -/
  lowSamples : Nat := 0
  temp : Nat := 0
  stage : Nat := 0
  tripped : Bool := false
  lockout : Bool := false
  /-- Root time of the last re-arming of a tripped eFuse (R486). -/
  rearmed : Option Nat := none
  deriving DecidableEq, Repr

/-- Supply, coolant and power (R482 to R501). (DESIGN CHOICE, log entry 3) -/
structure Pwr where
  /-- HBM groups whose eFuse has tripped (R485, R486). -/
  hbmTripped : List Nat := []
  supply : Supply := .operating
  enable : Bool := true
  /-- Overvoltage shutdown is latched (R483). -/
  latched : Bool := false
  vinA : Nat := 600
  vinB : Nat := 600
  iin : Nat := 0
  clip : Bool := false
  clips : Nat := 0
  budget : Nat := 0
  limitSupply : Nat := 0
  limitCool : Nat := 0
  /-- CAP of the table in force; 0 means 4,200. -/
  cap : Nat := 0
  flow : Nat := 70
  inlet : Nat := 30
  outWafer : Nat := 30
  outCarrier : Nat := 30
  pressure : Nat := 20
  regions : Sparse Region := []
  /-- The grant table, by region; the default is that of R488. -/
  grants : Sparse GrantEntry := []
  limits : Limits := {}
  /-- Tables awaiting the next 10 µs evaluation (R490). -/
  newGrants : Option (Nat × Sparse GrantEntry) := none
  newLimits : Option Limits := none
  deriving DecidableEq, Repr

/-! ### Management, telemetry, lifetime, identity (spec/18) -/

/-- Telemetry configuration of one master (R528, R529). -/
structure Telem where
  enable : Bool := false
  addr : BitVec 64 := 0
  slots : Nat := 0
  seq : Nat := 0
  skipped : Nat := 0
  /-- Snapshots that have come due since the configuration (R528). -/
  due : Nat := 0
  /-- TELEMETRY_CONFIG has named a buffer (R468). -/
  configured : Bool := false
  deriving DecidableEq, Repr

/-- The management port (R522 to R526, R543). -/
structure Mgmt where
  linked : Bool := false
  outstanding : Nat := 0
  busyRefusals : Nat := 0
  eventsLost : Nat := 0
  portResets : Nat := 0
  /-- The data-in buffer: TAG and bytes. -/
  dataIn : Option (BitVec 8 × List Byte) := none
  events : EventCfg := {}
  /-- Events queued for the port, oldest first. -/
  queue : List Completion := []
  hostTelem : Telem := {}
  mgmtTelem : Telem := {}
  deriving DecidableEq, Repr

/-- A telemetry record of a place (R527): the root time of its sampling, and its bytes. -/
structure Sample where
  time : Nat
  bytes : List Byte
  deriving DecidableEq, Repr

/-- A lifetime record (R534). -/
structure LifeRec where
  type : Nat
  subject : Nat
  seq : Nat
  counter : BitVec 64
  epoch : BitVec 64
  mark : BitVec 64
  body : List Byte
  deriving DecidableEq, Repr

/-- A field's lifetime counters and wear (R532, R535): seconds, EM units in 1/(3600 × 2^40) EM-hours, voltage stress in
0.1 V·s. -/
structure Wear where
  powered : Nat := 0
  /-- Seconds in each store band. -/
  band : Sparse Nat := []
  hot : Nat := 0
  em : Nat := 0
  stress : Nat := 0
  warn : Bool := false
  derated : Bool := false
  bound : Nat := 0
  fenced : Nat := 0
  corrected : Nat := 0
  uncorrectable : Nat := 0
  retired : Nat := 0
  rotations : Nat := 0
  trips : Nat := 0
  losses : Nat := 0
  deriving DecidableEq, Repr

/-- A Keeper's lifetime counters (R535); stacks by number 0 to 3 within the Keeper. -/
structure KprLife where
  powered : Nat := 0
  double : Sparse Nat := []
  corrected : Sparse Nat := []
  uncorrectable : Sparse Nat := []
  trips : Nat := 0
  deriving DecidableEq, Repr

/-- A port's lifetime counters (R535). -/
structure PortLife where
  corrected : Nat := 0
  uncorrectable : Nat := 0
  downs : Nat := 0
  trainFails : Nat := 0
  resends : Nat := 0
  deriving DecidableEq, Repr

/-- Background work, lifetime records and identity (R530 to R544). (DESIGN CHOICE, log entry 4)
(DESIGN CHOICE, log entry 79) -/
structure Life where
  autoQuiet : Bool := true
  calHold : Bool := false
  rotateEn : Bool := true
  lastSeq : Nat := 0
  writeFail : Bool := false
  /-- Records in flash, newest first. -/
  records : List LifeRec := []
  wear : Sparse Wear := []
  kprs : Sparse KprLife := []
  ports : Sparse PortLife := []
  /-- Seconds each core has been bound and powered, by 25 × (24 × field + prow) + pcol (R533). -/
  active : Sparse Nat := []
  /-- Indices reserved, and the next index to sign with (R540). -/
  sigsUsed : Nat := 0
  nextIndex : Nat := 0
  attEn : Bool := false
  attDropped : Nat := 0
  /-- Root time of the last ATT_RSP (R542). -/
  lastAtt : Option Nat := none
  samples : Sparse Sample := []
  /-- Root time of each sensor's last calibration (R531), by 64 × place + sensor. -/
  calibrated : Sparse Nat := []
  /-- Root time up to which the powered time of the module and its Keepers is counted. -/
  mark : Nat := 0
  poweredSeconds : Nat := 0
  marginalSeconds : Nat := 0
  clipsTotal : Nat := 0
  fwUpdates : Nat := 0
  starts : Sparse Nat := []
  deriving DecidableEq, Repr

/-! ### What the module drives outward -/

/-- An output of the module, in the order driven (the model's own record of its interfaces, DESIGN CHOICE, log entry 11). -/
inductive Out where
  /-- A completion written at a slot of a ring's completion ring, with its PHASE (R458, R462). -/
  | completion (ring slot : Nat) (phase : Bool) (c : Completion)
  /-- An MSI-X message (R453). -/
  | msix (vector : Nat)
  /-- A write into host memory (R454). -/
  | hostWrite (addr : Nat) (data : List Byte)
  /-- A read of host memory with RdCurr (R454). -/
  | rdCurr (addr bytes : Nat)
  /-- A read's answer to the host: value, and poison (R283). -/
  | readData (value : Nat) (poison : Bool)
  /-- A message to the enclosure manager: KIND, TAG, body (R523). -/
  | mgmtMsg (kind : Nat) (tag : BitVec 8) (body : List Byte)
  /-- A completion or an event to the enclosure manager (R523). -/
  | mgmtCompletion (tag : BitVec 8) (c : Completion)
  /-- A message on a context: class, MSG, head payload, data (R385). -/
  | message (ctx cls msg : Nat) (head : Nat) (data : List Byte)
  /-- A frame on a port: the 32 bytes of a link control word, or a cell with the first 32 bytes of its frame
  (R367 to R370). -/
  | control (port : Nat) (word : Nat)
  | cell (port : Nat) (lsn : Nat) (c : TxCell) (word : Nat)
  /-- A tile sent by a station on a stream, or by a gateway, with its bulk header (R156, R157, R222). -/
  | tile (station stream seq : Nat) (data : List Byte) (header : Nat)
  /-- A tile recorded by a replay, for a host output queue (R449). -/
  | recorded (part stream seq : Nat) (data : List Byte)
  /-- Credits returned by a station or Keeper for a stream, with the control header (R156, R240). -/
  | credit (station stream n header : Nat)
  /-- A remote bank read request of a station: owner, the owner's region index, first tile, tiles, receive space, with the
  control header (R231, R241). -/
  | bankRequest (station owner region tile count space header : Nat)
  /-- A bank read response of an owner's site to its requesters, with the bulk header (R231). -/
  | bankResponse (owner region tile : Nat) (members : List (Nat × Nat)) (data : List Byte) (header : Nat)
  /-- An absolute-maximum report of a station: tensor-table index, FP32 value (R77), with the control header (R242). -/
  | amax (station tensor : Nat) (value : BitVec 32) (header : Nat)
  /-- A packet on a router's output port (R224 to R230), with the control network's escape lane. -/
  | packet (gx gy port : Nat) (bulk : Bool) (header : Nat) (escape : Bool)
  | truncation (gx gy port : Nat)
  /-- The two bytes of a pip leaving a station's leaf or a sync node (R243). -/
  | pip (place bytes : Nat)
  /-- A contribution leaving a tree node, with its bulk header (R222, R236). -/
  | contribution (part tree site seq : Nat) (data : List Byte) (header : Nat)
  /-- A combining node has taken a contribution of a station at an input: its place is free again (R235). -/
  | nodeCredit (part tree site input : Nat)
  /-- A register access of a station, its answer, or a remap update, with the control header (R138, R242, R248). -/
  | access (station header : Nat)
  /-- A report to a field controller or Keeper; of a station, with the control header (R242). -/
  | report (place code : Nat) (header : Nat := 0)
  /-- A fill transfer of a bank to a spare: the station, the shadow's offset, the bulk header (R398). -/
  | fill (station offset header : Nat)
  /-- A slow-tier request (R300). -/
  | uio (port : Nat) (page comp : Nat) (write : Bool)
  deriving DecidableEq, Repr

/-! ### The whole -/

/-- The state of the module. -/
structure State where
  fuses : Fuses := {}
  boot : Boot := {}
  clk : Clk := {}
  host : HostIf := {}
  arb : Arb := {}
  parts : Sparse Part := []
  kprs : Sparse Kpr := []
  stations : Sparse Station := []
  fields : Sparse Field := []
  net : Net := {}
  /-- Store bytes, by 2^24 × (25 × (24 × field + prow) + pcol) + offset (R265). -/
  store : Sparse Byte := []
  /-- Bank controllers, by 25 × (24 × field + prow) + pcol. -/
  banks : Sparse Bank := []
  hbm : Hbm := {}
  mlv : Mlv := {}
  recov : Recovery := {}
  pwr : Pwr := {}
  mgmt : Mgmt := {}
  life : Life := {}
  /-- Outputs driven, newest first. -/
  out : List Out := []
  /-- Counter of free values drawn (the model's own field, DESIGN CHOICE, log entry 8). -/
  freeCtr : Nat := 0
  /-- Waiting commands, first in, first out. -/
  pending : List Instr := []
  deriving DecidableEq, Repr

/-- Why the machine stops with a fault. No meaning of this model raises one: every row has the effect the spec
gives it, and the spec names no behaviour that stops the module without a state after it. -/
inductive Fault where
  /-- Raised by no meaning; safe. -/
  | none
  deriving DecidableEq, Repr

/-- Why a command has no meaning. -/
inductive Refusal where
  /-- Raised by exec's arm for a row that has no meaning yet; safe. -/
  | notModelled (mnemonic : String)
  deriving DecidableEq, Repr

/-- The module right after reset: ready after a good power-up (R505), every register at its reset value, no
command waiting. Values the spec gives no number for are those of log entries 1 to 8. (DESIGN CHOICE, log entry 6) -/
def State.reset : State := {}

end Sys2Proof.Machine
end

