-- ==== Sys2Proof/Machine/Ops.lean ====
section
/-! DEFINITION. The named operations that the meanings share: sparse tables, byte memories, the accessors of every
indexed part of the state, capability masks (R6), completions and events (R457 to R465), leases (R473). -/

namespace Sys2Proof.Machine

/-! ### Sparse tables -/

/-- The entry at an index; `d` where none is listed. -/
def sget {α : Type} (d : α) : Sparse α → Nat → α
  | [], _ => d
  | (j, x) :: t, i => if i = j then x else sget d t i

/-- Sets an entry and keeps the canonical form: indexes strictly rise and no entry equals `d`. -/
def sset {α : Type} [DecidableEq α] (d : α) (m : Sparse α) (i : Nat) (v : α) : Sparse α :=
  m.filter (fun e => e.1 < i) ++ (if v = d then [] else [(i, v)]) ++ m.filter (fun e => i < e.1)

/-- Changes one entry. -/
def smod {α : Type} [DecidableEq α] (d : α) (m : Sparse α) (i : Nat) (f : α → α) : Sparse α :=
  sset d m i (f (sget d m i))

/-- Puts an element before the first one that it may precede. -/
def insertBy {α : Type} (le : α → α → Bool) (x : α) : List α → List α
  | [] => [x]
  | y :: l => if le x y then x :: y :: l else y :: insertBy le x l

/-- The list in order; elements that may precede each other keep theirs. -/
def sortedBy {α : Type} (le : α → α → Bool) (l : List α) : List α := l.foldr (insertBy le) []

/-- Reads `n` bytes from an address on. -/
def readBytes (m : Sparse Byte) (a n : Nat) : List Byte := (List.range n).map fun i => sget 0 m (a + i)

/-- Puts a listed byte into the window that begins at `a`. -/
def putByte (a : Nat) (e : Nat × Byte) (bs : Array Byte) : Array Byte :=
  if a ≤ e.1 then bs.setIfInBounds (e.1 - a) e.2 else bs

/-- The same bytes by one pass over the table, for evaluation. -/
def readBytesFast (m : Sparse Byte) (a n : Nat) : List Byte := (m.foldr (putByte a) (Array.replicate n 0)).toList

theorem putByte_size (a n : Nat) (m : Sparse Byte) : (m.foldr (putByte a) (Array.replicate n 0)).size = n := by
  induction m with
  | nil => simp
  | cons e t ih =>
    rw [List.foldr_cons, putByte]
    split
    · rw [Array.size_setIfInBounds]; exact ih
    · exact ih

theorem putByte_get (a n i : Nat) (hi : i < n) (m : Sparse Byte) :
    (m.foldr (putByte a) (Array.replicate n 0))[i]? = some (sget 0 m (a + i)) := by
  induction m with
  | nil => simp [sget, hi]
  | cons e t ih =>
    rw [List.foldr_cons, putByte, sget]
    split
    · rw [Array.getElem?_setIfInBounds, putByte_size, ih]
      by_cases h : e.1 - a = i
      · rw [if_pos h, if_pos (by omega), if_pos (by omega)]
      · rw [if_neg h, if_neg (by omega)]
    · rw [ih, if_neg (by omega)]

@[csimp] theorem readBytes_eq_fast : @readBytes = @readBytesFast := by
  funext m a n
  apply List.ext_getElem?
  intro i
  have fast : (readBytesFast m a n)[i]? = (m.foldr (putByte a) (Array.replicate n 0))[i]? := by
    rw [readBytesFast, Array.getElem?_toList]
  rw [fast]
  by_cases hi : i < n
  · rw [putByte_get a n i hi]
    simp [readBytes, hi]
  · rw [List.getElem?_eq_none (by simp [readBytes]; omega), Array.getElem?_eq_none (by rw [putByte_size]; omega)]

/-- Writes bytes from an address on: what lay below, the bytes that are not zero, what lay above. -/
def writeBytes (m : Sparse Byte) (a : Nat) (bs : List Byte) : Sparse Byte :=
  m.filter (fun e => e.1 < a) ++ (bs.mapIdx fun i b => (a + i, b)).filter (fun e => e.2 ≠ 0)
    ++ m.filter (fun e => a + bs.length ≤ e.1)

/-- Reads a little-endian number of `n` bytes. -/
def readLe (m : Sparse Byte) (a n : Nat) : Nat := leNat (readBytes m a n)

/-- The canonical form of a table whose unlisted indexes read as `d`. -/
def sparseWf {α : Type} [DecidableEq α] (d : α) : Sparse α → Bool
  | [] => true
  | [(_, x)] => decide (x ≠ d)
  | (i, x) :: (j, y) :: t => decide (i < j) && decide (x ≠ d) && sparseWf d ((j, y) :: t)

/-! ### Counters, lists -/

/-- A counting field of `w` bits saturates. -/
def satAdd (w n k : Nat) : Nat := min (2 ^ w - 1) (n + k)

/-- Adds an element to a set without repeats. -/
def insertOnce {α : Type} [DecidableEq α] (x : α) (l : List α) : List α := if x ∈ l then l else l ++ [x]

/-- R157: places `x` against the expected `e`, counting modulo 2^w: less than half the range ahead is not older. -/
def seqAhead (w e x : Nat) : Nat := (x + 2 ^ w - e % 2 ^ w) % 2 ^ w

/-! ### Accessors -/

def State.part (s : State) (p : Nat) : Part := sget {} s.parts p
def State.setPart (s : State) (p : Nat) (x : Part) : State := { s with parts := sset {} s.parts p x }
def State.modPart (s : State) (p : Nat) (f : Part → Part) : State := s.setPart p (f (s.part p))

def State.kpr (s : State) (k : Nat) : Kpr := sget {} s.kprs k
def State.setKpr (s : State) (k : Nat) (x : Kpr) : State := { s with kprs := sset {} s.kprs k x }
def State.modKpr (s : State) (k : Nat) (f : Kpr → Kpr) : State := s.setKpr k (f (s.kpr k))

def Kpr.part (k : Kpr) (p : Nat) : KprPart := sget {} k.parts p
def Kpr.setPart (k : Kpr) (p : Nat) (x : KprPart) : Kpr := { k with parts := sset {} k.parts p x }
def Kpr.modPart (k : Kpr) (p : Nat) (f : KprPart → KprPart) : Kpr := k.setPart p (f (k.part p))

def State.kpart (s : State) (k p : Nat) : KprPart := (s.kpr k).part p
def State.modKpart (s : State) (k p : Nat) (f : KprPart → KprPart) : State := s.modKpr k fun x => x.modPart p f

def KprPart.page (k : KprPart) (g : Nat) : OwnedPage := sget {} k.pages g
def KprPart.modPage (k : KprPart) (g : Nat) (f : OwnedPage → OwnedPage) : KprPart :=
  { k with pages := smod {} k.pages g f }
def KprPart.bucket (k : KprPart) (b : Nat) : Bucket := sget {} k.buckets b
def KprPart.modBucket (k : KprPart) (b : Nat) (f : Bucket → Bucket) : KprPart :=
  { k with buckets := smod {} k.buckets b f }

def State.station (s : State) (i : Nat) : Station := sget {} s.stations i
def State.setStation (s : State) (i : Nat) (x : Station) : State := { s with stations := sset {} s.stations i x }
def State.modStation (s : State) (i : Nat) (f : Station → Station) : State := s.setStation i (f (s.station i))

def State.field (s : State) (f : Nat) : Field := sget {} s.fields f
def State.setField (s : State) (f : Nat) (x : Field) : State := { s with fields := sset {} s.fields f x }
def State.modField (s : State) (i : Nat) (f : Field → Field) : State := s.setField i (f (s.field i))

def State.bank (s : State) (i : Nat) : Bank := sget {} s.banks i
def State.setBank (s : State) (i : Nat) (x : Bank) : State := { s with banks := sset {} s.banks i x }
def State.modBank (s : State) (i : Nat) (f : Bank → Bank) : State := s.setBank i (f (s.bank i))

def State.stack (s : State) (i : Nat) : Stack := sget {} s.hbm.stack i
def State.modStack (s : State) (i : Nat) (f : Stack → Stack) : State :=
  { s with hbm := { s.hbm with stack := smod {} s.hbm.stack i f } }

def State.tierPort (s : State) (i : Nat) : TierPort := sget {} s.hbm.tier i
def State.modTier (s : State) (i : Nat) (f : TierPort → TierPort) : State :=
  { s with hbm := { s.hbm with tier := smod {} s.hbm.tier i f } }

def State.port (s : State) (i : Nat) : Port := sget {} s.mlv.ports i
def State.modPort (s : State) (i : Nat) (f : Port → Port) : State :=
  { s with mlv := { s.mlv with ports := smod {} s.mlv.ports i f } }

def State.ctx (s : State) (i : Nat) : Ctx := sget {} s.mlv.ctxs i
def State.modCtx (s : State) (i : Nat) (f : Ctx → Ctx) : State :=
  { s with mlv := { s.mlv with ctxs := smod {} s.mlv.ctxs i f } }

def Ctx.cls (c : Ctx) (i : Nat) : CtxClass := sget {} c.classes i
def Ctx.modCls (c : Ctx) (i : Nat) (f : CtxClass → CtxClass) : Ctx := { c with classes := smod {} c.classes i f }

def State.region (s : State) (i : Nat) : Region := sget {} s.pwr.regions i
def State.modRegion (s : State) (i : Nat) (f : Region → Region) : State :=
  { s with pwr := { s.pwr with regions := smod {} s.pwr.regions i f } }

def State.ring (s : State) (q : Nat) : Ring := sget {} s.host.rings q
def State.modRing (s : State) (q : Nat) (f : Ring → Ring) : State :=
  { s with host := { s.host with rings := smod {} s.host.rings q f } }

/-- Data queues are indexed by 64 × partition + queue (R460). -/
def State.dq (s : State) (i : Nat) : DataQueue := sget {} s.host.queues i
def State.modDq (s : State) (i : Nat) (f : DataQueue → DataQueue) : State :=
  { s with host := { s.host with queues := smod {} s.host.queues i f } }

/-- The module's logical ID (R376). -/
def State.selfId (s : State) : Nat := s.mlv.selfId.toNat

/-- Drives an output. -/
def State.emit (s : State) (o : Out) : State := { s with out := o :: s.out }

/-- Draws a free value (DESIGN CHOICE, log entry 8). -/
def State.draw (s : State) : BitVec 64 × State := (Config.freeValue s.freeCtr, { s with freeCtr := s.freeCtr + 1 })

/-- Folds a state change over a list. -/
def State.forAll {α : Type} (s : State) (l : List α) (f : State → α → State) : State := l.foldl f s

/-! ### Capabilities (R1, R6) -/

/-- HBM_STACK_MASK. -/
def Fuses.stackMask (f : Fuses) : Nat := if f.part = 0x14 then 0xFFFFFFFF else 0x33333333
/-- SLOW_TIER_MASK. -/
def Fuses.tierMask (f : Fuses) : Nat := if f.part = 0x14 then 7 else if f.part = 0x10 then 1 else 0
/-- PAST_VERSIONS. -/
def Fuses.pastVersions (f : Fuses) : Nat := if f.part = 0x08 then 1 else 3
/-- MLV_PORT_MASK. -/
def Fuses.portMask (f : Fuses) : Nat :=
  if f.part = 0x14 then 0xFFFFFFFFFFFFFFFF else if f.part = 0x10 then 0x3F3F3F3F3F3F3F3F else 0x0F0F0F0F0F0F0F0F

def State.stackPresent (s : State) (i : Nat) : Bool := i < 32 && bit s.fuses.stackMask i
/-- Tier commands without a slow tier (DEDUCED, log entry 125). -/
def State.tierPresent (s : State) (i : Nat) : Bool := i < 3 && bit s.fuses.tierMask i
def State.portPresent (s : State) (i : Nat) : Bool := i < 64 && bit s.fuses.portMask i

/-! ### Places (R9, R10) -/

def stField (st : Nat) : Nat := bits st 15 10
def stRow (st : Nat) : Nat := bits st 9 5
def stCol (st : Nat) : Nat := bits st 4 0
/-- R10: a station address has row and col from 0 to 23. -/
def stationOk (st : Nat) : Bool := st < 65536 && stRow st < 24 && stCol st < 24
def stOf (f row col : Nat) : Nat := 1024 * f + 32 * row + col
/-- Field row of a field, which is its Keeper (R2). -/
def fieldRow (f : Nat) : Nat := f / 8
def westHalf (f : Nat) : Bool := f % 8 < 4
/-- Index of a bank's home. -/
def bankIdx (f prow pcol : Nat) : Nat := 25 * (24 * f + prow) + pcol

/-- The partition to which a field row belongs (R466 PART_CREATE). -/
def State.rowPart (s : State) (row : Nat) : Option Nat :=
  (List.range 8).find? fun p => (s.part p).formed && (s.part p).rows.getLsbD row
def State.fieldPart (s : State) (f : Nat) : Option Nat := s.rowPart (fieldRow f)
def State.stPart (s : State) (st : Nat) : Option Nat := s.fieldPart (stField st)

/-- Fields of a partition. -/
def Part.fields (x : Part) : List Nat := (List.range 64).filter fun f => x.rows.getLsbD (fieldRow f)
/-- The plan of a partition places areas or buckets at a Keeper (R192, R310). -/
def Part.placed (x : Part) (k : Nat) : Bool :=
  match x.plan with
  | none => false
  | some p => p.sections.any fun c =>
    (c.kind == 0x10 && c.entries.any fun e => bits e 2 0 == k) || (c.kind == 0x13 && c.entries.any fun e => bits e 18 16 == k)
/-- Keepers of a partition: those of its field rows (R2), and those that its plan names. (DEDUCED, log entry 92) -/
def Part.keepers (x : Part) : List Nat := (List.range 8).filter fun k => x.rows.getLsbD k || x.placed k
/-- All stations of a field. -/
def fieldStations (f : Nat) : List Nat :=
  (List.range 24).flatMap fun r => (List.range 24).map fun c => stOf f r c
def Part.stations (x : Part) : List Nat := x.fields.flatMap fieldStations

/-! ### Rings and completions (R457, R458, R462) -/

def Ring.entries (r : Ring) : Nat := 2 ^ r.size
/-- Completions written and not consumed. -/
def Ring.used (r : Ring) : Nat := (r.cqTail + r.entries - r.cqHead) % r.entries
/-- Free completion slots that no fetched command has reserved; one slot always stays free. -/
def Ring.free (r : Ring) : Nat := r.entries - 1 - r.used - r.reserved

/-- The 16 bytes of a completion entry with its PHASE (R462). -/
def Completion.encode (c : Completion) (phase : Bool) : Nat :=
  c.status.toNat + c.cmdId.toNat * 2 ^ 16 + (c.ring % 64) * 2 ^ 32 + b2n phase * 2 ^ 38 + b2n c.evt * 2 ^ 39
    + c.opcode.toNat * 2 ^ 40 + c.csn.toNat * 2 ^ 48 + c.result.toNat * 2 ^ 80

/-- Writes a completion at CQ_TAIL and raises its vector: vector 64 for an event, else the ring's (R453, R458). -/
def State.writeSlot (s : State) (q : Nat) (c : Completion) : State :=
  let r := s.ring q
  let s := (s.emit (.completion q r.cqTail r.phase c)).emit (.msix (if c.evt then 64 else r.vector))
  s.modRing q fun r =>
    { r with
      cqTail := (r.cqTail + 1) % r.entries
      phase := if r.cqTail + 1 = r.entries then !r.phase else r.phase }

/-- A later completion or an event waits for a free slot, in order, up to 256 per ring (R458). The flag says that
it found room. -/
def State.postWaiting (s : State) (q : Nat) (c : Completion) : State × Bool :=
  let r := s.ring q
  if !r.enable then (s, false)
  else if r.finals = [] ∧ 0 < r.free then (s.writeSlot q c, true)
  else if r.finals.length < 256 then (s.modRing q fun r => { r with finals := r.finals ++ [c] }, true)
  else (s, false)

/-- R466: a completion whose ring has been disabled goes to ring 0, and waits there for a slot, while ring 0 is disabled too.
(DEDUCED, log entry 118) -/
def State.postRing0 (s : State) (c : Completion) : State :=
  if (s.postWaiting 0 c).2 then (s.postWaiting 0 c).1 else s.modRing 0 fun r => { r with finals := r.finals ++ [c] }

/-- A later completion of a command, to its ring, or to ring 0 where that has been disabled (R466). -/
def State.postLater (s : State) (q : Nat) (c : Completion) : State :=
  if (s.ring q).enable then (s.postWaiting q c).1 else s.postRing0 c

/-- The first completion of a command goes into its reserved slot (R458). Where its ring has been disabled meanwhile it
goes to ring 0 (R466). -/
def State.postReserved (s : State) (q : Nat) (c : Completion) : State :=
  let r := s.ring q
  if r.enable = true ∧ 0 < r.reserved then (s.modRing q fun r => { r with reserved := r.reserved - 1 }).writeSlot q c
  else s.postLater q c

/-- R465: posts an event to each master whose EVENT_CONFIG enables its detail (0x100 + j). -/
def State.event (s : State) (j : Nat) (result : Nat) : State :=
  let c : Completion := ⟨BitVec.ofNat 16 (0x6100 + j), 0, s.host.events.ring, true, 0xFF, 0, BitVec.ofNat 48 result⟩
  let s :=
    if s.host.events.enable && s.host.events.mask.getLsbD j then
      let (s', ok) := s.postWaiting s.host.events.ring c
      if ok then s' else { s' with host := { s'.host with lostEvents := true } }
    else s
  if s.mgmt.events.enable && s.mgmt.events.mask.getLsbD j then
    if s.mgmt.queue.length < 64 then
      { s with mgmt := { s.mgmt with queue := s.mgmt.queue ++ [{ c with ring := 0 }] } }
    else { s with mgmt := { s.mgmt with eventsLost := satAdd 16 s.mgmt.eventsLost 1 } }
  else s

/-! ### Local counters and lifetime records (R480, R534) -/

/-- R477, R478: the effective divider of a half: root periods per cycle. -/
def Clk.divider (c : Clk) (west : Bool) : Nat :=
  let code := if west then max c.westCmd.toNat c.westTherm.toNat else max c.eastCmd.toNat c.eastTherm.toNat
  [4, 5, 6, 8].getD code 8

/-- Counter of a field controller. -/
def State.fieldCounter (s : State) (f : Nat) : Nat := s.clk.rootTime - sget 0 s.clk.fieldMark f
/-- Counter of a core, by 600 × field + 25 × prow + pcol: a core is reset with its field or with the module, as its controller
is (R407, R410, R514). -/
def State.coreCounter (s : State) (i : Nat) : Nat := s.fieldCounter (i / 600)

def State.kprCounter (s : State) (k : Nat) : Nat := s.clk.rootTime - sget 0 s.clk.kprMark k
def State.cpCounter (s : State) : Nat := s.clk.rootTime - s.clk.cpMark

/-- R534, R538: writes a lifetime record; MARK reads all ones while it is not valid. -/
def State.lifeRecord (s : State) (type subject : Nat) (body : List Byte) : State :=
  let r : LifeRec :=
    { type := type, subject := subject, seq := s.life.lastSeq + 1, counter := BitVec.ofNat 64 s.cpCounter
      epoch := if s.clk.epochSinceStart then s.clk.epoch else 0
      mark := if s.clk.markValid then s.clk.epochMark else BitVec.allOnes 64, body := body }
  { s with life := { s.life with lastSeq := s.life.lastSeq + 1, records := r :: s.life.records } }

def State.wear (s : State) (f : Nat) : Wear := sget {} s.life.wear f
def State.modWear (s : State) (f : Nat) (g : Wear → Wear) : State :=
  { s with life := { s.life with wear := smod {} s.life.wear f g } }

/-! ### Leases (R473): holder codes 0 none, 1 host, 2 enclosure manager -/

def srcHolder : Source → Nat
  | .host => 1 | .mgmt => 2 | .peer => 3

/-- The holder of a lease resource. -/
def State.holder (s : State) (r : Nat) : Nat :=
  if r < 8 then sget 0 s.arb.leasePart r
  else if r < 16 then sget 1 s.arb.leaseKpr (r - 8)
  else if r = 16 then s.arb.leasePower
  else if r = 17 then s.arb.leaseIdentity
  else 0

def State.setHolder (s : State) (r h : Nat) : State :=
  if r < 8 then { s with arb := { s.arb with leasePart := sset 0 s.arb.leasePart r h } }
  else if r < 16 then { s with arb := { s.arb with leaseKpr := sset 1 s.arb.leaseKpr (r - 8) h } }
  else if r = 16 then { s with arb := { s.arb with leasePower := h } }
  else if r = 17 then { s with arb := { s.arb with leaseIdentity := h } }
  else s

/-- A lease changes hands, with event 0x106 (R465). -/
def State.giveLease (s : State) (r h : Nat) : State := (s.setHolder r h).event 6 (r + h * 2 ^ 8)

/-- A resource gets a holder; where it had another, its lease changes. -/
def State.changeLease (s : State) (r h : Nat) : State := if s.holder r = h then s else s.giveLease r h

def State.holds (s : State) (src : Source) (r : Nat) : Bool := s.holder r == srcHolder src

/-- Every listed resource that has a holder is held by the source. -/
def State.holdsEvery (s : State) (src : Source) (rs : List Nat) : Bool :=
  rs.all fun r => s.holder r == 0 || s.holder r == srcHolder src

def State.refuseLease (s : State) : State :=
  { s with arb := { s.arb with refusedLease := satAdd 12 s.arb.refusedLease 1 } }

end Sys2Proof.Machine
end

