-- ==== Sys2Proof/Machine/PlanImage.lean ====
section
/-! DEFINITION. The plan image as plan load reads it (R187 to R193), the sections in force under a route set or a
field-off variant (R189), and the plan's view of a station, a stream and a tensor (R150, R153, R190, R191). -/

namespace Sys2Proof.Machine

/-! ### Reading an image -/

/-- R189: the entry size of a section kind in bytes; 0 for kinds that are reserved or variable. -/
def entrySize : Nat → Nat
  | 0x01 => 64 | 0x02 => 16 | 0x03 => 16 | 0x04 => 8 | 0x05 => 8 | 0x06 => 32 | 0x07 => 16 | 0x08 => 288
  | 0x09 => 168 | 0x0A => 16 | 0x0B => 8 | 0x0C => 32 | 0x0D => 16 | 0x0F => 64 | 0x10 => 64 | 0x11 => 16
  | 0x12 => 64 | 0x13 => 32 | 0x14 => 16 | 0x15 => 16 | 0x16 => 16 | 0x17 => 16 | 0x18 => 16 | 0x19 => 2
  | 0x1A => 8 | _ => 0

/-- The bytes of an image from an offset on. -/
def slice (img : List Byte) (off n : Nat) : List Byte := (img.drop off).take n

/-- Consecutive entries of `size` bytes as little-endian numbers. -/
def entriesOf (size : Nat) : Nat → List Byte → List Nat
  | 0, _ => []
  | n + 1, bs => leNat (bs.take size) :: entriesOf size n (bs.drop size)

/-- R191: dead-router records of section 0x0E: each a 16-byte head and its replacement entries (168 B groups,
32 B tree nodes). -/
def deadRecords : Nat → List Byte → List Nat
  | 0, _ => []
  | n + 1, bs =>
    let head := leNat (bs.take 16)
    let size := 16 + 168 * bits head 39 32 + 32 * bits head 47 40
    leNat (bs.take size) :: deadRecords n (bs.drop size)

/-- One section by its directory entry (R188). Section 0x0E is its header followed by its records. -/
def readSection (img : List Byte) (d : Nat) : Section :=
  let kind := bits d 7 0
  let body := slice img (bits d 95 64) (bits d 127 96)
  ⟨kind, bits d 15 8,
    if kind = 0x0E then leNat (body.take 64) :: deadRecords (bits d 63 32) (body.drop 64)
    else entriesOf (entrySize kind) (bits d 63 32) body⟩

def planHeader (img : List Byte) : Nat := leNat (img.take 256)

/-- The directory entries of an image. -/
def planDir (img : List Byte) : List Nat := entriesOf 16 (bits (planHeader img) 181 176) (img.drop 256)

def Plan.ofImage (img : List Byte) : Plan := ⟨planHeader img, (planDir img).map (readSection img), img⟩

/-! ### Header fields (R187) -/

def Plan.partition (p : Plan) : Nat := bits p.header 42 40
def Plan.seed (p : Plan) : BitVec 64 := BitVec.ofNat 64 (bits p.header 127 64)
def Plan.maxMicro (p : Plan) : Nat := bits p.header 143 128
def Plan.deferAge (p : Plan) : Nat := bits p.header 168 144

/-! ### Sections in force -/

/-- R189: the entries of a section kind: the section of the SET in force, where the plan holds one, else the normal one. -/
def Plan.sec (p : Plan) (set kind : Nat) : List Nat :=
  match p.sections.find? fun x => x.kind == kind && x.set == set with
  | some x => x.entries
  | none =>
    match p.sections.find? fun x => x.kind == kind && x.set == 0 with
    | some x => x.entries
    | none => []

def Plan.hasSec (p : Plan) (set kind : Nat) : Bool := p.sections.any fun x => x.kind == kind && x.set == set

/-- The SET code in force in a partition (R258): normal, seam, or the variant of the field switched off. -/
def Part.set (x : Part) : Nat :=
  match x.routeSet with
  | 0 => 0
  | 1 => 1
  | _ => 0x40 + x.offField.getD 0

/-- Entries of a section kind of a partition's plan; none without a plan. -/
def Part.sec (x : Part) (kind : Nat) : List Nat :=
  match x.plan with
  | none => []
  | some p => p.sec x.set kind

def Part.seed (x : Part) : BitVec 64 :=
  match x.plan with
  | none => 0
  | some p => p.seed

/-! ### Stations of a plan (R190) -/

/-- The station-table entry of a station. -/
def Part.stEntry (x : Part) (st : Nat) : Option Nat := (x.sec 0x01).find? fun e => bits e 15 0 == st

/-- Operations of a script of a station: MICRO, TAIL and EVAL lie one after another from SCRIPT_BASE. -/
def Part.script (x : Part) (st : Nat) (sc : Script) : List Nat :=
  match x.stEntry st with
  | none => []
  | some e =>
    let base := bits e 63 32
    let (off, len) := match sc with
      | .none => (0, 0)
      | .micro => (0, bits e 75 64)
      | .tail => (bits e 75 64, bits e 87 76)
      | .eval => (bits e 75 64 + bits e 87 76, bits e 99 88)
    ((x.sec 0x02).drop (base + off)).take len

/-- Region `r` of a station as its descriptor (R150). -/
def Part.regionOf (x : Part) (st r : Nat) : Option Nat :=
  match x.stEntry st with
  | none => none
  | some e => if r < bits e 166 160 then (x.sec 0x03)[bits e 159 128 + r]? else none

/-- The station's regions in index order. -/
def Part.regionsOf (x : Part) (st : Nat) : List Nat :=
  match x.stEntry st with
  | none => []
  | some e => ((x.sec 0x03).drop (bits e 159 128)).take (bits e 166 160)

/-- The owner's index of the region that a descriptor names: the owner's region at the same base. -/
def Part.ownerRegion (x : Part) (d : Nat) : Nat :=
  (x.regionsOf (bits d 47 32)).findIdx fun e => bits e 23 0 == bits d 23 0 && bits e 47 32 == bits d 47 32

def Part.slotsOf (x : Part) (st : Nat) : List Nat :=
  match x.stEntry st with
  | none => []
  | some e => ((x.sec 0x04).drop (bits e 223 192)).take (bits e 231 224)

def Part.slotEntry (x : Part) (st slot : Nat) : Option Nat := (x.slotsOf st).find? fun e => bits e 7 0 == slot

def Part.accEntry (x : Part) (st tile : Nat) : Option Nat :=
  match x.stEntry st with
  | none => none
  | some e => (((x.sec 0x05).drop (bits e 287 256)).take (bits e 300 288)).find? fun a => bits a 11 0 == tile

/-! ### Streams (R153) and groups -/

def Part.stream (x : Part) (id : Nat) : Option Nat := (x.sec 0x06).find? fun e => bits e 15 0 == id

def sdFmt (e : Nat) : Nat := bits e 31 16
def sdSrcKind (e : Nat) : Nat := bits e 35 32
def sdSrc (e : Nat) : Nat := bits e 51 36
def sdDstKind (e : Nat) : Nat := bits e 55 52
def sdDst (e : Nat) : Nat := bits e 71 56
def sdElems (e : Nat) : Nat := (bits e 81 72 + 1) * (bits e 93 82 + 1)
def sdCredits (e : Nat) : Nat := bits e 101 94
def sdRing (e : Nat) : Nat := bits e 110 102
def sdBucket (e : Nat) : Bool := bit e 111
def sdTree (e : Nat) : Nat := bits e 117 112
def sdTensor (e : Nat) : Nat := bits e 127 118

/-- Entry `i` of the tensor table (R191). -/
def Part.tensor (x : Part) (i : Nat) : Nat := (x.sec 0x07).getD i 0

/-! ### Parameter service (R192, R193) -/

/-- The page range that holds a page. -/
def Part.range (x : Part) (page : Nat) : Option Nat :=
  (x.sec 0x11).find? fun e => bits e 27 0 ≤ page && page ≤ bits e 27 0 + bits e 55 28

def prOwner (e : Nat) : Nat := bits e 67 56
def prOwnerKpr (e : Nat) : Nat := bits e 70 68
def prFrozen (e : Nat) : Bool := bit e 71
def prGroup (e : Nat) : Nat := bits e 75 72
def prStaged (e : Nat) : Bool := bit e 76
def prStageKpr (e : Nat) : Nat := bits e 79 77
def prPages (e : Nat) : List Nat := (List.range (bits e 55 28 + 1)).map fun i => bits e 27 0 + i

/-- The parameter service header. -/
def Part.service (x : Part) : Nat := (x.sec 0x0F).getD 0 0

/-- R315: buckets that may be unsent at a time. -/
def Part.bucketAhead (x : Part) : Nat := if bits x.service 3 0 = 0 then 2 else bits x.service 3 0

/-- SPILL_CAPj (R192). -/
def Part.spillCap (x : Part) (j : Nat) : Nat := bits x.service (63 + 32 * j) (32 + 32 * j)

/-- Pages of the partition that a Keeper of this module owns. -/
def Part.ownedBy (x : Part) (self k : Nat) : List Nat :=
  (x.sec 0x11).flatMap fun e => if prOwner e = self ∧ prOwnerKpr e = k then prPages e else []

/-- Pages that the partition's stage gathers. -/
def Part.stagePages (x : Part) : List Nat := (x.sec 0x11).flatMap fun e => if prStaged e then prPages e else []

/-- The herd list's head (R193): HERD, F and RANKS. -/
def Part.herdHead (x : Part) : Nat := (x.sec 0x17).getD 0 0
def Part.herdId (x : Part) : Nat := bits x.herdHead 7 0
/-- R447: the partition replays a step of one module: it joins no herd, and reduces and commits nothing. -/
def Part.replays (x : Part) : Bool := x.replayKey.isSome && !x.herdReplay

def Part.herdF (x : Part) : Nat := if bits x.herdHead 12 8 = 0 then 8 else bits x.herdHead 12 8
def Part.ranks (x : Part) : Nat := bits x.herdHead 28 16
/-- The logical ID of a rank. -/
def Part.rankId (x : Part) (r : Nat) : Nat := bits ((x.sec 0x17).getD (r + 1) 0) 11 0
/-- The rank of a logical ID. -/
def Part.rankOf (x : Part) (id : Nat) : Option Nat := (List.range x.ranks).find? fun r => x.rankId r == id

end Sys2Proof.Machine
end

