-- ==== Sys2Proof/Machine/Headers.lean ====
section
/-! DEFINITION. Headers of bulk and control packets as their senders form them (R222, R240, R242), with the routes that they
take: ORDER, gateway and tap (R191, R216, R224, R566), and the members of groups and trees (R228, R233). -/

namespace Sys2Proof.Machine

/-- Packs fields given as (low bit, width, value). -/
def packBits (l : List (Nat × Nat × Nat)) : Nat := (l.map fun q => (q.2.2 % 2 ^ q.2.1) * 2 ^ q.1).sum

/-! ### Groups and trees -/

/-- The entries of a multicast group at member `i`'s home router. -/
def Part.memberEntry (x : Part) (g i : Nat) : Option Nat := (x.sec 0x09).find? fun e => bits e 9 0 == g && bit e (1088 + i)

/-- The site of a router as a station address. -/
def routerSite (gx gy : Nat) : Nat := stOf (8 * (gy / 24) + gx / 25) (gy % 24) (gx % 25)

/-- The mesh site that a port leads to; none over the edge. -/
def portSite (gx gy : Nat) : Nat → Option (Nat × Nat)
  | 0 => if gy = 0 then none else some (gx, gy - 1)
  | 1 => if gx + 1 = 200 then none else some (gx + 1, gy)
  | 2 => if gy + 1 = 192 then none else some (gx, gy + 1)
  | 3 => if gx = 0 then none else some (gx - 1, gy)
  | _ => none

/-- The field of a router. -/
def routerField (gx gy : Nat) : Nat := 8 * (gy / 24) + gx / 25

/-- The members of a multicast group in bit order (R228, R229): each home router's site as a station address. -/
def Part.groupMembers (x : Part) (g : Nat) : List Nat :=
  ((List.range 256).filterMap (x.memberEntry g)).map fun e => routerSite (bits e 23 16) (bits e 31 24)

/-- The member mask of some stations in a group. -/
def Part.groupMask (x : Part) (g : Nat) (sts : List Nat) : Nat :=
  ((List.range 256).filter fun i =>
    (x.memberEntry g i).any fun e => sts.contains (routerSite (bits e 23 16) (bits e 31 24))).foldl (fun m i => m + 2 ^ i) 0

/-- The inputs of a tree node, in input order (R233). -/
def nodeInputs (e : Nat) : List Nat := (List.range (bits e 26 24 + 1)).map fun i => bits e (16 * i + 79) (16 * i + 64)

/-- An address is the SITE of a child of a node (R233). -/
def isChild (nodes : List Nat) (e v : Nat) : Bool :=
  v ≠ bits e 23 8 && nodes.any fun q => bits q 23 8 == v && !bit q 28 && bits q 47 32 == bits e 23 8

/-- How often a station contributes at a node: its inputs of that address, but for one that is the child node there. -/
def contributes (nodes : List Nat) (e v : Nat) : Nat :=
  (nodeInputs e).count v - (if isChild nodes e v then 1 else 0)

/-- The nodes of a tree. -/
def Part.treeNodes (x : Part) (tree : Nat) : List Nat := (x.sec 0x0C).filter fun q => bits q 5 0 == tree

/-- The node of a tree at which a station contributes (R233, R234). -/
def Part.nodeOf (x : Part) (tree st : Nat) : Option Nat :=
  (x.treeNodes tree).find? fun e => 1 ≤ contributes (x.treeNodes tree) e st

/-- The contributing stations of a tree (R233, R234). -/
def Part.contributors (x : Part) (tree : Nat) : List Nat :=
  let nodes := x.treeNodes tree
  (nodes.flatMap fun e => (nodeInputs e).filter fun v => 1 ≤ contributes nodes e v).eraseDups

/-! ### Gateways (R216, R566) -/

/-- The route entry of a stream in the set in force (R191). -/
def Part.route (x : Part) (id : Nat) : Nat := ((x.sec 0x0B).find? fun e => bits e 15 0 == id).getD 0

/-- R566: the field of a stream's gateway under a route entry; `side` is the station end. -/
def gatewayField (row route side : Nat) : Nat := 8 * row + (if bit route 26 then bits route 25 23 else stField side % 8)

/-- R566: the prow of the gateway tap of a stream. -/
def gatewayTap (route side : Nat) : Nat := if bit route 17 then bits route 22 18 else stRow side

/-! ### Fields that routes enter (R257) -/

/-- R257: the fields that a dimension-order route passes, from one field to another. -/
def passes (order : Bool) (a b f : Nat) : Bool :=
  let between := fun (u v w : Nat) => min u v ≤ w && w ≤ max u v
  let (ra, ca, rb, cb, rf, cf) := (a / 8, a % 8, b / 8, b % 8, f / 8, f % 8)
  if order then (cf == ca && between ra rb rf) || (rf == rb && between ca cb cf)
  else (rf == ra && between ca cb cf) || (cf == cb && between ra rb rf)

/-- R257: a stream's route enters field `f`: between its source or gateway and its destination. Tiles of a group follow its
entries (R230), so that only the gateway of one that comes from a Keeper or the host counts here. -/
def Part.routeEnters (x : Part) (route f : Nat) : Bool :=
  match x.stream (bits route 15 0) with
  | none => false
  | some e =>
    let order := bit route 16
    let dst := sdDst e
    let near := match sdDstKind e with
      | 0 => dst
      | _ => (x.groupMembers (bits dst 9 0)).headD 0
    let gateway := gatewayField (if sdSrcKind e = 2 then sdSrc e else fieldRow (stField near)) route near
    let src := if sdSrcKind e = 0 then stField (sdSrc e) else gateway
    match sdDstKind e with
    | 0 => passes order src (stField dst) f
    | 1 => sdSrcKind e ≠ 0 && gateway == f
    | 3 =>
      let nodes := x.treeNodes (sdTree e)
      nodes.any fun n =>
        (((nodeInputs n).filter fun v => 1 ≤ contributes nodes n v).any fun a => passes order (stField a) (stField (bits n 23 8)) f)
          || (bit n 28 && bits n 31 29 == 1
            && passes (bit n 27) (stField (bits n 23 8)) (gatewayField (bits n 34 32) route (bits n 23 8)) f)
    | 4 => sdSrcKind e == 0 && passes order (stField (sdSrc e)) (gatewayField dst route (sdSrc e)) f
    | _ => sdSrcKind e == 0 && passes order src (gatewayField (fieldRow src) route (sdSrc e)) f

/-- R257: what an entry of a route section lets enter field `f`: a group branch, a merged read, a stream's route or a tree
hop. -/
def Part.entryEnters (x : Part) (kind e f : Nat) : Bool :=
  match kind with
  | 0x09 => routerField (bits e 23 16) (bits e 31 24) == f
  | 0x0A => stField (bits e 15 0) == f
      || (x.groupMembers (bits e 41 32)).any fun m => passes (bit e 22) (stField (bits e 15 0)) (stField m) f
  | 0x0B => x.routeEnters e f
  | 0x0C =>
    let site := bits e 23 8
    let up := if bit e 28 && bits e 31 29 ≠ 0 then site else bits e 47 32
    stField site == f || passes (bit e 27) (stField site) (stField up) f
  | _ => false

/-- R408: the route set in force of a partition enters field `f`. -/
def Part.enters (x : Part) (f : Nat) : Bool :=
  [0x09, 0x0A, 0x0B, 0x0C].any fun k => (x.sec k).any fun e => x.entryEnters k e f

/-- The merge entry of a region (R191). -/
def Part.mergeEntry (x : Part) (owner region : Nat) : Option Nat :=
  (x.sec 0x0A).find? fun e => bits e 15 0 == owner && bits e 21 16 == region

/-! ### Bulk headers (R222) -/

/-- The fields that a sender sets; VC is set by routers. -/
structure BulkHeader where
  type : Nat
  order : Bool := false
  gw : Bool := false
  dst : Nat := 0
  src : Nat := 0
  stream : Nat := 0
  seq : Nat := 0
  /-- Payload flits, minus 1. -/
  len : Nat := 0
  group : Nat := 0
  tree : Nat := 0
  fmt : Nat := 0
  offset : Nat := 0
  age : Nat := 0
  tap : Nat := 0
  mask : Nat := 0

def BulkHeader.encode (h : BulkHeader) : Nat :=
  packBits [(0, 4, h.type), (6, 1, b2n h.order), (7, 1, b2n h.gw), (8, 16, h.dst), (24, 16, h.src), (40, 16, h.stream),
    (56, 48, h.seq), (104, 10, h.len), (114, 10, h.group), (124, 6, h.tree), (130, 16, h.fmt), (146, 24, h.offset),
    (170, 6, h.age), (176, 5, h.tap), (256, 256, h.mask)]

/-- LEN of a payload of `n` bytes. -/
def lenOf (n : Nat) : Nat := n / 64 - 1

/-- A packet to the gateway of a field, at a tap. -/
def BulkHeader.toGateway (h : BulkHeader) (field tap : Nat) : BulkHeader := { h with gw := true, dst := 1024 * field, tap := tap }

/-- R153, R222, R224, R566: the header of a tile of stream `e` with SEQ `seq` and `n` bytes, from station `st`, or from the
gateway of a stream that enters the mesh there. A contribution goes to its node; a group packet names member 0 in DST
(DESIGN CHOICE, log entry 165). -/
def Part.tileHeader (x : Part) (e st seq n : Nat) : Nat :=
  let id := bits e 15 0
  let route := x.route id
  let members := if bits e 55 52 = 1 then x.groupMembers (bits e 65 56) else [bits e 71 56]
  let near := members.headD 0
  let src := match bits e 35 32 with
    | 0 => st
    | 2 => 1024 * gatewayField (bits e 51 36) route near
    | _ => 1024 * gatewayField (fieldRow (stField near)) route near
  let h : BulkHeader :=
    { type := 0, order := bit route 16, dst := near, src := src, stream := id, seq := seq, len := lenOf n, fmt := bits e 31 16 }
  BulkHeader.encode (match bits e 55 52 with
    | 0 => h
    | 1 => { h with group := bits e 65 56, mask := x.groupMask (bits e 65 56) members }
    | 3 => { h with type := 2, tree := bits e 117 112, dst := ((x.nodeOf (bits e 117 112) st).map fun n => bits n 23 8).getD 0 }
    | 4 => h.toGateway (gatewayField (bits e 71 56) route st) (gatewayTap route st)
    | _ => h.toGateway (gatewayField (fieldRow (stField st)) route st) (gatewayTap route st))

/-- R224, R233, R566: the header of a contribution that node `n` sends towards its parent or the tree's destination. -/
def Part.nodeHeader (x : Part) (e n seq len : Nat) : Nat :=
  let site := bits n 23 8
  let h : BulkHeader :=
    { type := 2, order := bit n 27, dst := bits n 47 32, src := site, stream := bits e 15 0, seq := seq, len := lenOf len,
      tree := bits n 5 0, fmt := bits e 31 16 }
  let route := x.route (bits e 15 0)
  if bit n 28 && bits n 31 29 == 1 then (h.toGateway (gatewayField (bits n 34 32) route site) (gatewayTap route site)).encode
  else h.encode

/-- R222, R224, R231: the header of a bank read response: for one requester by its address; for a merge window with the
reader group and the members that joined. A region without a merge entry takes ORDER 0 (DESIGN CHOICE, log entry 165). -/
def Part.responseHeader (x : Part) (owner region d tile : Nat) (merged : Bool) (members : List Nat) (n : Nat) : Nat :=
  let m := (x.mergeEntry owner region).getD 0
  let size := 256 * (bits d 71 64 + 1)
  let h : BulkHeader :=
    { type := 1, order := bit m 22, dst := members.headD 0, src := owner, len := lenOf n, fmt := bits d 87 72,
      offset := bits d 23 0 + size * tile }
  BulkHeader.encode (if merged then { h with group := bits m 41 32, mask := x.groupMask (bits m 41 32) members } else h)

/-- R222, R224, R265, R398: the header of a fill transfer of `n` bytes at `offset` of the shadow that COPY names: OFFSET is the
store address offset, of shadow area 0 or 1. -/
def fillHeader (st : Nat) (copy : Bool) (offset n : Nat) : Nat :=
  BulkHeader.encode
    { type := 3, dst := st, src := st, len := lenOf n, offset := (if copy then 0xF00000 else 0xE00000) + offset, age := 63 }

/-! ### Control headers (R240, R242) -/

/-- A control header of one payload flit: TYPE, CLASS, DST with its kind, SRC with its kind, TAG, ORDER. -/
def controlHeader (type : Nat) (rsp : Bool) (dst dstKind src srcKind tag : Nat) (order : Bool) : Nat :=
  packBits [(0, 4, type), (4, 1, b2n rsp), (5, 3, 1), (8, 16, dst), (24, 2, dstKind), (26, 16, src), (42, 2, srcKind),
    (44, 10, tag), (54, 1, b2n order)]

/-- R242: a station's error report to its field controller, and its absolute-maximum report to its own field's gateway. -/
def errorHeader (st : Nat) : Nat := controlHeader 8 false (1024 * stField st) 1 st 0 0 false
def amaxHeader (st : Nat) : Nat := controlHeader 7 false (1024 * stField st) 2 st 0 0 false

/-- R138, R241, R242: a register access of a station from its own field's gateway, TYPE 0 or 1, and the station's answer, TYPE 2
or 3. -/
def accessHeader (st type : Nat) : Nat :=
  if type < 2 then controlHeader type false st 0 (1024 * stField st) 2 0 false
  else controlHeader type true (1024 * stField st) 2 st 0 0 false

/-- R241, R248: a remap update of a station, from its field controller. -/
def remapHeader (st : Nat) : Nat := controlHeader 6 false st 0 (1024 * stField st) 1 0 false

/-- A credit return for stream `e` from a station, or from a Keeper through the stream's gateway: ORDER is that of the
stream's route entry, also where the gateway is that of the station's own field. The number of credits and the stream lie in
the payload flit (DESIGN CHOICE, log entry 165). -/
def Part.creditHeader (x : Part) (e place : Nat) : Nat :=
  let route := x.route (bits e 15 0)
  let src := bits e 51 36
  let (from', kind) := if place < 65536 then (place, 0)
    else (1024 * gatewayField (bits e 71 56) route src, 2)
  match bits e 35 32 with
  | 0 => controlHeader 4 true src 0 from' kind 0 (bit route 16)
  | 2 => controlHeader 4 true (1024 * gatewayField src route place) 2 from' kind 0 (bit route 16)
  | _ => controlHeader 4 true (1024 * gatewayField (fieldRow (stField place)) route place) 2 from' kind 0 (bit route 16)

/-- A bank read request: ORDER is that of the region's merge entry; the receive space is the TAG, and the region and the
tile range lie in the payload flit (DESIGN CHOICE, log entry 165). -/
def Part.requestHeader (x : Part) (st owner region space : Nat) : Nat :=
  controlHeader 5 false owner 0 st 0 space (bit ((x.mergeEntry owner region).getD 0) 22)

/-! ### Pips (R243) -/

/-- The two bytes of a pip: CHANNEL, ROUND, KIND, VALUE. -/
def pipBytes (ch : Nat) (round : Bool) (kind value : Nat) : Nat := packBits [(0, 4, ch), (4, 1, b2n round), (5, 2, kind), (8, 8, value)]

/-! ### Links and their channels (R217, R226, R242) -/

/-- The input of a router as `Net.links` numbers it. -/
def linkIdx (bulk : Bool) (gx gy port : Nat) : Nat := 16 * (200 * gy + gx) + port + (if bulk then 0 else 8)

def State.link (s : State) (i : Nat) : Link := sget {} s.net.links i
def State.modLink (s : State) (i : Nat) (f : Link → Link) : State :=
  { s with net := { s.net with links := smod {} s.net.links i f } }

/-- The channel of a packet on a link: VC0, VC1, escape; or REQ, its escape lane, RSP, its escape lane. -/
def chanOf (bulk : Bool) (h : Nat) (escape : Bool) : Nat :=
  if bulk then bits h 5 4 else 2 * b2n (bit h 4) + b2n escape

def Head.input (w : Head) : Nat := linkIdx w.bulk w.gx w.gy w.port
def Head.chan (w : Head) : Nat := chanOf w.bulk w.header w.escape

end Sys2Proof.Machine
end

