-- ==== Sys2Proof/Machine/Operands.lean ====
section
/-! DEFINITION. The operand forms of the tile operations: references (R162), the images they name (R54, R55, R561,
R562), element packing, reading an operand and laying out a result. -/

namespace Sys2Proof.Machine

/-! ### References (R162) -/

/-- A decoded operand reference. -/
inductive Ref where
  | none
  | slot (n : Nat)
  | stream (id : Nat)
  | bank (region tile : Nat) (t : Bool)
  | acc (tile : Nat)
  deriving DecidableEq, Repr

/-- R162: reads a 22-bit reference. -/
def Ref.decode (n : Nat) : Ref :=
  if n = 0 then .none
  else match bits n 21 20 with
    | 0 => .slot (bits n 7 0)
    | 1 => .stream (bits n 15 0)
    | 2 => .bank (bits n 19 14) (bits n 12 0) (bit n 13)
    | _ => .acc (bits n 11 0)

/-- The T bit of a reference. -/
def Ref.transposed : Ref → Bool
  | .bank _ _ t => t
  | _ => false

/-! ### Format descriptors (R47) -/

/-- A decoded format descriptor. -/
structure Desc where
  fmt : Fmt
  scaling : Nat
  round : Nat
  grad : Bool
  exact : Bool
  deriving DecidableEq, Repr

/-- Reads a descriptor; a reserved FORMAT, which no installed plan holds (R49), reads as FP32. -/
def Desc.decode (n : Nat) : Desc := ⟨(Fmt.ofCode (bits n 3 0)).getD .fp32, bits n 5 4, bits n 7 6, bit n 8, bit n 9⟩

def Desc.mx (d : Desc) : Bool := d.scaling == 2

/-- R49: the faults of a descriptor. -/
def descOk (n : Nat) : Bool :=
  let f := bits n 3 0
  let sc := bits n 5 4
  f ≤ 10 && sc ≠ 3 && (sc = 0 || f ≤ 5) && bits n 7 6 ≠ 3 && (!bit n 9 || f = 10) && bits n 15 10 = 0

/-- R64, R66: the rounding of a conversion, with its random value where it is stochastic. -/
def Desc.mode (d : Desc) (r : Nat) : Rnd :=
  if d.grad then .stochastic r
  else match d.round with
    | 1 => .stochastic r
    | 2 => .towardZero
    | _ => .nearest

/-- R159: EFF_ROUND. -/
def Desc.effRound (d : Desc) : Nat := if d.grad then 1 else d.round

/-! ### Images (R54, R55, R561) -/

/-- Bytes of the elements of an image of `e` elements. -/
def elemBytes (f : Fmt) (e : Nat) : Nat := ceilDiv (e * f.elemBits) 8

/-- Bytes of an image: elements, then the scale plane under MX scaling, or the status plane and record of R55.
(DEDUCED, log entry 60) -/
def imageBytes (d : Desc) (flock : Bool) (e : Nat) : Nat :=
  elemBytes d.fmt e +
    (if d.mx then ceilDiv e 32
     else if d.fmt = .l192 then ceilDiv e 2 + (if flock then 128 else 8) else 0)

/-- Bytes rounded up to whole 256 B granules (R155). -/
def granular (n : Nat) : Nat := 256 * ceilDiv n 256

/-- R561: the elements of a region tile of `b` bytes: the largest number whose image fits. A tile of 107 granules in
format 0xA is the tile of a 1,024-element image (R55; DEDUCED, log entry 24). -/
def regionElems (d : Desc) (b : Nat) : Nat :=
  if d.mx then 32 * (b / (4 * d.fmt.elemBits + 1))
  else if d.fmt = .l192 then
    if b = 107 * 256 then 1024 else 2 * ((b - 8) / 53) + (if (b - 8) % 53 ≥ 27 then 1 else 0)
  else 8 * b / d.fmt.elemBits

/-- What a stream, slot or region holds: its descriptor, the elements of one image, its tensor, the image's bytes,
and its rows and columns (1 × E for a region). -/
structure Space where
  desc : Desc
  elems : Nat
  tensor : Nat
  bytes : Nat
  rows : Nat
  cols : Nat
  deriving DecidableEq, Repr

def streamSpace (e : Nat) : Space :=
  let d := Desc.decode (sdFmt e)
  ⟨d, sdElems e, sdTensor e, granular (imageBytes d false (sdElems e)), bits e 81 72 + 1, bits e 93 82 + 1⟩

def slotSpace (e : Nat) : Space :=
  let d := Desc.decode (bits e 31 16)
  let n := (bits e 41 32 + 1) * (bits e 53 42 + 1)
  ⟨d, n, bits e 63 54, granular (imageBytes d false n), bits e 41 32 + 1, bits e 53 42 + 1⟩

def regionTileBytes (r : Nat) : Nat := 256 * (bits r 71 64 + 1)

def regionSpace (r : Nat) : Space :=
  let d := Desc.decode (bits r 87 72)
  let n := regionElems d (regionTileBytes r)
  ⟨d, n, bits r 121 112, regionTileBytes r, 1, n⟩

/-- The space that a reference of a station names. -/
def Part.space (x : Part) (st : Nat) : Ref → Option Space
  | .slot n => (x.slotEntry st n).map slotSpace
  | .stream id => (x.stream id).map streamSpace
  | .bank r _ _ => (x.regionOf st r).map regionSpace
  | _ => Option.none

/-- R562: the images that `n` elements take. -/
def Space.images (sp : Space) (n : Nat) : Nat := if sp.elems = 0 then 0 else ceilDiv n sp.elems

/-! ### Element packing (R54) -/

/-- Splits a number into `n` fields of `w` bits, least significant first. -/
def unpack (w : Nat) : Nat → Nat → List Nat
  | 0, _ => []
  | n + 1, x => x % 2 ^ w :: unpack w n (x >>> w)

/-- Joins fields of `w` bits, least significant first. -/
def pack (w : Nat) : List Nat → Nat
  | [] => 0
  | x :: xs => x % 2 ^ w + 2 ^ w * pack w xs

/-- The encodings of the first `n` elements of an image. -/
def rawElems (d : Desc) (img : List Byte) (n : Nat) : List Nat :=
  unpack d.fmt.elemBits n (leNat (img.take (elemBytes d.fmt n)))

/-- The scale codes of an MX image of `e` elements. -/
def scaleCodes (d : Desc) (img : List Byte) (e : Nat) : List Byte := (img.drop (elemBytes d.fmt e)).take (ceilDiv e 32)

/-- R53, R60: the elements of an image without a per-tensor scale; MX elements carry their block scale. -/
def decodeImage (d : Desc) (e : Nat) (img : List Byte) (n : Nat) : List Num :=
  let raw := rawElems d img n
  if d.mx then
    let codes := scaleCodes d img e
    raw.mapIdx fun i b => decodeMx d.fmt (codes.getD (i / 32) 0).toNat b
  else raw.map d.fmt.decode

/-- R562: `n` elements from consecutive images, of `e` elements each. -/
def decodeImages (d : Desc) (e : Nat) : List (List Byte) → Nat → List Num
  | [], _ => []
  | img :: rest, n => decodeImage d e img (min e n) ++ decodeImages d e rest (n - e)

/-! ### Scales of tensors (R59, R141, R191) -/

/-- R76: a tensor-table entry has an entry in a scale table: per-tensor-scaled, of format 0x3 or 0x4. -/
def Part.hasEntry (x : Part) (t : Nat) : Bool :=
  let e := x.tensor t
  bits e 17 16 == 2 && bits e 5 4 == 1 && (bits e 3 0 == 3 || bits e 3 0 == 4)

/-- R59, R76: the per-tensor scale of a tensor-table entry as the station reads it: 1.0, the FIXED value, or the
Keeper's SCALE as served in the staged copy, or as the running probe computed it (R82). SOURCE 0b10 without an entry reads
1.0 (DESIGN CHOICE, log entry 180). -/
def Part.scaleOf (x : Part) (eval : Bool) (t : Nat) : Num :=
  let e := x.tensor t
  match bits e 17 16 with
  | 1 => f32 (bits e 63 32)
  | 2 =>
    if x.hasEntry t = false then .fin false 1
    else match (sget none (x.probeScales.map fun (i, v) => (i, some v)) t : Option (BitVec 32)) with
    | some v => f32 v.toNat
    | none =>
      let page := bits e 91 64
      let staged := sget none ((if eval then x.evalStaged else x.staged).map fun (i, g) => (i, some g)) page
      match (staged : Option StagedPage).bind fun y => y.scales.find? fun q => q.1 == t with
      | some v => f32 v.2.toNat
      | none => f32 (sget {} x.scales t).scale.toNat
  | _ => .fin false 1

/-- R82, R148: a tensor with an entry and no probe scale. -/
def Part.unprobed (x : Part) (t : Nat) : Bool := x.hasEntry t && !(x.probeScales.any fun p => p.1 == t)

/-- R78: a staged copy serves a tensor's SCALE. -/
def Part.served (x : Part) (eval : Bool) (t : Nat) : Bool :=
  ((if eval then x.evalStaged else x.staged).any fun g =>
    g.1 == bits (x.tensor t) 91 64 && g.2.scales.any fun q => q.1 == t)

/-! ### A station's bank -/

/-- The binding of a station's bank; the home site's bank unless the binding table names another (R265, R279). -/
def State.bankBind (s : State) (st : Nat) : BankBind :=
  sget ⟨stRow st, stCol st, false, false, false⟩ (s.field (stField st)).banks (24 * stRow st + stCol st)

/-- Index of the bank that holds a station's store addresses. -/
def State.stBank (s : State) (st : Nat) : Nat :=
  bankIdx (stField st) (s.bankBind st).bprow (s.bankBind st).bpcol

/-- Store address of an offset in a station's bank. -/
def State.storeAddr (s : State) (st off : Nat) : Nat := 2 ^ 24 * s.stBank st + off

def State.readBank (s : State) (st off n : Nat) : List Byte := readBytes s.store (s.storeAddr st off) n

/-- A range of a bank that holds a poisoned or uncorrectable 64-bit word (R274, R276). -/
def State.bankBad (s : State) (st off n : Nat) : Bool :=
  let b := s.bank (s.stBank st)
  b.poison.any (fun w => off < 8 * w + 8 && 8 * w < off + n) || b.bad.any fun w => off < 8 * w + 8 && 8 * w < off + n

/-- The binding of a station's core; its home site unless the remap table names another (R248). -/
def State.remapOf (s : State) (st : Nat) : Remap :=
  sget ⟨stRow st, stCol st, false, false, false⟩ (s.field (stField st)).remap (24 * stRow st + stCol st)

/-- R246: the round parity of a channel at a station's leaf, which is that of its row node. -/
def State.leafParity (s : State) (st ch : Nat) : Bool :=
  (sget {} s.net.sync (16 * (24 * stField st + (s.remapOf st).prow) + ch)).parity

/-- Offset of a tile of a region. -/
def tileOffset (r tile : Nat) : Nat := bits r 23 0 + regionTileBytes r * tile

/-- A region tile as its bank holds it; none where a word of it is uncorrectable. -/
def State.readTile (s : State) (owner d tile : Nat) : Option (List Byte) :=
  let off := tileOffset d tile
  let n := regionTileBytes d
  if s.bankBad owner off n then none else some (s.readBank owner off n)

/-- R274: requests held at a bank whose tile can be read again are served, and their stations' watchdogs run again. -/
def State.serveHeld (s : State) (owner : Nat) : State :=
  let i := s.stBank owner
  match s.stPart owner with
  | none => s
  | some p =>
    let x := s.part p
    s.forAll (s.bank i).heldReads fun s h =>
      let region := h.2.2 / 2 ^ 13
      let tile := h.2.2 % 2 ^ 13
      match (x.regionsOf owner)[region]? with
      | none => s
      | some d =>
        match s.readTile owner d tile with
        | none => s
        | some bytes =>
          let s := (s.modBank i fun b => { b with heldReads := b.heldReads.erase h }).modStation h.1 fun y =>
            { y with watchdogOff := s.banks.any fun b => b.2.heldReads.any fun q => (q ≠ h || b.1 ≠ i) && q.1 == h.1 }
          s.emit (.bankResponse owner region tile [(h.1, h.2.1)] bytes
            (x.responseHeader owner region d tile false [h.1] bytes.length))

/-- The granules of a byte range. -/
def granulesOf (off n : Nat) : List Nat := (List.range (ceilDiv (off % 256 + n) 256)).map fun i => off / 256 + i

/-- A write by the owner: bytes stored, epoch bits set (R266), poison of the words written cleared (R276) and their
corrective write-backs dropped (R271), rows of words recovered by it noted (R273); requests held for those words are served (R274). While a migration copy runs, the write is forwarded to the new bank (R277); the copy's target holds the same bytes. -/
def State.writeBank (s : State) (st off : Nat) (data : List Byte) : State :=
  let s := { s with store := writeBytes s.store (s.storeAddr st off) data }
  let s := s.modBank (s.stBank st) fun b =>
    { b with
      epoch := (granulesOf off data.length).foldl (fun l g => insertOnce g l) b.epoch
      poison := b.poison.filter fun w => !(off < 8 * w + 8 && 8 * w < off + data.length)
      bad := b.bad.filter fun w => !(off < 8 * w + 8 && 8 * w < off + data.length)
      replaying := b.replaying.filter fun w => !(off < 8 * w + 8 && 8 * w < off + data.length)
      toRetire := b.toRetire ++ b.replaying.filter fun w => off < 8 * w + 8 && 8 * w < off + data.length
      writeBack := b.writeBack.filter fun w => !(off < 8 * w + 8 && 8 * w < off + data.length) }
  if (s.bank (s.stBank st)).heldReads = [] then s else s.serveHeld st

/-! ### Tiles taken from inbound streams (R173, R177) -/

/-- The images that one of a list of references reads from a stream, for an operation. -/
structure Take where
  stream : Nat
  tiles : Nat
  deriving DecidableEq, Repr

/-- Slots: image `i` of a slot begins at `i` times its stride (R561). -/
def slotImages (sp : Space) (m : Sparse Byte) (n : Nat) : List (List Byte) :=
  (List.range n).map fun i => readBytes m (i * sp.bytes) sp.bytes

/-- Images of a bank reference, from its first tile; `owner` is the station that owns the region. -/
def State.bankImages (s : State) (r tile n : Nat) : List (List Byte) :=
  (List.range n).map fun i => s.readBank (bits r 47 32) (tileOffset r (tile + i)) (regionTileBytes r)

/-! ### Results -/

/-- A converted element of a result and its flags. -/
structure Elem where
  code : Nat
  nonfinite : Bool := false
  saturate : Bool := false
  deriving DecidableEq, Repr

/-- Splits a list into pieces of `k`. -/
def chunks {α : Type} (k : Nat) : Nat → List α → List (List α)
  | 0, _ => []
  | n + 1, l => l.take k :: chunks k n (l.drop k)

/-- R62, R63: quantises the blocks of 32 of one MX image; `rnd i` is the random value of element i of the image. -/
def quantBlocks (d : Desc) (rnd : Nat → Nat) (xs : List Num) : List MxBlock :=
  (chunks 32 (ceilDiv xs.length 32) xs).mapIdx fun b blk =>
    quantiseMx d.fmt (fun i => d.mode (rnd (32 * b + i))) blk

/-- One image of a result: its bytes and whether a conversion raised NONFINITE or SATURATE. Elements beyond the
result are +0, and a block of padding only has scale code 0 (R562). -/
def encodeImage (sp : Space) (scale : Num) (rnd : Nat → Nat) (xs : List Num) : List Byte × Bool × Bool :=
  let d := sp.desc
  let w := d.fmt.elemBits
  let e := sp.elems
  let pad (l : List Nat) : List Nat := l ++ List.replicate (e - l.length) 0
  if d.mx then
    let blocks := quantBlocks d rnd (xs ++ List.replicate (min (e - xs.length) ((32 - xs.length % 32) % 32)) Num.zero)
    let codes := blocks.flatMap fun b => b.elems.map (·.bits)
    let scales := pad (blocks.map (·.scale))
    (leBytes (elemBytes d.fmt e) (pack w (pad codes))
        ++ ((scales.take (ceilDiv e 32)).map (BitVec.ofNat 8))
        ++ List.replicate (sp.bytes - imageBytes d false e) 0,
      blocks.any (fun b => b.elems.any (·.nonfinite)), blocks.any fun b => b.elems.any (·.saturate))
  else
    let cs := xs.mapIdx fun i x => d.fmt.convert (d.mode (rnd i)) (if d.scaling = 1 then removeScale scale x else x)
    (leBytes (elemBytes d.fmt e) (pack w (pad (cs.map (·.bits))))
        ++ List.replicate (sp.bytes - imageBytes d false e) 0,
      cs.any (·.nonfinite), cs.any (·.saturate))

/-- The images of a result of any length, `off` elements into its count of R75. -/
def encodeImages (sp : Space) (scale : Num) (rnd : Nat → Nat) (xs : List Num) : List (List Byte × Bool × Bool) :=
  (chunks sp.elems (sp.images xs.length) xs).mapIdx fun j part =>
    encodeImage sp scale (fun i => rnd (j * sp.elems + i)) part

end Sys2Proof.Machine
end

