-- ==== Sys2Proof/Machine/Links.lean ====
section
/-! DEFINITION. Malvotan: ports and training (R361 to R366), frames, per-hop retry and liveness (R367 to R375), partner
contexts (R378 to R383), classes (R384) and the checks on received frames (R390). -/

namespace Sys2Proof.Machine

def State.modMlv (s : State) (f : Mlv → Mlv) : State := { s with mlv := f s.mlv }
def State.idAssigned (s : State) : Bool := s.mlv.selfId ≠ 0xFFF

/-- R361: the port group of a Keeper. -/
def State.portGroup (s : State) (k : Nat) : List Nat :=
  ((List.range 8).map fun i => 8 * k + i).filter s.portPresent

def Port.usable (x : Port) : Bool := x.state == .up && !x.stalled

/-! ### Sending cells on a port (R371, R373, R384) -/

/-- Hop credits held for a class. -/
def Port.hopCredit (x : Port) (cls : Nat) : Nat := sget 0 x.credTotal cls - sget 0 x.credUsed cls

def Port.canSend (x : Port) (cls : Nat) : Bool := x.usable && decide (x.retry.length < 256) && decide (0 < x.hopCredit cls)

/-- R384: the weighted rotation over control, management, husk and bulk. -/
def classTurns : List Nat := [1, 4, 3, 3, 3, 3, 0, 0, 0, 0, 0, 0, 0, 0, 0, 0]

/-- R384: the class whose oldest waiting cell goes next, and the place of the rotation after it: sync first, outside the
rotation, then a class that has waited 64 cells, in the next slot, then the rotation, past the slots of idle classes. -/
def Port.nextClass (x : Port) : Option (Nat × Nat) :=
  let ready (c : Nat) : Bool := x.tx.any (fun t => t.cls == c) && x.canSend c
  let slot (i : Nat) : Nat × Nat := (classTurns.getD ((x.turn + i) % 16) 0, (x.turn + i + 1) % 16)
  if ready 2 then some (2, x.turn)
  else match [0, 1, 3, 4].find? fun c => ready c && 64 ≤ sget 0 x.waited c with
    | some c => some (c, (x.turn + 1) % 16)
    | none => ((List.range 16).map slot).find? fun q => ready q.1

/-! ### Frames (R367 to R371) -/

/-- R367: a hop word: LACK valid in every frame (R371), HCRC over bytes 0 to 5. -/
def hopWord (ftype lsn lack : Nat) : Nat :=
  let w := ftype + 2 ^ 3 + lsn * 2 ^ 4 + lack * 2 ^ 16
  w + crc16 (leBytes 6 w) * 2 ^ 48

/-- R368: the first 32 bytes of a cell's frame on a port: the hop word, the header as first formed, ECRC over bytes 8 to 27
and the payload. -/
def Port.cellFrame (x : Port) (lsn : Nat) (c : TxCell) : Nat :=
  hopWord 1 lsn x.rxLsn + c.head + crc32c (leBytes 20 (c.head / 2 ^ 64) ++ c.payload) * 2 ^ 224

/-- R369: a link control word of a port: LCTYPE, body from bit 72, LCRC over bytes 8 to 29. -/
def Port.controlFrame (x : Port) (lctype body : Nat) : Nat :=
  let b := lctype + body * 2 ^ 8
  hopWord 0 0 x.rxLsn + b * 2 ^ 64 + crc16 (leBytes 22 b) * 2 ^ 240

def State.sendControl (s : State) (p lctype body : Nat) : State := s.emit (.control p ((s.port p).controlFrame lctype body))

/-- Sends waiting cells of a port while one may go; `n` bounds them. -/
def State.pumpPort (p : Nat) : Nat → State → State
  | 0, s => s
  | n + 1, s =>
    let x := s.port p
    match x.nextClass with
    | none => s
    | some (c, turn) =>
      match x.tx.find? fun t => t.cls == c with
      | none => s
      | some cell =>
        let s := s.emit (.cell p x.txLsn cell (x.cellFrame x.txLsn cell))
        let s := s.modPort p fun x =>
          { x with
            txLsn := (x.txLsn + 1) % 4096
            retry := x.retry ++ [(x.txLsn, 1, cell)]
            tx := x.tx.erase cell
            credUsed := smod 0 x.credUsed c (· + 1)
            turn := turn
            waited := [0, 1, 3, 4].foldl (fun w d =>
              if d = c then sset 0 w d 0
              else if x.tx.any fun t => t.cls == d then smod 0 w d (· + 1) else w) x.waited }
        State.pumpPort p n s

/-- Gives a cell to a port. -/
def State.dealTo (s : State) (p : Nat) (c : TxCell) : State :=
  let s := s.modPort p fun x => { x with tx := x.tx ++ [c] }
  State.pumpPort p ((s.port p).tx.length) s

/-- Deals a cell that was sent before to another port, with unchanged SEQ (R374, R383). -/
def State.dealAgain (s : State) (p : Nat) (c : TxCell) : State :=
  let s := s.modCtx c.ctx fun x => x.modCls c.cls fun k =>
    { k with unacked := k.unacked.map fun u => if u.seq = c.seq ∧ 2 ≤ c.msg then { u with port := p } else u }
  s.dealTo p { c with port := p }

/-- R383: the port of a Keeper's group with the shortest transmit queue, the lowest on a tie. The queue counts the cells
dealt to the port and not yet acknowledged on it (DESIGN CHOICE, log entry 31). -/
def State.bestPort (s : State) (k : Nat) : Option Nat :=
  let up := (s.portGroup k).filter fun p => (s.port p).usable
  let len (p : Nat) : Nat := (s.port p).tx.length + (s.port p).retry.length
  up.foldl (fun best p => match best with
    | none => some p
    | some b => if len p < len b then some p else some b) none

/-! ### Contexts (R378 to R383) -/

/-- R381: end-to-end credits of a class where the partner table names none. -/
def defaultGrant : Nat → Nat
  | 0 => 1024 | 1 => 32 | 2 => 4 | 3 => 256 | _ => 16

def Ctx.grant (c : Ctx) (cls : Nat) : Nat :=
  let g := sget 0 c.grants cls
  if g = 0 then defaultGrant cls else g

/-- Fresh class state at an open: sequence 0, full credits (R379, R381). -/
def Ctx.freshClasses (c : Ctx) : Sparse CtxClass :=
  (List.range 5).foldl (fun (m : Sparse CtxClass) i => sset {} m i { credits := c.grant i }) []

/-- R368: bits 223 to 64 of a cell's header on a context, in their places; `ack` holds bits 223 to 166. A HELLO, which is
matched by its source, names no destination context. -/
def Ctx.header (c : Ctx) (self cls msg seq ack : Nat) (pay : Bool) : Nat :=
  cls * 2 ^ 64 + b2n pay * 2 ^ 67 + msg * 2 ^ 68 + c.partner * 2 ^ 76 + c.partnerKpr * 2 ^ 88 + self * 2 ^ 91 + c.kpr * 2 ^ 103
    + (if msg = 1 then 0 else c.partnerCtx) * 2 ^ 106 + seq * 2 ^ 118 + ack * 2 ^ 166

/-- Sends waiting cells of a class of a context: in OPEN, each for one credit, with at most 1,024 unacknowledged. -/
def State.pumpCtx (i cls : Nat) : Nat → State → State
  | 0, s => s
  | n + 1, s =>
    let c := s.ctx i
    let k := c.cls cls
    match k.waiting, s.bestPort c.kpr with
    | cell :: rest, some p =>
      if c.state = .opened ∧ 0 < k.credits ∧ k.unacked.length < 1024 then
        let head := c.header s.selfId cls cell.msg k.txSeq 0 (cell.payload ≠ [])
        let cell := { cell with seq := k.txSeq, head := head, port := p }
        let s := s.modCtx i fun c => c.modCls cls fun k =>
          { k with waiting := rest, txSeq := (k.txSeq + 1) % 2 ^ 48, credits := k.credits - 1, unacked := k.unacked ++ [cell] }
        State.pumpCtx i cls n (s.dealTo p cell)
      else s
    | _, _ => s

def State.pump (s : State) (i cls : Nat) : State := State.pumpCtx i cls ((s.ctx i).cls cls).waiting.length s

/-- The payload of a cell, filled with zeros to its 512 B. -/
def cellPayload (bs : List Byte) : List Byte := bs ++ List.replicate (512 - bs.length) 0

/-- Payload cells of a message after its head: 512 B each. -/
def dataCells (data : List Byte) : List (List Byte) := (chunks 512 (ceilDiv data.length 512) data).map cellPayload

/-- R385, R427, R542: the MSG of the cells after a head: SLICE_DATA, PAGE_DATA, the further cells of a SUM_UP, HUSK_DATA, ATT_DATA;
0 where none follow. -/
def followMsg : Nat → Nat
  | 0x10 => 0x11 | 0x12 => 0x13 | 0x30 => 0x30 | 0x40 => 0x41 | 0x43 => 0x41 | 0x46 => 0x41 | 0x51 => 0x52 | _ => 0

/-- R385: sends a message on a context: the head cell (none of it where PAY is 0) and its data cells.
(DESIGN CHOICE, log entry 19) -/
def State.send (s : State) (i cls msg : Nat) (head : List Byte) (pay : Bool) (data : List Byte) : State :=
  let s := s.emit (.message i cls msg (leNat head) data)
  let cell (msg : Nat) (bs : List Byte) : TxCell := { cls := cls, msg := msg, seq := 0, payload := bs, ctx := i }
  let cells := cell msg (if pay then cellPayload head else []) :: (dataCells data).map (cell (followMsg msg))
  let s := s.modCtx i fun c => c.modCls cls fun k => { k with waiting := k.waiting ++ cells }
  s.pump i cls

/-! ### Command results -/

/-- The status and RESULT of a completion. -/
structure Res where
  status : Nat := 0
  result : Nat := 0
  deriving DecidableEq, Repr

def Cmd.completion (c : Cmd) (csn : Nat) (r : Res) : Completion :=
  ⟨BitVec.ofNat 16 r.status, c.packet.cmdId, if c.packet.src = .host then c.packet.ring else 0, false,
    BitVec.ofNat 8 c.opcode, BitVec.ofNat 32 csn, BitVec.ofNat 48 r.result⟩

/-- R385: a PEER_CPL with the 16 bytes of a completion. -/
def State.sendCpl (s : State) (i e : Nat) : State := s.send i 1 0x23 (leBytes 16 e) true []

/-- R389, R472: a peer's command is answered on its context, with a free value for the PHASE that no ring gives it, and
kept for a repeat where it was accepted. (DESIGN CHOICE, log entry 133) -/
def State.replyPeer (s : State) (c : Packet) (csn : Nat) (e : Completion) : State :=
  let (v, s) := s.draw
  let bytes := e.encode (v.getLsbD 0)
  let s := s.sendCpl c.ctx bytes
  if csn = 0 then s else { s with arb := { s.arb with peerDone := (c.ctx, c.seq, bytes) :: s.arb.peerDone } }

/-- R462, R472, R523: a completion returned to the source of a command, the first of the command (`first`) or a
later one to ring `dest`. -/
def State.reply (s : State) (first : Bool) (dest : Nat) (c : Cmd) (csn : Nat) (r : Res) : State :=
  let e := c.completion csn r
  match c.packet.src with
  | .host => if first then s.postReserved dest e else s.postLater dest e
  | .mgmt => s.emit (.mgmtCompletion c.packet.tag e)
  | .peer => s.replyPeer c.packet csn e

/-- The outstanding count of the management port falls at a command's final completion (R525). -/
def State.mgmtDone (s : State) (c : Cmd) : State :=
  if c.packet.src = .mgmt then { s with mgmt := { s.mgmt with outstanding := s.mgmt.outstanding - 1 } } else s

/-- A command with a CSN completes at once: its first and only completion. -/
def State.finish (s : State) (c : Cmd) (csn : Nat) (r : Res) : State :=
  (s.reply true c.packet.ring c csn r).mgmtDone c

/-- A long command is accepted: its class 1 completion is posted and it is in flight (R458). -/
def State.accept (s : State) (c : Cmd) (csn : Nat) : State :=
  let s := s.reply true c.packet.ring c csn { status := 0x1000 }
  { s with arb := { s.arb with inflight := s.arb.inflight ++ [{ csn := csn, cmd := c, dest := c.packet.ring }] } }

def State.flight (s : State) (csn : Nat) : Option InFlight := s.arb.inflight.find? fun f => f.csn == csn

/-- The in-flight command with a CSN posts its final completion; nothing where it is not in flight (R469). -/
def State.final (s : State) (csn : Nat) (r : Res) : State :=
  match s.flight csn with
  | none => s
  | some f =>
    let s := { s with arb := { s.arb with inflight := s.arb.inflight.filter fun g => g.csn != csn } }
    let s := if f.muted then s else s.reply false f.dest f.cmd csn r
    s.mgmtDone f.cmd

/-- Data that a command writes for its master: into host memory at ADDR, or as a message of a KIND (R524).
(DESIGN CHOICE, log entry 119) -/
def State.deliver (s : State) (c : Packet) (addr kind : Nat) (data : List Byte) : State :=
  match c.src with
  | .mgmt => s.emit (.mgmtMsg kind c.tag data)
  | _ => s.emit (.hostWrite addr data)

/-! ### Opening and losing contexts (R380, R383) -/

/-- R371, R382: sends a cell without payload that takes no end-to-end credit: a HELLO in the management class, a NULL in
the class that it acknowledges (DESIGN CHOICE, log entry 187). -/
def State.sendBare (s : State) (i p cls msg seq ack : Nat) : State :=
  s.dealTo p
    { cls := cls, msg := msg, seq := seq, payload := [], ctx := i, port := p
      head := (s.ctx i).header s.selfId cls msg seq ack false }

/-- R380: sends a HELLO with the context's index and incarnation, where a port of its group is UP; an OPENING context that
has received one opens. -/
def State.sendHello (s : State) (i : Nat) : State :=
  match s.bestPort (s.ctx i).kpr with
  | none => s
  | some p =>
    (s.sendBare i p 4 1 (i + (s.ctx i).incarnation * 2 ^ 12) 0).modCtx i fun c =>
      { c with helloSent := true, state := if c.state = .opening ∧ c.helloSeen then .opened else c.state }

/-- Numbering of a context starts again, so no command of it is a repeat of one before (R379, R472). -/
def State.forgetPeer (s : State) (i : Nat) : State :=
  { s with arb := { s.arb with peerDone := s.arb.peerDone.filter fun q => q.1 ≠ i } }

/-- The cells of a context that a port holds are discarded: those that it has not sent leave it, the others keep their
places in the retry buffer (R371; DEDUCED, log entry 188). -/
def Port.purge (x : Port) (i : Nat) : Port :=
  { x with
    tx := x.tx.filter fun c => c.ctx ≠ i
    retry := x.retry.map fun r => if r.2.2.ctx = i then (r.1, r.2.1, { r.2.2 with gone := true }) else r }

/-- R380, R383, R434: no port sends the discarded cells of a context. -/
def State.purge (s : State) (i : Nat) : State := s.forAll (s.mlv.ports.map (·.1)) fun s p => s.modPort p fun x => x.purge i

/-- R376, R380, R444: a context enters OPENING with a new incarnation; none while the ID is unassigned or the module awaits its rejoin. -/
def State.openCtx (s : State) (i : Nat) : State :=
  if s.idAssigned = false ∨ s.recov.awaitRejoin = true then s
  else
    ((s.forgetPeer i).purge i).modCtx i fun c =>
      { c with
        state := .opening, incarnation := (c.incarnation + 1) % 65536, helloSent := false, helloSeen := false
        awaitHello := false, partnerCtx := 0, classes := c.freshClasses, violations := [] }

def State.pumpAll (s : State) (i : Nat) : State := s.forAll (List.range 5) fun s c => s.pump i c

/-- R380, R437: a HELLO reaches the context that it is matched to. -/
def State.receiveHello (s : State) (i incarnation partnerCtx : Nat) : State :=
  let c := s.ctx i
  match c.state with
  | .opening =>
    let s := s.modCtx i fun c =>
      { c with
        helloSeen := true, partnerInc := incarnation, partnerCtx := partnerCtx
        state := if c.helloSent then .opened else .opening }
    s.pumpAll i
  | .opened =>
    if incarnation = c.partnerInc then s
    else
      let s := ((s.forgetPeer i).purge i).modCtx i fun c =>
        { c with
          partnerInc := incarnation, partnerCtx := partnerCtx
          classes := (List.range 5).foldl (fun m j =>
            sset {} m j { credits := c.grant j, waiting := (c.cls j).waiting }) [] }
      let s := s.sendHello i
      let s := s.modMlv fun m => { m with restarts := satAdd 8 m.restarts 1 }
      (s.emit (.report (0x40000 + c.kpr) 1)).pumpAll i
  | .fenced =>
    if c.awaitHello then
      let s := (s.openCtx i).modCtx i fun c =>
        { c with helloSeen := true, partnerInc := incarnation, partnerCtx := partnerCtx }
      (s.sendHello i).pumpAll i
    else s.modMlv fun m => { m with ctxErr := satAdd 16 m.ctxErr 1 }
  | _ => s.modMlv fun m => { m with ctxErr := satAdd 16 m.ctxErr 1 }

/-- A context leaves service as LOST or FENCED: it discards its unacknowledged, held and waiting cells (R383, R434). -/
def State.dropCtx (s : State) (i : Nat) (st : CtxState) : State :=
  (s.purge i).modCtx i fun c => { c with state := st, classes := c.freshClasses, awaitHello := false }

/-- The consumer has taken `n` cells of a class: their credits are owed to the partner (R381). -/
def State.took (s : State) (i cls n : Nat) : State :=
  s.modCtx i fun c => c.modCls cls fun k => { k with owed := k.owed + n, delivered := k.delivered.drop n }

/-- R390: a message whose fields do not agree is discarded, counted and reported to its Keeper. -/
def State.msgError (s : State) (i : Nat) : State :=
  (s.modMlv fun m => { m with msgErr := satAdd 8 m.msgErr 1 }).emit (.report (0x40000 + (s.ctx i).kpr) 3)

/-- R382: a NULL cell with ACK of a class and `n` of its credits, where a port of the group is UP.
(DEDUCED, log entry 54) -/
def State.sendNullCell (s : State) (i cls n : Nat) : State :=
  let c := s.ctx i
  match s.bestPort c.kpr with
  | none => s
  | some p =>
    (s.sendBare i p cls 0 0 ((c.cls cls).rxSeq + 2 ^ 48 + cls * 2 ^ 49 + n * 2 ^ 52)).modCtx i fun c => c.modCls cls fun k =>
      { k with owed := k.owed - n, spent := k.spent - n, ackDue := false }

/-- R382: a NULL cell with ACK and the CREDIT that the class owes. -/
def State.sendAck (s : State) (i cls : Nat) : State := s.sendNullCell i cls (min 63 ((s.ctx i).cls cls).owed)

/-- R382, R390: an acknowledgement of class `cls` up to `ack`, and `credit` returned credits. An ACK beyond what was
sent is ignored and counted. -/
def State.ackCells (s : State) (i cls ack : Nat) (valid : Bool) (credit : Nat) : State :=
  let s := s.modCtx i fun c => c.modCls cls fun k => { k with credits := k.credits + credit }
  let k := (s.ctx i).cls cls
  let s :=
    if !valid then s
    else
      let oldest := (k.txSeq + 2 ^ 48 - k.unacked.length) % 2 ^ 48
      let n := seqAhead 48 oldest ack
      if n ≤ k.unacked.length then
        s.modCtx i fun c => c.modCls cls fun k =>
          { k with unacked := k.unacked.drop n, resends := if n = 0 then k.resends else 0 }
      else if 2 ^ 47 ≤ n then s
      else s.modMlv fun m => { m with hdrErr := satAdd 16 m.hdrErr 1 }
  s.pump i cls

/-- R385, R427, R542: the cells that follow a head; a HUSK_PAGE has as many as its page's components take (none). -/
def dueCells (msg : Nat) (payload : List Byte) : Option Nat :=
  let h := leNat (payload.take 16)
  match msg with
  | 0x10 => some 2048
  | 0x12 => some 2080
  | 0x30 => some (ceilDiv (bits h 64 52 - 31) 32)
  | 0x40 => some 2048
  | 0x43 => some (ceilDiv (bits h 95 64) 512)
  | 0x46 => none
  | 0x51 => some 5
  | _ => some 0

/-- MSG of the cells that only follow a head. -/
def dataMsgs : List Nat := [0x11, 0x13, 0x41, 0x52]

/-- R390: one cell is delivered to the consumer of its class. A data cell that does not follow its head, and an unfinished
message that another head follows, are discarded whole; their credits are owed, and the count of such messages grows. -/
def CtxClass.accept (q : CtxClass × Nat) (c : TxCell) : CtxClass × Nat :=
  let k := q.1
  let m := k.message
  if c.msg = m.code ∧ m.due ≠ some 0 then
    ({ k with
       delivered := k.delivered ++ [c]
       message := { m with due := m.due.map (· - 1), got := m.got + 1 } }, q.2)
  else if dataMsgs.contains c.msg then
    ({ k with owed := k.owed + 1, message := { bad := true } }, if m.bad then q.2 else q.2 + 1)
  else
    let fresh : Assembly := { code := followMsg c.msg, due := dueCells c.msg c.payload, got := 1 }
    match m.due with
    | some (_ + 1) =>
      ({ k with
         owed := k.owed + m.got, delivered := k.delivered.take (k.delivered.length - m.got) ++ [c], message := fresh }, q.2 + 1)
    | _ => ({ k with delivered := k.delivered ++ [c], message := fresh }, q.2)

/-- Delivers held cells of a class in SEQ order; with the number of messages that this discards. -/
def CtxClass.deliver : Nat → CtxClass × Nat → CtxClass × Nat
  | 0, q => q
  | n + 1, (k, bad) =>
    match k.heldCells.find? fun h => h.1 == k.rxSeq with
    | none => (k, bad)
    | some h =>
      CtxClass.deliver n <| CtxClass.accept
        ({ k with
           heldCells := k.heldCells.filter fun h => h.1 ≠ k.rxSeq
           rxSeq := (k.rxSeq + 1) % 2 ^ 48, ackDue := true }, bad) h.2

/-! ### Ports -/

/-- R374: requeues a port's unacknowledged and waiting cells on the other UP ports of its group. -/
def State.requeue (s : State) (p : Nat) : State :=
  let x := s.port p
  let cells := (x.retry.map fun r => r.2.2).filter (fun c => !c.gone) ++ x.tx
  let s := s.modPort p fun x => { x with retry := [], tx := [] }
  s.forAll cells fun s c =>
    match ((s.portGroup (p / 8)).filter fun q => (s.port q).usable && q ≠ p) with
    | [] => s
    | _ =>
      match s.bestPort (p / 8) with
      | some q => if q = p then s else s.dealAgain q c
      | none => s

/-- R374: both ends discard the retry state when a port leaves UP; LSN numbering starts again at 0. -/
def Port.cleared (x : Port) : Port :=
  { x with
    retry := [], tx := [], txLsn := 0, rxLsn := 0, credTotal := [], credUsed := [], granted := [], lnakAt := none, turn := 0
    waited := [], stalled := false }

/-- The lifetime counters of a port (R535). -/
def State.portLife (s : State) (p : Nat) (f : PortLife → PortLife) : State :=
  { s with life := { s.life with ports := smod {} s.life.ports p f } }

/-- A resend on a port is counted. -/
def State.countResend (s : State) (p : Nat) : State :=
  (s.modPort p fun x => { x with resends := satAdd 16 x.resends 1 }).portLife p fun l =>
    { l with resends := satAdd 64 l.resends 1 }

/-- An entry into DOWN is counted. -/
def State.countDown (s : State) (p : Nat) : State :=
  (s.modPort p fun x => { x with downs := satAdd 16 x.downs 1 }).portLife p fun l => { l with downs := satAdd 32 l.downs 1 }

/-- R374, R375: an UP port goes DOWN. -/
def State.portDown (s : State) (p : Nat) : State :=
  if (s.port p).state = .up then
    let s := (s.modPort p fun x => { x with state := .down }).countDown p
    let s := s.requeue p
    s.modPort p Port.cleared
  else s

/-- R364: a port starts to train from T1; none of a self-fenced module (R435). -/
def State.startTraining (s : State) (p : Nat) : State :=
  if s.recov.selfFenced then s
  else
    let s := if (s.port p).state = .up then
        (s.modPort p fun x => { x with state := .training }).requeue p
      else s
    s.modPort p fun x => { x.cleared with state := .training, phase := 1 }

/-- R370, R376: CLAIM of the LIVE words. -/
def State.claims (s : State) : Bool := s.idAssigned && !s.recov.awaitRejoin

/-- R370: sends a LIVE word. -/
def State.sendLive (s : State) (p : Nat) : State :=
  s.sendControl p 1 (s.selfId + (p / 8) * 2 ^ 12 + p * 2 ^ 15 + b2n s.claims * 2 ^ 23 + s.fuses.part.toNat * 2 ^ 24)

/-- R373: the hop credits that the module grants at link up: bulk, control, sync, husk, management.
(DEDUCED, log entry 52) -/
def linkGrant : Sparse Nat := [(0, 128), (1, 16), (2, 16), (3, 64), (4, 8)]

/-- R369, R370: the running totals of hop credits as an LCREDIT body, modulo 256 each. -/
def Port.creditBody (x : Port) : Nat :=
  ((List.range 5).map fun c => (sget 0 x.granted c % 256) * 2 ^ (8 * c)).sum

/-- R369, R373: grants or returns hop credits of a class and sends the running totals. A cell's buffer is free once the hop
has accepted it. (DEDUCED, log entry 52) -/
def State.returnHop (s : State) (p cls : Nat) : State :=
  let s := s.modPort p fun x => { x with granted := smod 0 x.granted cls (· + 1) }
  s.sendControl p 4 (s.port p).creditBody

/-- R373: the grants at link up. -/
def State.grantLink (s : State) (p : Nat) : State :=
  let s := s.modPort p fun x => { x with granted := linkGrant }
  s.sendControl p 4 (s.port p).creditBody

/-- R365: a failed training; the third in a row leaves the port FAILED. -/
def State.trainFail (s : State) (p : Nat) : State :=
  (s.portLife p fun l => { l with trainFails := satAdd 32 l.trainFails 1 }).modPort p fun x =>
    if x.trainFails + 1 < 3 then { x with trainFails := x.trainFails + 1, phase := 1 }
    else { x with trainFails := 3, phase := 0, state := .failed, retrain := false }

/-- R367, R369: a link control word is sound: hop word check, body check, FTYPE 0. -/
def wordSound (w : Nat) : Bool :=
  let bs := leBytes 32 w
  crc16 (bs.take 6) == bits w 63 48 && crc16 ((bs.drop 8).take 22) == bits w 255 240

/-- R390: FTYPE, LCTYPE and reserved fields of a link control word of a type; `used` masks the body bits in use. -/
def wordFields (w lctype top : Nat) : Bool :=
  bits w 2 0 == 0 && bits w 15 4 == 0 && bits w 47 28 == 0 && bits w 71 64 == lctype && bits w 239 top == 0

/-- R371: cells covered by a cumulative acknowledgement leave the retry buffer. -/
def State.lackCells (s : State) (p lack : Nat) : State :=
  match (s.port p).retry with
  | [] => s
  | (l, _, _) :: _ =>
    let n := seqAhead 12 l lack
    if n ≤ (s.port p).retry.length then
      let s := s.modPort p fun x => { x with retry := x.retry.drop n }
      State.pumpPort p ((s.port p).tx.length) s
    else s

/-- Receives a sound link control word: its hop acknowledgement, then its effect; a bad field counts in HDR_ERR. -/
def State.controlWord (s : State) (p : Nat) (word : BitVec 256) (lctype top : Nat) (eff : State → Nat → State) : State :=
  let w := word.toNat
  if (s.port p).state ≠ .up ∧ ¬((s.port p).state = .training ∧ (s.port p).phase = 4) then s
  else if !wordSound w then s
  else if !wordFields w lctype top then s.modMlv fun m => { m with hdrErr := satAdd 16 m.hdrErr 1 }
  else
    let s := if bit w 3 then s.lackCells p (bits w 27 16) else s
    eff s w

/-- R370, R364: the first valid LIVE brings the port UP. -/
def State.liveWord (s : State) (p w : Nat) : State :=
  s.modPort p fun x =>
    let x := { x with peerId := bits w 83 72, peerPort := bits w 94 87 }
    if x.state = .training ∧ x.phase = 4 then
      { x with
        state := .up, phase := 0, stalled := false, trainFails := 0, retrain := false
        retry := [], txLsn := 0, rxLsn := 0, lnakAt := none }
    else x

/-- R369, R373: running totals of hop credits. -/
def State.creditWord (s : State) (p w : Nat) : State :=
  let totals : List (Nat × Nat) :=
    [(0, bits w 79 72), (1, bits w 87 80), (2, bits w 95 88), (3, bits w 103 96), (4, bits w 111 104)]
  let enter (m : Sparse Nat) (c : Nat × Nat) : Sparse Nat := smod 0 m c.1 fun t => t + (c.2 + 256 - t % 256) % 256
  let s := s.modPort p fun x => { x with credTotal := totals.foldl enter x.credTotal }
  State.pumpPort p ((s.port p).tx.length) s

/-- The retry buffer reaches to an LSN: it holds that cell, or every cell before it (R371, R372). -/
def Port.keeps (x : Port) (lsn : Nat) : Bool :=
  match x.retry with
  | [] => false
  | (l, _, _) :: _ => decide (seqAhead 12 l lsn ≤ x.retry.length)

/-- R372: go-back-N: cells before NLSN are acknowledged and the rest are resent; a cell resent for the eighth time on
the port makes it go DOWN. An NLSN to which the retry buffer does not reach is not acted on (DEDUCED, log entry 189). -/
def State.resendFrom (s : State) (p nlsn : Nat) : State :=
  if (s.port p).keeps nlsn = false then s
  else
    let s := s.lackCells p nlsn
    let x := s.port p
    let s := s.forAll x.retry fun s r => s.emit (.cell p r.1 r.2.2 (x.cellFrame r.1 r.2.2))
    let s := s.modPort p fun x =>
      { x with retry := x.retry.map fun r => (r.1, r.2.1 + 1, r.2.2) }
    let s := s.countResend p
    if (s.port p).retry.any fun r => 9 ≤ r.2.1 then s.portDown p else s

/-! ### Receiving a cell (R390) -/

/-- R385, R542: valid MSG codes for a class and PAY. -/
def msgValid (cls msg : Nat) (pay : Bool) : Bool :=
  if msg = 0 ∨ msg = 1 then !pay
  else pay && match cls with
    | 0 => 0x10 ≤ msg && msg ≤ 0x14
    | 1 => 0x20 ≤ msg && msg ≤ 0x23
    | 2 => msg = 0x30 || msg = 0x31
    | 3 => 0x40 ≤ msg && msg ≤ 0x48
    | 4 => 0x50 ≤ msg && msg ≤ 0x52
    | _ => false

/-- The context joined to a partner's Keeper at a local Keeper. -/
def State.ctxOf (s : State) (kpr partner partnerKpr : Nat) : Option Nat :=
  (s.mlv.ctxs.find? fun c =>
    c.2.state ≠ .closed && c.2.kpr == kpr && c.2.partner == partner && c.2.partnerKpr == partnerKpr).map (·.1)

/-- The context that carries a Keeper pair's traffic: a bypass context carries fence and admission notices only (R432). -/
def State.trafficCtx (s : State) (kpr partner partnerKpr : Nat) : Option Nat :=
  (s.ctxOf kpr partner partnerKpr).filter fun i => (s.ctx i).role ≠ 1

/-- R372: a discarded cell is answered with LNAK of the expected LSN, at most once per 0.25 µs (1,800 periods of the root
clock) until that LSN arrives. -/
def State.lnak (s : State) (p : Nat) : State :=
  let due := match (s.port p).lnakAt with
    | none => true
    | some t => decide (t + 1800 ≤ s.clk.rootTime)
  if due then (s.sendControl p 3 (s.port p).rxLsn).modPort p fun x => { x with lnakAt := some s.clk.rootTime } else s

/-- R390: a context that sees 16 credit violations within 1 ms is FENCED and reported. -/
def State.creditViolation (s : State) (i : Nat) : State :=
  let s := s.modMlv fun m => { m with creditViol := satAdd 16 m.creditViol 1 }
  let recent := (s.clk.rootTime :: (s.ctx i).violations).filter fun t => s.clk.rootTime ≤ t + 7200000
  let s := s.modCtx i fun c => { c with violations := recent }
  if 16 ≤ recent.length then (s.dropCtx i .fenced).emit (.report (0x40000 + (s.ctx i).kpr) 2) else s

/-- R379, R390: a cell of a class reaches its context; with whether it is kept, so that its other fields count too: not those of a data
cell that does not follow its head. -/
def State.placeCell (s : State) (i cls seq msg : Nat) (payload : List Byte) : State × Bool :=
  let k := (s.ctx i).cls cls
  let d := seqAhead 48 k.rxSeq seq
  if d < 1024 then
    if k.heldCells.any fun h => h.1 == seq then (s.modMlv fun m => { m with dups := satAdd 16 m.dups 1 }, false)
    else if (s.ctx i).grant cls ≤ k.spent then (s.creditViolation i, false)
    else
      let cell : TxCell := { cls := cls, msg := msg, seq := seq, payload := payload, ctx := i }
      let m := k.message
      let (k, bad) := CtxClass.deliver 1024
        ({ k with spent := k.spent + 1, heldCells := sset ⟨0, 0, 0, [], 0, 0, 0, false⟩ k.heldCells seq cell }, 0)
      let stray : Bool := d == 0 && dataMsgs.contains msg && !(msg == m.code && m.due ≠ some 0)
      ((s.modCtx i fun c => c.modCls cls fun _ => k).forAll (List.range bad) fun s _ => s.msgError i, !stray)
  else if 2 ^ 47 ≤ d then
    ((s.modMlv fun m => { m with dups := satAdd 16 m.dups 1 }).sendNullCell i cls 0, false)
  else (s.modMlv fun m => { m with hdrErr := satAdd 16 m.hdrErr 1 }, false)

/-- R390: the ACK and CREDIT fields of a cell that passed every other check. -/
def State.ackFields (s : State) (i h : Nat) : State :=
  if bits h 217 215 < 5 then s.ackCells i (bits h 217 215) (bits h 213 166) (bit h 214) (bits h 223 218)
  else s.modMlv fun m => { m with hdrErr := satAdd 16 m.hdrErr 1 }

/-- R390: the checks of a received cell after its link checks; `h` is the frame's first 32 bytes. -/
def State.checkCell (s : State) (p h : Nat) (payload : List Byte) : State :=
  let cls := bits h 66 64
  let pay := bit h 67
  let msg := bits h 75 68
  if bits h 2 0 ≠ 1 ∨ bits h 47 28 ≠ 0 ∨ 5 ≤ cls ∨ decide (payload.length = 512) ≠ pay then
    s.modMlv fun m => { m with hdrErr := satAdd 16 m.hdrErr 1 }
  else if bits h 87 76 ≠ s.selfId ∨ bits h 90 88 ≠ p / 8 then
    s.modMlv fun m => { m with misrouted := satAdd 16 m.misrouted 1 }
  else
    let src := bits h 102 91
    let srcK := bits h 105 103
    if msg = 1 then
      match s.ctxOf (p / 8) src srcK with
      | none => s.modMlv fun m => { m with ctxErr := satAdd 16 m.ctxErr 1 }
      | some i =>
        if pay then s.modMlv fun m => { m with hdrErr := satAdd 16 m.hdrErr 1 }
        else s.receiveHello i (bits h 145 130) (bits h 129 118)
    else
      let i := bits h 117 106
      let c := s.ctx i
      if c.state ≠ .opened ∨ c.partner ≠ src ∨ c.partnerKpr ≠ srcK ∨ c.kpr ≠ p / 8 then
        s.modMlv fun m => { m with ctxErr := satAdd 16 m.ctxErr 1 }
      else if !msgValid cls msg pay then s.modMlv fun m => { m with hdrErr := satAdd 16 m.hdrErr 1 }
      else
        let (s, kept) := if msg = 0 then (s, true) else s.placeCell i cls (bits h 165 118) msg payload
        if kept then s.ackFields i h else s

/-- R392: corrected codewords of the last 1 ms, which is 7,200,000 periods of the root clock.
(DESIGN CHOICE, log entry 53) -/
def Port.recentSymbols (x : Port) (now : Nat) : List (Nat × Nat) := x.symbols.filter fun e => now ≤ e.1 + 7200000

/-- R372, R390: a frame reaches an UP port: the FEC, hop word, end-to-end and LSN checks. A cell that passes them is
accepted at the hop: the next LSN is expected (DEDUCED, log entry 32).
(DESIGN CHOICE, log entry 110) -/
def State.receiveCell (s : State) (p symbols : Nat) (correctable : Bool) (frame : List Byte) : State :=
  if (s.port p).state ≠ .up then s
  else if !correctable then
    ((s.modPort p fun x => { x with fecUncorrectable := satAdd 16 x.fecUncorrectable 1 }).portLife p fun l =>
      { l with uncorrectable := satAdd 64 l.uncorrectable 1 }).lnak p
  else
    let s := if symbols = 0 then s else
      (s.modPort p fun x =>
        { x with
          fecCorrected := satAdd 32 x.fecCorrected 1
          symbols := (s.clk.rootTime, min 15 symbols) :: x.recentSymbols s.clk.rootTime }).portLife p fun l =>
            { l with corrected := satAdd 64 l.corrected 1 }
    let h := leNat (frame.take 32)
    let payload := frame.drop 32
    if crc16 (frame.take 6) ≠ bits h 63 48 ∨ (frame.length ≠ 32 ∧ frame.length ≠ 544)
        ∨ crc32c ((frame.drop 8).take 20 ++ payload) ≠ bits h 255 224 then s.lnak p
    else
      let d := seqAhead 12 (s.port p).rxLsn (bits h 15 4)
      if d ≠ 0 then (if 2048 ≤ d then s else s.lnak p)
      else
        let s := s.modPort p fun x => { x with rxLsn := (x.rxLsn + 1) % 4096, lnakAt := none }
        let s := if bit h 3 then s.lackCells p (bits h 27 16) else s
        let s := if bits h 2 0 = 1 ∧ bits h 66 64 < 5 then s.returnHop p (bits h 66 64) else s
        s.checkCell p h payload

/-! ### Meanings of the port and cell rows -/

/-- R364: a training phase ends within its limit; the precoder is chosen in T2, by the receiver (a free value, log
entry 33); T4 starts the framed stream. (DESIGN CHOICE, log entry 33) -/
def execTrainingPhaseDone (port : Nat) (s : State) : Host.Outcome State Fault Refusal :=
  .next (
    let x := s.port port
    if x.state ≠ .training ∨ 4 ≤ x.phase ∨ x.phase = 0 then s
    else
      let (v, s) := if x.phase = 2 then s.draw else (0, s)
      let s := s.modPort port fun x =>
        { x with phase := x.phase + 1, precode := if x.phase = 2 then v.getLsbD 0 else x.precode }
      if x.phase = 3 then (s.sendLive port).grantLink port else s)

def execTrainingTimeout (port : Nat) (s : State) : Host.Outcome State Fault Refusal :=
  .next (if (s.port port).state = .training then s.trainFail port else s)

/-- R364: 100 µs after it went DOWN a port trains again. -/
def execDownRetrain (port : Nat) (s : State) : Host.Outcome State Fault Refusal :=
  .next (if (s.port port).state = .down then s.startTraining port else s)

def execLive (port : Nat) (word : BitVec 256) (s : State) : Host.Outcome State Fault Refusal :=
  .next (s.controlWord port word 1 105 fun s w => s.liveWord port w)

def execLack (port : Nat) (word : BitVec 256) (s : State) : Host.Outcome State Fault Refusal :=
  .next (s.controlWord port word 2 72 fun s _ => s)

def execLnak (port : Nat) (word : BitVec 256) (s : State) : Host.Outcome State Fault Refusal :=
  .next (s.controlWord port word 3 84 fun s w => s.resendFrom port (bits w 83 72))

def execLcredit (port : Nat) (word : BitVec 256) (s : State) : Host.Outcome State Fault Refusal :=
  .next (s.controlWord port word 4 112 fun s w => s.creditWord port w)

def execLiveSend (port : Nat) (s : State) : Host.Outcome State Fault Refusal :=
  .next (
    let x := s.port port
    if x.state = .up ∨ (x.state = .training ∧ x.phase = 4) then s.sendLive port else s)

/-- R371: an LACK word has no body; its hop word carries the next LSN expected. -/
def execLackSend (port : Nat) (s : State) : Host.Outcome State Fault Refusal :=
  .next (if (s.port port).state = .up then s.sendControl port 2 0 else s)

def execPortDown (port : Nat) (s : State) : Host.Outcome State Fault Refusal := .next (s.portDown port)

/-- R374: LACK has not advanced for 2 µs while cells are outstanding. -/
def execPortStall (port : Nat) (s : State) : Host.Outcome State Fault Refusal :=
  .next (
    let x := s.port port
    if x.state = .up ∧ x.stalled = false ∧ x.retry ≠ [] then
      let s := s.modPort port fun x => { x with stalled := true }
      (s.countResend port).requeue port
    else s)

/-- R374: valid frames still arrive 8 µs after the stall began. -/
def execStallRetrain (port : Nat) (s : State) : Host.Outcome State Fault Refusal :=
  .next (
    let x := s.port port
    if x.state = .up ∧ x.stalled = true then
      (s.startTraining port).countDown port
    else s)

def execAckSend (ctx cls : Nat) (s : State) : Host.Outcome State Fault Refusal :=
  .next (
    let k := (s.ctx ctx).cls cls
    if (s.ctx ctx).state = .opened ∧ (k.ackDue = true ∨ 0 < k.owed) then s.sendAck ctx cls else s)

/-- R383: the cell and every later unacknowledged one of its class go out again on another UP port of the group, at most
three times. -/
def execCellResend (ctx cls seq port : Nat) (s : State) : Host.Outcome State Fault Refusal :=
  .next (
    let c := s.ctx ctx
    let k := c.cls cls
    let later := k.unacked.dropWhile fun x => x.seq ≠ seq
    if c.state = .opened ∧ later ≠ [] ∧ k.resends < 3 ∧ (s.port port).usable = true ∧ later.head?.map (·.port) ≠ some port
        ∧ (s.portGroup c.kpr).contains port = true then
      let s := s.modCtx ctx fun c => c.modCls cls fun k => { k with resends := k.resends + 1 }
      let s := s.modMlv fun m => { m with retransmits := satAdd 16 m.retransmits later.length }
      s.forAll later fun s x => s.dealAgain port x
    else s)

/-- R432: a WATCH context that has sent nothing for 1 µs sends a NULL. -/
def execWatchNull (ctx : Nat) (s : State) : Host.Outcome State Fault Refusal :=
  .next (if (s.ctx ctx).state = .opened ∧ (s.ctx ctx).watch = true then s.sendAck ctx 0 else s)

end Sys2Proof.Machine
end

