-- ==== Sys2Proof/Machine/Flags.lean ====
section
/-! DEFINITION. A station's flags and counters: NONFINITE, SATURATE and their sticky and eval forms (R69, R70), and the
accumulator counters (R107). -/

namespace Sys2Proof.Machine

/-- Training scripts are MICRO and TAIL. -/
def Script.training : Script → Bool
  | .micro => true | .tail => true | _ => false

/-- SCRIPT codes of R140. -/
def Script.code : Script → Nat
  | .none => 0 | .micro => 1 | .tail => 2 | .eval => 3

/-- R69, R70: an event that meets a NaN or an infinity on stream `id` (0xFFFE for a slot or a bank). -/
def Flags.raiseNonfinite (f : Flags) (sc : Script) (id : Nat) : Flags :=
  if sc = .eval then { f with evalNonfinite := true }
  else
    { f with
      nonfinite := true, stickyNonfinite := true
      firstStream := if f.nonfinite then f.firstStream else id }

/-- R69: a conversion that replaced a finite value by the largest finite one. -/
def Flags.raiseSaturate (f : Flags) (sc : Script) : Flags :=
  if sc.training then { f with saturate := true, stickySaturate := true } else f

/-- R69, R107: what the first training-script operation of a step clears. -/
def Flags.beginStep (f : Flags) : Flags :=
  { f with
    nonfinite := false, saturate := false, firstStream := 0
    folds := 0, lifts := 0, inexact := false, loss := false, anchorOverflow := false }

/-- R107: a tile status record passes an epilogue in a training script. -/
def Flags.addRecord (f : Flags) (sc : Script) (r : TileRec) : Flags :=
  if sc.training then
    { f with
      folds := satAdd 32 f.folds r.folds
      lifts := satAdd 16 f.lifts r.liftsTotal
      inexact := f.inexact || r.inexact
      loss := f.loss || r.loss
      stickyLoss := f.stickyLoss || r.loss }
  else f

/-- R101, R107: a refused lift counts as producing an infinity, and sets ANCHOR_OVERFLOW for training scripts. FIRST_STREAM
notes 0xFFFE for it (DEDUCED, log entry 58). -/
def Flags.refusedLift (f : Flags) (sc : Script) : Flags :=
  let f := f.raiseNonfinite sc 0xFFFE
  if sc.training then { f with anchorOverflow := true } else f

/-- Applies the flags of a converted result written under a stream identifier. -/
def Flags.ofResult (f : Flags) (sc : Script) (id : Nat) (nonfinite saturate : Bool) : Flags :=
  let f := if nonfinite then f.raiseNonfinite sc id else f
  if saturate then f.raiseSaturate sc else f

/-- CORE_CONV_STATUS (R70). -/
def Flags.convStatus (f : Flags) : Nat :=
  b2n f.nonfinite + 2 * b2n f.saturate + 4 * b2n f.evalNonfinite + 8 * b2n f.stickyNonfinite
    + 16 * b2n f.stickySaturate + f.firstStream * 2 ^ 16

/-- CORE_ACC_STATUS (R107). -/
def Flags.accStatus (f : Flags) : Nat :=
  f.folds + f.lifts * 2 ^ 32 + b2n f.inexact * 2 ^ 48 + b2n f.loss * 2 ^ 49 + b2n f.stickyLoss * 2 ^ 50
    + b2n f.anchorOverflow * 2 ^ 51

/-- R15, R70: a write of ones clears the W1C bits of CORE_CONV_STATUS. -/
def Flags.clearConv (f : Flags) (v : Nat) : Flags :=
  { f with
    evalNonfinite := f.evalNonfinite && !bit v 2
    stickyNonfinite := f.stickyNonfinite && !bit v 3
    stickySaturate := f.stickySaturate && !bit v 4 }

/-- R107: a write of 1 clears STICKY_LOSS. -/
def Flags.clearAcc (f : Flags) (v : Nat) : Flags := { f with stickyLoss := f.stickyLoss && !bit v 50 }

end Sys2Proof.Machine
end

