-- ==== Sys2Proof/Machine/Sched.lean ====
section
/-! DEFINITION. The station scheduler's view of an operation: its fields (R160 to R167), the shape and parts of its
operands (R562, R563), what it reads and writes, readiness (R173), choice (R174), streams and credits (R156, R157). -/

namespace Sys2Proof.Machine

def State.modCore (s : State) (st : Nat) (f : Core → Core) : State := s.modStation st fun x => { x with core := f x.core }

/-! ### Fields of an operation -/

def opCode (op : Nat) : Nat := bits op 4 0
def opDefer (op : Nat) : Bool := bit op 5
def opHold (op : Nat) : Bool := bit op 6
def opStepAcc (op : Nat) : Bool := bit op 7

/-- Units of R170. -/
inductive HwUnit where
  | array | epilogue | mover | vector | function | control
  deriving DecidableEq, Repr

def opUnit (op : Nat) : HwUnit :=
  match opCode op with
  | 0x01 => .array
  | 0x02 => .epilogue | 0x09 => .epilogue
  | 0x03 => .mover | 0x04 => .mover | 0x05 => .mover | 0x06 => .mover
  | 0x07 => .vector | 0x0A => .vector
  | 0x08 => .function
  | _ => .control

/-- TMUL fields (R164). -/
def tmM (op : Nat) : Nat := bits op 17 8 + 1
def tmN (op : Nat) : Nat := bits op 27 18 + 1
def tmK (op : Nat) : Nat := bits op 52 28
def tmFold (op : Nat) : Nat := bits op 55 53
def tmFlock (op : Nat) : Bool := bit op 56
def tmCont (op : Nat) : Bool := bit op 57
def tmAnchor (op : Nat) : Nat := bits op 67 58
def tmGuard (op : Nat) : Nat := bits op 71 68
def tmAcc (op : Nat) : Nat := bits op 83 72
def tmA (op : Nat) : Ref := Ref.decode (bits op 105 84)
def tmB (op : Nat) : Ref := Ref.decode (bits op 127 106)

/-- TEPI fields (R166). -/
def teAcc (op : Nat) : Nat := bits op 19 8
def teOut (op : Nat) : Ref := Ref.decode (bits op 41 20)
def teC (op : Nat) : Ref := Ref.decode (bits op 63 42)
def teFuse (op : Nat) : Nat := bits op 65 64
def teFlock (op : Nat) : Bool := bit op 66
def teSA (op : Nat) : Nat := bits op 77 68
def teSB (op : Nat) : Nat := bits op 87 78
def teSO (op : Nat) : Nat := bits op 97 88

/-- Fields of the other operations (R167). -/
def opSub (op : Nat) : Nat := bits op 15 8
def opDst (op : Nat) : Ref := Ref.decode (bits op 37 16)
def opSrc1 (op : Nat) : Ref := Ref.decode (bits op 59 38)
def opSrc2 (op : Nat) : Ref := Ref.decode (bits op 81 60)
def opSrc3 (op : Nat) : Ref := Ref.decode (bits op 103 82)
def opCount (op : Nat) : Nat := bits op 119 104 + 1
def opAux (op : Nat) : Nat := bits op 113 104
def opVop (op : Nat) : Nat := bits op 13 8

/-- The accumulator tile that an operation names, if any. -/
def opAcc (op : Nat) : Option Nat :=
  match opCode op with
  | 0x01 => some (tmAcc op)
  | 0x02 => some (teAcc op)
  | 0x09 =>
    match (if bit op 8 then opDst op else opSrc1 op) with
    | .acc t => some t
    | _ => none
  | _ => none

/-! ### Flocks (R123, R165) -/

def Part.flock (x : Part) (i : Nat) : Nat := (x.sec 0x08).getD i 0
def lambByte (e i : Nat) : Nat := bits e (8 * i + 7) (8 * i)
def lambPresent (e i : Nat) : Bool := bit (lambByte e i) 7
def flockRetry (e : Nat) : Bool := bit e 128
def lambTile (e i : Nat) : Nat := bits e (256 + 128 * i + 127) (256 + 128 * i)
def lambs (e : Nat) : List Nat := (List.range 16).filter (lambPresent e)
def ltM (t : Nat) : Nat := bits t 4 0 + 1
def ltN (t : Nat) : Nat := bits t 9 5 + 1
def ltK (t : Nat) : Nat := bits t 34 10
def ltAnchor (t : Nat) : Nat := bits t 44 35
def ltGuard (t : Nat) : Nat := bits t 48 45
def ltA (t : Nat) : Nat := bits t 64 49
def ltB (t : Nat) : Nat := bits t 80 65
def ltOut (t : Nat) : Nat := bits t 96 81

/-- R124: rows and columns of a lamb shape in cells. -/
def lambShape : Nat → Nat × Nat
  | 0 => (8, 8) | 1 => (16, 8) | 2 => (8, 16) | 3 => (16, 16) | 4 => (32, 16) | 5 => (16, 32) | _ => (32, 32)

/-! ### Formats of a TMUL (R98, R113) -/

def Fmt.wide (f : Fmt) : Bool := f = .bf16 || f = .fp16
def Fmt.narrow (f : Fmt) : Bool := f = .fp4 || f = .e2m3 || f = .e3m2

def Part.descOf (x : Part) (st : Nat) (r : Ref) : Desc :=
  match x.space st r with
  | some sp => sp.desc
  | none => Desc.decode 8

/-- R98, R113: a TMUL gangs where an operand has a 16-bit format. -/
def Part.tmulGang (x : Part) (st op : Nat) : Bool :=
  if tmFlock op then
    (lambs (x.flock (tmM op - 1))).any fun i =>
      let t := lambTile (x.flock (tmM op - 1)) i
      (x.descOf st (.stream (ltA t))).fmt.wide || (x.descOf st (.stream (ltB t))).fmt.wide
  else (x.descOf st (tmA op)).fmt.wide || (x.descOf st (tmB op)).fmt.wide

/-- ρ of R113. -/
def rho (a b : Fmt) : Nat := if a.narrow && b.narrow then 2 else 1

/-! ### The TMUL whose layout an epilogue reads -/

/-- The last TMUL on an accumulator tile in a list of operations. -/
def lastTmul (acc : Nat) (ops : List Nat) : Option Nat :=
  ops.reverse.find? fun o => opCode o == 1 && tmAcc o == acc

/-- The TMULs that may be the last on an accumulator tile before an operation: earlier in its script, else in the scripts
fetched before it: MICRO before TAIL; MICRO's own former round, or TAIL and EVAL of former steps, before MICRO. -/
def Part.layoutOps (x : Part) (st : Nat) (sc : Script) (idx acc : Nat) : List Nat :=
  match lastTmul acc ((x.script st sc).take idx) with
  | some o => [o]
  | none =>
    let last := fun (s : Script) => (lastTmul acc (x.script st s)).toList
    match sc with
    | .micro => last .micro ++ last .tail ++ last .eval
    | .tail => if last .micro = [] then last .tail ++ last .eval else last .micro
    | .eval => last .eval ++ (if last .tail = [] then last .micro else last .tail)
    | .none => []

/-- The nearest of them in script order. -/
def Part.layoutOp (x : Part) (st : Nat) (sc : Script) (idx acc : Nat) : Option Nat := (x.layoutOps st sc idx acc).head?

/-- R114: two TMULs have one logical tile, or one flock layout with the lambs' logical tiles. -/
def Part.sameTile (x : Part) (a b : Nat) : Bool :=
  tmFlock a == tmFlock b &&
    (if tmFlock a then
      let e := x.flock (tmM a - 1)
      let f := x.flock (tmM b - 1)
      bits e 128 0 == bits f 128 0 && (lambs e).all fun i => bits (lambTile e i) 34 0 == bits (lambTile f i) 34 0
    else tmM a == tmM b && tmN a == tmN b && tmK a == tmK b)

/-! ### Shapes and parts (R563) -/

/-- Which operands a VOP reads element by element besides SRC1. -/
def vopFull (v : Nat) : Nat := if 1 ≤ v ∧ v ≤ 6 then (if v = 4 then 2 else 1) else 0
def vopReduce (v : Nat) : Bool := 8 ≤ v && v ≤ 10
def vopRow (v : Nat) : Bool := v = 11 || v = 12
def vopCol (v : Nat) : Bool := v = 13 || v = 14

/-- The full operands of TVEC, TFUN and TSCALE in the order DST, SRC1, SRC2, SRC3. -/
def fullOperands (op : Nat) : List Ref :=
  match opCode op with
  | 0x07 =>
    let v := opVop op
    (if vopReduce v then [] else [opDst op]) ++ [opSrc1 op]
      ++ (if 1 ≤ vopFull v then [opSrc2 op] else []) ++ (if 2 ≤ vopFull v then [opSrc3 op] else [])
  | 0x0A => (if opDst op = .none then [] else [opDst op]) ++ [opSrc1 op]
  | _ => [opDst op, opSrc1 op]

/-- The operation shape: that of the first full operand that is a stream or a slot, else 1 × E of SRC1's region. -/
def Part.opShape (x : Part) (st op : Nat) : Nat × Nat :=
  match (fullOperands op).find? fun r => match r with | .stream _ => true | .slot _ => true | _ => false with
  | some r => match x.space st r with | some sp => (sp.rows, sp.cols) | none => (1, 1)
  | none => match x.space st (opSrc1 op) with | some sp => (1, sp.elems) | none => (1, 1)

/-- Elements of b of a TVEC. -/
def vecBn (v rows cols : Nat) : Nat := if vopRow v then rows else if vopCol v then cols else rows * cols
/-- Elements of the destination of a TVEC. -/
def vecDn (v rows cols : Nat) : Nat := if vopReduce v then rows else rows * cols

/-! ### What an operation reads and writes -/

/-- A reference with the number of images that are read or written, from the first. -/
structure Access where
  ref : Ref
  first : Nat
  images : Nat
  deriving DecidableEq, Repr

def firstTile : Ref → Nat
  | .bank _ t _ => t
  | _ => 0

/-- `n` elements at a reference. -/
def Part.acc (x : Part) (st : Nat) (r : Ref) (n : Nat) : Access :=
  ⟨r, firstTile r, match x.space st r with | some sp => sp.images n | none => 0⟩

def imgs (r : Ref) (k : Nat) : Access := ⟨r, firstTile r, k⟩

/-- Virtual blocks of the tile an epilogue or a TACC names: NB of its entry (R190). -/
def Part.accNb (x : Part) (st tile : Nat) : Nat :=
  match x.accEntry st tile with
  | some e => bits e 42 32
  | none => 0

/-- Accesses to one stream joined into the longest of them. -/
def joinAccesses (l : List Access) : List Access :=
  l.foldl (fun l a =>
    if l.any (fun b => b.ref == a.ref) then
      l.map fun b => if b.ref = a.ref then { b with images := max b.images a.images } else b
    else l ++ [a]) []

/-- The A and B tiles of a lamb (R126, R165). -/
def Part.lambReads (x : Part) (st t : Nat) : List Access :=
  [x.acc st (.stream (ltA t)) (ltM t * ltK t), x.acc st (.stream (ltB t)) (ltN t * ltK t)]

/-- Streams read by a flock's lambs: each tile of a stream that two lambs name goes to both (R126).
(DEDUCED, log entry 63) -/
def Part.flockReads (x : Part) (st e : Nat) : List Access :=
  joinAccesses ((lambs e).flatMap fun i => x.lambReads st (lambTile e i))

/-- Source operands of an operation with the images it takes (R562, R564). -/
def Part.opReads (x : Part) (st : Nat) (sc : Script) (idx op : Nat) : List Access :=
  match opCode op with
  | 0x01 =>
    if tmFlock op then x.flockReads st (x.flock (tmM op - 1)) ++ [imgs (.acc (tmAcc op)) 1]
    else [x.acc st (tmA op) (tmM op * tmK op), x.acc st (tmB op) (tmN op * tmK op), imgs (.acc (tmAcc op)) 1]
  | 0x02 =>
    imgs (.acc (teAcc op)) 1 ::
      (if teC op = .none then []
       else match x.layoutOp st sc idx (teAcc op) with
        | some t => [x.acc st (teC op) (tmM t * tmN t)]
        | none => [])
  | 0x03 => [imgs (opSrc1 op) (opCount op)]
  | 0x04 => [imgs (opSrc1 op) (opCount op)]
  | 0x05 => [imgs (opSrc1 op) (opCount op)]
  | 0x06 => [imgs (opSrc1 op) (opCount op)]
  | 0x07 =>
    let (r, c) := x.opShape st op
    let v := opVop op
    [x.acc st (opSrc1 op) (r * c)]
      ++ (if opSrc2 op = .none then [] else [x.acc st (opSrc2 op) (vecBn v r c)])
      ++ (if opSrc3 op = .none then [] else [x.acc st (opSrc3 op) (r * c)])
  | 0x08 => let (r, c) := x.opShape st op; [x.acc st (opSrc1 op) (r * c)]
  | 0x0A => let (r, c) := x.opShape st op; [x.acc st (opSrc1 op) (r * c)]
  | 0x09 =>
    if bit op 8 then
      match opDst op with
      | .acc t => [imgs (opSrc1 op) (x.accNb st t)]
      | _ => []
    else [imgs (opSrc1 op) 1]
  | _ => []

/-- Destinations of an operation. -/
def Part.opWrites (x : Part) (st : Nat) (sc : Script) (idx op : Nat) : List Access :=
  match opCode op with
  | 0x01 => [imgs (.acc (tmAcc op)) 1]
  | 0x02 =>
    match x.layoutOp st sc idx (teAcc op) with
    | none => []
    | some t =>
      if teFlock op then
        let e := x.flock (tmM t - 1)
        (lambs e).map fun i => x.acc st (.stream (ltOut (lambTile e i))) (ltM (lambTile e i) * ltN (lambTile e i))
      else [x.acc st (teOut op) (tmM t * tmN t)]
  | 0x03 => [imgs (opDst op) (opCount op)]
  | 0x04 => [imgs (opDst op) (opCount op)]
  | 0x05 => [imgs (opDst op) (opCount op)]
  | 0x06 => [imgs (opDst op) (opCount op)]
  | 0x07 => let (r, c) := x.opShape st op; [x.acc st (opDst op) (vecDn (opVop op) r c)]
  | 0x08 => let (r, c) := x.opShape st op; [x.acc st (opDst op) (r * c)]
  | 0x0A =>
    if opDst op = .none ∨ bit op 9 = false then [] else let (r, c) := x.opShape st op; [x.acc st (opDst op) (r * c)]
  | 0x09 =>
    if bit op 8 then [imgs (opDst op) 1]
    else match opSrc1 op with
      | .acc t => [imgs (opDst op) (x.accNb st t)]
      | _ => []
  | _ => []

/-- The stream that an operation writes has BUCKET set (R146). -/
def Part.toBucket (x : Part) (st : Nat) (sc : Script) (idx op : Nat) : Bool :=
  (x.opWrites st sc idx op).any fun a =>
    match a.ref with
    | .stream id => match x.stream id with | some e => sdBucket e | none => false
    | _ => false

/-- R146: an operation towards a bucket stream runs only in the last micro-step, and in TAIL, which follows it; in EVAL it
never runs (DEDUCED, log entry 172). -/
def Part.skips (x : Part) (st : Nat) (probe : Bool) (e : OpEntry) : Bool :=
  x.toBucket st e.script e.index e.op.toNat &&
    (match e.script with
     | .micro => probe || e.micro + 1 ≠ x.micro
     | .tail => false
     | _ => true)

def Part.reads (x : Part) (st : Nat) (probe : Bool) (e : OpEntry) : List Access :=
  if x.skips st probe e then [] else x.opReads st e.script e.index e.op.toNat
def Part.writes (x : Part) (st : Nat) (probe : Bool) (e : OpEntry) : List Access :=
  if x.skips st probe e then [] else x.opWrites st e.script e.index e.op.toNat

/-- The micro-step under which an entry keys its random bits (R145, R146). -/
def Part.keyMicro (x : Part) (st : Nat) (e : OpEntry) : Nat :=
  if x.toBucket st e.script e.index e.op.toNat then 0xFFFF else e.micro

/-- Inbound tiles that an entry consumes, by stream; none with HOLD (R177). Two operands that name one stream read the
same tiles, which are taken once (DESIGN CHOICE, log entry 151). -/
def Part.takes (x : Part) (st : Nat) (probe : Bool) (e : OpEntry) : List (Nat × Nat) :=
  if opHold e.op.toNat then []
  else (joinAccesses ((x.reads st probe e).filter fun a => match a.ref with | .stream _ => true | _ => false)).filterMap
    fun a => match a.ref with | .stream id => some (id, a.images) | _ => none

/-- R173: tiles of a stream taken by earlier unretired operations. -/
def Part.takenBefore (x : Part) (st : Nat) (c : Core) (id stream : Nat) : Nat :=
  (c.queue.filter fun e => e.id < id).foldl
    (fun n e => n + ((x.takes st c.probe e).filter fun t => t.1 == stream).foldl (fun m t => m + t.2) 0) 0

/-- R173: two references match. -/
def Access.meets (a b : Access) : Bool :=
  match a.ref, b.ref with
  | .slot m, .slot n => m == n
  | .stream m, .stream n => m == n
  | .acc m, .acc n => m == n
  | .bank r _ _, .bank q _ _ => r == q && a.first < b.first + b.images && b.first < a.first + a.images
  | _, _ => false

/-! ### Streams: ends, destinations, credits (R153 to R157) -/

/-- Keys of a stream's destinations: a station address, 0x10000 + k for a Keeper, 0x20000 for a tree, 0x30000 + q
for a host queue. -/
def Part.dests (x : Part) (e : Nat) : List Nat :=
  match sdDstKind e with
  | 0 => [sdDst e]
  | 1 => x.groupMembers (bits (sdDst e) 9 0)
  | 3 => [0x20000]
  | 4 => [0x10000 + sdDst e]
  | _ => [0x30000 + sdDst e]

/-- A stream is inbound at a station: a destination station, a member of the set, or the root of its tree (R154, R233). -/
def Part.inbound (x : Part) (st e : Nat) : Bool :=
  match sdDstKind e with
  | 0 => sdDst e == st
  | 1 => (x.groupMembers (bits (sdDst e) 9 0)).contains st
  | 3 => (x.sec 0x0C).any fun n => bits n 5 0 == sdTree e && bit n 28 && bits n 31 29 == 0 && bits n 47 32 == st
  | _ => false

/-- A stream is outbound at a station: its source, or a contributor of its tree. -/
def Part.outbound (x : Part) (st e : Nat) : Bool :=
  (sdSrcKind e == 0 && sdSrc e == st) ||
    (sdDstKind e == 3 && (x.sec 0x0C).any fun n =>
      bits n 5 0 == sdTree e && (List.range (bits n 26 24 + 1)).any fun i => bits n (16 * i + 79) (16 * i + 64) == st)

/-- Free slots of a host queue, one always staying free (R460; DESIGN CHOICE, log entry 26). -/
def DataQueue.freeSlots (q : DataQueue) : Nat :=
  if q.slots = 0 then 0 else q.slots - 1 - (q.prod + q.slots - q.cons) % q.slots

/-- R235: reserved tiles of a station at its node of a stream's tree. -/
def Part.nodeRoom (x : Part) (st e : Nat) : Nat := ((x.nodeOf (sdTree e) st).map fun n => bits n 199 192).getD (sdCredits e)

def Core.modIn (c : Core) (id : Nat) (f : StreamEnd → StreamEnd) : Core := { c with inb := smod {} c.inb id f }
def Core.modOut (c : Core) (id : Nat) (f : StreamEnd → StreamEnd) : Core := { c with outb := smod {} c.outb id f }

/-- R449: a partition replays a step and records the stream. -/
def Part.records (x : Part) (id : Nat) : Bool :=
  x.replayKey.isSome && (x.recordMask == [] || bit (x.recordMask.getD (id / 8) 0).toNat (id % 8))

/-- R449: the host output queue that takes a partition's recorded tiles: the lowest that the host has created; without one they only show
(DESIGN CHOICE, log entry 220). -/
def State.recordQueue (s : State) (p : Nat) : Option Nat :=
  (List.range 64).find? fun q => (s.dq (64 * p + q)).present && (s.dq (64 * p + q)).output

/-- R449: a tile of a stream passes during a replay that records the stream: it also goes to a host output queue. -/
def State.recordTile (s : State) (p id seq : Nat) (tile : List Byte) : State :=
  if (s.part p).records id then
    match s.recordQueue p with
    | some _ => { s with recov := { s.recov with record := s.recov.record ++ [(id, seq, tile)] } }
    | none => s.emit (.recorded p id seq tile)
  else s

/-- R449: recording holds a stream: as many of its tiles as its CREDITS wait for the host output queue. -/
def State.recordHolds (s : State) (p e : Nat) : Bool :=
  (s.part p).records (bits e 15 0)
    && decide (sdCredits e ≤ (s.recov.record.filter fun r => r.1 == bits e 15 0).length)

/-- Credits that a station holds towards a destination of a stream; of a tree, towards its node (R156, R235). -/
def State.credits (s : State) (p st e dest : Nat) : Nat :=
  let used := sget 0 (sget {} (s.station st).core.outb (bits e 15 0)).used dest
  let cap := match sdDstKind e with
    | 5 => min (sdCredits e) (s.dq (64 * p + sdDst e)).freeSlots
    | 3 => (s.part p).nodeRoom st e
    | _ => sdCredits e
  cap - used

def State.hasCredit (s : State) (p st e : Nat) : Bool :=
  !s.recordHolds p e && ((s.part p).dests e).all fun d => 0 < s.credits p st e d

/-- Sends the oldest waiting tiles of an outbound stream, each for one credit at every destination, numbered
consecutively modulo 2^48 (R156, R157). A contribution that its node already holds is not sent and takes no credit
(R399). `n` bounds the tiles. -/
def State.sendTiles (p st e : Nat) : Nat → State → State
  | 0, s => s
  | n + 1, s =>
    let id := bits e 15 0
    let o := sget {} (s.station st).core.outb id
    match o.unsent with
    | [] => s
    | t :: rest =>
      if o.seq < o.suppress then
        State.sendTiles p st e n
          (s.modCore st fun c => c.modOut id fun o => { o with unsent := rest, seq := (o.seq + 1) % 2 ^ 48 })
      else if s.hasCredit p st e then
        let dests := (s.part p).dests e
        let x := s.part p
        let s := (s.emit (.tile st id o.seq t (x.tileHeader e st o.seq t.length))).recordTile p id o.seq t
        let s := s.modCore st fun c => c.modOut id fun o =>
          { o with
            unsent := rest
            seq := (o.seq + 1) % 2 ^ 48
            used := dests.foldl (fun u d => sset 0 u d (sget 0 u d + 1)) o.used }
        State.sendTiles p st e n s
      else s

/-- Puts the tiles of a result onto an outbound stream and sends what credits allow. -/
def State.putTiles (s : State) (p st id : Nat) (tiles : List (List Byte)) : State :=
  match (s.part p).stream id with
  | none => s
  | some e =>
    let s := s.modCore st fun c => c.modOut id fun o => { o with unsent := o.unsent ++ tiles }
    State.sendTiles p st e ((sget {} (s.station st).core.outb id).unsent.length) s

/-! ### Readiness and choice (R173, R174) -/

/-- An entry ranks with the scoreboard: not deferred, promoted, or counted as promoted once a TFENCE with DRAIN is
the oldest scoreboard operation (R174). -/
def Core.ranksScoreboard (c : Core) (e : OpEntry) : Bool :=
  !e.deferred || e.promoted ||
    (match c.queue.find? fun g => !g.deferred with
     | some g => opCode g.op.toNat == 0x0B && bit g.op.toNat 8 && e.id < g.id
     | none => false)

/-- A unit runs an operation that has not yielded it. -/
def Core.unitBusy (c : Core) (u : HwUnit) : Bool :=
  c.queue.any fun e => e.issued && !e.yielded && opUnit e.op.toNat == u

def Core.unsentAny (c : Core) : Bool := c.outb.any fun o => o.2.unsent ≠ []

/-- R173: the tiles that an access of an entry reads from an inbound stream are in the receive buffer: all of them, where it
reads several (DESIGN CHOICE, log entry 198). -/
def State.tilesIn (s : State) (p st : Nat) (e : OpEntry) (a : Access) : Bool :=
  let c := (s.station st).core
  match a.ref with
  | .stream id => (s.part p).takenBefore st c e.id id + a.images ≤ (sget {} c.inb id).buffer.length
  | _ => true

/-- R127: a lamb's own tiles are in the receive buffers. -/
def State.lambReady (s : State) (p st : Nat) (e : OpEntry) (lamb : Nat) : Bool :=
  let x := s.part p
  (x.lambReads st (lambTile (x.flock (tmM e.op.toNat - 1)) lamb)).all (s.tilesIn p st e)

/-- R127: a lamb's own first operand tiles are present. -/
def State.lambCanStart (s : State) (p st : Nat) (e : OpEntry) (lamb : Nat) : Bool :=
  let x := s.part p
  (x.lambReads st (lambTile (x.flock (tmM e.op.toNat - 1)) lamb)).all fun a =>
    s.tilesIn p st e { a with images := min 1 a.images }

/-- R173, R127: the inbound tiles of an entry are there; a flock TMUL issues once one of its lambs can start. -/
def State.tilesReady (s : State) (p st : Nat) (e : OpEntry) : Bool :=
  let x := s.part p
  if opCode e.op.toNat = 1 ∧ tmFlock e.op.toNat then (lambs (x.flock (tmM e.op.toNat - 1))).any (s.lambCanStart p st e)
  else (x.reads st (s.station st).core.probe e).all (s.tilesIn p st e)

/-- R82, R148: in a measuring pass a TSCALE with QUANT waits for the probe scale of its tensor. -/
def State.awaitsProbe (s : State) (p st : Nat) (e : OpEntry) : Bool :=
  (s.station st).core.probe && opCode e.op.toNat == 0x0A && bit e.op.toNat 9 && (s.part p).unprobed (opAux e.op.toNat)

/-- R173: the conditions of an entry other than a free unit. -/
def State.readyButUnit (s : State) (p st : Nat) (e : OpEntry) : Bool :=
  let x := s.part p
  let c := (s.station st).core
  let op := e.op.toNat
  let rs := x.reads st c.probe e
  let ws := x.writes st c.probe e
  let earlier := c.queue.filter fun g => g.id < e.id
  let ok12 := earlier.all fun g =>
    !(((x.writes st c.probe g).any fun w => (rs ++ ws).any fun a => a.meets w)
      || ((x.reads st c.probe g).any fun r => ws.any fun a => a.meets r))
  let ok3 := s.tilesReady p st e && !(s.awaitsProbe p st e && (e.measured || !bit op 8))
  let ok4 := ws.all fun a =>
    match a.ref with
    | .stream id => match x.stream id with
      | some d => s.hasCredit p st d
      | none => false
    | _ => true
  let ok6 := !((opCode op == 0x02 || opCode op == 0x09) &&
    (match opAcc op, c.resident with | some t, some (r, _) => t == r | _, _ => false) && c.unitBusy .array)
  let ok7 := earlier.all fun g => opCode g.op.toNat ≠ 0x0B
  let ok8 := opCode op ≠ 0x0B ||
    ((earlier.all fun g => g.deferred && !bit op 8) && (!bit op 8 || !c.unsentAny))
  ok12 && ok3 && ok4 && ok6 && ok7 && ok8

/-- R182: an interim shadow is being written, for which the scheduler stops issuing. -/
def Station.interimRuns (x : Station) : Bool := x.writing.any (·.interim)

/-- R174, R182: a unit of a station issues while the station is neither stopped, fenced, halted nor pausing for an interim
shadow. The array issues no TMUL while a TFENCE's shadow is written, which would then hold products of a TMUL issued after
that TFENCE (R108; DEDUCED, log entry 206). -/
def Station.issues (x : Station) (u : HwUnit) : Bool :=
  !x.stopped && !x.fenced && x.error == 0 && !x.interimRuns && (u != .array || x.writing.isNone)

/-- R174: the entry is the one that its unit issues now: the oldest ready one that ranks with the scoreboard, else
the oldest ready deferred one. A yielded TMUL is ready when the array is free, and resumes before any later deferred
operation issues (R175). -/
def State.mayIssue (s : State) (p st : Nat) (e : OpEntry) : Bool :=
  let c := (s.station st).core
  let u := opUnit e.op.toNat
  (s.station st).issues u && !e.issued && !c.unitBusy u && s.readyButUnit p st e &&
    (let older (g : OpEntry) := g.id < e.id
     let rivals := c.queue.filter fun g =>
       opUnit g.op.toNat == u && (!g.issued || g.yielded) && g.id ≠ e.id && (g.yielded || s.readyButUnit p st g)
     if c.ranksScoreboard e then !(rivals.any fun g => c.ranksScoreboard g && older g)
     else !(rivals.any fun g => c.ranksScoreboard g || older g))

def Core.entry (c : Core) (id : Nat) : Option OpEntry := c.queue.find? fun e => e.id == id
def Core.modEntry (c : Core) (id : Nat) (f : OpEntry → OpEntry) : Core :=
  { c with queue := c.queue.map fun e => if e.id = id then f e else e }

/-- The run and micro-step that a count of R75 or R95 belongs to. -/
def countKey (run micro : Nat) : Nat := 65536 * run + micro % 65536

/-! ### Random values (R74, R75) -/

/-- The key of a conversion of class `cls` at a station, on stream `id` (0xFFFE for a slot or a bank). -/
def Part.convKey (x : Part) (st cls id : Nat) : RandKey := ⟨x.seed, x.step, cls, st, id⟩

/-- The random value of the element `i` elements into a result that starts at offset `off`. -/
def Part.convDraw (x : Part) (st cls id micro off : Nat) (i : Nat) : Nat :=
  (x.convKey st cls id).draw (elemIndex micro (off + i))

/-! ### Writing a result -/

/-- Elements carried so far onto an outbound stream in a micro-step (R75). -/
def Core.carried (c : Core) (id key : Nat) : Nat :=
  let o := sget {} c.outb id
  if o.offKey = key then o.offset else 0

def Core.carry (c : Core) (id key n : Nat) : Core :=
  c.modOut id fun o => { o with offset := (if o.offKey = key then o.offset else 0) + n, offKey := key }

/-- Writes finished images to a reference: to a slot, to bank tiles of the station's own region, or onto a stream. -/
def State.writeImages (s : State) (p st : Nat) (r : Ref) (images : List (List Byte)) : State :=
  let x := s.part p
  match r with
  | .slot n =>
    match x.slotEntry st n with
    | none => s
    | some e =>
      let sp := slotSpace e
      s.modCore st fun c =>
        { c with slots := smod [] c.slots n fun m =>
            (images.mapIdx fun i b => (i, b)).foldl (fun m (i, b) => writeBytes m (i * sp.bytes) b) m }
  | .bank rg tile _ =>
    match x.regionOf st rg with
    | none => s
    | some d => (images.mapIdx fun i b => (i, b)).foldl (fun s (i, b) => s.writeBank st (tileOffset d (tile + i)) b) s
  | .stream id => s.putTiles p st id images
  | _ => s

/-- Converts a result and writes it: descriptor, scale and random bits of its destination (R59, R64 to R66, R75, R562),
flags (R69). `off` is the count of R75 for a slot or bank destination. -/
def State.writeResult (s : State) (p st : Nat) (e : OpEntry) (cls : Nat) (r : Ref) (scale : Option Num)
    (xs : List Num) : State :=
  let x := s.part p
  match x.space st r with
  | none => s
  | some sp =>
    let micro := x.keyMicro st e
    let key := countKey e.run micro
    let (id, off) := match r with
      | .stream id => (id, (s.station st).core.carried id key)
      | _ => (0xFFFE, e.offset)
    let sc := scale.getD (x.scaleOf (e.script = .eval) sp.tensor)
    let out := encodeImages sp sc (x.convDraw st cls id micro off) xs
    let s := match r with
      | .stream id => s.modCore st fun c => c.carry id key (sp.elems * out.length)
      | _ => s
    let s := s.writeImages p st r (out.map (·.1))
    let nonfinite := out.any (·.2.1) || xs.any Num.special
    let saturate := out.any (·.2.2)
    s.modCore st fun c => { c with flags := c.flags.ofResult e.script id nonfinite saturate }

/-! ### Reading an operand -/

/-- The images that an access of an entry reads: tiles of the receive buffer after those taken by earlier readers,
slot images, tiles of the station's own bank, or the tiles of a remote bank that have arrived (R173, R231). -/
def State.sourceImages (s : State) (p st : Nat) (e : OpEntry) (a : Access) : List (List Byte) :=
  let x := s.part p
  let c := (s.station st).core
  match a.ref with
  | .stream id => (((sget {} c.inb id).buffer.drop (x.takenBefore st c e.id id)).take a.images)
  | .slot n =>
    match x.slotEntry st n with
    | none => []
    | some d => slotImages (slotSpace d) (sget [] c.slots n) a.images
  | .bank r tile _ =>
    match x.regionOf st r with
    | none => []
    | some d =>
      if bits d 47 32 = st then s.bankImages d tile a.images
      else (List.range a.images).map fun i =>
        match (s.station st).bankReads.find? fun b =>
          b.owner == bits d 47 32 && b.region == x.ownerRegion d && b.tile == tile + i && b.op == e.id with
        | some b => b.data.getD []
        | none => []
  | _ => []

/-- Reads `n` elements of an operand that the unit converts to FP32 on input, with what the conversion raises: the
per-tensor scale is applied (R59), and a value beyond FP32 range is rounded by the descriptor (R67). -/
def State.operandConvs (s : State) (p st : Nat) (e : OpEntry) (r : Ref) (n : Nat) : List Conv :=
  let x := s.part p
  match x.space st r with
  | none => []
  | some sp =>
    let k := if sp.desc.scaling = 1 then x.scaleOf (e.script = .eval) sp.tensor else .fin false 1
    (decodeImages sp.desc sp.elems (s.sourceImages p st e (x.acc st r n)) n).mapIdx fun i v =>
      applyScale (sp.desc.mode (Config.sourceRound x.step st e.id i).toNat) k v

/-- Reads `n` elements of an operand; `scaled` converts them to FP32. -/
def State.readOperand (s : State) (p st : Nat) (e : OpEntry) (r : Ref) (n : Nat) (scaled : Bool) : List Num :=
  if scaled then (s.operandConvs p st e r n).map (·.num)
  else match (s.part p).space st r with
    | none => []
    | some sp => decodeImages sp.desc sp.elems (s.sourceImages p st e ((s.part p).acc st r n)) n

/-- R67, R69: converting an operand to FP32 on input saturates. -/
def State.operandSaturates (s : State) (p st : Nat) (e : OpEntry) (r : Ref) (n : Nat) : Bool :=
  (s.operandConvs p st e r n).any (·.saturate)

/-- Tiles of remote regions that an entry reads: owner, the owner's region index, tile. -/
def Part.remoteTiles (x : Part) (st : Nat) (probe : Bool) (e : OpEntry) : List (Nat × Nat × Nat) :=
  (x.reads st probe e).flatMap fun a =>
    match a.ref with
    | .bank r tile _ =>
      match x.regionOf st r with
      | some d => if bits d 47 32 = st then [] else (List.range a.images).map fun i => (bits d 47 32, x.ownerRegion d, tile + i)
      | none => []
    | _ => []

end Sys2Proof.Machine
end

