-- ==== Sys2Proof/Machine/Functions.lean ====
section
/-! DEFINITION. The function unit: pair images (R198, R199), the shipped pairs (R202), and evaluation (R200); the vector
lanes' operations and fixed-order reductions (R168, R169). -/

namespace Sys2Proof.Machine

/-! ### Table pairs -/

/-- One half of a pair, as evaluation uses it: tails, output exponent, sign rule, coefficients by segment and index. -/
structure Half where
  la : Num
  lb : Num
  ra : Num
  rb : Num
  oexp : Int
  odd : Bool
  coef : Nat → Nat → Num

/-- A table pair: MODE, WEXP, X_LO, the exp2 multiplier, the selected half, and the least z for which it is known to return
+infinity (R202 of pair 4). -/
structure Pair where
  mode : Nat
  wexp : Int
  xlo : Rat
  pre : Rat
  half : Half
  top : Option Nat := none

/-- Two's complement of a `w`-bit field. -/
def sField (n w : Nat) : Int := signedOf n w

/-- R198: a loaded pair's image read as the forward or derivative half. -/
def Pair.ofImage (img : List Byte) (deriv : Bool) : Pair :=
  let h := leNat (img.take 64)
  let b := if deriv then 288 else 128
  let o := if deriv then 416 else 256
  let coefs := ((img.drop (if deriv then 4160 else 64)).take 4096).toArray
  let at4 (i : Nat) : Nat := leNat [coefs.getD i 0, coefs.getD (i + 1) 0, coefs.getD (i + 2) 0, coefs.getD (i + 3) 0]
  { mode := bits h 1 0, wexp := sField (bits h 15 8) 8, xlo := (f32 (bits h 63 32)).val
    pre := (f32 (bits h 95 64)).val + (f32 (bits h 127 96)).val
    half :=
      ⟨f32 (bits h (b + 31) b), f32 (bits h (b + 63) (b + 32)), f32 (bits h (b + 95) (b + 64)),
        f32 (bits h (b + 127) (b + 96)), sField (bits h (o + 3) o) 4, bit h (o + 4), fun s i => f32 (at4 (16 * s + 4 * i))⟩ }

def numInt (n : Int) : Num := .ofRat n

/-- A coefficient of a shipped pair (DESIGN CHOICE, log entry 20). R202 settles the sign of c0 of segment 0 of pair 5 by the
infinities at zero: plus in the forward half, minus in the derivative. -/
def shippedCoef (n : Nat) (deriv : Bool) (s i : Nat) : Num :=
  let c := Config.shippedCoeff n deriv s i
  if n = 5 ∧ s = 0 ∧ i = 0 then f32 (c.toNat % 2 ^ 31 + b2n deriv * 2 ^ 31) else f32 c.toNat

/-- R202: a shipped pair. -/
def Pair.shipped (n : Nat) (deriv : Bool) : Pair :=
  let coef := shippedCoef n deriv
  let tails (la lb ra rb : Int) (oexp : Int) (odd : Bool) : Half :=
    ⟨numInt la, numInt lb, numInt ra, numInt rb, oexp, odd, coef⟩
  match n with
  | 0 => { mode := 0, wexp := -4, xlo := -8, pre := 0, half := if deriv then tails 0 0 0 1 0 false else tails 0 0 1 0 0 false }
  | 1 => { mode := 0, wexp := -3, xlo := -16, pre := 0, half := if deriv then tails 0 0 0 1 0 false else tails 0 0 1 0 0 false }
  | 2 => { mode := 0, wexp := -4, xlo := -8, pre := 0, half := if deriv then tails 0 0 0 0 0 false else tails 0 (-1) 0 1 0 false }
  | 3 => { mode := 0, wexp := -3, xlo := -16, pre := 0, half := if deriv then tails 0 0 0 0 0 false else tails 0 0 0 1 0 false }
  | 4 => { mode := 2, wexp := 0, xlo := 0, pre := (f32 0x3FB8AA3B).val + (f32 Config.expPreLo.toNat).val
           half := tails 0 0 0 0 0 false, top := some 128 }
  | 5 => { mode := 1, wexp := 0, xlo := 0, pre := 0, half := if deriv then tails 0 0 0 0 (-3) false else tails 0 0 0 0 (-1) true }
  | _ => { mode := 0, wexp := -3, xlo := -16, pre := 0, half := if deriv then tails 0 0 0 1 0 false else tails 0 0 1 0 0 false }

/-- A NaN, an infinity or a subnormal, which R199 refuses in a pair image. -/
def badFp32 (b : Nat) : Bool := bits b 30 23 = 255 || (bits b 30 23 = 0 && bits b 22 0 ≠ 0)

/-- R199, R464: the byte offset of the first field of a pair image that R199 refuses; none for a sound image. An OEXP outside
−8 to −1 is refused like 0, and a domain that ends beyond FP32 at X_LO. (DEDUCED, log entry 144) -/
def pairFault (img : List Byte) : Option Nat :=
  let h := leNat (img.take 64)
  let mode := bits h 1 0
  let wexp := sField (bits h 15 8) 8
  let top := (f32 (bits h 63 32)).val + 256 * pow2 wexp
  let finite := fp32.rne (.ofRat top)
  let foexp := bits h 259 256
  let doexp := bits h 419 416
  -- a field at bit `b`, zero outside mode `m`
  let field (b m : Nat) : Bool := badFp32 (bits h (b + 31) b) || (mode != m && bits h (b + 31) b != 0)
  let tails (b : Nat) : List (Nat × Bool) := (List.range 4).map fun i => (b / 8 + 4 * i, field (b + 32 * i) 0)
  let fields : List (Nat × Bool) :=
    [(0, mode == 3 || bits h 7 2 != 0)
    , (1, if mode = 0 then decide (wexp < -24 ∨ 8 < wexp) else bits h 15 8 != 0)
    , (2, bits h 31 16 != 0)
    , (4, field 32 0 || (mode == 0 && (finite.special || finite.val != top)))
    , (8, field 64 2 || (mode == 2 && !decide (0 < (f32 (bits h 95 64)).val)))
    , (12, field 96 2)]
      ++ tails 128 ++ [(32, if mode = 1 then decide (foexp < 8) else foexp != 0), (32, bits h 287 261 != 0)]
      ++ tails 288 ++ [(52, if mode = 1 then decide (doexp < 8) || foexp % 2 != doexp % 2 else doexp != 0)
        , (52, bits h 511 421 != 0)]
  match fields.find? fun q => q.2 with
  | some q => some q.1
  | none => ((entriesOf 4 2048 (img.drop 64)).findIdx? badFp32).map fun i => 64 + 4 * i

/-! ### Evaluation (R200) -/

def horner (h : Half) (s : Nat) (u : Num) : Num :=
  fp32.fma u (fp32.fma u (fp32.fma u (h.coef s 3) (h.coef s 2)) (h.coef s 1)) (h.coef s 0)

def tailFn (a b x : Num) : Num := if a.val = 0 ∧ !a.special then b else fp32.fma a x b

/-- rne32 of a nonnegative exact value. -/
def rne32 (x : Rat) : Num := fp32.rne (.ofRat x)

def Num.isNeg : Num → Bool
  | .fin n _ => n
  | .inf n => n
  | .nan => false

/-- R201: an input of −0 is evaluated as 0. -/
def evalUniform (p : Pair) (x : Num) : Num :=
  let x := if x.val = 0 ∧ !x.special then Num.zero else x
  let hi := p.xlo + 256 * pow2 p.wexp
  let below : Bool := match x with | .inf true => true | .fin _ _ => decide (x.val < p.xlo) | _ => false
  let above : Bool := match x with | .inf false => true | .fin _ _ => decide (hi ≤ x.val) | _ => false
  if below then tailFn p.half.la p.half.lb x
  else if above then tailFn p.half.ra p.half.rb x
  else
    let t := (x.val - p.xlo) / pow2 p.wexp
    horner p.half t.floor.toNat (rne32 (t - t.floor))

/-- An infinity or a zero with the sign of c0 of segment 0. -/
def coefSign (h : Half) : Bool := (h.coef 0 0).isNeg

def evalBinade (p : Pair) (x : Num) : Num :=
  let h := p.half
  match x with
  | .nan => .nan
  | .inf neg => if neg then .nan else .fin (coefSign h) 0
  | .fin neg m =>
    if m = 0 then .inf (coefSign h != (neg && h.odd))
    else if neg then .nan
    else
      let e := floorLog2 m
      let q := m / pow2 e
      if h.oexp % 2 ≠ 0 then
        let (q, e) := if e % 2 ≠ 0 then (2 * q, e - 1) else (q, e)
        let v : Rat := if q < 2 then 128 * (q - 1) else 64 * (q - 2)
        let s := (if q < 2 then 0 else 128) + v.floor.toNat
        fp32.rne ((horner h s (rne32 (v - v.floor))).mulExact (.fin false (pow2 (h.oexp * e / 2))))
      else
        let v := 256 * (q - 1)
        fp32.rne ((horner h v.floor.toNat (rne32 (v - v.floor))).mulExact (.fin false (pow2 (h.oexp / 2 * e))))

def evalExp2 (p : Pair) (x : Num) : Num :=
  match x with
  | .nan => .nan
  | .inf neg => if neg then .zero else .inf false
  | .fin _ _ =>
    let z := x.val * p.pre
    let n := z.floor
    let v := 256 * (z - n)
    -- a power beyond 2^±512 takes any FP32 value out of range just as 2^±512 does
    let w := max (-512) (min 512 n)
    if p.top.any fun b => decide ((b : Rat) ≤ z) then .inf false
    else fp32.rne ((horner p.half v.floor.toNat (rne32 (v - v.floor))).mulExact (.fin false (pow2 w)))

/-- R200: fun(x) in FP32. -/
def evalPair (p : Pair) (x : Num) : Num :=
  if x.isNan then .nan
  else match p.mode with
    | 0 => evalUniform p x
    | 1 => evalBinade p x
    | _ => evalExp2 p x

/-! ### Vector lanes (R168, R169) -/

/-- One halving of the partial sums. -/
def foldHalf (w : Nat) (p : List Num) : List Num :=
  (List.range w).map fun l => fp32.add (p.getD l .zero) (p.getD (l + w) .zero)

/-- R169: a row's sum (or sum of squares) in the fixed order. -/
def rowSum (sq : Bool) (a : List Num) : Num :=
  let p := (a.mapIdx fun j v => (j, v)).foldl
    (fun p (j, v) =>
      let l := j % 64
      p.set l (if sq then fp32.fma v v (p.getD l .zero) else fp32.add (p.getD l .zero) v))
    (List.replicate 64 Num.zero)
  ([32, 16, 8, 4, 2, 1].foldl (fun p w => foldHalf w p) p).getD 0 .zero

/-- R169: a row's maximum. -/
def rowMax (a : List Num) : Num :=
  match a with
  | [] => .zero
  | x :: xs => xs.foldl Num.maximum x

/-- R168, R169: the FP32 results of a TVEC of a rows × cols shape. -/
def vecOp (v cols : Nat) (rows : Nat) (a b c : List Num) (k : Num) : List Num :=
  let ba := b.toArray
  let ca := c.toArray
  let row (i : Nat) : List Num := (a.drop (cols * i)).take cols
  let bAt (j : Nat) := ba.getD j .zero
  match v with
  | 0x00 => a
  | 0x01 => a.mapIdx fun j x => fp32.add x (bAt j)
  | 0x02 => a.mapIdx fun j x => fp32.add x (bAt j).neg
  | 0x03 => a.mapIdx fun j x => fp32.mul x (bAt j)
  | 0x04 => a.mapIdx fun j x => fp32.fma x (bAt j) (ca.getD j .zero)
  | 0x05 => a.mapIdx fun j x => x.maximum (bAt j)
  | 0x06 => a.mapIdx fun j x => x.minimum (bAt j)
  | 0x07 => a.map fun x => fp32.mul x k
  | 0x08 => (List.range rows).map fun i => rowSum false (row i)
  | 0x09 => (List.range rows).map fun i => rowSum true (row i)
  | 0x0A => (List.range rows).map fun i => rowMax (row i)
  | 0x0B => a.mapIdx fun j x => fp32.mul x (bAt (j / cols))
  | 0x0C => a.mapIdx fun j x => fp32.add x (bAt (j / cols))
  | 0x0D => a.mapIdx fun j x => fp32.mul x (bAt (j % cols))
  | _ => a.mapIdx fun j x => fp32.add x (bAt (j % cols))

end Sys2Proof.Machine
end

