-- ==== Sys2Proof/Machine/Update.lean ====
section
/-! DEFINITION. Pages: their components (R331, R332), the delta code (R335), digests (R324), reduction and sums of
squares (R313, R317, R320), the constants of a step (R339), the update (R340 to R343) and scale entries (R79, R80). -/

namespace Sys2Proof.Machine

/-- Parameters of a page (R331). -/
def pageParams : Nat := 2 ^ 19
def pageBlocks : Nat := 2 ^ 14

/-! ### Optimiser groups (R337) -/

def Part.group (x : Part) (i : Nat) : Nat := (x.sec 0x12).getD i 0
def goOpt (g : Nat) : Nat := bits g 1 0
def goSched (g : Nat) : Nat := bits g 3 2
def goBias (g : Nat) : Bool := bit g 4
def goClipEn (g : Nat) : Bool := bit g 5
def goSkipEmpty (g : Nat) : Bool := bit g 6
def goB1 (g : Nat) : Num := f32 (bits g 63 32)
def goB2 (g : Nat) : Num := f32 (bits g 95 64)
def goEps (g : Nat) : Num := f32 (bits g 127 96)
def goWd (g : Nat) : Num := f32 (bits g 159 128)
def goLrMax (g : Nat) : Num := f32 (bits g 191 160)
def goLrMin (g : Nat) : Num := f32 (bits g 223 192)
def goGamma (g : Nat) : Num := f32 (bits g 255 224)
def goClip (g : Nat) : Num := f32 (bits g 287 256)
def goOrigin (g : Nat) : Nat := bits g 327 288
def goWarmup (g : Nat) : Nat := bits g 359 328
def goTotal (g : Nat) : Nat := bits g 391 360
def goPeriod (g : Nat) : Nat := bits g 423 392
def goEps1 (g : Nat) : Num := f32 (bits g 455 424)

/-! ### Constants of a step (R339) -/

/-- The FP64 value nearest to π. -/
def pi64 : Num := fp64.decode 0x400921FB54442D18

/-- The Taylor sum of cos over 64 terms, whose error for an argument up to 4 lies below 2^-400 (DEDUCED, log entry 30). -/
def cosSum (x : Rat) : Rat :=
  ((List.range 64).foldl (fun (acc : Rat × Rat) i =>
    (acc.1 + acc.2, -(acc.2 * x * x) / ((2 * i + 1) * (2 * i + 2) : Nat))) (0, 1)).1

/-- cos rounded once to FP64. -/
def cos64 (x : Num) : Num := fp64.rne (.ofRat (cosSum x.val))

def nat64 (n : Nat) : Num := .fin false n
def one64 : Num := .fin false 1
/-- An integer power rounded once to FP64. -/
def pow64 (x : Num) (n : Nat) : Num := fp64.rne (.ofRat (x.val ^ n))
def sub64 (x y : Num) : Num := fp64.add x y.neg

/-- The constants of a step for one group, in FP32. -/
structure Consts where
  lr : Num
  clip : Num
  bc1 : Num
  bc2 : Num
  a : Num
  omb1 : Num
  omb2 : Num
  deriving DecidableEq, Repr

/-- R339: the learning rate in FP64. -/
def learningRate (g n : Nat) : Num :=
  let s := n - goOrigin g
  let w := goWarmup g
  match goSched g with
  | 0 => goLrMax g
  | 1 =>
    if s < w then fp64.div (fp64.mul (goLrMax g) (nat64 (s + 1))) (nat64 w)
    else
      let p := Num.minimum one64 (fp64.div (nat64 (s - w)) (nat64 (goTotal g - w)))
      fp64.add (goLrMin g)
        (fp64.mul (fp64.mul (.fin false (1 / 2)) (sub64 (goLrMax g) (goLrMin g)))
          (fp64.add one64 (cos64 (fp64.mul pi64 p))))
  | 2 =>
    fp64.add (goLrMax g)
      (fp64.mul (sub64 (goLrMin g) (goLrMax g)) (Num.minimum one64 (fp64.div (nat64 s) (nat64 (goTotal g)))))
  | _ => Num.maximum (goLrMin g) (fp64.mul (goLrMax g) (pow64 (goGamma g) (s / goPeriod g)))

/-- R339: the constants of group `g` at step `n`, update `t`, with herd total `S`. -/
def stepConsts (g n t : Nat) (S : Num) : Consts :=
  let eta := learningRate g n
  let c :=
    if !goClipEn g || S = .fin false 0 || S = .fin true 0 then one64
    else Num.minimum one64 (fp64.div (goClip g) (fp64.sqrt S))
  let bc (b : Num) : Num := if goBias g then fp64.div one64 (sub64 one64 (pow64 b t)) else one64
  let to32 (x : Num) : Num := fp32.rne x
  ⟨to32 eta, to32 c, to32 (bc (goB1 g)), to32 (bc (goB2 g)), to32 (fp64.mul eta (goWd g)),
    to32 (sub64 one64 (goB1 g)), to32 (sub64 one64 (goB2 g))⟩

/-! ### Components of a page -/

def sigAt (w : Sparse Byte) (i : Nat) : Int := signedOf (readLe w (2 * i) 2) 16
def setSig (w : Sparse Byte) (i : Nat) (s : Int) : Sparse Byte := writeBytes w (2 * i) (leBytes 2 (s % 65536).toNat)
def bf16At (m : Sparse Byte) (i : Nat) : Num := Fmt.bf16.decode (readLe m (2 * i) 2)
def setBf16 (m : Sparse Byte) (i : Nat) (code : Nat) : Sparse Byte := writeBytes m (2 * i) (leBytes 2 code)
def f32At (m : Sparse Byte) (i : Nat) : Num := f32 (readLe m (4 * i) 4)
def expAt (e : Sparse Byte) (b : Nat) : Nat := (sget 0 e b).toNat

/-- R56: the weight of parameter `i` of a page. -/
def weightAt (b : PageBody) (i : Nat) : Num := mw16Value (expAt b.exps (i / 32)) (sigAt b.weights i)

/-- Size of the second moment of a page (R331), by optimiser. -/
def m2Size (frozen : Bool) (opt : Nat) : Nat := if frozen then 0 else match opt with | 1 => 2 ^ 20 | 3 => 6144 | _ => 0
def m1Size (frozen : Bool) : Nat := if frozen then 0 else 2 ^ 20

/-- The 528 KiB of a delta slot; none under ZERO (R335). -/
def DeltaSlot.image (d : DeltaSlot) : List Byte := if d.zero then [] else readBytes d.bytes 0 540672

/-- R324: the digest of the weights. -/
def digestW (page version : Nat) (weights exps : Sparse Byte) : BitVec 128 :=
  digest128 (leBytes 8 page ++ leBytes 8 version ++ readBytes weights 0 (2 ^ 20) ++ readBytes exps 0 16384)

/-- R324: the digest of the moments and the newest delta. -/
def digestS (page version : Nat) (frozen : Bool) (opt : Nat) (b : PageBody) : BitVec 128 :=
  digest128 (leBytes 8 page ++ leBytes 8 version ++ readBytes b.m1 0 (m1Size frozen)
    ++ readBytes b.m2 0 (m2Size frozen opt) ++ (sget {} b.deltas b.head).image)

/-- R324: the digest record, dw below ds. -/
def digestRecord (page : Nat) (frozen : Bool) (opt : Nat) (b : PageBody) : BitVec 256 :=
  digestS page b.stamp frozen opt b ++ digestW page b.stamp b.weights b.exps

def recordW (d : BitVec 256) : BitVec 128 := d.setWidth 128

/-! ### Deltas (R335, R336) -/

/-- Encodes one block of 32: the deltas, or none where the block needs a spill record. -/
def encodeDelta (wv wn : List Int) (ev en : Nat) : Option (List Int) :=
  let k := min ev en
  let d := (wv.zip wn).map fun (a, b) => a * 2 ^ (ev - k) - b * 2 ^ (en - k)
  if d.all fun x => -127 ≤ x && x ≤ 127 then some d else none

/-- R335: one block's deltas and exponent in a slot, with the old weights as a spill record where the deltas do not fit. -/
def encodeBlock (wv ev wn en : Sparse Byte) (s : DeltaSlot) (b : Nat) : DeltaSlot :=
  let old := (List.range 32).map fun i => sigAt wv (32 * b + i)
  let new := (List.range 32).map fun i => sigAt wn (32 * b + i)
  let e := sget 0 ev b
  let (ds, spill) := match encodeDelta old new e.toNat (expAt en b) with
    | some d => (d, [])
    | none => (List.replicate 32 (-128), [(b, readBytes wv (64 * b) 64)])
  { s with
    bytes := writeBytes (writeBytes s.bytes (32 * b) (ds.map fun x => BitVec.ofInt 8 x)) (2 ^ 19 + b) [e]
    spill := s.spill ++ spill }

/-- The delta slot that rebuilds version v (weights, exponents) from the version after it. -/
def encodeSlot (wv ev wn en : Sparse Byte) : DeltaSlot :=
  (List.range pageBlocks).foldl (encodeBlock wv ev wn en) { zero := false }

/-- R335: rebuilds the weights and exponents of the version before, through one slot. -/
def rebuildOnce (w e : Sparse Byte) (d : DeltaSlot) : Sparse Byte × Sparse Byte :=
  if d.zero then (w, e)
  else
    (List.range pageBlocks).foldl
      (fun (we : Sparse Byte × Sparse Byte) b =>
        let ev := sget 0 d.bytes (2 ^ 19 + b)
        let en := expAt e b
        let ds := (List.range 32).map fun i => (sget 0 d.bytes (32 * b + i)).toInt
        let w' :=
          if ds.all fun x => x == -128 then
            match d.spill.find? fun r => r.1 == b with
            | some r => writeBytes we.1 (64 * b) r.2
            | none => we.1
          else
            (ds.mapIdx fun i x => (i, x)).foldl
              (fun m (i, x) =>
                let k := min ev.toNat en
                let v : Int := sigAt w (32 * b + i) * 2 ^ (en - k) + x
                setSig m (32 * b + i) (v / 2 ^ (ev.toNat - k)))
              we.1
        (w', sset 0 we.2 b ev))
      (w, e)

/-- R334, R335: weights and exponents `n` versions back, from the newest delta on, over P slots. -/
def rebuild (P : Nat) (deltas : Sparse DeltaSlot) : Nat → Nat → Sparse Byte × Sparse Byte → Sparse Byte × Sparse Byte
  | 0, _, we => we
  | n + 1, slot, we => rebuild P deltas n ((slot + P - 1) % P) (rebuildOnce we.1 we.2 (sget {} deltas slot))

/-- The weights and exponents of version `v` of a page; none where the slots do not hold it. -/
def PageBody.version (b : PageBody) (P v : Nat) : Option (Sparse Byte × Sparse Byte) :=
  if v ≤ b.stamp ∧ b.stamp ≤ v + P then some (rebuild P b.deltas (b.stamp - v) b.head (b.weights, b.exps)) else none

/-! ### Gradients (R313, R317, R320) -/

/-- R313, R74: conversion of a bucket element to BF16 at a module; its code and whether it is nonfinite. -/
def bucketElem (seed : BitVec 64) (step self param : Nat) (x : Num) : Nat × Bool :=
  let c := Fmt.bf16.convert (.stochastic ((⟨seed, step, 4, self, 0⟩ : RandKey).draw param)) x
  (c.bits, c.num.special)

/-- R317: adds one rank's slice to a partial sum, or starts it with rank 0's. -/
def addSlice (acc : List (BitVec 32)) (slice : List Byte) : List (BitVec 32) :=
  let xs := unpack 16 pageParams (leNat slice)
  if acc.isEmpty then xs.map fun c => BitVec.ofNat 32 (c * 2 ^ 16)
  else (acc.zip xs).map fun (a, c) =>
    BitVec.ofNat 32 (fp32.convert .nearest ((f32 a.toNat).addExact (Fmt.bf16.decode c))).bits

/-- R317: the staged BF16 elements of a page, with whether any is nonfinite. -/
def stageGrad (seed : BitVec 64) (step self page : Nat) (acc : List (BitVec 32)) : Sparse Byte × Bool :=
  let cs := acc.mapIdx fun i v =>
    Fmt.bf16.convert (.stochastic ((⟨seed, step, 4, self, 1⟩ : RandKey).draw (page * pageParams + i))) (f32 v.toNat)
  (writeBytes [] 0 (cs.flatMap fun c => leBytes 2 c.bits), cs.any fun c => c.num.special)

/-- R320: R169's row sum of squares in FP64. -/
def rowSum64 (xs : List Num) : Num :=
  let p := (xs.mapIdx fun j v => (j, v)).foldl
    (fun p (j, v) => p.set (j % 64) (fp64.add (p.getD (j % 64) .zero) (v.mulExact v)))
    (List.replicate 64 Num.zero)
  ([32, 16, 8, 4, 2, 1].foldl
    (fun p w => (List.range w).map fun l => fp64.add (p.getD l .zero) (p.getD (l + w) .zero)) p).getD 0 .zero

/-- R320: the page sum q as FP64 bits. -/
def pageSum (grad : Sparse Byte) : BitVec 64 :=
  BitVec.ofNat 64 (fp64.convert .nearest (rowSum64 ((List.range pageParams).map (bf16At grad)))).bits

def add64Bits (a b : BitVec 64) : BitVec 64 :=
  BitVec.ofNat 64 (fp64.convert .nearest ((fp64.decode a.toNat).addExact (fp64.decode b.toNat))).bits

/-- A sum of FP64 values in list order from +0. -/
def sum64 (l : List (BitVec 64)) : BitVec 64 := l.foldl add64Bits 0

/-! ### The update (R340, R342, R343) -/

/-- Results for one parameter: w2, m1, v1 in FP32. -/
structure Param where
  w : Num
  m : Num
  v : Num
  deriving DecidableEq, Repr

/-- R340: one parameter under SGD with momentum, AdamW or Lion; factored Adam takes its v1 from the factors. -/
def updateParam (g : Nat) (k : Consts) (w m v gr : Num) (vFactor : Num) : Param :=
  let gr := fp32.mul gr k.clip
  let w1 := fp32.fma k.a.neg w w
  let adam (v1 : Num) : Param :=
    let m1 := fp32.fma (goB1 g) m (fp32.mul k.omb1 gr)
    let den := fp32.add (fp32.sqrt (fp32.mul v1 k.bc2)) (goEps g)
    ⟨fp32.fma k.lr.neg (fp32.div (fp32.mul m1 k.bc1) den) w1, m1, v1⟩
  match goOpt g with
  | 0 =>
    let m1 := fp32.fma (goB1 g) m gr
    ⟨fp32.fma k.lr.neg m1 w1, m1, .zero⟩
  | 1 => adam (fp32.fma (goB2 g) v (fp32.mul k.omb2 (fp32.mul gr gr)))
  | 2 =>
    let z := fp32.fma (goB1 g) m (fp32.mul k.omb1 gr)
    let u : Num := match z with
      | .nan => .nan
      | .inf neg => .fin neg 1
      | .fin neg x => if x = 0 then .fin neg 0 else .fin neg 1
    ⟨fp32.fma k.lr.neg u w1, fp32.fma (goB2 g) m (fp32.mul k.omb2 gr), .zero⟩
  | _ => adam vFactor

/-- R340: the row and column factors of a page under factored Adam, after the update: 512 and 1,024 values. -/
def newFactors (g : Nat) (k : Consts) (b : PageBody) (grad : Nat → Num) : List Num × List Num :=
  let q (i : Nat) : Num := let x := fp32.mul (grad i) k.clip; fp32.fma x x (goEps1 g)
  let rows := (List.range 512).map fun r =>
    let mean := fp32.div (rowSum false ((List.range 1024).map fun j => q (1024 * r + j))) (nat64 1024)
    fp32.fma (goB2 g) (f32At b.m2 r) (fp32.mul k.omb2 mean)
  let cols := (List.range 1024).map fun j =>
    let mean := fp32.div (rowSum false ((List.range 512).map fun r => q (1024 * r + j))) (nat64 512)
    fp32.fma (goB2 g) (f32At b.m2 (512 + j)) (fp32.mul k.omb2 mean)
  (rows, cols)

/-- The result of a page's update: the new body without stamp, header and digest; a nonfinite write-back (R344). -/
structure Updated where
  body : PageBody
  nonfinite : Bool
  deriving DecidableEq, Repr

/-- R340: the new values of a block's parameters, from the body before the update. -/
def blockParams (g : Nat) (k : Consts) (b : PageBody) (gr vf : Nat → Num) (blk : Nat) : List Param :=
  (List.range 32).map fun j =>
    let i := 32 * blk + j
    updateParam g k (weightAt b i) (bf16At b.m1 i) (bf16At b.m2 i) (gr i) (vf i)

/-- R74, R342: the rounding of parameter `i` of a page under a class and a stream. -/
def updateRnd (seed : BitVec 64) (n page cls stream i : Nat) : Rnd :=
  .stochastic ((⟨seed, n, cls, 0, stream⟩ : RandKey).draw (page * pageParams + i))

/-- R340, R342 to R344: the update of one block of a page: the body so far and whether a write-back was nonfinite. The
operands are those of the body before the update, `b`. -/
def updateBlock (seed : BitVec 64) (n page g : Nat) (k : Consts) (b : PageBody) (gr vf : Nat → Num) (acc : PageBody × Bool)
    (blk : Nat) : PageBody × Bool :=
  let (nb, bad) := acc
  let rnd := updateRnd seed n page
  let ps := blockParams g k b gr vf blk
  let specials := ps.any fun p => p.m.special || p.v.special
  let ms := ps.mapIdx fun j p => Fmt.bf16.convert (rnd 6 0 (32 * blk + j)) p.m
  let vs := ps.mapIdx fun j p => Fmt.bf16.convert (rnd 6 1 (32 * blk + j)) p.v
  let large := ms.any (·.num.special) || (goOpt g == 1 && vs.any (·.num.special))
  let nb := { nb with m1 := writeBytes nb.m1 (64 * blk) (ms.flatMap fun c => leBytes 2 c.bits) }
  let nb := if goOpt g = 1 then
      { nb with m2 := writeBytes nb.m2 (64 * blk) (vs.flatMap fun c => leBytes 2 c.bits) }
    else nb
  match writeMw16 (fun j => rnd 5 0 (32 * blk + j)) (ps.map (·.w)) with
  | none => (nb, true)
  | some q =>
    ({ nb with
        weights := writeBytes nb.weights (64 * blk) (q.sigs.flatMap fun s => leBytes 2 (s % 65536).toNat)
        exps := sset 0 nb.exps blk (BitVec.ofNat 8 q.exp) },
      bad || specials || large)

/-- R340: v1 of factored Adam by parameter, from the new factors. -/
def factoredV (rows cols : List Num) : Nat → Num :=
  let mean := fp32.div (rowSum false rows) (nat64 512)
  let ra := rows.toArray
  let ca := cols.toArray
  fun i => fp32.div (fp32.mul (ra.getD (i / 1024) .zero) (ca.getD (i % 1024) .zero)) mean

/-- R57: a significand of the page's new weights saturates. -/
def updateSaturates (seed : BitVec 64) (n page g : Nat) (k : Consts) (b : PageBody) (grad : Sparse Byte) : Bool :=
  let gr (i : Nat) : Num := bf16At grad i
  let (rows, cols) := if goOpt g == 3 then newFactors g k b gr else ([], [])
  let vf := if goOpt g == 3 then factoredV rows cols else fun _ => .zero
  (List.range pageBlocks).any fun blk =>
    (writeMw16 (fun j => updateRnd seed n page 5 0 (32 * blk + j)) ((blockParams g k b gr vf blk).map (·.w))).any (·.saturate)

/-- R340, R342: the update of one page's weights and moments with gradient `grad` (BF16 per parameter). -/
def updateBody (seed : BitVec 64) (n page g : Nat) (k : Consts) (b : PageBody) (grad : Sparse Byte) : Updated :=
  let gr (i : Nat) : Num := bf16At grad i
  let factored := goOpt g == 3
  let (rows, cols) := if factored then newFactors g k b gr else ([], [])
  let vf := if factored then factoredV rows cols else fun _ => .zero
  let blocks := (List.range pageBlocks).foldl (updateBlock seed n page g k b gr vf) (b, false)
  let body := if factored then
      { blocks.1 with m2 := writeBytes [] 0 ((rows ++ cols).flatMap fun x => leBytes 4 (fp32.convert .nearest x).bits) }
    else blocks.1
  ⟨body, blocks.2 || (factored && (rows ++ cols).any Num.special)⟩

/-- R343: a null update: the retiring slot holds an all-zero delta and becomes HEAD; the page is stamped. -/
def nullUpdate (P : Nat) (b : PageBody) : PageBody :=
  let slot := (b.head + 1) % P
  { b with deltas := sset {} b.deltas slot {}, head := slot, stamp := b.stamp + 1 }

/-- R335, R345 C3 and C4: the new body with its delta in the retiring slot, HEAD moved and the stamp raised. -/
def finishUpdate (P : Nat) (old new : PageBody) : PageBody :=
  let slot := (old.head + 1) % P
  { new with
    deltas := sset {} old.deltas slot (encodeSlot old.weights old.exps new.weights new.exps)
    head := slot, stamp := old.stamp + 1 }

/-! ### Scale entries (R79, R80) -/

/-- Largest finite value of a per-tensor-scaled format. -/
def scaleMax (fmt : Nat) : Rat := (Fmt.params ((Fmt.ofCode fmt).getD .e4m3)).maxFinite

/-- R79: SCALE from an absolute maximum. -/
def scaleFrom (fmt margin : Nat) (a : Rat) : BitVec 32 :=
  if a = 0 then 0x3F800000
  else
    let e : Int := ceilLog2 (a / scaleMax fmt) + margin
    let e := max (-126) (min 127 e)
    BitVec.ofNat 32 ((e + 127).toNat * 2 ^ 23)

/-- R78, R79: enters the maximum of a step into the history and computes SCALE. -/
def ScaleEntry.enter (x : ScaleEntry) (step : Nat) (amax : BitVec 32) (probe : Bool) : ScaleEntry :=
  let head := (x.head + 1) % 16
  let valid := min 16 (x.valid + 1)
  let hist := x.hist.set head amax
  let valids := (List.range valid).map fun i => hist.getD ((head + 16 - i) % 16) 0
  let a := if x.policy then (f32 amax.toNat).val else valids.foldl (fun m v => max m (f32 v.toNat).val) 0
  { x with
    hist := hist, head := head, valid := valid, probed := probe, step := BitVec.ofNat 40 step
    scale := scaleFrom x.format.toNat x.margin.toNat a }

/-- R80: the 128 bytes of an entry. -/
def ScaleEntry.encode (x : ScaleEntry) : List Byte :=
  leBytes 128 (pack 32 (x.hist.map (·.toNat)) + x.scale.toNat * 2 ^ 512 + x.head * 2 ^ 544 + x.valid * 2 ^ 548
    + x.format.toNat * 2 ^ 553 + x.margin.toNat * 2 ^ 557 + b2n x.policy * 2 ^ 559 + b2n x.probed * 2 ^ 560
    + x.step.toNat * 2 ^ 576)

def ScaleEntry.decode (n : Nat) : ScaleEntry :=
  { hist := (unpack 32 16 n).map (BitVec.ofNat 32), scale := BitVec.ofNat 32 (bits n 543 512), head := bits n 547 544
    valid := bits n 552 548, format := BitVec.ofNat 4 (bits n 556 553), margin := BitVec.ofNat 2 (bits n 558 557)
    policy := bit n 559, probed := bit n 560, step := BitVec.ofNat 40 (bits n 615 576) }

/-! ### Page headers (R332) -/

def PageState.code : PageState → Nat
  | .clean => 0 | .preimage => 1 | .stamped => 2

def Resid.code : Resid → Nat
  | .hbm => 0 | .slow => 1 | .fetch => 2 | .evict => 3

/-- R336: the records of the newest delta stand from `n` on in its slot's area. -/
def PageBody.spillFrom (b : PageBody) (n : Nat) : PageBody :=
  { b with deltas := smod {} b.deltas b.head fun d => { d with first := if d.spill = [] then 0 else n } }

/-- R336, R360: the records of a restored page's slots stand in the slots' spill areas, of which `used` records are taken: where they
did, if there are as many, else after the others. -/
def placeSpills (used : Sparse Nat) (P : Nat) (old b : PageBody) : Sparse Nat × PageBody :=
  (List.range P).foldl (fun r j =>
    let n := (sget {} r.2.deltas j).spill.length
    let put (first : Nat) : PageBody := { r.2 with deltas := smod {} r.2.deltas j fun d => { d with first := first } }
    if n = 0 then (r.1, put 0)
    else if n = (sget {} old.deltas j).spill.length then (r.1, put (sget {} old.deltas j).first)
    else
      let first := sget 0 r.1 j
      (sset 0 r.1 j (first + n), put first)) (used, b)

/-- R332: the 64 bytes of a page header. SPILLj gives the index of the first and the number of the slot's records. -/
def OwnedPage.header (x : OwnedPage) (P : Nat) : List Byte :=
  let b := x.body
  let slots := List.range P
  let zeros := slots.foldl (fun n j => n + if (sget {} b.deltas j).zero then 2 ^ j else 0) 0
  let spill := slots.foldl (fun n j =>
    let d := sget {} b.deltas j
    n + (if d.spill = [] then 0 else d.first + d.spill.length * 2 ^ 32) * 2 ^ (128 + 48 * j)) 0
  leBytes 64 (b.stamp % 2 ^ 40 + x.cstate.code * 2 ^ 40 + b2n x.frozen * 2 ^ 42 + x.group * 2 ^ 44 + b.head * 2 ^ 48
    + zeros * 2 ^ 50 + x.resW.code * 2 ^ 64 + x.resM.code * 2 ^ 66 + x.resD.code * 2 ^ 68 + spill)

end Sys2Proof.Machine
end

