-- ==== Sys2Proof/Machine/Pages.lean ====
section
/-! DEFINITION. Owned pages at their Keeper: residency in the slow tier (R303 to R306), serving versions (R27, R325, R334),
gather into the staged copy (R27 to R29, R38), and pulls of single pages from the husk (R446). -/

namespace Sys2Proof.Machine

def State.past (s : State) : Nat := s.fuses.pastVersions
def State.opage (s : State) (k p g : Nat) : OwnedPage := (s.kpart k p).page g
def State.modOpage (s : State) (k p g : Nat) (f : OwnedPage → OwnedPage) : State :=
  s.modKpart k p fun x => x.modPage g f

/-- Commands in flight of an opcode that name a partition, by CSN (R458). -/
def State.flightsOf (s : State) (op p : Nat) : List Nat :=
  (s.arb.inflight.filter fun f => f.cmd.opcode == op && bits f.cmd.packet.params.toNat 2 0 == p).map (·.csn)

def State.finalAll (s : State) (op p : Nat) (r : Res) : State := s.forAll (s.flightsOf op p) fun s c => s.final c r

/-! ### Components and their residency -/

def OwnedPage.resid (x : OwnedPage) : Nat → Resid
  | 0 => x.resW | 1 => x.resM | _ => x.resD

def OwnedPage.setResid (x : OwnedPage) (c : Nat) (r : Resid) : OwnedPage :=
  match c with
  | 0 => { x with resW := r }
  | 1 => { x with resM := r }
  | _ => { x with resD := r }

/-- The optimiser of a page's group (R337). -/
def Part.optOf (x : Part) (pg : OwnedPage) : Nat := goOpt (x.group pg.group)

/-- Delta slots other than the newest (R303). -/
def oldSlots (P head : Nat) : List Nat := (List.range P).filter (· ≠ head)

/-- The bytes of component `c` of a page: 0 W, 1 M, 2 D (R303, R331). -/
def Part.compBytes (x : Part) (P : Nat) (pg : OwnedPage) (c : Nat) : List Byte :=
  let b := pg.body
  match c with
  | 0 => readBytes b.weights 0 (2 ^ 20) ++ readBytes b.exps 0 16384
  | 1 => readBytes b.m1 0 (m1Size pg.frozen) ++ readBytes b.m2 0 (m2Size pg.frozen (x.optOf pg))
  | _ => (oldSlots P b.head).flatMap fun j => readBytes (sget {} b.deltas j).bytes 0 540672

/-- Writes the bytes of a component. -/
def setComp (P : Nat) (frozen : Bool) (b : PageBody) (c : Nat) (data : List Byte) : PageBody :=
  match c with
  | 0 => { b with weights := writeBytes [] 0 (data.take (2 ^ 20)), exps := writeBytes [] 0 ((data.drop (2 ^ 20)).take 16384) }
  | 1 => { b with
      m1 := writeBytes [] 0 (data.take (m1Size frozen)), m2 := writeBytes [] 0 (data.drop (m1Size frozen)) }
  | _ => { b with
      deltas := ((oldSlots P b.head).mapIdx fun i j => (i, j)).foldl
        (fun m (i, j) => smod {} m j fun d => { d with bytes := writeBytes [] 0 ((data.drop (540672 * i)).take 540672) })
        b.deltas }

/-- R306: digests of each MiB written, by 16 × component + MiB. -/
def mibDigests (c : Nat) (data : List Byte) : List (Nat × BitVec 128) :=
  (chunks (2 ^ 20) (ceilDiv data.length (2 ^ 20)) data).mapIdx fun i d => (16 * c + i, digest128 d)

/-- The slow-tier port, 1 to 3, behind which a page rests: the module's own choice among the map's segments
(DEDUCED, log entry 34). -/
def Part.slowPort (x : Part) (g : Nat) : Nat :=
  let segs := x.sec 0x15
  bits (segs.getD (g % max 1 segs.length) 0) 1 0

/-- UIO requests of a component's transfer. -/
def uioRequests (data : List Byte) : Nat := ceilDiv data.length 256

/-! ### Buddies (R421) -/

/-- The context to the buddy of Keeper `k`, and those to the owners whose buddy Keeper `k` is. -/
def State.buddyCtx (s : State) (k : Nat) : Option Nat :=
  (s.mlv.ctxs.find? fun c => c.2.kpr == k && c.2.role == 3 && c.2.state ≠ .closed).map (·.1)

/-- R326: the buddy of a Keeper takes part in comparisons unless its context is LOST or FENCED. -/
def State.buddyUp (s : State) (k : Nat) : Bool :=
  match s.buddyCtx k with
  | some i => (s.ctx i).state == .opened || (s.ctx i).state == .opening
  | none => false

/-- R446: pulls components of one page, by their mask, from the buddy's husk. -/
def State.pullPage (s : State) (k p g comps : Nat) : State :=
  let s := s.modOpage k p g fun y =>
    { y with awaitingHusk := true, missing := [0, 1, 2].filter fun c => bit comps c || y.missing.contains c }
  match s.buddyCtx k with
  | none => s
  | some i =>
    s.send i 3 0x45 (leBytes 32 ((s.part p).herdId * 2 ^ 40 + g * 2 ^ 48 + 2 ^ 76 + comps * 2 ^ 104)) true []

/-! ### Slow-tier transfers (R300) -/

/-- R300: requests outstanding at a port. -/
def TierPort.outstanding (y : TierPort) : Nat := min 1024 (y.transfers.map (·.2)).sum

/-- R300: a port takes another transfer's requests. -/
def TierPort.room (y : TierPort) : Bool := decide ((y.transfers.map (·.2)).sum < 1024)

/-- A transfer's requests go out through a port. -/
def State.beginTransfer (s : State) (port n : Nat) (r : UioTransfer) : State :=
  (s.emit (.uio port r.page r.comp r.write)).modTier (port - 1) fun t =>
    { t with
      transfers := (r, n) :: t.transfers.filter fun q => q.1 ≠ r, waiting := t.waiting.filter fun q => q.1 ≠ r, turn := r.kpr }

/-- R300: a transfer begins, or waits for room at its port. -/
def State.transfer (s : State) (port n : Nat) (r : UioTransfer) : State :=
  let y := s.tierPort (port - 1)
  if y.room && y.waiting.isEmpty then s.beginTransfer port n r
  else s.modTier (port - 1) fun t => { t with waiting := t.waiting ++ [(r, n)] }

/-- R301: the waiting transfer that comes next: the Keepers take turns. -/
def TierPort.next (y : TierPort) : Option (UioTransfer × Nat) :=
  (List.range 8).findSome? fun j => y.waiting.find? fun q => q.1.kpr == (y.turn + 1 + j) % 8

/-- Waiting transfers begin as far as there is room; `n` bounds them. -/
def State.serveTier (port : Nat) : Nat → State → State
  | 0, s => s
  | n + 1, s =>
    let y := s.tierPort (port - 1)
    match y.next with
    | some q => if y.room then State.serveTier port n (s.beginTransfer port q.2 q.1) else s
    | none => s

/-- A transfer has ended, and with it the retries of its requests. -/
def State.transferEnded (s : State) (port : Nat) (r : UioTransfer) : State :=
  let s := s.modTier (port - 1) fun t =>
    { t with
      transfers := t.transfers.filter fun q => q.1 ≠ r, waiting := t.waiting.filter fun q => q.1 ≠ r
      retried := t.retried.filter fun q => q.transfer ≠ r }
  State.serveTier port (s.tierPort (port - 1)).waiting.length s

/-- R306: a component is lost: counted, and the page restored from the husk. -/
def State.loseComp (s : State) (k p g c : Nat) : State :=
  (s.modKpr k fun y => { y with lost := satAdd 16 y.lost 1 }).pullPage k p g (2 ^ c)

/-- R304, R306: a component in SLOW begins a fetch; behind a port marked down it is lost. -/
def State.startFetch (s : State) (k p g c : Nat) : State :=
  let x := s.part p
  let pg := s.opage k p g
  let port := x.slowPort g
  let s := s.modOpage k p g fun y => { y.setResid c .fetch with refetched := y.refetched.filter (· ≠ c) }
  if (s.tierPort (port - 1)).down then s.loseComp k p g c
  else s.transfer port (uioRequests (x.compBytes s.past pg c)) ⟨k, p, g, c, false⟩

/-- R304: a component is needed: ready in HBM; a fetch begins from SLOW; an eviction is abandoned. -/
def State.need (s : State) (k p g c : Nat) : State × Bool :=
  match (s.opage k p g).resid c with
  | .hbm => (s, true)
  | .slow => (s.startFetch k p g c, false)
  | .fetch => (s, false)
  | .evict => (s.modOpage k p g fun y => y.setResid c .hbm, true)

def State.needAll (s : State) (k p g : Nat) (cs : List Nat) : State × Bool :=
  cs.foldl (fun (sb : State × Bool) c => let r := sb.1.need k p g c; (r.1, sb.2 && r.2)) (s, true)

/-! ### Serving pages -/

/-- The tensors whose scale page a page is (R76). -/
def Part.pageTensors (x : Part) (g : Nat) : List Nat :=
  (List.range (x.sec 0x07).length).filter fun t => x.hasEntry t && bits (x.tensor t) 91 64 == g

/-- R78: SCALE of the valid entries of a page's tensors, for a version: that of the coming step where its commit runs. -/
def Part.servedScales (x : Part) (g v : Nat) : List (Nat × BitVec 32) :=
  (x.pageTensors g).filterMap fun t =>
    let e := match (if v = x.step + 1 then x.nextScales.find? fun e => e.1 == t else none) with
      | some e => e.2
      | none => sget {} x.scales t
    if e.valid = 0 then none else some (t, e.scale)

/-- R385: the one SCALE of a PAGE message, which is that of the page's first tensor (DESIGN CHOICE, log entry 180). -/
def Part.messageScale (x : Part) (g : Nat) (l : List (Nat × BitVec 32)) : Option (BitVec 32) :=
  (x.pageTensors g).head?.bind fun t => (l.find? fun q => q.1 == t).map (·.2)

/-- The SCALE that a PAGE message brings. -/
def Part.arrivedScales (x : Part) (g head : Nat) : List (Nat × BitVec 32) :=
  if bit head 76 then ((x.pageTensors g).take 1).map fun t => (t, BitVec.ofNat 32 (bits head 127 96)) else []

/-- R334: the versions that may be named: the pointer and P below it, without n − P while step n commits. -/
def Part.named (x : Part) (P v : Nat) : Bool :=
  v ≤ x.version && x.version ≤ v + P &&
    !((x.phase == .commit || x.phase == .flipWait) && v + P == x.version)

/-- A staged copy's page. -/
def Part.stagedPage (x : Part) (eval : Bool) (g : Nat) : StagedPage := sget {} (if eval then x.evalStaged else x.staged) g

def Part.setStaged (x : Part) (eval : Bool) (g : Nat) (y : StagedPage) : Part :=
  if eval then { x with evalStaged := sset {} x.evalStaged g y } else { x with staged := sset {} x.staged g y }

/-- R28: a staged page is current for a version; a frozen page once gathered is so at every version. -/
def Part.current (x : Part) (eval : Bool) (v g : Nat) : Bool :=
  let y := x.stagedPage eval g
  y.version == v || (y.version ≠ noVersion && match x.range g with | some e => prFrozen e | none => false)

/-- Bytes of a page at a version, and its dw (R325). -/
def Part.pageAt (_x : Part) (P g v : Nat) (pg : OwnedPage) : Option (List Byte × BitVec 128) :=
  (pg.body.version P v).map fun (w, e) =>
    (readBytes w 0 (2 ^ 20) ++ readBytes e 0 16384,
      if v = pg.body.stamp then recordW pg.body.digest else digestW g v w e)

/-- R325: the stored page matches the owner's record, as far as its components are in HBM. (DEDUCED, log entry 159) -/
def Part.storedOk (x : Part) (g : Nat) (pg : OwnedPage) : Bool :=
  let here (c : Nat) : Bool := pg.resid c == .hbm || pg.resid c == .evict
  let d := digestRecord g pg.frozen (x.optOf pg) pg.body
  (!here 0 || recordW d == recordW pg.body.digest) && (!here 1 || d / 2 ^ 128 == pg.body.digest / 2 ^ 128)

/-- R325: the owner restores a page from its buddy's husk. -/
def State.restoreFromHusk (s : State) (k p g : Nat) : State :=
  (s.modKpr k fun y => { y with selfRestores := satAdd 8 y.selfRestores 1 }).pullPage k p g 7

/-- R29, R325: a copy within HBM that fails its check is made again; it fails again, since the stored page does not match
its record, so the owner restores the page from its husk and serves it then. (DEDUCED, log entry 159) -/
def State.copyMismatch (s : State) (k p g v requester : Nat) : State :=
  let stage := match (s.part p).range g with | some r => prStageKpr r | none => k
  let s := s.modKpr stage fun y => { y with stagedFails := satAdd 16 y.stagedFails 2 }
  (s.modOpage k p g fun y => { y with waiting := y.waiting ++ [(requester, v)] }).restoreFromHusk k p g

/-- Serves a page at a version to a requester: into the module's own staged copy after its check, or as a PAGE message, which also goes
to every SNOOP context of the Keeper (R27, R385). -/
def State.servePage (s : State) (k p g v requester : Nat) : State :=
  let x := s.part p
  match x.pageAt s.past g v (s.opage k p g) with
  | none => s
  | some (data, dw) =>
    let scales := x.servedScales g v
    let scale := x.messageScale g scales
    if 0x1000 ≤ requester then
      if digestW g v (writeBytes [] 0 (data.take (2 ^ 20))) (writeBytes [] 0 (data.drop (2 ^ 20))) = dw then
        s.modPart p fun x => x.setStaged (requester == 0x1001) g { version := v, bytes := writeBytes [] 0 data, scales := scales }
      else s.copyMismatch k p g v requester
    else
      let head := leBytes 32 (v + x.herdId * 2 ^ 40 + g * 2 ^ 48 + b2n scale.isSome * 2 ^ 76
        + (scale.getD 0).toNat * 2 ^ 96 + dw.toNat * 2 ^ 128)
      let snoops := (s.mlv.ctxs.filter fun c => c.2.snoop && c.2.kpr == k && c.2.state == .opened && c.1 ≠ requester).map (·.1)
      s.forAll (requester :: snoops) fun s i => s.send i 0 0x12 head true data

/-- Components that serving a version needs: W, and D where older deltas are applied (R304). -/
def servedComps (pg : OwnedPage) (v : Nat) : List Nat := if v + 1 < pg.body.stamp then [0, 2] else [0]

/-- R439: before W of every page of the partition has come, a spare serves no gathers of it. -/
def State.beforeK3 (s : State) (p : Nat) : Bool :=
  let x := s.part p
  s.recov.role == .taking && x.phase == .recovery
    && (s.recov.pull == 0 || x.keepers.any fun k => (x.ownedBy s.selfId k).any fun g => (s.opage k p g).missing.contains 0)

/-- Serves the requests held at a page that can now be served (R27, R304, R446). -/
def State.serveWaiting (s : State) (k p g : Nat) : State :=
  let reqs := (s.opage k p g).waiting
  let s := s.modOpage k p g fun y => { y with waiting := [] }
  s.forAll reqs fun s r =>
    let pg := s.opage k p g
    if pg.body.stamp < r.2 ∨ (servedComps pg r.2).any pg.missing.contains = true ∨ s.beforeK3 p = true then
      s.modOpage k p g fun y => { y with waiting := y.waiting ++ [r] }
    else
      let (s, ok) := s.needAll k p g (servedComps pg r.2)
      if ok then s.servePage k p g r.2 r.1
      else s.modOpage k p g fun y => { y with waiting := y.waiting ++ [r] }

/-- A request for a page at its owner. A third request by one requester for one version makes the owner rehash its
stored page and restore it from the husk where it no longer matches (R325). -/
def State.requestPage (s : State) (k p g v requester : Nat) : State :=
  let pg := s.opage k p g
  let n := ((pg.asked.find? fun a => a.1 == requester && a.2.1 == v).map (·.2.2)).getD 0
  let s := s.modOpage k p g fun y =>
    { y with
      asked := (requester, v, n + 1) :: y.asked.filter fun a => !(a.1 == requester && a.2.1 == v)
      waiting := y.waiting ++ [(requester, v)] }
  let s := if 2 ≤ n ∧ (s.part p).storedOk g pg = false then s.restoreFromHusk k p g else s
  s.serveWaiting k p g

/-! ### Gather -/

/-- R27: asks for one page of the stage at a version. -/
def State.gatherPage (s : State) (p : Nat) (eval : Bool) (g v : Nat) : State :=
  let x := s.part p
  match x.range g with
  | none => s
  | some e =>
    if prOwner e = s.selfId then s.requestPage (prOwnerKpr e) p g v (if eval then 0x1001 else 0x1000)
    else
      match s.trafficCtx (prStageKpr e) (prOwner e) (prOwnerKpr e) with
      | none => s
      | some i => s.send i 1 0x20 (leBytes 32 (v + x.herdId * 2 ^ 40 + g * 2 ^ 48)) true []

/-- R27, R28: gathers every page of the stage that is not current. -/
def State.gather (s : State) (p : Nat) (eval : Bool) (v : Nat) : State :=
  s.forAll (((s.part p).stagePages).filter fun g => !(s.part p).current eval v g) fun s g => s.gatherPage p eval g v

/-- R292: a page of a staged copy that was read poisoned is gathered again. -/
def State.regather (s : State) (p : Nat) (eval : Bool) (g : Nat) : State :=
  let v := ((s.part p).stagedPage eval g).version
  if v = noVersion then s else (s.modPart p fun x => x.setStaged eval g {}).gatherPage p eval g v

def Part.gathered (x : Part) (eval : Bool) (v : Nat) : Bool := x.stagePages.all fun g => x.current eval v g

/-- The partition that a herd message names at a Keeper: formed, with a plan of that HERD. -/
def State.herdPart (s : State) (herd : Nat) (ok : Nat → Part → Bool) : Option Nat :=
  (List.range 8).find? fun p =>
    let x := s.part p
    x.formed && x.plan.isSome && x.herdId == herd && ok p x

/-- R27, R36: a gather request at the owner; at a spare that is restoring the owner it waits (R439). -/
def State.pageRequest (s : State) (i head : Nat) : State :=
  let v := bits head 39 0
  let g := bits head 75 48
  let k := (s.ctx i).kpr
  if (s.ctx i).state ≠ .opened then s
  else
    let s := s.took i 1 1
    match s.herdPart (bits head 47 40) fun p x =>
        (x.range g).any (fun e => prOwner e == s.selfId && prOwnerKpr e == k)
          && (x.named s.past v || v == x.version + 1 || s.beforeK3 p) with
    | none => s.msgError i
    | some p => s.requestPage k p g v i

/-- R29, R325: a gathered page arrives and is checked against the owner's digest; a page that fails is gathered again. -/
def State.pageArrives (s : State) (i head : Nat) (data : List Byte) : State :=
  let v := bits head 39 0
  let g := bits head 75 48
  if (s.ctx i).state ≠ .opened then s
  else
    let s := s.took i 0 2081
    let wants (x : Part) (eval : Bool) : Bool :=
      !x.current eval v g &&
        (if eval then x.eval.any fun w => w.version == v
         else (v == x.step && x.phase ≠ .idle) || x.held.isSome && v == x.step + 1)
    match s.herdPart (bits head 47 40) fun _ x => x.stagePages.contains g && (wants x false || wants x true) with
    | none => s.msgError i
    | some p =>
      let x := s.part p
      if data.length ≠ 2 ^ 20 + 16384 then s.msgError i
      else
        let w := writeBytes [] 0 (data.take (2 ^ 20))
        let e := writeBytes [] 0 (data.drop (2 ^ 20))
        let evals := [false, true].filter fun ev => wants x ev
        if digestW g v w e = BitVec.ofNat 128 (bits head 255 128) then
          s.forAll evals fun s ev =>
            s.modPart p fun x => x.setStaged ev g
              { version := v, bytes := writeBytes [] 0 data, scales := x.arrivedScales g head }
        else
          let k := match x.range g with | some r => prStageKpr r | none => 0
          let s := s.modKpr k fun y => { y with stagedFails := satAdd 16 y.stagedFails 1 }
          s.forAll (evals.take 1) fun s ev => s.gatherPage p ev g v

/-! ### Slow tier (R300, R304 to R306) -/

/-- R303: component `c` may rest in the slow tier when the components `cs` of its page go there: M and D where the plan's
page range says so, and W with M and D as a cold shard, while no stage of this module gathers the page, no open window
reads it and no request for it waits. -/
def State.restOk (s : State) (k p g : Nat) (cs : List Nat) (c : Nat) : Bool :=
  let x := s.part p
  let pg := s.opage k p g
  let e := (x.range g).getD 0
  let gone (d : Nat) : Bool := cs.contains d || pg.resid d == .slow || pg.resid d == .evict || (d == 1 && pg.frozen)
  pg.resid c == .hbm &&
    (match c with
      | 0 => bit e 82 && gone 1 && gone 2 && !x.stagePages.contains g && pg.waiting.isEmpty
      | 1 => !pg.frozen && (bit e 80 || (bit e 82 && gone 0))
      | _ => bit e 81 || (bit e 82 && gone 0))

def State.mayRest (s : State) (k p g : Nat) (cs : List Nat) : Bool := cs.all (s.restOk k p g cs)

/-- R303: those of the components `cs` of a page that may go: where W may not, M and D go by their own bits alone. -/
def State.mayLeave (s : State) (k p g : Nat) (cs : List Nat) : List Nat :=
  let cs := if cs.contains 0 && !s.restOk k p g cs 0 then cs.filter (· ≠ 0) else cs
  cs.filter (s.restOk k p g cs)

/-- R305: an eviction of a component begins, not behind a port marked down; it is deferred while the page's stamp is below the step being committed.
(DEDUCED, log entry 124) -/
def State.startEvict (s : State) (k p g c : Nat) : State :=
  let x := s.part p
  let pg := s.opage k p g
  if pg.resid c ≠ .hbm ∨ (s.tierPort (x.slowPort g - 1)).down = true then s
  else if x.phase = .commit ∧ pg.body.stamp ≤ x.step then
    s.modOpage k p g fun y => { y with evictLater := insertOnce c y.evictLater }
  else
    let data := x.compBytes s.past pg c
    let s := s.modOpage k p g fun y =>
      { y.setResid c .evict with
        slowDigest := (mibDigests c data).foldl (fun m d => sset 0 m d.1 d.2) y.slowDigest }
    s.transfer (x.slowPort g) (uioRequests data) ⟨k, p, g, c, true⟩

/-- Pages FIRST to FIRST + COUNT and components of a Keeper command (R468). -/
def cmdPages (params : Nat) : List Nat := (List.range (bits params 58 31 + 1)).map fun i => bits params 30 3 + i
def cmdComps (params : Nat) : List Nat := [0, 1, 2].filter fun c => bit params (59 + c)

/-- The Keeper of this module that owns a page. -/
def State.ownerKpr (s : State) (p g : Nat) : Option Nat :=
  match (s.part p).range g with
  | some e => if prOwner e = s.selfId then some (prOwnerKpr e) else none
  | none => none

/-- TIER_EVICT and TIER_FETCH complete when none of their components is still on the way. -/
def State.tierDone (s : State) (p : Nat) : State :=
  s.forAll (s.arb.inflight.filter fun f =>
      (f.cmd.opcode == 0x44 || f.cmd.opcode == 0x45) && bits f.cmd.packet.params.toNat 2 0 == p) fun s f =>
    let n := f.cmd.packet.params.toNat
    let busy := (cmdPages n).any fun g =>
      match s.ownerKpr p g with
      | none => false
      | some k => (cmdComps n).any fun c =>
        let pg := s.opage k p g
        if f.cmd.opcode = 0x44 then pg.resid c == .evict || pg.evictLater.contains c
        else pg.resid c == .fetch || pg.resid c == .slow
    if busy then s else s.final f.csn {}

/-- R304, R306: the data of a fetch arrives. -/
def State.fetchComplete (s : State) (k p g c : Nat) (data : List Byte) : State :=
  let x := s.part p
  let pg := s.opage k p g
  if pg.resid c ≠ .fetch ∨ pg.missing.contains c = true then s
  else
    let kept := pg.slowDigest.filter fun d => d.1 / 16 == c
    if kept = mibDigests c data then
      let s := s.modOpage k p g fun y =>
        { y.setResid c .hbm with
          body := setComp s.past y.frozen y.body c data, refetched := y.refetched.filter (· ≠ c)
          slowDigest := y.slowDigest.filter fun d => d.1 / 16 ≠ c }
      let s := s.modKpr k fun y => { y with fetches := satAdd 24 y.fetches 1 }
      let s := s.transferEnded (x.slowPort g) ⟨k, p, g, c, false⟩
      (s.serveWaiting k p g).tierDone p
    else
      let s := s.modKpr k fun y => { y with digestFails := satAdd 16 y.digestFails 1 }
      if pg.refetched.contains c then (s.transferEnded (x.slowPort g) ⟨k, p, g, c, false⟩).loseComp k p g c
      else ((s.modOpage k p g fun y => { y with refetched := insertOnce c y.refetched }).transferEnded (x.slowPort g)
        ⟨k, p, g, c, false⟩).transfer (x.slowPort g) (uioRequests data) ⟨k, p, g, c, false⟩

/-- R305: every write of an eviction has completed: the HBM space is released. Where the component has just become needed
it stays in HBM, and the slow copy stays valid beside it. (DEDUCED, log entry 142) -/
def State.evictComplete (s : State) (k p g c : Nat) : State :=
  let x := s.part p
  let pg := s.opage k p g
  let s := s.transferEnded (x.slowPort g) ⟨k, p, g, c, true⟩
  if pg.resid c = .hbm ∧ (pg.slowDigest.any fun d => d.1 / 16 == c) = true then
    s.modOpage k p g fun y => { y with slowValid := insertOnce c y.slowValid }
  else if pg.resid c ≠ .evict then s
  else
    (s.modOpage k p g fun y => { y.setResid c .slow with body := setComp s.past y.frozen y.body c [] }).tierDone p

/-- R302, R322: the slow-tier port of the park segment. -/
def Part.parkPort (x : Part) : Nat := bits ((x.sec 0x15).getD (bits x.service 10 5) 0) 1 0

/-- R300, R306, R322: port `t` + 1 is marked down: of a Keeper's pages, components being fetched through it are lost and those being
written to it stay in HBM; an image being parked stays, and pages of images being read back are lost. -/
def State.portLost (s : State) (k p t : Nat) : State :=
  let s := s.forAll ((s.part p).ownedBy s.selfId k) fun s g =>
    if (s.part p).slowPort g ≠ t + 1 then s
    else s.forAll [0, 1, 2] fun s c =>
      match (s.opage k p g).resid c with
      | .fetch => if (s.opage k p g).missing.contains c then s else s.loseComp k p g c
      | .evict => s.modOpage k p g fun y => y.setResid c .hbm
      | _ => s
  let s := if (s.part p).parkPort ≠ t + 1 then s
    else
      let lost := ((s.kpart k p).buckets.map fun b => (b.2.resend.map (·.2)).eraseDups.length).sum
      (s.modKpr k fun y => { y with lost := satAdd 16 y.lost lost }).modKpart k p fun z =>
        { z with buckets := (z.buckets.map (·.1)).foldl (fun m b =>
            smod {} m b fun w => { w with parking := false, resend := [], reread := [] }) z.buckets }
  s.tierDone p

/-- R300, R306: a request has no completion after 100 µs: retried once; the second timeout marks the port down. -/
def State.uioTimeout (s : State) (t : Nat) (request : UioRequest) : State :=
  if !s.tierPresent t then s
  else
    let again := (s.tierPort t).retried.contains request
    let s := s.modTier t fun y =>
      { y with
        timeouts := satAdd 16 y.timeouts 1
        retried := if again then y.retried else request :: y.retried, down := y.down || again
        transfers := if again then [] else y.transfers, waiting := if again then [] else y.waiting }
    if again then
      s.forAll (List.range 8) fun s p =>
        s.forAll ((s.part p).keepers) fun s k => s.portLost k p t
    else s.emit (.uio (t + 1) request.transfer.page request.transfer.comp request.transfer.write)

/-! ### Meanings -/

def execPageReq (ctx head : Nat) (s : State) : Host.Outcome State Fault Refusal := .next (s.pageRequest ctx head)

def execEvictComplete (k p page comp : Nat) (s : State) : Host.Outcome State Fault Refusal :=
  .next (s.evictComplete k p page comp)

def execUioTimeout (t : Nat) (request : UioRequest) (s : State) : Host.Outcome State Fault Refusal := .next (s.uioTimeout t request)

/-- R300: a slow-tier port's link is trained, at the width and rate it reached. -/
def execSlowTierLinkUp (t : Nat) (width : BitVec 2) (speed : Bool) (s : State) : Host.Outcome State Fault Refusal :=
  .next (if s.tierPresent t then
      s.modTier t fun y => { y with linkUp := true, width := width, speed := speed, down := false, retried := [] }
    else s)

end Sys2Proof.Machine
end

