-- ==== Sys2Proof/Machine/Array.lean ====
section
/-! DEFINITION. The array: laying a tile's operands onto virtual blocks and lambs, running a block (R88 to R101, R110 to
R128), accumulator images of a block (R55, R102 to R104), and the epilogue (R105, R106). -/

namespace Sys2Proof.Machine

/-- Rows of an operand: row i holds K elements. With T set, element k of row i lies at k × `m` + i (R162). -/
def operandRows (t : Bool) (m k : Nat) (xs : List Num) : List (List Num) :=
  if t then
    let a := xs.toArray
    (List.range m).map fun i => (List.range k).map fun j => a.getD (j * m + i) .zero
  else chunks k m xs

/-- What a block's run yields: the block, the events drawn by each cell, whether a lift was refused. -/
structure BlockRun where
  cells : Sparse Acc
  rc : TileRec
  events : Sparse Nat
  refused : Bool
  deriving DecidableEq, Repr

/-- R104: the record of a block or lamb. A ganged pair's LIFTS counts once, the pair being one element (DESIGN CHOICE,
log entry 149). -/
def satRec (folds lifts : Nat) (cells : List Acc) (gang explicit : Bool) : TileRec :=
  ⟨min (2 ^ 32 - 1) folds, min (2 ^ 16 - 1) lifts, cells.any (·.inexact), cells.any (·.loss),
    cells.any (fun a => a.special ≠ .finite), gang, explicit⟩

/-- Sets an anchor on the cells of a block that are still unset; SPECIAL is kept (R88, R90). -/
def setAnchor (cells : Sparse Acc) (idx : List Nat) (anchor : Nat) : Sparse Acc :=
  idx.foldl (fun m i => smod {} m i fun a => if a.anchor = 0 then { a with anchor := anchor } else a) cells

/-- Runs one block or lamb: rows of A, columns of B, the cell of each element (R117), `draw cell event` (R95).
`old` is the block so far, none when the continue flag is clear. `lambCells` are the cells of this tile. -/
def runBlock (gang : Bool) (anchor guard k : Nat) (draw : Nat → Nat → Nat) (events : Sparse Nat)
    (as bs : List (List Num)) (cellAt : Nat → Nat → Nat) (old : Sparse Acc) (oldRec : TileRec) : BlockRun :=
  let idx := (List.range as.length).flatMap fun i => (List.range bs.length).map fun j => cellAt i j
  let anchored := idx.any fun i => (sget {} old i).anchor ≠ 0
  let code := if anchor ≠ 0 then some anchor else autoAnchor guard (ceilDiv k 32) as bs
  let explicit := if anchored then oldRec.explicit else decide (anchor ≠ 0)
  let cells := if anchored then old else
    match code with
    | some c => setAnchor old idx c
    | none => old
  let folds0 := if anchored then oldRec.folds else 0
  let step := fun (st : BlockRun × Nat) (ij : (Nat × List Num) × (Nat × List Num)) =>
    let (r, folds) := st
    let c := cellAt ij.1.1 ij.2.1
    let a := addRow gang (draw c) ij.1.2 ij.2.2 ⟨sget {} r.cells c, sget 0 r.events c, 0, false, false⟩
    ({ r with
        cells := sset {} r.cells c a.el
        events := sset 0 r.events c a.events
        refused := r.refused || a.refused }, folds + a.folds)
  let ra := as.mapIdx fun i x => (i, x)
  let rb := bs.mapIdx fun j x => (j, x)
  let (r, folds) := (ra.flatMap fun x => rb.map fun y => (x, y)).foldl step (⟨cells, oldRec, events, false⟩, folds0)
  let els := idx.map fun i => sget {} r.cells i
  { r with rc := satRec folds (els.foldl (fun n a => n + a.lifts) 0) els gang explicit }

/-! ### L192 images (R55, R102, R104) -/

/-- The image of a block: 1,024 elements in cell order (DEDUCED, log entry 27), the status plane, and one record, or 16 for
a flock. A record that is not a lamb's shows the image's GANG (R104). -/
def blockImage (gang flock : Bool) (b : AccBlock) : List Byte :=
  let el (i : Nat) : Nat :=
    if gang then (sget {} b.cells (i - i % 2)).image true (i % 2 == 1) else (sget {} b.cells i).image false false
  let nib (i : Nat) : Nat := if gang && i % 2 == 1 then 0 else (sget {} b.cells i).status
  ((List.range 1024).flatMap fun i => leBytes 26 (el i))
    ++ ((List.range 512).map fun i => BitVec.ofNat 8 (nib (2 * i) + 16 * nib (2 * i + 1)))
    ++ ((List.range (if flock then 16 else 1)).flatMap fun i =>
      let r := sget {} b.recs i
      leBytes 8 (if flock then r else { r with gang := gang }).encode)

/-- Sets SPECIAL in the records of the cells at fault; `recOf` names a cell's record (R104). -/
def markRecs (recs : Sparse TileRec) (cells : List Nat) (recOf : Nat → Option Nat) : Sparse TileRec :=
  ((cells.filterMap recOf).eraseDups).foldl (fun m i => smod {} m i fun r => { r with special := true }) recs

/-- Reads a block's image: a malformed element becomes NaN, and its record shows SPECIAL (R103, R104). The second part
says that some element is malformed. -/
def blockOfImage (gang flock : Bool) (recOf : Nat → Option Nat) (img : List Byte) : AccBlock × Bool :=
  let els := (entriesOf 26 1024 img).toArray
  let plane := ((img.drop 26624).take 512).toArray
  let nib (i : Nat) : Nat := let b := (plane.getD (i / 2) 0).toNat; if i % 2 = 0 then b % 16 else b / 16
  let recs := entriesOf 8 (if flock then 16 else 1) (img.drop 27136)
  let read (i : Nat) : Acc × Bool :=
    if gang then Acc.ofPair (els.getD i 0) (els.getD (i + 1) 0) (nib i) (nib (i + 1))
    else Acc.ofImage (els.getD i 0) (nib i)
  let idx := (List.range 1024).filter fun i => !gang || i % 2 == 0
  let bad := idx.filter fun i => (read i).2
  (⟨idx.foldl (fun m i => sset {} m i (read i).1) [],
      markRecs ((recs.mapIdx fun i r => (i, r)).foldl (fun m (i, r) => sset {} m i (TileRec.decode r)) []) bad recOf⟩,
    !bad.isEmpty)

/-- The GANG bits and the reserved bits of an image's records (R104). -/
def imageRecords (flock : Bool) (img : List Byte) : List Nat :=
  entriesOf 8 (if flock then 16 else 1) (img.drop 27136)

/-! ### The epilogue (R105, R106) -/

/-- One output element before its rounding: the special path, or the exact value; `c` is none without fusion. On the special
path a finite accumulator enters with SA and SB and without SO (DESIGN CHOICE, log entry 173). -/
def epilogueElem (gang kZero : Bool) (fuse : Nat) (a : Acc) (c : Option Num) (sa sb so : Num) : Num :=
  if kZero then
    match fuse, c with
    | 1, some c => c.divExact so
    | 2, some _ => .zero
    | _, _ => .zero
  else
    let cBad : Bool := match c with | some c => c.special | none => false
    if a.special ≠ .finite ∨ cBad = true then
      let x := if a.special = .finite then ((Num.ofRat (a.value gang)).mulExact sa).mulExact sb else a.special.num
      match fuse, c with
      | 1, some c => x.addExact c
      | 2, some c => x.mulExact c
      | _, _ => x
    else
      let v := ((Num.ofRat (a.value gang)).mulExact sa).mulExact sb
      let v := match fuse, c with
        | 1, some c => v.addExact c
        | 2, some c => v.mulExact c
        | _, _ => v
      let v := v.divExact so
      match v with
      | .fin _ m => if m = 0 then .zero else v
      | _ => v

end Sys2Proof.Machine
end

