-- ==== Sys2Proof/Machine/TileOps.lean ====
section
/-! DEFINITION. The tile operations of a station: what each operation does when it issues (R164 to R169). -/

namespace Sys2Proof.Machine

/-! ### Accumulator images (R118, R119, R151, R182) -/

/-- Offset in the station's bank of the image of a virtual block: each copy is NB consecutive images of 27,392 B (R151). -/
def Part.imageOffset (x : Part) (st tile block copy : Nat) : Option Nat :=
  match x.accEntry st tile with
  | some e => (x.regionOf st (bits e 21 16)).map fun d => bits d 23 0 + 27392 * (copy * bits e 42 32 + block)
  | none => none

/-- R119, R182: writes a virtual block to its image: after a shadow, to the copy that the shadow does not name
(DESIGN CHOICE, log entry 153). -/
def State.writeOut (s : State) (p st tile block : Nat) : State :=
  let x := s.part p
  let t := sget {} (s.station st).core.accs tile
  let old := sget 0 t.copies block
  let copy := if old = 0 then 0 else if block ∈ t.fresh then old - 1 else 2 - old
  match x.imageOffset st tile block copy with
  | none => s
  | some off =>
    let ent := (x.accEntry st tile).getD 0
    (s.writeBank st off (blockImage (bit ent 13) (bit ent 12) (sget {} t.blocks block))).modCore st fun c =>
      { c with accs := smod {} c.accs tile fun t =>
          { t with
            copies := sset 0 t.copies block (copy + 1), fresh := insertOnce block t.fresh
            unset := t.unset.filter (· ≠ block) } }

/-- R119: the resident block is written out where the array is about to hold another block than `keep`. -/
def State.writeOutResident (s : State) (p st : Nat) (keep : Nat × Nat) : State :=
  match (s.station st).core.resident with
  | some (t, b) => if (t, b) = keep then s else s.writeOut p st t b
  | none => s

/-- The effective continue flag (R160): CONT, or STEPACC in any micro-step or pass but the first. -/
def effCont (e : OpEntry) : Bool := tmCont e.op.toNat || (opStepAcc e.op.toNat && e.micro ≠ 0)

/-- A tile as a TEPI sees it: with the layout of the last TMUL on it or, where none has run on it, of the TMUL that plan load
takes for it (R105; DEDUCED, log entry 207). -/
def Part.laidOut (x : Part) (st : Nat) (e : OpEntry) (tile : Nat) (t : AccTile) : AccTile :=
  if t.ran then t
  else match x.layoutOp st e.script e.index tile with
    | none => t
    | some o =>
      let gang := x.tmulGang st o
      if tmFlock o then { t with m := tmM o - 1, n := 0, fold := 0, gang := gang, flock := true }
      else { t with m := tmM o, n := tmN o, fold := chooseFold gang (tmM o) (tmN o) (tmFold o), gang := gang, flock := false }

/-- R104, R114: the virtual blocks of the tile that an entry works on: of its own layout for a TMUL, of the tile's for a TEPI,
and all that the tile has images of for a TACC. -/
def Part.layoutBlocks (x : Part) (st : Nat) (c : Core) (e : OpEntry) (tile : Nat) : Nat :=
  let op := e.op.toNat
  let blocks (flock gang : Bool) (m n fold : Nat) : Nat := if flock then 1 else numBlocks gang m n fold
  match opCode op with
  | 0x01 =>
    let gang := x.tmulGang st op
    blocks (tmFlock op) gang (tmM op) (tmN op) (chooseFold gang (tmM op) (tmN op) (tmFold op))
  | 0x02 =>
    let t := x.laidOut st e tile (sget {} c.accs tile)
    blocks t.flock t.gang t.m t.n t.fold
  | _ => x.accNb st tile

/-- Virtual blocks whose images an entry reads: those of its layout that are not resident, where a TMUL continues, a TEPI
or a TACC reads (R119, R170). -/
def Part.imagesRead (x : Part) (st : Nat) (c : Core) (e : OpEntry) : List (Nat × Nat) :=
  let op := e.op.toNat
  let reads := match opCode op with
    | 0x01 => effCont e && (tmFlock op || tmK op ≠ 0)
    | 0x02 => true
    | 0x09 => !bit op 8
    | _ => false
  match opAcc op with
  | some t =>
    if reads then
      ((List.range (x.layoutBlocks st c e t)).map fun b => (t, b)).filter fun i =>
        c.resident != some i && !(sget ({} : AccTile) c.accs t).unset.contains i.2
    else []
  | none => []

/-- An access to the station's own bank that meets a poisoned or uncorrectable word, accumulator images included
(R180, R276). -/
def State.readsBad (s : State) (p st : Nat) (probe : Bool) (e : OpEntry) : Bool :=
  let x := s.part p
  let c := (s.station st).core
  ((x.reads st probe e).any fun a =>
    match a.ref with
    | .bank r tile _ =>
      match x.regionOf st r with
      | some d => bits d 47 32 == st && s.bankBad st (tileOffset d tile) (regionTileBytes d * a.images)
      | none => false
    | _ => false)
  || ((x.imagesRead st c e).any fun i =>
    match x.imageOffset st i.1 i.2 (sget 0 (sget ({} : AccTile) c.accs i.1).copies i.2 - 1) with
    | some off => s.bankBad st off 27144
    | none => false)

/-! ### Issue -/

/-- R180: a station records an error, keeps the first, stops issuing and reports to its field controller. -/
def State.stationError (s : State) (st code : Nat) : State :=
  (s.modStation st fun x =>
      { x with
        error := if x.error = 0 then code else x.error, stopped := true
        errorAt := if x.error = 0 then s.clk.rootTime else x.errorAt }).emit (.report st code (errorHeader st))

/-- R69, R107: the first training-script operation of a step clears the flags. -/
def State.beginOp (s : State) (st : Nat) (e : OpEntry) : State :=
  s.modCore st fun c =>
    if e.script.training && !c.begun then { c with begun := true, flags := c.flags.beginStep } else c

def State.dropEntry (s : State) (st id : Nat) : State :=
  s.modCore st fun c => { c with queue := c.queue.filter fun e => e.id ≠ id }

/-- R231, R241: reserves space for the tiles of remote banks that an entry reads and asks for those not yet asked for, each
as a range of one tile; the operation's number names the space (DESIGN CHOICE, log entry 165). -/
def State.askRemote (s : State) (p st : Nat) (e : OpEntry) (tiles : List (Nat × Nat × Nat)) : State :=
  s.forAll tiles fun s t =>
    if (s.station st).bankReads.any fun b => b.owner == t.1 && b.region == t.2.1 && b.tile == t.2.2 && b.op == e.id then
      s
    else
      (s.modStation st fun x => { x with bankReads := x.bankReads ++ [⟨t.1, t.2.1, t.2.2, e.id, none⟩] }).emit
        (.bankRequest st t.1 t.2.1 t.2.2 1 (e.id % 1024) ((s.part p).requestHeader st t.1 t.2.1 (e.id % 1024)))

/-- Every remote tile of an entry has arrived. -/
def Station.arrived (x : Station) (e : OpEntry) (tiles : List (Nat × Nat × Nat)) : Bool :=
  tiles.all fun t => x.bankReads.any fun b =>
    b.owner == t.1 && b.region == t.2.1 && b.tile == t.2.2 && b.op == e.id && b.data.isSome

/-! ### TMUL (R88 to R101, R110 to R128, R164) -/

/-- The key of a lift's or fold's random bits (R95). -/
def Part.accDraw (x : Part) (st micro tile cell event : Nat) : Nat :=
  (⟨x.seed, x.step, 0, st, 0xFFFF⟩ : RandKey).draw (accIndex micro tile cell event)

/-- Streams of the operands that hold a NaN or an infinity; 0xFFFE for a slot or a bank. (DEDUCED, log entry 58) -/
def badStreams (l : List (Ref × List Num)) : List Nat :=
  l.filterMap fun (r, xs) =>
    if xs.any Num.special then some (match r with | .stream id => id | _ => 0xFFFE) else none

/-- R69, R71: an operation meets specials on several streams at once; the lower identifier is recorded. -/
def Flags.raiseAll (f : Flags) (sc : Script) (ids : List Nat) : Flags :=
  match ids with
  | [] => f
  | i :: is => f.raiseNonfinite sc (is.foldl min i)

/-- R67, R69: the flags of operands converted to FP32 on input. -/
def Flags.ofInput (f : Flags) (sc : Script) (ids : List Nat) (saturate : Bool) : Flags :=
  let f := f.raiseAll sc ids
  if saturate then f.raiseSaturate sc else f

/-- Counts cycles in which products are added, and cycles of write-out, load and mark-unset (R119 to R121, R135). -/
def State.addCycles (s : State) (st product exchange : Nat) : State :=
  let s := s.modStation st fun x =>
    { x with productCc := satAdd 32 x.productCc product, exchangeCc := satAdd 32 x.exchangeCc exchange }
  s.modField (stField st) fun f =>
    { f with productTotal := satAdd 64 f.productTotal product, exchangeTotal := satAdd 64 f.exchangeTotal exchange }

/-- R112, R115: the cycles from a K-group's injection to the last cell it reaches: cell (i, j) of an internal lamb adds it
i + j cycles later, over the cells that hold an element of the block's `r` rows and `c` columns. -/
def blockReach (gang : Bool) (fold r c : Nat) : Nat :=
  let (lh, lw) := match fold with
    | 2 => (16, 8)
    | 3 => (8, 16)
    | 4 => (8, 8)
    | 5 => (8, 8)
    | _ => (32, 32)
  min lh r + min lw (if gang then 2 * c else c) - 2

/-- R491: the cycle in which K-group `i` is injected, after the first: n of every 64 cycles inject one, spread evenly. (DESIGN CHOICE,
log entry 212) -/
def injectAt (gate i : Nat) : Nat := 64 * i / gate

/-- Cycles in which `groups` K-groups are injected. -/
def injectCycles (gate groups : Nat) : Nat := if groups = 0 then 0 else injectAt gate (groups - 1) + 1

/-- Root periods in a cycle of a station's core (R477). -/
def State.corePeriod (s : State) (st : Nat) : Nat := s.clk.divider (westHalf (stField st))

/-- R491: n of the issue gate of a station's core. -/
def State.issueGate (s : State) (st : Nat) : Nat := max 8 (min 64 (s.region (stField st)).issue)

/-- What some spans leave of the span `q`. -/
def uncovered : List (Nat × Nat) → Nat × Nat → List (Nat × Nat)
  | [], q => if q.1 < q.2 then [q] else []
  | r :: rs, q => uncovered rs (q.1, min q.2 r.1) ++ uncovered rs (max q.1 r.2, q.2)

/-- The time that some spans cover. -/
def coveredTime : List (Nat × Nat) → Nat
  | [] => 0
  | q :: rest => ((uncovered rest q).map fun r => r.2 - r.1).sum + coveredTime rest

/-- R135: counts the running TMUL's cycles before the root time `t`; a cycle in which several lambs add counts once. -/
def State.countBusy (s : State) (st t : Nat) : State :=
  let c := (s.station st).core
  let cycles (exchange : Bool) : Nat :=
    coveredTime ((c.busy.filter fun b => b.exchange == exchange).map fun b => (b.from', min b.to' t)) / s.corePeriod st
  (s.addCycles st (cycles false) (cycles true)).modCore st fun c =>
    { c with busy := (c.busy.map fun b => { b with from' := max b.from' t }).filter fun b => b.from' < b.to' }

/-- R135: counts all of the running TMUL's cycles: it retires. -/
def State.countAllBusy (s : State) (st : Nat) : State :=
  s.countBusy st ((s.station st).core.busy.foldl (fun m b => max m b.to') 0)

/-- R112, R491: the spans in which a block adds products, from root time `t0` on, of `d` periods a cycle: one span where the
K-groups follow each other closely, else one for each. -/
def productSpans (part t0 gate groups reach d : Nat) : List Busy :=
  if 64 ≤ gate * (reach + 1) then [⟨part, t0, t0 + (injectCycles gate groups + reach) * d, false⟩]
  else (List.range groups).map fun i => ⟨part, t0 + injectAt gate i * d, t0 + (injectAt gate i + reach + 1) * d, false⟩

/-- R121: the cycles of a TMUL that is not a flock from root time `t0` on, of `d` periods each, under the issue gate: w0, and for each block its
mark-unset or load, the anchor scan, its products, and its write-out unless it is the last. -/
def tmulBusy (gang : Bool) (fold m n groups gate per w0 : Nat) (resident : Bool) (scan : Nat → Bool) (t0 d : Nat) :
    List Busy :=
  let (h, w) := foldShape gang fold
  let nbc := ceilDiv n w
  let nb := ceilDiv m h * nbc
  let span (part start len : Nat) (exchange : Bool) : Busy := ⟨part, t0 + start * d, t0 + (start + len) * d, exchange⟩
  ((List.range nb).foldl
    (fun (l : List Busy × Nat) b =>
      let p := if b = 0 ∧ resident = true then 0 else per
      let a := if scan b then 4 else 0
      let reach := blockReach gang fold (min h (m - b / nbc * h)) (min w (n - b % nbc * w))
      let fin := l.2 + p + a + injectCycles gate groups + foldSkew fold
      let out := if b + 1 = nb then 0 else 107
      (l.1 ++ span (b + 1) l.2 p true :: productSpans (b + 1) (t0 + (l.2 + p + a) * d) gate groups reach d
          ++ [span (b + 1) fin out true], fin + out))
    ([span 0 0 w0 true], w0)).1

/-- w0 of R121: the write-out of a block of another tile that is resident when a TMUL starts. -/
def otherResident (c : Core) (acc : Nat) : Nat :=
  match c.resident with
  | some (t, _) => if t = acc then 0 else 107
  | none => 0

/-- The record of the cell at an index of an accumulator tile's image: record 0, or the lamb whose blocks hold it by the
layout of the tile's TMUL (R124, R128). -/
def recordOf (flock : Option Nat) (cell : Nat) : Option Nat :=
  match flock with
  | none => some 0
  | some fl => (lambs fl).find? fun i =>
    let b := lambByte fl i
    let (h, w) := lambShape (bits b 6 4)
    let r := cell / 32
    let c := cell % 32
    8 * bits b 1 0 ≤ r && r < 8 * bits b 1 0 + h && 8 * bits b 3 2 ≤ c && c < 8 * bits b 3 2 + w

/-- The flock whose layout an accumulator tile has, by the TMUL before an operation. -/
def Part.tileFlock (x : Part) (st : Nat) (e : OpEntry) (tile : Nat) : Nat :=
  match x.layoutOp st e.script e.index tile with
  | some o => x.flock (tmM o - 1)
  | none => 0

/-- R119: loads the images that an entry reads into the blocks of its tile. A malformed element, which only STORE_WRITE can
have put there, is read as TACC reads one (R103; DEDUCED, log entry 174). -/
def State.loadImages (s : State) (p st : Nat) (e : OpEntry) : State :=
  let x := s.part p
  s.forAll (x.imagesRead st (s.station st).core e) fun s i =>
    match x.imageOffset st i.1 i.2 (sget 0 (sget ({} : AccTile) (s.station st).core.accs i.1).copies i.2 - 1) with
    | none => s
    | some off =>
      let ent := (x.accEntry st i.1).getD 0
      let recOf := recordOf (if bit ent 12 then some (x.tileFlock st e i.1) else none)
      let (blk, bad) := blockOfImage (bit ent 13) (bit ent 12) recOf (s.readBank st off 27264)
      s.modCore st fun c =>
        { c with
          accs := smod {} c.accs i.1 fun t => { t with blocks := sset {} t.blocks i.2 blk }
          flags := if bad then c.flags.raiseNonfinite e.script 0xFFFE else c.flags }

/-- A TMUL that is not a flock: its virtual blocks in order (R118), each block but the last
written out (R119). K = 0 leaves the tile for R106 (DEDUCED, log entry 154). (DEDUCED, log entry 56)
(DEDUCED, log entry 57) -/
def runTmul (s : State) (p st : Nat) (e : OpEntry) : State :=
  let s := s.loadImages p st e
  let x := s.part p
  let op := e.op.toNat
  let gang := x.tmulGang st op
  let m := tmM op
  let n := tmN op
  let k := tmK op
  let acc := tmAcc op
  let fold := chooseFold gang m n (tmFold op)
  let (h, w) := foldShape gang fold
  let cont := effCont e
  let xs := s.readOperand p st e (tmA op) (m * k) false
  let ys := s.readOperand p st e (tmB op) (n * k) false
  let as := operandRows (tmA op).transposed m k xs
  let bs := operandRows (tmB op).transposed n k ys
  let nbc := ceilDiv n w
  let nb := ceilDiv m h * nbc
  let tile := sget {} (s.station st).core.accs acc
  let micro := x.keyMicro st e
  let key := countKey e.run micro
  let events := if tile.evKey = key then tile.events else []
  let d := s.corePeriod st
  let now := s.clk.rootTime
  if k = 0 then
    s.modCore st fun c =>
      { c with
        busy := if cont then [] else [⟨0, now, now + nb * d, true⟩]
        accs := sset {} c.accs acc
          { tile with
            blocks := if cont then tile.blocks else []
            unset := if cont then tile.unset else List.range (x.accNb st acc)
            m := m, n := n, fold := fold, gang := gang, kZero := true, flock := false, ran := true
            events := events, evKey := key } }
  else
    let run := (List.range nb).foldl
      (fun (st' : Sparse AccBlock × Sparse Nat × Bool) b =>
        let (blocks, events, refused) := st'
        let old : AccBlock := if cont then sget {} blocks b else {}
        let r := runBlock gang (tmAnchor op) (tmGuard op) k (fun c ev => x.accDraw st micro acc c ev) events
          ((as.drop (b / nbc * h)).take h) ((bs.drop (b % nbc * w)).take w)
          (fun i j => cellIndex gang fold i j) old.cells (sget {} old.recs 0)
        (sset {} blocks b ⟨r.cells, sset {} [] 0 r.rc⟩, r.events, refused || r.refused))
      ((if cont then tile.blocks else []), events, false)
    let (blocks, events, refused) := run
    let rate := rho (x.descOf st (tmA op)).fmt (x.descOf st (tmB op)).fmt
    let w0 := otherResident (s.station st).core acc
    let firstIn := (s.station st).core.resident == some (acc, 0)
    let per := if cont then 107 else 1
    let scan (b : Nat) : Bool :=
      tmAnchor op == 0 && !(cont && (sget ({} : AccBlock) tile.blocks b).cells.any fun c => c.2.anchor ≠ 0)
    let ids := badStreams [(tmA op, xs), (tmB op, ys)]
    let s := (s.writeOutResident p st (acc, 0)).modCore st fun c =>
      { c with
        busy := tmulBusy gang fold m n (ceilDiv k rate) (s.issueGate st) per w0 firstIn scan now d
        accs := smod {} c.accs acc fun t =>
          { t with
            blocks := blocks, m := m, n := n, fold := fold, gang := gang, kZero := false, flock := false, ran := true
            unset := [], events := events, evKey := key }
        resident := some (acc, nb - 1)
        flags :=
          (let f := c.flags.raiseAll e.script ids
           if refused then f.refusedLift e.script else f) }
    let s := s.modCore st fun c => c.modEntry e.id fun g => { g with wroteOut := decide (w0 ≠ 0) }
    s.forAll (List.range (nb - 1)) fun s b => s.writeOut p st acc b

/-! ### Flocks (R123 to R128) -/

/-- The flock that an entry's TMUL names (R165). -/
def Part.flockOf (x : Part) (e : OpEntry) : Nat := x.flock (tmM e.op.toNat - 1)

def lambCode (state : BitVec 32) (lamb : Nat) : Nat := bits state.toNat (2 * lamb + 1) (2 * lamb)

/-- R134: LAMB_STATE with the code of each lamb changed. -/
def mapLambs (f : Nat → Nat → Nat) (state : BitVec 32) : BitVec 32 :=
  BitVec.ofNat 32 ((List.range 16).foldl (fun n i => n + f i (lambCode state i) * 2 ^ (2 * i)) 0)

/-- R132: a lamb is complete from the root time that its end gives. -/
def State.lambOver (s : State) (st lamb : Nat) : Bool :=
  let t := sget 0 (s.station st).core.lambEnd lamb
  decide (t ≠ 0 ∧ t ≤ s.clk.rootTime)

/-- R127, R133: the running lambs whose end has come are COMPLETE. -/
def State.settleLambs (s : State) (st : Nat) : State :=
  s.modStation st fun y =>
    let done := y.core.lambsLeft.filter (s.lambOver st)
    { y with
      lambState := mapLambs (fun i c => if done.contains i then 0 else c) y.lambState
      core := { y.core with lambsLeft := y.core.lambsLeft.filter fun i => !done.contains i } }

/-- R112, R124: S, the rows and columns of the lamb's shape. -/
def lambSkew (entry : Nat) : Nat := (lambShape (bits entry 6 4)).1 + (lambShape (bits entry 6 4)).2

/-- R127: runs one lamb of a flock, which has started and has all its tiles, on its own rectangle. It occupies its blocks for
1 + A + ceil(K / ρ) + S cycles, longer under the issue gate (R491), and longer where its last tiles came later than they were needed (DEDUCED, log entry 152). -/
def State.runLamb (s : State) (p st : Nat) (e : OpEntry) (lamb : Nat) : State :=
  let x := s.part p
  let op := e.op.toNat
  let fl := x.flockOf e
  let gang := x.tmulGang st op
  let acc := tmAcc op
  let t := lambTile fl lamb
  let entry := lambByte fl lamb
  let tile := sget {} (s.station st).core.accs acc
  let blk := sget {} tile.blocks 0
  let micro := x.keyMicro st e
  let k := ltK t
  let d := s.corePeriod st
  let now := s.clk.rootTime
  let start := sget 0 (s.station st).core.lambFrom lamb - 1
  if k = 0 then s.modCore st fun c => { c with lambEnd := sset 0 c.lambEnd lamb (start + d) }
  else
    let r0 := 8 * bits entry 1 0
    let c0 := 8 * bits entry 3 2
    let xs := s.readOperand p st e (.stream (ltA t)) (ltM t * k) false
    let ys := s.readOperand p st e (.stream (ltB t)) (ltN t * k) false
    let cellAt := fun r c => 32 * (r0 + r) + c0 + (if gang then 2 * c else c)
    let scans := ltAnchor t = 0 ∧ ((List.range (ltM t)).any fun i => (List.range (ltN t)).any fun j =>
      (sget {} blk.cells (cellAt i j)).anchor ≠ 0) = false
    let r := runBlock gang (ltAnchor t) (ltGuard t) k (fun c ev => x.accDraw st micro acc c ev) tile.events
      (operandRows false (ltM t) k xs) (operandRows false (ltN t) k ys) cellAt blk.cells (sget {} blk.recs lamb)
    let groups := ceilDiv k (rho (x.descOf st (.stream (ltA t))).fmt (x.descOf st (.stream (ltB t))).fmt)
    let gate := s.issueGate st
    let inject := injectCycles gate groups
    let a := if scans then 4 else 0
    let reach := ltM t + (if gang then 2 * ltN t else ltN t) - 2
    let last := max (start + (1 + a + inject + reach) * d) (now + reach * d)
    let ids := badStreams [(.stream (ltA t), xs), (.stream (ltB t), ys)]
    s.modCore st fun c =>
      { c with
        busy := c.busy ++ productSpans (lamb + 1) (last - (inject + reach) * d) gate groups reach d
        accs := smod {} c.accs acc fun tile =>
          { tile with blocks := sset {} tile.blocks 0 ⟨r.cells, sset {} blk.recs lamb r.rc⟩, events := r.events }
        lambEnd := sset 0 c.lambEnd lamb
          (max (start + (1 + a + inject + lambSkew entry) * d) (now + lambSkew entry * d))
        flags :=
          (let f := c.flags.raiseAll e.script ids
           if r.refused then f.refusedLift e.script else f) }

/-- The TMUL that the array runs. -/
def Core.runningTmul (c : Core) : Option OpEntry :=
  c.queue.find? fun e => e.issued && !e.yielded && opCode e.op.toNat == 1

/-- R127: the lambs of the running flock that have not started start once their own first tiles are present, not before the
array is free for them; those that have all their tiles run. A lamb whose continue flag is clear marks its blocks unset in
its first cycle (R119, R135). -/
def State.startLambs (s : State) (p st : Nat) : State :=
  match (s.station st).core.runningTmul with
  | none => s
  | some e =>
    let y := s.station st
    if tmFlock e.op.toNat = false ∨ y.stopped ∨ y.fenced ∨ y.error ≠ 0 ∨ y.interimRuns then s
    else
      let starting := y.core.lambsLeft.filter fun i => sget 0 y.core.lambFrom i == 0 && s.lambCanStart p st e i
      let d := s.corePeriod st
      let s := s.modCore st fun c =>
        let t := max s.clk.rootTime c.flockBase
        { c with
          lambFrom := starting.foldl (fun m i => sset 0 m i (t + 1)) c.lambFrom
          busy := c.busy ++ (if effCont e then [] else starting.map fun i => ⟨i + 1, t, t + d, true⟩) }
      let c := (s.station st).core
      s.forAll (c.lambsLeft.filter fun i =>
        sget 0 c.lambFrom i ≠ 0 && sget 0 c.lambEnd i == 0 && s.lambReady p st e i) fun s i => s.runLamb p st e i

/-- R104: a flock's block whose present lambs' records show GANG, as they do before a flock TMUL has run on it too. -/
def AccBlock.ganged (b : AccBlock) (gang : Bool) (fl : Nat) : AccBlock :=
  { b with recs := (lambs fl).foldl (fun m i => smod {} m i fun r => { r with gang := gang }) b.recs }

/-- A flock TMUL starts (R123 to R128): its present lambs are RUNNING, their records show GANG, and those whose tiles are
present start, after w0 and the load of a continued flock. Where every lamb has K = 0 nothing is written out or
loaded (R120, R127). -/
def runFlock (s : State) (p st : Nat) (e : OpEntry) : State :=
  let s := s.loadImages p st e
  let x := s.part p
  let op := e.op.toNat
  let fl := x.flockOf e
  let gang := x.tmulGang st op
  let acc := tmAcc op
  let cont := effCont e
  let tile := sget {} (s.station st).core.accs acc
  let key := countKey e.run (x.keyMicro st e)
  let idle := (lambs fl).all fun i => ltK (lambTile fl i) = 0
  let w0 := if idle then 0 else otherResident (s.station st).core acc
  let resident := (s.station st).core.resident == some (acc, 0)
  let load := if !cont || idle || resident then 0 else 107
  let s := if idle then s else s.writeOutResident p st (acc, 0)
  let d := s.corePeriod st
  let now := s.clk.rootTime
  let s := s.modStation st fun y =>
    { y with
      lambState := mapLambs (fun i _ => if lambPresent fl i then 1 else 0) 0
      retryFault := false, lambFaultAt := 0, wholeFaultAt := 0, lambFaultNow := 0 }
  let s := s.modCore st fun c =>
    { c with
      accs := smod {} c.accs acc fun t =>
        { t with
          blocks := sset {} [] 0 ((if cont then sget {} t.blocks 0 else {} : AccBlock).ganged gang fl)
          m := tmM op - 1, n := 0, fold := 0, gang := gang, flock := true, kZero := false, faulted := [], ran := true
          unset := if idle && !cont then [0] else if cont then t.unset else []
          events := if tile.evKey = key then tile.events else [], evKey := key }
      resident := if idle then c.resident else some (acc, 0)
      lambsLeft := lambs fl
      flockBase := now + (w0 + load) * d
      lambFrom := [], lambEnd := []
      busy := [⟨0, now, now + (w0 + load) * d, true⟩] }
  s.startLambs p st

def effTmul (s : State) (p st : Nat) (e : OpEntry) : State :=
  if tmFlock e.op.toNat then runFlock s p st e else runTmul s p st e

/-! ### TEPI (R105 to R107, R166) -/

/-- The elements of a tile in output order, with the block and cell of each. -/
def AccTile.elem (t : AccTile) (i j : Nat) : Acc :=
  let (h, w) := foldShape t.gang t.fold
  let b := i / h * ceilDiv t.n w + j / w
  sget {} (sget {} t.blocks b).cells (cellIndex t.gang t.fold (i % h) (j % w))

def AccTile.lambElem (t : AccTile) (fl lamb i j : Nat) : Acc :=
  let b := lambByte fl lamb
  sget {} (sget {} t.blocks 0).cells
    (32 * (8 * bits b 1 0 + i) + 8 * bits b 3 2 + (if t.gang then 2 * j else j))

/-- R69, R107: the flags of an epilogue: special values met, and the status records passed. -/
def Flags.epilogue (f : Flags) (sc : Script) (recs : List TileRec) (ids : List Nat) : Flags :=
  (recs.foldl (fun f r => f.addRecord sc r) f).raiseAll sc ids

/-- TEPI on the layout of its tile; the records of the blocks of that layout pass it (R107). The fused operand C is read as log
entry 59 says (DEDUCED). -/
def effTepi (s : State) (p st : Nat) (e : OpEntry) : State :=
  let s := s.loadImages p st e
  let x := s.part p
  let op := e.op.toNat
  let t := x.laidOut st e (teAcc op) (sget {} (s.station st).core.accs (teAcc op))
  let ev := e.script = .eval
  let sa := x.scaleOf ev (teSA op)
  let sb := x.scaleOf ev (teSB op)
  let so := x.scaleOf ev (teSO op)
  let one : Num := .fin false 1
  if teFlock op then
    let fl := x.flock t.m
    let recs := ((lambs fl).filter fun i => ltK (lambTile fl i) ≠ 0).map fun i => sget {} (sget {} t.blocks 0).recs i
    let s := s.modCore st fun c => { c with flags := c.flags.epilogue e.script recs [] }
    s.forAll (lambs fl) fun s i =>
      let lt := lambTile fl i
      let xs := (List.range (ltM lt)).flatMap fun r => (List.range (ltN lt)).map fun c =>
        epilogueElem t.gang (ltK lt = 0 && !t.faulted.contains i) 0 (t.lambElem fl i r c) none sa sb so
      s.writeResult p st e 0 (.stream (ltOut lt)) (some one) xs
  else
    let cs := if teC op = .none then [] else s.readOperand p st e (teC op) (t.m * t.n) false
    let ca := cs.toArray
    let xs := (List.range t.m).flatMap fun i => (List.range t.n).map fun j =>
      let c := if teC op = .none then none else some (ca.getD (i * t.n + j) .zero)
      epilogueElem t.gang t.kZero (teFuse op) (t.elem i j) c sa sb so
    let recs := (List.range (numBlocks t.gang t.m t.n t.fold)).map fun b => sget {} (sget {} t.blocks b).recs 0
    let s := s.modCore st fun c =>
      { c with flags := c.flags.epilogue e.script (if t.kZero then [] else recs) (badStreams [(teC op, cs)]) }
    s.writeResult p st e 0 (teOut op) (some one) xs

/-! ### Movers (R564) -/

/-- The padding of a destination image beyond the source's elements: +0, with scale code 0 for padding blocks. -/
def refit (src dst : Space) (img : List Byte) : List Byte :=
  let d := dst.desc
  let k := min src.elems dst.elems
  let codes := rawElems src.desc img k
  let body := leBytes (elemBytes d.fmt dst.elems) (pack d.fmt.elemBits codes)
  let side :=
    if d.mx then
      ((scaleCodes src.desc img src.elems).take (ceilDiv k 32))
        ++ List.replicate (ceilDiv dst.elems 32 - ceilDiv k 32) 0
    else if d.fmt = .l192 then
      ((img.drop (elemBytes d.fmt src.elems)).take (ceilDiv k 2))
        ++ List.replicate (ceilDiv dst.elems 2 - ceilDiv k 2) 0
        ++ (img.drop (elemBytes d.fmt src.elems + ceilDiv src.elems 2)).take 128
    else []
  let all := body ++ side
  all.take dst.bytes ++ List.replicate (dst.bytes - all.length) 0

/-- Some element of an image is a NaN or an infinity; of an L192 image by its status plane (R69, R100). -/
def imageSpecial (a : Space) (img : List Byte) : Bool :=
  match a.desc.fmt with
  | .l192 =>
    let plane := (img.drop (elemBytes .l192 a.elems)).take (ceilDiv a.elems 2)
    plane.any fun b => bits b.toNat 3 2 ≠ 0 || bits b.toNat 7 6 ≠ 0
  | .mw16 => false
  | _ => (decodeImage a.desc a.elems img a.elems).any Num.special

/-- TLOAD, TSTORE, TSEND and TRECV move COUNT + 1 images in order and convert nothing. Elements carried onto a stream
count for R75. -/
def effMove (s : State) (p st : Nat) (e : OpEntry) : State :=
  let x := s.part p
  let op := e.op.toNat
  match x.space st (opSrc1 op), x.space st (opDst op) with
  | some a, some b =>
    let source := s.sourceImages p st e (imgs (opSrc1 op) (opCount op))
    let images := source.map (refit a b)
    let met := (source.any (imageSpecial a)) = true
    let s := if met then
        s.modCore st fun c =>
          { c with flags := c.flags.raiseNonfinite e.script (match opSrc1 op with | .stream id => id | _ => 0xFFFE) }
      else s
    let s := match opDst op with
      | .stream id =>
        s.modCore st fun c => c.carry id (countKey e.run (x.keyMicro st e)) (b.elems * images.length)
      | _ => s
    s.writeImages p st (opDst op) images
  | _, _ => s

/-! ### TVEC, TFUN, TSCALE -/

def effVec (s : State) (p st : Nat) (e : OpEntry) : State :=
  let x := s.part p
  let op := e.op.toNat
  let (r, c) := x.opShape st op
  let v := opVop op
  let a := s.readOperand p st e (opSrc1 op) (r * c) true
  let b := if opSrc2 op = .none then [] else s.readOperand p st e (opSrc2 op) (vecBn v r c) true
  let d := if opSrc3 op = .none then [] else s.readOperand p st e (opSrc3 op) (r * c) true
  let ys := vecOp v c r a b d (x.scaleOf (e.script = .eval) (opAux op))
  let sat := s.operandSaturates p st e (opSrc1 op) (r * c)
    || (opSrc2 op ≠ .none && s.operandSaturates p st e (opSrc2 op) (vecBn v r c))
    || (opSrc3 op ≠ .none && s.operandSaturates p st e (opSrc3 op) (r * c))
  let s := s.modCore st fun k =>
    { k with flags := k.flags.ofInput e.script (badStreams [(opSrc1 op, a), (opSrc2 op, b), (opSrc3 op, d)]) sat }
  s.writeResult p st e 1 (opDst op) none ys

/-- The pair of a TFUN at a station: a shipped one, or one of its loaded pairs (R195, R196). -/
def Station.pair (x : Station) (n : Nat) (deriv : Bool) : Pair :=
  if n < 8 then Pair.shipped n deriv else Pair.ofImage (sget [] x.tables n) deriv

def effFun (s : State) (p st : Nat) (e : OpEntry) : State :=
  let x := s.part p
  let op := e.op.toNat
  let (r, c) := x.opShape st op
  let a := s.readOperand p st e (opSrc1 op) (r * c) true
  let pr := (s.station st).pair (bits op 13 8) (bit op 14)
  let ys := a.map (evalPair pr)
  let sat := s.operandSaturates p st e (opSrc1 op) (r * c)
  let s := s.modCore st fun k => { k with flags := k.flags.ofInput e.script (badStreams [(opSrc1 op, a)]) sat }
  s.writeResult p st e 1 (opDst op) none ys

/-- The absolute maximum of a list in FP32 (R77, R167). -/
def absMax (xs : List Num) : Num :=
  xs.foldl (fun m x => m.maximum (match x with | .fin _ v => .fin false v | .inf _ => .inf false | .nan => .nan)) .zero

/-- TSCALE: MEASURE sends the absolute maximum of SRC1; QUANT writes SRC1 quantised with the tensor's SCALE. One that does
both in a measuring pass measures, waits unissued for the probe scale, and then quantises (R82, R148). -/
def effScale (s : State) (p st : Nat) (e : OpEntry) : State :=
  let x := s.part p
  let op := e.op.toNat
  let (r, c) := x.opShape st op
  let a := s.readOperand p st e (opSrc1 op) (r * c) true
  let sat := s.operandSaturates p st e (opSrc1 op) (r * c)
  let s := s.modCore st fun k => { k with flags := k.flags.ofInput e.script (badStreams [(opSrc1 op, a)]) sat }
  let s := if bit op 8 ∧ e.measured = false then
      s.emit (.amax st (opAux op) (BitVec.ofNat 32 (fp32.convert .nearest (absMax a)).bits) (amaxHeader st))
    else s
  if bit op 8 ∧ s.awaitsProbe p st e = true then
    s.modCore st fun c => c.modEntry e.id fun g => { g with issued := false, measured := true }
  else if bit op 9 then s.writeResult p st e 1 (opDst op) (some (x.scaleOf (e.script = .eval) (opAux op))) a else s

/-! ### TACC (R103, R104) -/

/-- The station's NONFINITE where an L192 element read or written by TACC is a NaN or an infinity (R69, R103). -/
def Flags.accSpecial (f : Flags) (sc : Script) (r : Ref) (blocks : List AccBlock) : Flags :=
  if blocks.any fun b => b.cells.any fun c => c.2.special ≠ .finite then
    f.raiseNonfinite sc (match r with | .stream id => id | _ => 0xFFFE)
  else f

/-- R104: the record that a TACC write gives block or lamb `i` is refused: a reserved bit is set, or GANG is not that of the tile.
Of a flock's records those of absent lambs are zero (R128). -/
def badRecord (gang : Bool) (flock : Option Nat) (i r : Nat) : Bool :=
  bits r 63 53 ≠ 0 || (bit r 51 ≠ gang && !(r = 0 && flock.any fun fl => !lambPresent fl i))

/-- A TACC write puts the resident block into the array and every other block into its image (R119, R170). A write that
R104 refuses has no effect; its status class 2 is shown nowhere (DESIGN CHOICE, log entry 150). -/
def writeAcc (s : State) (p st : Nat) (e : OpEntry) (tile : Nat) : State :=
  let x := s.part p
  let op := e.op.toNat
  let ent := (x.accEntry st tile).getD 0
  let flock := bit ent 12
  let gang := bit ent 13
  let images := s.sourceImages p st e (imgs (opSrc1 op) (x.accNb st tile))
  let fl := if flock then some (x.tileFlock st e tile) else none
  let bad := images.any fun img => ((imageRecords flock img).mapIdx fun i r => badRecord gang fl i r).any id
  if bad then s
  else
    let recOf := recordOf fl
    let blocks := images.map fun img => (blockOfImage gang flock recOf img).1
    let s := s.modCore st fun c =>
      { c with
        accs := smod {} c.accs tile fun t =>
          { t with
            blocks := (blocks.mapIdx fun i b => (i, b)).foldl (fun m (i, b) => sset {} m i b) []
            gang := gang, flock := flock, kZero := false, unset := [], faulted := [] }
        flags := c.flags.accSpecial e.script (opSrc1 op) blocks }
    s.forAll ((List.range images.length).filter fun b => (s.station st).core.resident ≠ some (tile, b)) fun s b =>
      s.writeOut p st tile b

/-- A TACC read gives the tile's images (R103). -/
def readAcc (s : State) (p st : Nat) (e : OpEntry) (tile : Nat) : State :=
  let s := s.loadImages p st e
  let x := s.part p
  let op := e.op.toNat
  let ent := (x.accEntry st tile).getD 0
  let t := sget {} (s.station st).core.accs tile
  let blocks := (List.range (x.accNb st tile)).map fun b =>
    let blk := sget {} t.blocks b
    if bit ent 12 then blk.ganged (bit ent 13) (x.tileFlock st e tile) else blk
  match x.space st (opDst op) with
  | some sp =>
    let padded := blocks.map fun b =>
      let i := blockImage (bit ent 13) (bit ent 12) b
      i ++ List.replicate (sp.bytes - i.length) 0
    let s := match opDst op with
      | .stream id =>
        s.modCore st fun c => c.carry id (countKey e.run (x.keyMicro st e)) (sp.elems * padded.length)
      | _ => s
    let s := s.modCore st fun c => { c with flags := c.flags.accSpecial e.script (opDst op) blocks }
    s.writeImages p st (opDst op) padded
  | none => s

def effAcc (s : State) (p st : Nat) (e : OpEntry) : State :=
  let op := e.op.toNat
  if bit op 8 then
    match opDst op with
    | .acc tile => writeAcc s p st e tile
    | _ => s
  else
    match opSrc1 op with
    | .acc tile => readAcc s p st e tile
    | _ => s

/-! ### TFENCE and TPIP (R181, R184) -/

/-- A tile fence starts a tile-fence shadow. -/
def effFence (s : State) (_p st : Nat) (e : OpEntry) : State :=
  s.modStation st fun x => { x with writing := some { interim := false, fence := some e.id } }

/-- A post goes to the station's leaf of the channel, with VALUE. An await retires as OP_RETIRE says. -/
def effPip (s : State) (_p st : Nat) (e : OpEntry) : State :=
  let op := e.op.toNat
  let ch := bits op 12 9
  if bit op 8 then s
  else
    (s.modStation st fun x =>
        { x with
          posted := x.posted ||| BitVec.ofNat 16 (2 ^ ch)
          joinedEver := x.joinedEver ||| BitVec.ofNat 16 (2 ^ ch) }).emit (.pip st (pipBytes ch (s.leafParity st ch) 0 (bits op 111 104)))

end Sys2Proof.Machine
end

