-- ==== Sys2Proof/Machine/Stations.lean ====
section
/-! DEFINITION. The stations outside the operations themselves: fetching scripts (R145 to R148, R172), yields and
promotions (R175, R176), issue (R172 to R174) and retirement (R177), shadows (R181 to R183), tiles and credits that arrive (R156 to R158),
array faults (R129 to R132) and the watchdog (R180). -/

namespace Sys2Proof.Machine

/-! ### Fetch -/

def Core.sbUsed (c : Core) : Nat := (c.queue.filter fun e => !e.deferred).length
def Core.defUsed (c : Core) : Nat := (c.queue.filter (·.deferred)).length

/-- Whether a result written to a slot or a bank counts for R75, and in which class. -/
def convClass (op : Nat) : Option Nat :=
  match opCode op with
  | 0x02 => some 0
  | 0x07 => some 1
  | 0x08 => some 1
  | 0x0A => if bit op 9 then some 1 else none
  | _ => none

/-- Elements, padding included, that an operation's result puts into slots and bank regions (R75). -/
def Part.localElems (x : Part) (st : Nat) (sc : Script) (idx op : Nat) : Nat :=
  (x.opWrites st sc idx op).foldl (fun n a =>
    match a.ref with
    | .slot _ => n + a.images * (match x.space st a.ref with | some sp => sp.elems | none => 0)
    | .bank _ _ _ => n + a.images * (match x.space st a.ref with | some sp => sp.elems | none => 0)
    | _ => n) 0

/-- Enters an operation into its queue with its micro-step and its count of R75, which only a result written to a slot or
a bank takes and moves. -/
def Part.push (x : Part) (st : Nat) (c : Core) (op : Nat) : Core :=
  let micro := if c.script = .tail then 0xFFFF else c.micro
  let e : OpEntry :=
    { id := c.fetched, index := c.pos, script := c.script, op := BitVec.ofNat 128 op, micro := micro, run := c.run
      deferred := opDefer op }
  let n := x.localElems st c.script c.pos op
  let c := { c with fetched := c.fetched + 1 }
  match convClass op with
  | none => { c with queue := c.queue ++ [e] }
  | some k =>
    if n = 0 then { c with queue := c.queue ++ [e] }
    else
      let key := countKey c.run (x.keyMicro st e)
      let c0 := if c.convKey = key then c.conv0 else 0
      let c1 := if c.convKey = key then c.conv1 else 0
      if k = 0 then { c with queue := c.queue ++ [{ e with offset := c0 }], conv0 := c0 + n, conv1 := c1, convKey := key }
      else { c with queue := c.queue ++ [{ e with offset := c1 }], conv0 := c0, conv1 := c1 + n, convKey := key }

/-- Moves the fetch position past an operation (R145): to the next micro-step, to TAIL, or to the end. A measuring
pass stops at the TFENCE with FWD_END (R148); an EVAL pass and a measuring pass wait at the end of their script, the latter
for ever where MICRO has no such TFENCE (DESIGN CHOICE, log entry 175). -/
def Part.advance (x : Part) (st : Nat) (c : Core) (op : Nat) : Core :=
  let len := (x.script st c.script).length
  if c.probe && opCode op == 0x0B && bit op 10 then { c with pos := len }
  else if c.pos + 1 < len then { c with pos := c.pos + 1 }
  else match c.script with
    | .micro =>
      if c.probe then { c with pos := len }
      else if c.micro + 1 < x.micro then { c with micro := c.micro + 1, pos := 0 }
      else { c with script := .tail, pos := 0, micro := 0xFFFF }
    | .tail => { c with script := .none, pos := 0, micro := 0 }
    | _ => { c with pos := len }

/-- R172: one operation is fetched; R148: a measuring pass discards deferred operations; fetch stalls while the queue
that the operation needs is full. -/
def Part.fetchOp (x : Part) (st : Nat) (c : Core) : Core :=
  match (x.script st c.script)[c.pos]? with
  | none => c
  | some op =>
    if c.probe && opDefer op then x.advance st c op
    else if (if opDefer op then 256 ≤ c.defUsed else 64 ≤ c.sbUsed) then c
    else x.advance st (x.push st c op) op

/-- R147: the next pass of EVAL begins when every operation of the running pass has retired, unless EVAL_CLOSE has
been accepted (DEDUCED, log entry 29). Between passes a field may be waiting to be switched off (R497). -/
def Part.nextPass (x : Part) (st : Nat) (c : Core) : Core :=
  if c.script = .eval ∧ (x.script st .eval).length ≤ c.pos ∧ c.queue = [] ∧ (x.eval.any (·.closing)) = false then
    { c with pos := 0, micro := c.micro + 1 }
  else c

/-- The plan of a partition holds a field-off variant for a field (R411). -/
def Part.hasVariant (x : Part) (f : Nat) : Bool := x.plan.any fun pl => pl.sections.any fun c => c.set == 0x40 + f

/-- R497: a field in stage 3 waits to be switched off, unless its partition's plan has no variant for it. -/
def State.offForHeat (s : State) (f : Nat) : Bool :=
  (s.region f).stage == 3 && ((s.field f).state == .inService || (s.field f).starting)
    && match s.fieldPart f with
      | none => true
      | some p => (s.part p).hasVariant f

/-- R32, R409, R497: a field waits to be switched off, by command or for heat. -/
def State.offWaits (s : State) (f : Nat) : Bool := (s.field f).offAtFence || s.offForHeat f

/-- Starts an interim shadow where none is being written (R182), the core is neither fenced nor in error, and no lamb's fault
with RETRY awaits its flock's retirement: the spare runs the whole flock again from the shadow before (R130, R131; DEDUCED, log
entry 176). -/
def Station.startInterim (x : Station) : Station :=
  if x.writing.isSome || x.retryFault || x.fenced || x.error ≠ 0 then x else { x with writing := some { interim := true } }

/-- R400: a refilled station takes the tiles of its rings in sequence order; a ring that is at its threshold holds credits
again and starts an interim shadow (R183). -/
def State.takeReplay (s : State) (st : Nat) : State :=
  match s.stPart st with
  | none => s
  | some p =>
    let x := s.part p
    s.forAll (((s.station st).core.inb.filter fun i => i.2.replay ≠ []).map (·.1)) fun s id =>
      let i := sget {} (s.station st).core.inb id
      let e := (x.stream id).getD 0
      let full := sdRing e - sdCredits e ≤ i.ring.length
      let s := s.modCore st fun c => c.modIn id fun i =>
        { i with
          buffer := i.buffer ++ i.replay, seq := (i.seq + i.replay.length) % 2 ^ 48, replay := []
          ringHold := i.ringHold || full }
      if full then s.modStation st Station.startInterim else s

/-- A step is running and has not reached its step fence. -/
def Part.beforeFence (x : Part) : Bool := x.phase == .gather || x.phase == .compute || x.phase == .drain

/-- R408: a partition's step is stopped: this rank has posted a rollback whose result has not come. -/
def Part.stopping (x : Part) : Bool :=
  x.beforeFence && x.rounds.any fun r => r.step == x.step && r.kind == 2 && r.ownPosted

def State.fetch (s : State) (st : Nat) : State :=
  match s.stPart st with
  | none => s
  | some p =>
    let x := s.part p
    let y := s.station st
    let heat := (x.phase == .idle || x.phase == .halted) && x.fields.any s.offWaits
    if y.stopped || y.fenced || y.error ≠ 0 || x.stopping then s
    else s.modCore st fun c => x.fetchOp st (if heat then c else x.nextPass st c)

/-- R145, R148: sets a station to fetch MICRO from its first operation; a station whose MICRO is empty goes to TAIL,
and takes no part in a measuring pass. -/
def Part.startMicro (x : Part) (st : Nat) (probe : Bool) (c : Core) : Core :=
  let c := { c with run := c.run + 1, runBase := c.fetched, pos := 0, micro := 0, begun := if probe then false else c.begun && c.probe }
  if (x.script st .micro).isEmpty then
    if probe then { c with script := .none, probe := false } else { c with script := .tail, micro := 0xFFFF, probe := false }
  else { c with script := .micro, probe := probe }

/-- R148: a station's core and the bytes of its bank as a measuring pass begins. -/
def State.keepProbe (s : State) (st : Nat) : State :=
  let i := s.stBank st
  s.modStation st fun y =>
    { y with
      probeCore := some y.core
      probeBank := (s.store.filter fun c => c.1 / 2 ^ 24 == i).map fun c => (c.1 % 2 ^ 24, c.2) }

/-- R148, R151: an offset of a station's bank lies in a region that its operations write: one of its own that is no ring. -/
def Part.opBytes (x : Part) (st a : Nat) : Bool :=
  (x.regionsOf st).any fun r =>
    bits r 47 32 == st && bits r 25 24 != 2 && decide (bits r 23 0 ≤ a)
      && decide (a < bits r 23 0 + (bits r 60 48 + 1) * regionTileBytes r)

/-- The flags of a station after a measuring pass: as the step began, without what was cleared meanwhile. -/
def Flags.unprobed (before now : Flags) : Flags :=
  { before.beginStep with
    evalNonfinite := now.evalNonfinite
    stickyNonfinite := before.stickyNonfinite && now.stickyNonfinite
    stickySaturate := before.stickySaturate && now.stickySaturate
    stickyLoss := before.stickyLoss && now.stickyLoss }

/-- R148: no result of a station's measuring pass is kept: slots, accumulators with their images and bank tiles hold what they
held as it began, and its flags are clear; the stream ends go on (DESIGN CHOICE, log entry 208). -/
def State.endMeasure (s : State) (p st : Nat) : State :=
  match (s.station st).probeCore with
  | none => s
  | some old =>
    let x := s.part p
    let i := s.stBank st
    let back := (s.station st).probeBank.filter fun c => x.opBytes st c.1
    let s := { s with
      store := back.foldl (fun m (c : Nat × Byte) => sset 0 m (2 ^ 24 * i + c.1) c.2)
        (s.store.filter fun (c : Nat × Byte) => !(c.1 / 2 ^ 24 == i && x.opBytes st (c.1 % 2 ^ 24))) }
    s.modStation st fun y =>
      { y with
        probeCore := none, probeBank := []
        core := { y.core with
          slots := old.slots, accs := old.accs, resident := old.resident
          flags := if y.core.begun then old.flags.unprobed y.core.flags else y.core.flags } }

/-! ### The end of a replay (R401, R404) -/

/-- Where a station is: what a later replay must come to again. -/
def Core.place (c : Core) : FaultPos := ⟨c.run, c.fetched - c.runBase, c.queue.map fun e => e.id - c.runBase⟩

/-- R401: a station's replay has come to the fault position: it has fetched as far, and what had retired has retired again. -/
def Station.replayed (y : Station) : Bool :=
  y.faultPos.all fun q =>
    decide (q.run < y.core.run) || (q.run == y.core.run && decide (q.fetched ≤ y.core.place.fetched)
      && y.core.place.waiting.all fun i => decide (q.fetched ≤ i) || q.waiting.contains i)

/-- R404: the receivers that a station's replay held up resume. -/
def State.letGo (s : State) (sts : List Nat) : State :=
  s.forAll sts fun s r => s.modStation r fun y => { y with error := 0, stopped := false }

/-- R407: a field restart is over once every station of the field has come to the position that it had. -/
def State.restartOver (s : State) (f : Nat) : State :=
  if s.stations.all fun y => stField y.1 ≠ f || y.2.faultPos.isNone then s.modField f fun x => { x with restarting := false }
  else s

/-- R404: once a station has come to its fault position, the receivers that it held up resume. -/
def State.endHalt (s : State) (st : Nat) : State :=
  let y := s.station st
  if y.faultPos.isNone || y.fenced || !y.replayed then s
  else ((s.letGo y.holds).modStation st fun y => { y with faultPos := none, holds := [] }).restartOver (stField st)

/-! ### Progress of the partition -/

def Part.planStations (x : Part) : List Nat := (x.sec 0x01).map fun e => bits e 15 0

/-- Micro-steps of the running step that a station has completed. -/
def Part.microDoneAt (x : Part) (st : Nat) (c : Core) : Nat :=
  if (x.script st .micro).isEmpty then x.micro
  else
    let at' := if c.script = .micro then (if c.probe then 0 else c.micro) else x.micro
    (c.queue.filter fun e => e.script = .micro).foldl (fun n e => min n e.micro) at'

/-- The Keeper of this module that holds a tensor's scale entry (R76). -/
def State.scaleKpr (s : State) (x : Part) (t : Nat) : Option Nat :=
  match x.range (bits (x.tensor t) 91 64) with
  | some e => if prOwner e = s.selfId then some (prOwnerKpr e) else none
  | none => none

/-- R82: the measuring pass has ended at every station: each measured tensor of this module takes its entry from that one
measurement, the pass is counted at every Keeper that owns a tensor of the partition (R84), and the step runs from
micro-step 0, at a station without MICRO from TAIL. An own tensor is read with the SCALE of its entry from then on; another
module's keeps the probe scale where its own is not served, and its measurement goes to the owner with those of the step
(DEDUCED, log entry 64). -/
def State.endProbe (s : State) (p : Nat) : State :=
  let x := s.part p
  let owned := (x.amax.map (·.1)).filter fun t => (s.scaleKpr x t).isSome
  let scales := owned.foldl (fun m t => smod {} m t fun e => e.enter x.step ((sget none x.amax t).getD 0) true) x.scales
  let owners := (((List.range (x.sec 0x07).length).filter x.hasEntry).filterMap fun t => s.scaleKpr x t).eraseDups
  let s := s.forAll (x.planStations.filter fun st => (x.script st .micro).isEmpty) fun s st =>
    s.modCore st fun c => x.startMicro st false c
  let s := s.modPart p fun x =>
    { x with
      probing := false, probes := x.probes + 1, scales := scales
      amax := x.amax.filter fun a => !owned.contains a.1
      probeScales := owned.foldl (fun m t => sset 0 m t (sget {} scales t).scale)
        (x.probeScales.filter fun q => !owned.contains q.1 && !x.served false q.1) }
  s.forAll owners fun s k =>
    s.modKpr k fun y => { y with scaleProbes := satAdd 32 y.scaleProbes 1 }

/-- R23, R45: after an operation retires or is fetched: the end of a measuring pass, MICRO_DONE, and the end of compute
once every station has left MICRO and holds no scoreboard operation of it (the deferred queue drains in DRAIN). -/
def State.progress (s : State) (p : Nat) : State :=
  let x := s.part p
  if x.phase = .compute ∧ x.probing = true then
    if x.planStations.all fun st => !(s.station st).core.probe then s.endProbe p else s
  else if x.phase = .compute then
    let sts := x.planStations
    let done := sts.foldl (fun n st => min n (x.microDoneAt st (s.station st).core)) x.micro
    let ended := sts.all fun st =>
      let c := (s.station st).core
      c.script ≠ .micro && (c.queue.filter fun e => e.script = .micro && !e.deferred).isEmpty
    s.modPart p fun x => { x with microDone := done, phase := if ended then .drain else x.phase }
  else if x.phase = .drain then
    let done := x.planStations.foldl (fun n st => min n (x.microDoneAt st (s.station st).core)) x.micro
    s.modPart p fun x => { x with microDone := done }
  else s

/-! ### Retirement -/

/-- Credits of a stream go to its sender (R156). -/
def State.emitCredit (s : State) (st stream n : Nat) : State :=
  match s.stPart st with
  | none => s
  | some p => s.emit (.credit st stream n ((s.part p).creditHeader (((s.part p).stream stream).getD 0) st))

/-- Returns `n` credits of an inbound stream to its sender, or holds them while RING_HOLD is set (R156, R183); those
that a failed core had returned are not returned again. -/
def State.returnCredits (s : State) (st stream n : Nat) : State :=
  let old := min n (sget {} (s.station st).core.inb stream).returned
  let s := if old = 0 then s
    else s.modCore st fun c => c.modIn stream fun i => { i with returned := i.returned - old }
  let n := n - old
  if n = 0 then s
  else if (sget {} (s.station st).core.inb stream).ringHold then
    s.modCore st fun c => c.modIn stream fun i => { i with heldReturns := i.heldReturns + n }
  else s.emitCredit st stream n

/-- R177: consumes the inbound tiles that an operation read, as far as they came before a lamb was aborted, and returns
their credits. -/
def State.consume (s : State) (p st : Nat) (e : OpEntry) : State :=
  let x := s.part p
  let c := (s.station st).core
  s.forAll (x.takes st c.probe e) fun s t =>
    let k := x.takenBefore st c e.id t.1
    let n := min t.2 ((sget {} c.inb t.1).buffer.length - k)
    let s := s.modCore st fun c => c.modIn t.1 fun i => { i with buffer := i.buffer.take k ++ i.buffer.drop (k + n) }
    s.returnCredits st t.1 n

/-- R184: an await retires when the round that the station last joined has completed, or, if it has joined none, when
the next round does. -/
def Station.awaitOver (x : Station) (e : OpEntry) : Bool :=
  let ch := bits e.op.toNat 12 9
  e.joined || (x.joinedEver.getLsbD ch && !x.posted.getLsbD ch)

/-- R177: every output of the operation has been handed over. -/
def State.outputsGone (s : State) (p st : Nat) (e : OpEntry) : Bool :=
  ((s.part p).writes st (s.station st).core.probe e).all fun a =>
    match a.ref with
    | .stream id => (sget {} (s.station st).core.outb id).unsent.isEmpty
    | _ => true

/-- R127: the present lambs of a flock TMUL have completed, or have been aborted. -/
def State.flockOver (s : State) (st : Nat) : Bool := (s.station st).core.lambsLeft.all (s.lambOver st)

/-- R130, R133: at a flock TMUL's retirement its running lambs are COMPLETE; RETRY enters the core fault path, with the
code of an array fault (DESIGN CHOICE, log entry 155). -/
def State.retireFlock (s : State) (st : Nat) : State :=
  let retry := (s.station st).retryFault
  let s := s.modStation st fun y =>
    { y with lambState := mapLambs (fun _ c => if c = 1 then 0 else c) y.lambState, retryFault := false }
  let s := s.modCore st fun c => { c with lambsLeft := [], lambFrom := [], lambEnd := [] }
  if retry then s.stationError st 6 else s

/-- R147: EVAL_CLOSE takes effect at a station whose running pass has retired. -/
def State.closePass (s : State) (p st : Nat) : State :=
  let x := s.part p
  let c := (s.station st).core
  if (x.eval.any (·.closing)) = true ∧ c.queue = [] ∧ c.script = .eval ∧ (x.script st .eval).length ≤ c.pos then
    s.modStation st fun y => { y with evalClosed := true, core := { y.core with script := .none, pos := 0, micro := 0 } }
  else s

/-! ### Issue -/

/-- R172 to R174: issues entry `id` of a station where it is an operation of code `code` that may issue. An own-bank
word that is uncorrectable stops the station (R180). Tiles of remote banks are asked for first, and the operation
runs once they have arrived (R231; DEDUCED, log entry 28). An operation that R146 skips retires on
issue. -/
def State.issue (s : State) (st id code : Nat) (eff : State → Nat → OpEntry → State) : State :=
  let s := s.takeReplay st
  match s.stPart st with
  | none => s
  | some p =>
    match (s.station st).core.entry id with
    | none => s
    | some e =>
      let x := s.part p
      let probe := (s.station st).core.probe
      if opCode e.op.toNat ≠ code ∨ s.mayIssue p st e = false ∨ x.stopping = true then s
      else if x.skips st probe e then (((s.beginOp st e).dropEntry st id).closePass p st).progress p
      else if s.readsBad p st probe e then s.stationError st 5
      else
        let remote := x.remoteTiles st probe e
        if (s.station st).arrived e remote then
          let s := s.beginOp st e
          let s := s.modCore st fun c => c.modEntry id fun e => { e with issued := true }
          eff s p e
        else s.askRemote p st e remote

/-- R177: an issued operation whose outputs are handed over retires, but not in a fenced core (R396); a TFENCE does with its
shadow. -/
def State.retire (s : State) (st id : Nat) : State :=
  match s.stPart st with
  | none => s
  | some p =>
    match (s.station st).core.entry id with
    | none => s
    | some e =>
      let op := e.op.toNat
      let waits := opCode op == 0x0B || (opCode op == 0x0C && bit op 8 && !(s.station st).awaitOver e)
      let flock := opCode op == 0x01 && tmFlock op
      let s := if flock then s.startLambs p st else s
      if !e.issued || e.yielded || waits || (s.station st).fenced || !s.outputsGone p st e || (flock && !s.flockOver st) then s
      else
        let s := s.consume p st e
        let s := if opCode op = 0x01 then s.countAllBusy st else s
        let s := if flock then s.retireFlock st else s
        let s := s.dropEntry st id
        let s := s.modStation st fun x => { x with bankReads := x.bankReads.filter fun b => b.op ≠ id }
        (s.closePass p st).progress p

/-! ### Shadows (R182, R183) -/

/-- Operations whose accesses decide whether a slot is live: those in the queue, then the script from the fetch
position, then what follows it. -/
def Part.aheadOps (x : Part) (st : Nat) (c : Core) (next : List (Script)) : List (Script × Nat × Nat) :=
  let ofScript (sc : Script) (from' : Nat) : List (Script × Nat × Nat) :=
    (((x.script st sc).drop from').mapIdx fun i o => (sc, from' + i, o))
  (c.queue.map fun e => (e.script, e.index, e.op.toNat)) ++ ofScript c.script c.pos ++ next.flatMap fun sc => ofScript sc 0

/-- The first access to a slot in a list of operations is a read. -/
def Part.readFirst (x : Part) (st slot : Nat) : List (Script × Nat × Nat) → Bool
  | [] => false
  | (sc, i, o) :: rest =>
    if (x.opReads st sc i o).any fun a => a.ref == .slot slot then true
    else if (x.opWrites st sc i o).any fun a => a.ref == .slot slot then false
    else Part.readFirst x st slot rest

/-- R182: a slot is live where the operations that follow read it first: MICRO runs into its next micro-step or TAIL,
TAIL into the next step, EVAL into its next pass. -/
def Part.slotLive (x : Part) (st : Nat) (c : Core) (slot : Nat) : Bool :=
  match c.script with
  | .eval => x.readFirst st slot (x.aheadOps st c [.eval])
  | .micro => x.readFirst st slot (x.aheadOps st c [.micro, .tail]) || x.readFirst st slot (x.aheadOps st c [.tail, .micro])
  | _ => x.readFirst st slot (x.aheadOps st c [.micro, .tail])

/-- R182: B, the bytes that a shadow writes. -/
def Part.shadowBytes (x : Part) (st : Nat) (c : Core) : Nat :=
  32768
    + 128 * ((x.sec 0x06).filter fun e => x.inbound st e || x.outbound st e).length
    + ((x.slotsOf st).foldl (fun n e => if x.slotLive st c (bits e 7 0) then n + 256 * (bits e 15 8 + 1) else n) 0)
    + (if c.resident.isSome then 27392 else 0)

/-- R182: a shadow writes the resident block to its image, and an interim one pauses and resumes a running TMUL. The
images that it names stay as they are from then on. -/
def State.shadowImages (s : State) (p st : Nat) (interim : Bool) : State :=
  let c := (s.station st).core
  let s := match c.resident with | some (t, b) => s.writeOut p st t b | none => s
  let s := if interim && c.runningTmul.isSome then s.addCycles st 0 214 else s
  s.modCore st fun c =>
    { c with accs := (c.accs.map (·.1)).foldl (fun m i => smod {} m i fun t => { t with fresh := [] }) c.accs }

/-- R182: an interim shadow pauses a TMUL and a mover with several tiles, and waits for every other running operation to
retire. A TFENCE's shadow holds the products of every TMUL issued before it (R108): it waits until each lamb of a running flock has
taken its last. None is complete at a station in error, nor while a lamb's fault with RETRY awaits retirement; an interim one is
given up then (R130, R131; DEDUCED, log entry 176). -/
def Station.mayComplete (x : Station) (w : ShadowRun) : Bool :=
  x.error == 0 && !x.retryFault &&
    (if w.interim then x.core.queue.all fun e =>
        !e.issued || opUnit e.op.toNat == .array || (opUnit e.op.toNat == .mover && 1 < opCount e.op.toNat)
      else x.core.lambsLeft.all fun i => sget 0 x.core.lambEnd i ≠ 0)

/-- R183: a shadow empties every ring; held credit returns go out. -/
def State.emptyRings (s : State) (st : Nat) : State :=
  let held := (s.station st).core.inb.filter fun i => i.2.heldReturns ≠ 0
  let s := s.modCore st fun c =>
    { c with inb := (c.inb.map (·.1)).foldl (fun m i =>
        smod {} m i fun e => { e with ring := [], ringHold := false, heldReturns := 0 }) c.inb }
  s.forAll held fun s i => s.emitCredit st i.1 i.2.heldReturns

/-- R277: at a station's first tile fence after a migration copy is complete, the bank binding changes to the
spare site; its contents, what their granules' epoch bits and poison say, and the held requests stand there. The bytes that
the spec's copy leaves out, outside regions and the current shadow area, go with them (DESIGN CHOICE, log entry 186). -/
def State.bindMigrated (s : State) (st : Nat) : State :=
  let b := s.bankBind st
  if b.copied then
    let row := stRow st
    let col := stCol st
    let r := sget ⟨row, col, false, false, false⟩ (s.field (stField st)).remap (24 * row + col)
    let old := s.stBank st
    let new := bankIdx (stField st) r.prow r.pcol
    let s := { s with
      store := (s.store.filter fun (c : Nat × Byte) => c.1 / 2 ^ 24 = old).foldl
        (fun m (c : Nat × Byte) => sset 0 m (c.1 % 2 ^ 24 + 2 ^ 24 * new) c.2)
        (s.store.filter fun (c : Nat × Byte) => c.1 / 2 ^ 24 ≠ new) }
    let s := s.modBank new fun b =>
      { b with epoch := (s.bank old).epoch, poison := (s.bank old).poison, bad := (s.bank old).bad,
               heldReads := (s.bank old).heldReads, toRetire := (s.bank old).toRetire, replaying := (s.bank old).replaying, lost := false }
    let s := if old = new then s
      else s.modBank old fun b => { b with epoch := [], poison := [], bad := [], writeBack := [], heldReads := [], toRetire := [], replaying := [] }
    let bind : BankBind := { bprow := r.prow, bpcol := r.pcol, moved := decide (r.prow ≠ row ∨ r.pcol ≠ col) }
    s.modField (stField st) fun f =>
      { f with banks := sset ⟨row, col, false, false, false⟩ f.banks (24 * row + col) bind }
  else s

/-- R185, R276: the words of a shadow area that a shadow of `n` bytes writes. -/
def ofShadow (copy : Bool) (n w : Nat) : Bool :=
  let base := if copy then 0xF00000 else 0xE00000
  decide (base ≤ 8 * w ∧ 8 * w < base + n)

/-- R181, R182, R185, R266: the shadow that is being written is complete. A TFENCE retires with it: with STEP it posts
the step-fence pip; with FWD_END in a measuring pass, MICRO is fetched again as micro-step 0 (R148). Area 0 lies at 0xE0_0000 and takes the
first shadow (DESIGN CHOICE, log entry 61). An uncorrectable word that a completed replay has not rewritten no longer awaits it
(R275). -/
def State.completeShadow (s : State) (st : Nat) : State :=
  let s := s.takeReplay st
  match s.stPart st, (s.station st).writing with
  | some p, some w =>
    if (s.station st).mayComplete w = false then
      s.modStation st fun y => { y with writing := if y.retryFault && w.interim then none else y.writing }
    else
    let x := s.part p
    let fence := w.fence.bind fun id => (s.station st).core.entry id
    let s := match w.fence with
      | some id => s.dropEntry st id
      | none => s
    let s := if w.fence.isSome then s.bindMigrated st else s
    let s := (s.shadowImages p st w.interim).emptyRings st
    let copy := if (s.station st).shadows = 0 then false else !(s.station st).copy
    let s := s.modBank (s.stBank st) fun b =>
      let area := ofShadow copy (x.shadowBytes st (s.station st).core)
      { b with
        epoch := [], poison := b.poison.filter fun w => !area w, bad := b.bad.filter fun w => !area w
        replaying := if (s.station st).faultPos.isNone then [] else b.replaying }
    let op := match fence with | some e => e.op.toNat | none => 0
    let again : Bool := bit op 10 && (s.station st).core.probe
    let s := if again then (s.endMeasure p st).modCore st fun c => x.startMicro st false c else s
    let s := s.modStation st fun y =>
      let sh : Shadow :=
        { core := y.core, interim := w.interim, bytes := x.shadowBytes st y.core
          promoted := y.promoted, yields := y.yields, at' := s.clk.rootTime }
      { y with
        writing := none, shadows := (y.shadows + 1) % 2 ^ 48, lastInterim := w.interim, copy := copy
        shadowA := if copy then y.shadowA else some sh
        shadowB := if copy then some sh else y.shadowB }
    let s := if bit op 9 then
        (s.modStation st fun y => { y with fencePosted := true, posted := y.posted ||| 1, joinedEver := y.joinedEver ||| 1 }).emit
          (.pip st (pipBytes 0 (s.leafParity st 0) 0 1))
      else s
    ((s.startLambs p st).closePass p st).progress p
  | _, _ => s

/-! ### Arriving tiles and credits (R157, R158, R183) -/

/-- R183: the ring region of KIND 0b10 that records a stream, in a station's own bank. -/
def Part.ringRegion (x : Part) (st id : Nat) : Option Nat :=
  (x.regionsOf st).find? fun r => bits r 25 24 == 2 && bits r 111 96 == id && bits r 47 32 == st

/-- R183: writes a tile to its stream's ring region, at its SEQ modulo the region's tiles (DEDUCED,
log entry 156). -/
def State.writeRing (s : State) (p st e seq : Nat) (data : List Byte) : State :=
  match (s.part p).ringRegion st (bits e 15 0) with
  | some r => s.writeBank st (tileOffset r (seq % (bits r 60 48 + 1))) data
  | none => s

/-- The expected number of an inbound stream follows R157; an accepted tile is also written to the replay ring, and a
ring that reaches RING − CREDITS holds credit returns and starts an interim shadow. While the core is fenced the
ring alone holds the tile, and a fill replays it (R396, R400). -/
def State.acceptTile (s : State) (p st e : Nat) (data : List Byte) : State :=
  let id := bits e 15 0
  let fenced := (s.station st).fenced
  let s := s.writeRing p st e (sget {} (s.station st).core.inb id).seq data
  let s := s.modCore st fun c => c.modIn id fun i =>
    { i with
      seq := (i.seq + 1) % 2 ^ 48
      buffer := i.buffer ++ [data]
      ring := i.ring ++ [data] }
  if sdRing e - sdCredits e ≤ (sget {} (s.station st).core.inb id).ring.length ∧ fenced = false then
    (s.modCore st fun c => c.modIn id fun i => { i with ringHold := true }).modStation st Station.startInterim
  else s.startLambs p st

/-- R26, R29, R58, R67, R74: the tile that the mule of a stream sends to a station: the weights of its parameters from the
staged copy that the running script uses, converted once with the random bits of class 0x3; and whether a block read as
NaN. None while a page that it needs is not there, or while nothing runs that streams weights. -/
def State.muleTile (s : State) (p st e seq : Nat) : Option (List Byte × Bool) :=
  let x := s.part p
  let eval := (s.station st).core.script = .eval
  let version := if eval then (x.eval.map (·.version)).getD x.version else x.step
  let sp := streamSpace e
  let ids := (List.range sp.elems).map (Config.muleParam (bits e 15 0) seq)
  let runs := eval || x.phase == .compute || x.phase == .drain
  if runs && ids.all fun i => x.current eval version (i / pageParams) then
    let ws := ids.map fun i =>
      let y := (x.stagedPage eval (i / pageParams)).bytes
      let j := i % pageParams
      mw16Value (sget 0 y (2 ^ 20 + j / 32)).toNat (sigAt y j)
    let key : RandKey := ⟨x.seed, x.step, 3, 0, 0⟩
    let img := encodeImage sp (x.scaleOf eval sp.tensor) (fun i => key.draw (ids.getD i 0)) ws
    some (img.1, ws.any Num.special)
  else none

/-- R157, R158, R26: a tile arrives. A mule's tile holds what the mule makes of the staged copy, and does not come before
its pages; a block that it reads as NaN shows in its Keeper's KPR_NONFINITE (DEDUCED, log entry 157). A replay records it at
the stream's first destination (R449). -/
def State.streamTile (s : State) (st stream seq : Nat) (data : List Byte) : State :=
  let s := s.takeReplay st
  match s.stPart st with
  | none => s
  | some p =>
    let x := s.part p
    match (x.sec 0x06).find? fun e => bits e 15 0 == stream && x.inbound st e with
    | none => (s.stationError st 2).modStation st fun y => { y with errStream := stream }
    | some e =>
      let fail (code : Nat) : State := (s.stationError st code).modStation st fun y => { y with errStream := stream }
      let accept (data : List Byte) : State :=
        let d := seqAhead 48 (sget {} (s.station st).core.inb stream).seq seq
        if d = 0 then s.acceptTile p st e data
        else if 2 ^ 47 ≤ d then
          let s := s.modCore st fun c => c.modIn stream fun i => { i with dup := true }
          if (s.station st).fenced then s else s.emitCredit st stream 1
        else fail 1
      if data.length ≠ (streamSpace e).bytes then fail 2
      else if sdSrcKind e = 2 then
        match s.muleTile p st e seq with
        | none => s
        | some (tile, bad) =>
          let new : Bool := seqAhead 48 (sget {} (s.station st).core.inb stream).seq seq == 0 && (x.dests e).head? == some st
          let s := if new then (accept tile).recordTile p stream seq tile else accept tile
          if bad then s.modKpart (sdSrc e) p fun y => { y with nonfinite := true } else s
      else accept data

/-- R156: credits return to a sender's counter of a destination; waiting tiles go out. -/
def State.creditReturn (s : State) (st stream dest n : Nat) : State :=
  match s.stPart st with
  | none => s
  | some p =>
    match (s.part p).stream stream with
    | none => s
    | some e =>
      let s := s.modCore st fun c => c.modOut stream fun o => { o with used := sset 0 o.used dest (sget 0 o.used dest - n) }
      State.sendTiles p st e ((sget {} (s.station st).core.outb stream).unsent.length) s

/-! ### Array faults (R129 to R132) -/

/-- Sets every element of a lamb to SPECIAL NaN, which its record shows (R104, R130). -/
def Part.killLamb (x : Part) (fl lamb : Nat) (c : Core) (acc : Nat) : Core :=
  let b := lambByte fl lamb
  let (h, w) := lambShape (bits b 6 4)
  let idx := (List.range h).flatMap fun r => (List.range w).map fun k => 32 * (8 * bits b 1 0 + r) + 8 * bits b 3 2 + k
  { c with accs := smod {} c.accs acc fun t =>
      let idx := if t.gang then idx.filter fun i => i % 2 == 0 else idx
      { t with
        faulted := insertOnce lamb t.faulted
        blocks := smod {} t.blocks 0 fun blk =>
          { cells := idx.foldl (fun m i => smod {} m i fun a => { a with special := .nan }) blk.cells
            recs := markRecs blk.recs idx fun _ => some lamb } } }

/-- R131: a whole-array fault aborts what runs, complete lambs excepted, and enters the core fault path.
(DEDUCED, log entry 62) -/
def State.arrayWhole (s : State) (st : Nat) : State :=
  let s := (s.settleLambs st).countBusy st s.clk.rootTime
  let flock := match (s.station st).core.runningTmul with | some e => tmFlock e.op.toNat | none => false
  let s := if flock then
      s.modStation st fun y =>
        { y with
          lambState := mapLambs (fun i c => if y.core.lambsLeft.contains i then 3 else c) y.lambState
          flockAbort := true, wholeFaultAt := s.clk.rootTime + 1 }
    else s
  (s.modCore st fun c => { c with lambsLeft := [], busy := [] }).stationError st 6

/-- R132: events of one cycle of the core's clock. -/
def State.sameCycle (s : State) (st at' : Nat) : Bool :=
  at' ≠ 0 && (at' - 1) / s.corePeriod st == s.clk.rootTime / s.corePeriod st

/-- R129, R130, R132: a check fails in the block of lamb `lamb`: the running lamb faults, also where a whole-array fault
of the same cycle has aborted it; of two in one cycle the lower is recorded. In a block of no lamb, or of a lamb
already complete, it is reported only; outside a flock it is a whole-array fault. A cell fault is reported under code 0x10, which
the spec does not give (DESIGN CHOICE, log entry 195). -/
def State.arrayLamb (s : State) (st lamb : Nat) : State :=
  match s.stPart st with
  | none => s
  | some p =>
    let x := s.part p
    match (s.station st).core.runningTmul with
    | none => s.emit (.report st 0x10 (errorHeader st))
    | some e =>
      if !tmFlock e.op.toNat then s.arrayWhole st
      else
        let fl := x.flockOf e
        let s := (s.settleLambs st).emit (.report st 0x10 (errorHeader st))
        let y := s.station st
        let code := lambCode y.lambState lamb
        if y.core.lambsLeft.contains lamb || (lambPresent fl lamb && (code == 3 && s.sameCycle st y.wholeFaultAt)) then
          (s.modStation st fun y =>
              { y with
                lambState := mapLambs (fun i c => if i = lamb then 2 else c) y.lambState
                lambFault := y.lambFault ||| BitVec.ofNat 16 (2 ^ lamb)
                lastLamb := if s.sameCycle st y.lambFaultAt then min y.lastLamb lamb else lamb
                lambFaultNow := (if s.sameCycle st y.lambFaultAt then y.lambFaultNow else 0) ||| BitVec.ofNat 16 (2 ^ lamb)
                lambFaultAt := s.clk.rootTime + 1
                retryFault := y.retryFault || flockRetry fl }).modCore st fun c =>
            { x.killLamb fl lamb c (tmAcc e.op.toNat) with
              lambsLeft := c.lambsLeft.filter (· ≠ lamb)
              busy := c.busy.map fun b => if b.part = lamb + 1 then { b with to' := min b.to' s.clk.rootTime } else b }
        else s

/-! ### Meanings -/

def execTmul (st id : Nat) (s : State) : Host.Outcome State Fault Refusal :=
  .next (s.issue st id 0x01 fun s p e => effTmul s p st e)

def execTepi (st id : Nat) (s : State) : Host.Outcome State Fault Refusal :=
  .next (s.issue st id 0x02 fun s p e => effTepi s p st e)

def execTload (st id : Nat) (s : State) : Host.Outcome State Fault Refusal :=
  .next (s.issue st id 0x03 fun s p e => effMove s p st e)

def execTstore (st id : Nat) (s : State) : Host.Outcome State Fault Refusal :=
  .next (s.issue st id 0x04 fun s p e => effMove s p st e)

def execTsend (st id : Nat) (s : State) : Host.Outcome State Fault Refusal :=
  .next (s.issue st id 0x05 fun s p e => effMove s p st e)

def execTrecv (st id : Nat) (s : State) : Host.Outcome State Fault Refusal :=
  .next (s.issue st id 0x06 fun s p e => effMove s p st e)

def execTvec (st id : Nat) (s : State) : Host.Outcome State Fault Refusal :=
  .next (s.issue st id 0x07 fun s p e => effVec s p st e)

def execTfun (st id : Nat) (s : State) : Host.Outcome State Fault Refusal :=
  .next (s.issue st id 0x08 fun s p e => effFun s p st e)

def execTacc (st id : Nat) (s : State) : Host.Outcome State Fault Refusal :=
  .next (s.issue st id 0x09 fun s p e => effAcc s p st e)

def execTscale (st id : Nat) (s : State) : Host.Outcome State Fault Refusal :=
  .next (s.issue st id 0x0A fun s p e => effScale s p st e)

def execTfence (st id : Nat) (s : State) : Host.Outcome State Fault Refusal :=
  .next (s.issue st id 0x0B fun s p e => effFence s p st e)

/-- R184: a second post waits until the round that the station has joined completes. -/
def State.pipWaits (s : State) (st id : Nat) : Bool :=
  match (s.station st).core.entry id with
  | some e => !bit e.op.toNat 8 && (s.station st).posted.getLsbD (bits e.op.toNat 12 9)
  | none => false

def execTpip (st id : Nat) (s : State) : Host.Outcome State Fault Refusal :=
  .next (if s.pipWaits st id then s else s.issue st id 0x0C fun s p e => effPip s p st e)


def execOpFetch (st : Nat) (s : State) : Host.Outcome State Fault Refusal :=
  .next (match s.stPart st with
    | some p => (((s.takeReplay st).fetch st).endHalt st).progress p
    | none => s)

/-- R175: an issued deferred TMUL that does not rank with the scoreboard leaves the array once a scoreboard TMUL is
ready. `block` is the virtual block at which it is to resume, not beyond its last: the one after the block that it has
finished and written out, or the one before which it leaves in w0. The array then holds no block. -/
def execTmulYield (st id block : Nat) (s : State) : Host.Outcome State Fault Refusal :=
  .next (match s.stPart st with
    | none => s
    | some p =>
      let c := (s.station st).core
      match c.entry id with
      | none => s
      | some e =>
        let op := e.op.toNat
        let x := s.part p
        let gang := x.tmulGang st op
        let nb := numBlocks gang (tmM op) (tmN op) (chooseFold gang (tmM op) (tmN op) (tmFold op))
        let ready := c.queue.any fun g =>
          opCode g.op.toNat == 1 && c.ranksScoreboard g && !g.issued && s.readyButUnit p st g
        if opCode op = 1 ∧ e.issued ∧ e.yielded = false ∧ e.deferred ∧ c.ranksScoreboard e = false
            ∧ tmFlock op = false ∧ 1 < nb ∧ block < nb ∧ (e.block < block ∨ e.block = block ∧ e.wroteOut)
            ∧ ready = true then
          let rest := c.busy.filter fun b => block < b.part
          let s := (s.modCore st fun c => { c with busy := c.busy.filter fun b => b.part ≤ block }).countAllBusy st
          (s.modStation st fun y => { y with yields := satAdd 16 y.yields 1 }).modCore st fun c =>
            { c.modEntry id fun e => { e with yielded := true, block := block, rest := rest } with resident := none, busy := [] }
        else s)

/-- R174, R175: a yielded TMUL resumes when the array is free and it is the one that the array would issue: another tile's block
is written out (R119, R121), its remaining cycles follow, and its own last block will stay resident. -/
def execTmulResume (st id : Nat) (s : State) : Host.Outcome State Fault Refusal :=
  .next (match s.stPart st with
    | none => s
    | some p =>
      let c := (s.station st).core
      match c.entry id with
      | none => s
      | some e =>
        let op := e.op.toNat
        let x := s.part p
        let gang := x.tmulGang st op
        let nb := numBlocks gang (tmM op) (tmN op) (chooseFold gang (tmM op) (tmN op) (tmFold op))
        let w0 := otherResident c (tmAcc op)
        let rival := c.queue.any fun g =>
          opUnit g.op.toNat == .array && g.id != e.id && (g.yielded || (!g.issued && s.readyButUnit p st g))
            && (if c.ranksScoreboard e then c.ranksScoreboard g && decide (g.id < e.id)
                else c.ranksScoreboard g || decide (g.id < e.id))
        if e.yielded ∧ c.unitBusy .array = false ∧ (s.station st).issues .array = true ∧ rival = false then
          let now := s.clk.rootTime
          let t := now + w0 * s.corePeriod st
          let first := e.rest.foldl (fun m b => min m b.from') ((e.rest.map (·.from')).headD 0)
          (s.writeOutResident p st (tmAcc op, e.block)).modCore st fun c =>
            { c.modEntry id fun e => { e with yielded := false, wroteOut := decide (w0 ≠ 0), rest := [] } with
              resident := some (tmAcc op, nb - 1)
              busy := ⟨0, now, t, true⟩ :: e.rest.map fun b => { b with from' := b.from' - first + t, to' := b.to' - first + t } }
        else s)

/-- R176: a deferred operation that has not issued within DEFER_AGE cycles is promoted, and counted. -/
def execPromotion (st id : Nat) (s : State) : Host.Outcome State Fault Refusal :=
  .next (match (s.station st).core.entry id with
    | none => s
    | some e =>
      if e.deferred ∧ e.issued = false ∧ e.promoted = false then
        (s.modStation st fun y => { y with promoted := satAdd 16 y.promoted 1 }).modCore st fun c =>
          c.modEntry id fun e => { e with promoted := true }
      else s)

/-- R182: an interim shadow starts where none is being written; it needs a plan. -/
def execInterimShadow (st : Nat) (s : State) : Host.Outcome State Fault Refusal :=
  .next (if (s.stPart st).isSome then s.modStation st Station.startInterim else s)

def execShadowComplete (st : Nat) (s : State) : Host.Outcome State Fault Refusal := .next (s.completeShadow st)

/-- R180: an issued operation that makes no progress trips the watchdog, unless it is suspended (R274). One that waits for a
later credit of an output is issued and trips it too (DEDUCED, log entry 197). -/
def execWatchdog (st id : Nat) (s : State) : Host.Outcome State Fault Refusal :=
  .next (match (s.station st).core.entry id with
    | none => s
    | some e =>
      if e.issued ∧ e.yielded = false ∧ (s.station st).watchdogOff = false then s.stationError st 3 else s)

def execStreamTile (st stream seq : Nat) (data : List Byte) (s : State) : Host.Outcome State Fault Refusal :=
  .next (s.streamTile st stream seq data)

/-- R231: a response arrives into the space that its requester reserved. -/
def execBankReadResponse (st owner region tile : Nat) (data : List Byte) (s : State) :
    Host.Outcome State Fault Refusal :=
  .next (s.modStation st fun y =>
    { y with bankReads := y.bankReads.map fun b =>
        if b.owner = owner ∧ b.region = region ∧ b.tile = tile ∧ b.data.isNone then { b with data := some data } else b })

def execArrayFaultLamb (st lamb : Nat) (s : State) : Host.Outcome State Fault Refusal := .next (s.arrayLamb st lamb)

def execArrayFaultWhole (st : Nat) (s : State) : Host.Outcome State Fault Refusal := .next (s.arrayWhole st)

end Sys2Proof.Machine
end

