-- ==== Sys2Proof/Machine/Husk.lean ====
section
/-! DEFINITION. The husk: what an owner sends its buddy and what the buddy keeps and computes (R421 to R428), page
messages in both directions (R427, R441, R442), and schedule records (R426). -/

namespace Sys2Proof.Machine

def State.hpage (s : State) (k p g : Nat) : HuskPage := sget {} (s.kpart k p).husk g
def State.modHpage (s : State) (k p g : Nat) (f : HuskPage → HuskPage) : State :=
  s.modKpart k p fun x => { x with husk := smod {} x.husk g f }

/-! ### Staging SRAM (R308, R318) -/

/-- Slices that a Keeper holds for rank order, one MiB each. -/
def Kpr.slicesHeld (y : Kpr) : Nat :=
  y.parts.foldl (fun n p => p.2.pages.foldl (fun n g => n + g.2.reduction.heldSlices.length) n) 0

/-- R308: slices that 64 MiB hold beside 16 partials of 2 MiB (DESIGN CHOICE, log entry 55). -/
def sliceRoom : Nat := 32

/-- Contexts of a Keeper with withheld credits, and the credits. -/
def State.withheldAt (s : State) (k : Nat) : List (Nat × Nat) :=
  (s.mlv.ctxs.filter fun c => c.2.kpr == k && 0 < (c.2.cls 0).withheld).map fun c => (c.1, (c.2.cls 0).withheld)

/-- Withheld credits, `n` of them, become owed to their partners, by context number. -/
def State.giveCredits : Nat → List (Nat × Nat) → State → State
  | _, [], s => s
  | n, q :: l, s =>
    let m := min n q.2
    State.giveCredits (n - m) l
      (s.modCtx q.1 fun c => c.modCls 0 fun x => { x with owed := x.owed + m, withheld := x.withheld - m })

/-- R318: the partner of context `i` is the lowest rank that a page in a partial slot of the Keeper still lacks. -/
def State.lackedAt (s : State) (k i : Nat) : Bool :=
  (s.kpr k).parts.any fun q => q.2.pages.any fun g =>
    g.2.reduction.slot && !g.2.reduction.complete && (s.part q.1).rankOf (s.ctx i).partner == some g.2.reduction.next

/-- R318: only the credits of the slices that find no room stay withheld, and none of a rank that a page in a partial slot
lacks next. -/
def State.returnHeld (s : State) (k : Nat) : State :=
  let due := (s.withheldAt k).filter fun q => s.lackedAt k q.1
  let s := State.giveCredits (due.map (·.2)).sum due s
  let l := s.withheldAt k
  State.giveCredits ((l.map (·.2)).sum - 2049 * ((s.kpr k).slicesHeld - sliceRoom)) l s

/-- The credits of a slice that finds no room in staging SRAM are withheld (R318). -/
def State.withholdSlice (s : State) (i k : Nat) : State :=
  if sliceRoom < (s.kpr k).slicesHeld ∧ s.lackedAt k i = false then
    s.modCtx i fun c => c.modCls 0 fun x => { x with owed := x.owed - 2049, withheld := x.withheld + 2049 }
  else s

/-- The context from a buddy Keeper to the owner of a mirrored page. -/
def State.ownerCtx (s : State) (k p g : Nat) : Option Nat :=
  match (s.part p).range g with
  | some e => s.trafficCtx k (prOwner e) (prOwnerKpr e)
  | none => none

/-! ### Bucket descriptors (R310, R311) -/

def bkNum (b : Nat) : Nat := bits b 11 0
def bkBytes (b : Nat) : Nat := 2 ^ (22 + bits b 14 12)
def bkPark (b : Nat) : Bool := bit b 15
def bkFirstPage (b : Nat) : Nat := bits b 70 24 / pageParams
def bkPages (b : Nat) : Nat := bits b 88 80 + 1
def segStream (e : Nat) : Nat := bits e 15 0
def segOffset (e : Nat) : Nat := bits e 42 16
def segCount (e : Nat) : Nat := bits e 69 43 + 1

/-- Buckets of a Keeper (R310). -/
def Part.bucketsOf (x : Part) (k : Nat) : List Nat := (x.sec 0x13).filter fun b => bits b 18 16 == k

def Part.bucketDef (x : Part) (k n : Nat) : Option Nat := (x.bucketsOf k).find? fun b => bkNum b == n
def Part.segments (x : Part) (b : Nat) : List Nat := ((x.sec 0x14).drop (bits b 115 104)).take (bits b 103 96 + 1)

/-- The bucket of a Keeper that covers a page. -/
def Part.bucketOfPage (x : Part) (g : Nat) : Option Nat :=
  (x.sec 0x13).find? fun b => bkFirstPage b ≤ g && g < bkFirstPage b + bkPages b

/-! ### What the owner sends -/

/-- A husk message of one page: VERSION or STEP, HERD, PAGE. -/
def pageKey (v herd g : Nat) : Nat := v + herd * 2 ^ 40 + g * 2 ^ 48

def State.toBuddy (s : State) (k msg : Nat) (head : List Byte) (data : List Byte) : State :=
  match s.buddyCtx k with
  | some i => if (s.ctx i).state = .opened ∨ (s.ctx i).state = .opening then s.send i 3 msg head true data else s
  | none => s

/-- R422: the staged reduced gradient of a page. -/
def State.sendGrad (s : State) (k p g : Nat) (grad : Sparse Byte) : State :=
  s.toBuddy k 0x40 (leBytes 16 (pageKey (s.part p).step (s.part p).herdId g)) (readBytes grad 0 (2 ^ 20))

def State.sendNull (s : State) (k p g : Nat) : State :=
  s.toBuddy k 0x42 (leBytes 16 (pageKey (s.part p).step (s.part p).herdId g)) []

/-- R427: a digest record, to the buddy or to the owner. -/
def cmpHead (v herd g : Nat) (d : BitVec 256) : List Byte := leBytes 48 (pageKey v herd g + d.toNat * 2 ^ 128)

/-! ### Page messages (R427, R428) -/

/-- The P delta slots of a body that count from the newest down, oldest first, so that slot P − 1 is the newest. -/
def newestSlots (P ring : Nat) (b : PageBody) : List DeltaSlot :=
  (List.range P).map fun j => sget {} b.deltas ((b.head + ring + j + 1 - P) % ring)

/-- One spill record of 72 B (R336): the block's index in the run, then its significands. -/
def spillRecord (g : Nat) (r : Nat × List Byte) : List Byte := leBytes 8 (g * pageBlocks + r.1) ++ r.2

/-- The header bits and the components of a page as HUSK_PAGE carries them: `comps` masks W, M and D. The delta slots are
numbered so that slot P − 1 is the newest; spill records follow the deltas (DEDUCED, log entry 35). -/
def huskImage (P ring : Nat) (frozen : Bool) (group opt g comps : Nat) (b : PageBody) : Nat × List Byte :=
  let slots := newestSlots P ring b
  let spillBits := (slots.mapIdx fun j d => (j, d)).foldl (fun n (j, d) => n + d.spill.length * 2 ^ (160 + 48 * j)) 0
  let zeros := (slots.mapIdx fun j d => (j, d)).foldl (fun n (j, d) => n + b2n d.zero * 2 ^ (50 + j)) 0
  let header := b.stamp % 2 ^ 40 + b2n frozen * 2 ^ 42 + group * 2 ^ 44 + (P - 1) * 2 ^ 48 + zeros + spillBits
  (header % 2 ^ 256,
    (if bit comps 0 then readBytes b.weights 0 (2 ^ 20) ++ readBytes b.exps 0 16384 else [])
      ++ (if bit comps 1 then readBytes b.m1 0 (m1Size frozen) ++ readBytes b.m2 0 (m2Size frozen opt) else [])
      ++ (if bit comps 2 then
            (slots.flatMap fun d => readBytes d.bytes 0 540672) ++ slots.flatMap fun d => d.spill.flatMap (spillRecord g)
          else []))

/-- Spill records of the slots, read from the tail of a page message. -/
def readSpills : List Nat → List Byte → List (List (Nat × List Byte))
  | [], _ => []
  | n :: rest, bs =>
    ((chunks 72 n bs).map fun r => (leNat (r.take 8) % pageBlocks, r.drop 8)) :: readSpills rest (bs.drop (72 * n))

/-- Installs the components of a page message at version `v` into a body whose delta ring has `ring` slots: the newest delta in
slot v mod `ring` (DESIGN CHOICE, log entry 215). The records that the other slots do not name are the newest one's. -/
def huskInstall (P ring opt comps header v : Nat) (data : List Byte) (b : PageBody) : PageBody :=
  let frozen := bit header 42
  let b := { b with head := v % ring }
  let (b, data) := if bit comps 0 then (setComp P frozen b 0 data, data.drop (2 ^ 20 + 16384)) else (b, data)
  let ms := m1Size frozen + m2Size frozen opt
  let (b, data) := if bit comps 1 then (setComp P frozen b 1 (data.take ms), data.drop ms) else (b, data)
  if bit comps 2 then
    let older := (List.range (P - 1)).map fun j => bits header (175 + 48 * j) (160 + 48 * j)
    let spills := readSpills (older ++ [(data.length - 540672 * P) / 72 - older.sum]) (data.drop (540672 * P))
    { b with
      deltas := (List.range P).foldl (fun m j =>
        sset {} m ((b.head + ring + j + 1 - P) % ring)
          { zero := bit header (50 + j), bytes := writeBytes [] 0 ((data.drop (540672 * j)).take 540672)
            spill := spills.getD j [] }) [] }
  else b

/-- Sends a page by HUSK_PAGE on a context. -/
def State.sendPage (s : State) (i p g v comps : Nat) (stamped : Bool) (img : Nat × List Byte) : State :=
  s.send i 3 0x46
    (leBytes 64 (pageKey v (s.part p).herdId g + comps * 2 ^ 76 + b2n stamped * 2 ^ 80 + img.1 * 2 ^ 256)) true img.2

/-- R442, R468: an owner's page to its buddy, whole. -/
def State.mirrorPage (s : State) (k p g : Nat) : State :=
  let pg := s.opage k p g
  match s.buddyCtx k with
  | none => s
  | some i =>
    s.sendPage i p g pg.body.stamp 7 false (huskImage s.past s.past pg.frozen pg.group ((s.part p).optOf pg) g 7 pg.body)

/-! ### What the buddy computes (R424, R425) -/

/-- A husk page's record is sent to its owner for the comparison of R326. -/
def State.sendRecord (s : State) (k p g v : Nat) (d : BitVec 256) : State :=
  match s.ownerCtx k p g with
  | some i => s.send i 3 0x47 (cmpHead v (s.part p).herdId g d) true []
  | none => s

/-- R424: the buddy's update unit computes step n of a mirrored page into the pending side; its write-back sets SATURATE and
WB_NONFINITE as the owner's does (R57, R68). -/
def State.huskUpdate (s : State) (k p g : Nat) (S : BitVec 64) : State :=
  let x := s.part p
  let h := s.hpage k p g
  let grp := x.group h.group
  let t := (s.kpart k p).updates + 1
  let c := stepConsts grp x.step t (fp64.decode S.toNat)
  let r := updateBody x.seed x.step g grp c h.current.body (h.grad.getD [])
  let full := updateSaturates x.seed x.step g grp c h.current.body (h.grad.getD [])
  let s := s.modKpart k p fun y => { y with saturate := y.saturate || full, wbNonfinite := y.wbNonfinite || r.nonfinite }
  let b := finishUpdate (s.past + 1) h.current.body r.body
  let b := { b with digest := digestRecord g h.frozen (goOpt grp) b }
  (s.modHpage k p g fun h => { h with pending := some ⟨x.step + 1, false, b⟩, compared := false }).sendRecord k p g
    (x.step + 1) b.digest

/-- R343, R424: the page takes a real update here: its gradient has come, or it has none and its group updates it with
gradient +0. -/
def Part.huskReal (x : Part) (g : Nat) (h : HuskPage) : Bool :=
  h.grad.isSome || (!h.frozen && !goSkipEmpty (x.group h.group) && (x.bucketOfPage g).isNone)

/-- R424: a null update of a mirrored page: the pending side is an alias of the current one. -/
def State.huskNull (s : State) (k p g : Nat) : State :=
  let x := s.part p
  let h := s.hpage k p g
  let b := nullUpdate (s.past + 1) h.current.body
  let b := { b with digest := digestRecord g h.frozen (goOpt (x.group h.group)) b }
  (s.modHpage k p g fun h => { h with pending := some ⟨x.step + 1, true, b⟩, compared := false }).sendRecord k p g
    (x.step + 1) b.digest

/-- Every owned page of a Keeper has been stamped in the running commit. -/
def State.ownedStamped (s : State) (k p : Nat) : Bool :=
  ((s.part p).ownedBy s.selfId k).all fun g => (s.opage k p g).body.stamp == (s.part p).step + 1

/-- R424: the update unit's turn for the husk: the next page that waits; all of them once no owned page alternates with them, each
stamped or held for spill space. -/
def State.huskServe (s : State) (k p : Nat) : State :=
  let due := (s.kpart k p).huskDue
  let n := if s.ownedStamped k p || (s.kpart k p).cstate == .heldSpill then due.length else 1
  (s.modKpart k p fun y => { y with huskDue := due.drop n }).forAll (due.take n) fun s g =>
    s.huskUpdate k p g (s.part p).herdSum

/-- R424: once the verdict is finite, every mirrored page that takes a real update waits for the update unit. A page of which no copy has
come yet (R442) takes none. -/
def State.huskCommit (s : State) (p : Nat) : State :=
  s.forAll ((s.part p).keepers) fun s k =>
    let y := s.kpart k p
    let due := (y.husk.filter fun h => (s.part p).huskReal h.1 h.2 && !y.lacking.contains h.1).map (·.1)
    let s := s.modKpart k p fun y => { y with huskDue := due }
    if (s.part p).ownedBy s.selfId k = [] then s.huskServe k p else s

/-- R347, R425: on the commit pip the pending sides become current and the gradient mirrors are freed. -/
def KprPart.huskPip (y : KprPart) : KprPart :=
  { y with huskDue := [], husk := (y.husk.map (·.1)).foldl (fun m g =>
      smod {} m g fun h =>
        match h.pending with
        | some side => { h with current := { side with isAlias := false }, pending := none, compared := false, grad := none }
        | none => { h with grad := none, compared := false }) y.husk }

/-- R425: on a rollback the pending sides and gradient mirrors are cleared. -/
def KprPart.huskRollback (y : KprPart) : KprPart :=
  { y with huskDue := [], husk := (y.husk.map (·.1)).foldl (fun m g =>
      smod {} m g fun h => { h with pending := none, compared := false, grad := none }) y.husk }

/-! ### Schedule records (R426) -/

/-- Bucket streams that end at a Keeper, directly or through a tree whose root names it (R312). -/
def Part.bucketStreams (x : Part) (k : Nat) : List Nat :=
  (x.sec 0x06).filter fun e =>
    sdBucket e &&
      ((sdDstKind e == 4 && sdDst e == k) ||
        (sdDstKind e == 3 && (x.sec 0x0C).any fun n =>
          bits n 5 0 == sdTree e && bit n 28 && bits n 31 29 == 1 && bits n 34 32 == k))

/-- Stations of Keeper k's field row, in plan order. -/
def Part.rowStations (x : Part) (k : Nat) : List Nat := x.planStations.filter fun st => fieldRow (stField st) == k

/-- Stream endpoints at a station in stream-table order: definition and whether inbound. -/
def Part.endpoints (x : Part) (st : Nat) : List (Nat × Bool) :=
  (x.sec 0x06).flatMap fun e =>
    (if x.inbound st e then [(e, true)] else []) ++ (if x.outbound st e then [(e, false)] else [])

/-- Tensors whose scale entries a Keeper holds (R76). -/
def State.scaleTensors (s : State) (x : Part) (k : Nat) : List Nat :=
  (List.range (x.sec 0x07).length).filter fun t => x.hasEntry t && s.scaleKpr x t == some k

/-- Host queues that the plan's streams name (R154). -/
def Part.hostQueues (x : Part) : List Nat :=
  (List.range 64).filter fun q => (x.sec 0x06).any fun e =>
    (sdSrcKind e == 5 && sdSrc e == q) || (sdDstKind e == 5 && sdDst e == q)

/-- The bytes of a schedule record of Keeper k, in the order of R426; the spec gives no layout (DESIGN CHOICE, log entry 36): step 8 B,
micro-steps 2 B, probe passes 4 B, 6 B per endpoint and host queue, 128 B per scale entry, then per bucket one byte and one per page. -/
def State.schedBytes (s : State) (k p : Nat) : List Byte :=
  let x := s.part p
  let y := s.kpart k p
  leBytes 8 x.step ++ leBytes 2 x.micro ++ leBytes 4 x.probes
    ++ ((x.rowStations k).flatMap fun st => (x.endpoints st).flatMap fun (e, inb) =>
      let c := (s.station st).core
      leBytes 6 (sget {} (if inb then c.inb else c.outb) (bits e 15 0)).seq)
    ++ ((x.bucketStreams k).flatMap fun e => leBytes 6 (sget 0 y.expected (bits e 15 0)))
    ++ (x.hostQueues.flatMap fun q => leBytes 6 (s.dq (64 * p + q)).seq)
    ++ ((s.scaleTensors x k).flatMap fun t => (sget {} x.scales t).encode)
    ++ ((x.bucketsOf k).flatMap fun b =>
      let bk := y.bucket (bits b 11 0)
      leBytes 1 (b2n bk.admitted) ++ (List.range (bits b 88 80 + 1)).flatMap fun i =>
        leBytes 1 (b2n (bk.acked.contains (bits b 70 24 / pageParams + i))))

/-- R426: each Keeper sends its record to its buddy at the step fence; a replay target, which joins no herd (R447), sends
none. -/
def State.sendSched (s : State) (p : Nat) : State :=
  if (s.part p).replays then s
  else s.forAll ((s.part p).keepers) fun s k =>
    let bs := s.schedBytes k p
    s.toBuddy k 0x43 (leBytes 16 (pageKey (s.part p).step (s.part p).herdId k + bs.length * 2 ^ 64)) bs

/-- Pages that this Keeper mirrors: those of the owners for which it is the buddy (R421). -/
def State.mirrored (s : State) (k p : Nat) : List Nat :=
  ((s.part p).sec 0x11).flatMap fun e =>
    if s.mlv.ctxs.any fun c => c.2.role == 4 && c.2.kpr == k && c.2.partner == prOwner e && c.2.partnerKpr == prOwnerKpr e then
      prPages e
    else []

/-! ### Meanings -/

/-- A husk message reaches this Keeper: `n` cells are taken; the partition runs the herd's plan here. -/
def State.huskMessage (s : State) (i n head : Nat) (ok : Nat → Nat → Part → Bool) (eff : State → Nat → Nat → State) : State :=
  if (s.ctx i).state ≠ .opened then s
  else
    let k := (s.ctx i).kpr
    let s := s.took i 3 n
    match s.herdPart (bits head 47 40) fun p x => ok k p x with
    | none => s.msgError i
    | some p => eff s k p

/-- R422, R424, R427: a gradient of the running step arrives in the gradient mirror of a mirrored page, and the page is computed, again
where it came again, once the verdict has been received, after those that wait; one of any other step is an error. For a page of which no copy has come yet
(R442) it has no effect. (DEDUCED, log entry 66) -/
def execHuskGrad (ctx head : Nat) (data : List Byte) (s : State) : Host.Outcome State Fault Refusal :=
  .next (s.huskMessage ctx 2049 head
    (fun k p x => x.phase ≠ .idle && x.step == bits head 39 0 && (s.mirrored k p).contains (bits head 75 48)
      && data.length == 2 ^ 20)
    fun s k p =>
      let g := bits head 75 48
      if (s.kpart k p).lacking.contains g then s
      else
        let s := s.modHpage k p g fun h => { h with grad := some (writeBytes [] 0 data) }
        let x := s.part p
        if (x.phase = .commit ∨ x.phase = .flipWait) ∧ x.nullCommit = false then
          match (s.kpart k p).huskDue with
          | [] => s.huskUpdate k p g x.herdSum
          | due => s.modKpart k p fun y => { y with huskDue := sortedBy (· ≤ ·) (insertOnce g due) }
        else s)

def execHuskNull (ctx head : Nat) (s : State) : Host.Outcome State Fault Refusal :=
  .next (s.huskMessage ctx 1 head
    (fun k p x => x.phase ≠ .idle && x.step == bits head 39 0 && (s.mirrored k p).contains (bits head 75 48))
    fun s k p => if (s.kpart k p).lacking.contains (bits head 75 48) then s else s.huskNull k p (bits head 75 48))

end Sys2Proof.Machine
end

