-- ==== Sys2Proof/Machine/Sync.lean ====
section
/-! DEFINITION. The sync network's nodes (R244 to R246): members, rounds, and what a changed mask does to a round (R250). -/

namespace Sys2Proof.Machine

/-- Stations that a channel combines: every station of the plan for channel 0, the plan's list for channels 4 to 15. -/
def Part.syncMembers (x : Part) (ch : Nat) : List Nat :=
  if ch = 0 then x.planStations
  else match (x.sec 0x0D).find? fun e => bits e 3 0 == ch with
    | some e => ((x.sec 0x19).drop (bits e 63 32)).take (bits e 79 64)
    | none => []

/-- The field rows of a partition, the lowest first. -/
def Part.syncRows (x : Part) : List Nat := (List.range 8).filter fun r => x.rows.getLsbD r

/-- R244: the field-row node below that of row `r` through which row `row` is reached, in the binary tree rooted at the
partition's lowest field row: the rank of a row's parent lacks the lowest bit of its own. (DEDUCED, log entry 71) -/
def Part.rowBelow (x : Part) (r row : Nat) : Option Nat :=
  let i := x.syncRows.idxOf r
  let j := x.syncRows.idxOf row
  if i < j ∧ j < i + Nat.gcd i 8 then x.syncRows[i + 2 ^ Nat.log2 (j - i)]? else none

/-- The root of a partition's sync tree. -/
def Part.syncRoot (x : Part) : Nat := 1600 + x.syncRows.headD 0

/-- The partition that a sync node serves. -/
def State.nodePart (s : State) (node : Nat) : Option Nat :=
  if node < 1536 then s.fieldPart (node / 24)
  else if node < 1600 then s.fieldPart (node - 1536)
  else if node < 1608 then s.rowPart (node - 1600)
  else none

/-- Members below a node: pcols of bound cores, prows, field columns; at a field-row node also 16 + r for the field-row
node of row r below it (R244). -/
def State.nodeMembers (s : State) (p node ch : Nat) : List Nat :=
  let sts := (s.part p).syncMembers ch
  let keys := sts.flatMap fun st =>
    let f := stField st
    let r := s.remapOf st
    if node < 1536 then (if f = node / 24 ∧ r.prow = node % 24 then [r.pcol] else [])
    else if node < 1600 then (if f = node - 1536 then [r.prow] else [])
    else if fieldRow f = node - 1600 then [f % 8]
    else ((s.part p).rowBelow (node - 1600) (fieldRow f)).toList.map (16 + ·)
  keys.eraseDups

/-- R245: the combination of the members' VALUEs. -/
def Part.combine (x : Part) (ch : Nat) (vs : List Nat) : Nat :=
  let op := if ch = 0 then 1 else match (x.sec 0x0D).find? fun e => bits e 3 0 == ch with
    | some e => bits e 5 4
    | none => 0
  match op with
  | 0 => vs.foldl (· ||| ·) 0
  | 1 => vs.foldl (· &&& ·) 255
  | _ => vs.foldl (fun a b => min 255 (a + b)) 0

def State.syncNode (s : State) (node ch : Nat) : SyncNode := sget {} s.net.sync (16 * node + ch)
def State.modSync (s : State) (node ch : Nat) (f : SyncNode → SyncNode) : State :=
  { s with net := { s.net with sync := smod {} s.net.sync (16 * node + ch) f } }

/-- R184, R246: a round's result reaches the stations below a row node: their posts of the round are over, and awaits
retire. -/
def State.awaitsOver (s : State) (p node ch : Nat) : State :=
  if 1536 ≤ node then s
  else
    let here := (s.part p).planStations.filter fun st =>
      stField st == node / 24 && (s.remapOf st).prow == node % 24
    s.forAll here fun s st =>
      s.modStation st fun y =>
        let waits (e : OpEntry) : Bool :=
          e.issued && opCode e.op.toNat == 0x0C && bit e.op.toNat 8 && bits e.op.toNat 12 9 == ch
            && !y.joinedEver.getLsbD ch
        { y with
          posted := y.posted &&& ~~~(BitVec.ofNat 16 (2 ^ ch))
          core := { y.core with queue := y.core.queue.map fun e => if waits e then { e with joined := true } else e } }

/-- R246: the result passes downward through a node: its parity flips, and posts that came early count for the round
that begins. From a field-row node the result of channel 0 also reaches the row's Keeper (R244, R245). -/
def State.resultPasses (s : State) (p node ch value : Nat) : State :=
  let n := s.syncNode node ch
  let s := s.emit (.pip node (pipBytes ch n.parity 1 value))
  let s := s.modSync node ch fun n => { parity := !n.parity, posted := n.early, early := [], sent := false }
  let s := if ch = 0 ∧ 1600 ≤ node then s.modPart p fun x => { x with fenceRows := insertOnce (node - 1600) x.fenceRows } else s
  s.awaitsOver p node ch

/-- A node whose members have all posted sends upward; the root, at the partition's lowest field row, forms the result. -/
def State.nodeReady (s : State) (p node ch : Nat) : State :=
  let n := s.syncNode node ch
  let ms := s.nodeMembers p node ch
  if n.sent || ms.isEmpty || !(ms.all fun m => n.posted.any fun q => q.1 == m) then s
  else
    let v := (s.part p).combine ch (n.posted.map (·.2))
    let s := (s.modSync node ch fun n => { n with sent := true }).emit (.pip node (pipBytes ch n.parity 0 v))
    if node = (s.part p).syncRoot then s.resultPasses p node ch v else s

/-- R245: a level of channel 1 changes at a node; the node sends the OR of its inputs upward when that changes. -/
def State.nonfiniteLevel (s : State) (node member value : Nat) : State :=
  let key := 32 * node + member
  let up (s : State) : Bool := s.net.nonfinite.any fun k => k / 32 == node
  let l := if value = 0 then s.net.nonfinite.filter (· ≠ key) else insertOnce key s.net.nonfinite
  let t : State := { s with net := { s.net with nonfinite := l } }
  if up s = up t then t else t.emit (.pip node (pipBytes 1 false 0 (b2n (up t))))

/-- R250: a station's leaf moves from the core that served it to another. What the old leaf has posted counts in the round
that runs; from the next on the new leaf posts. -/
def State.moveLeaf (s : State) (st : Nat) (old new : Remap) : State :=
  match s.stPart st with
  | none => s
  | some p =>
    let a := 24 * stField st + old.prow
    let b := 24 * stField st + new.prow
    if old.prow = new.prow ∧ old.pcol = new.pcol then s
    else s.forAll (0 :: (List.range 12).map (· + 4)) fun s ch =>
      let took (l : List (Nat × Nat)) : List (Nat × Nat) := (l.filter fun q => q.1 == old.pcol).map fun q => (new.pcol, q.2)
      let n := s.syncNode a ch
      let s := s.modSync a ch fun n =>
        { n with posted := n.posted.filter fun q => q.1 ≠ old.pcol, early := n.early.filter fun q => q.1 ≠ old.pcol }
      let s := s.modSync b ch fun m =>
        let both (l k : List (Nat × Nat)) : List (Nat × Nat) := l ++ (took k).filter fun q => !l.any fun r => r.1 == q.1
        if m.parity = n.parity then { m with posted := both m.posted n.posted, early := both m.early n.early } else m
      (s.nodeReady p a ch).nodeReady p b ch

end Sys2Proof.Machine
end

