-- ==== Sys2Proof/Machine/Herd.lean ====
section
/-! DEFINITION. The order of a step (R20 to R46, R82, R258): its beginning, gather and compute, the step fence, herd rounds
(R386 to R388), the verdict (R33, R34), the commit pip (R35, R347), rollback (R275, R352) and the host's choice (R354). -/

namespace Sys2Proof.Machine

/-! ### Route sets (R258), and fields switched off (R32, R270, R409, R497) -/

/-- Either half of the wafer runs slowed. -/
def Clk.slowed (c : Clk) : Bool := c.westCmd ≠ 0 || c.eastCmd ≠ 0 || c.westTherm ≠ 0 || c.eastTherm ≠ 0

/-- R258: the route set that a partition takes at a step fence: field-off while a field of it is off, else seam while a
half is slowed; where the plan lacks it, the present one stays. -/
def State.chooseRoutes (s : State) (p : Nat) : State :=
  s.modPart p fun x =>
    match x.plan with
    | none => x
    | some pl =>
      let has (set : Nat) : Bool := pl.sections.any fun c => c.set == set
      match x.offFields with
      | f :: _ => if has (0x40 + f) then { x with routeSet := 2, offField := some f } else x
      | [] =>
        if s.clk.slowed then (if has 1 then { x with routeSet := 1, offField := none } else x)
        else { x with routeSet := 0, offField := none }

/-- R270: a bank's controller as initialisation leaves it; retired rows stay. -/
def Bank.init (b : Bank) : Bank := { b with epoch := [], poison := [], bad := [], writeBack := [], heldReads := [], toRetire := [], replaying := [], lost := false }

/-- R270: a bank is initialised. -/
def State.initBank (s : State) (i : Nat) : State :=
  { s with store := s.store.filter fun c => c.1 / 2 ^ 24 ≠ i }.modBank i Bank.init

/-- The contents of a field's banks are lost. -/
def State.eraseField (s : State) (f : Nat) : State :=
  let mine (i : Nat) : Bool := 600 * f ≤ i && i < 600 * f + 600
  { s with
    store := s.store.filter fun c => !mine (c.1 / 2 ^ 24)
    banks := (s.banks.map (·.1)).foldl (fun m i => if mine i then smod {} m i Bank.init else m) s.banks }

/-- A field leaves a partition's layout. -/
def State.leaveLayout (s : State) (f p : Nat) : State := s.modPart p fun x => { x with offFields := insertOnce f x.offFields }

/-- R408: a partition without the variant for a field that has left it, or with a second field gone, has lost its layout. -/
def State.loseLayout (s : State) (f p : Nat) : State :=
  s.modPart p fun x =>
    { x with layoutLost := x.layoutLost || (x.plan.isSome && (!x.hasVariant f || 2 ≤ x.offFields.length)) }

/-- R409, R495: a field is switched off for heat or by command: it leaves the layout without a fault. From stage 3 it
passes to stage 4; its grant is 0. -/
def State.fieldOff (s : State) (f : Nat) : State :=
  let s := s.modField f fun x =>
    { x with state := .offForHeat, fill := none, queued := [], offAtFence := false, starting := false }
  let s := s.modRegion f fun r => { r with grant := 0, stage := if r.stage = 3 then 4 else r.stage }
  let s := s.eraseField f
  match s.fieldPart f with
  | none => s
  | some p => (s.leaveLayout f p).loseLayout f p

/-- R258, R408: before an operation of a step or a window issues, a partition with a field off takes that field's set; not
while the stations run an eval window. -/
def State.offRoutes (s : State) (p : Nat) : State :=
  if (s.part p).offFields = [] ∨ (s.part p).eval.any (·.staged) = true then s else s.chooseRoutes p

/-- R32, R409: fields that wait for it are switched off. -/
def State.offAtFence (s : State) (p : Nat) : State :=
  s.forAll (((s.part p).fields).filter s.offWaits) fun s f => s.fieldOff f

/-- R147, R497: no eval pass runs at the stations of a partition. -/
def State.betweenPasses (s : State) (p : Nat) : Bool :=
  let x := s.part p
  !x.eval.any (·.staged) || x.planStations.all fun st =>
    let c := (s.station st).core
    c.queue == [] && decide ((x.script st .eval).length ≤ c.pos)

/-- R497: with no step and no eval pass running in a partition, fields that wait for it are switched off. (DEDUCED, log entry 98) -/
def State.settle (s : State) (p : Nat) : State :=
  let x := s.part p
  if (x.phase = .idle ∨ x.phase = .halted) ∧ s.betweenPasses p = true ∧ x.fields.any s.offWaits = true then
    (s.offAtFence p).chooseRoutes p
  else s

/-- R497: a field comes to wait for its switch-off: it is at once where nothing runs in its partition; else it waits for the
step fence, for the end of the running eval pass, or for the end of what runs. -/
def State.offWhenIdle (s : State) (f : Nat) : State :=
  if s.offWaits f = false then s
  else match s.fieldPart f with
    | none => s.fieldOff f
    | some p => s.settle p

/-! ### Ends of a step -/

/-- R43: a held STEP_BEGIN loses its hold; pages already staged for it are discarded, and its gather stops. -/
def State.releaseHold (s : State) (p : Nat) : State :=
  match (s.part p).held with
  | none => s
  | some (_, csn) =>
    let s := s.modPart p fun x =>
      { x with
        held := none
        staged := x.staged.filter fun y => y.2.version ≠ x.step + 1 ||
          match x.range y.1 with | some e => prFrozen e | none => false }
    let n := (s.part p).step + 1
    let s := s.forAll ((s.part p).keepers) fun s k => s.modKpart k p fun y =>
      { y with pages := (y.pages.map (·.1)).foldl (fun m g =>
          smod {} m g fun o => { o with waiting := o.waiting.filter fun r => r ≠ (0x1000, n) }) y.pages }
    s.final csn { status := 0x3001 }

/-- Event 0x102 and 0x103: the partition and the step. -/
def State.stepEvent (s : State) (j p : Nat) : State := s.event j (p + (s.part p).step * 2 ^ 8)

/-- A station whose work of the step is abandoned: scripts, queues, slots, accumulators and streams are as after plan
load; counters and sticky flags stay. (DESIGN CHOICE, log entry 75) -/
def Station.restart (y : Station) : Station :=
  { y with
    core := { run := y.core.run, flags := y.core.flags }
    error := 0, stopped := false, fenced := false, watchdogOff := false, retryFault := false
    posted := 0, joinedEver := 0, bankReads := [], fencePosted := false, writing := none
    faultPos := none, holds := [], origin := {}
    shadowA := none, shadowB := none, lambState := 0, probeCore := none, probeBank := [] }

/-- Buckets and stream counts of the abandoned step at a Keeper; reductions of owned pages stay, since the slices of
other ranks are not sent again (R405, R440). -/
def KprPart.dropBuckets (y : KprPart) : KprPart :=
  { y with buckets := [], admissions := 0, expected := [], amaxSent := false, skipBuckets := [] }

/-- Gradients and reductions of a step at a Keeper (R321, R347). -/
def KprPart.dropGradients (y : KprPart) : KprPart :=
  { y.dropBuckets with
    expected := y.expected, nonfinite := false
    pages := (y.pages.map (·.1)).foldl (fun m g =>
      smod {} m g fun o =>
        { o with
          grad := none, reduction := {}, pre := none, asked := [], waited := false, buddyRec := none, disputed := none })
      y.pages }

def State.eachKpr (s : State) (p : Nat) (f : KprPart → KprPart) : State :=
  s.forAll ((s.part p).keepers) fun s k => s.modKpart k p f

/-- The held slices of a step are gone, and the credits withheld for them are owed (R318). -/
def State.heldGone (s : State) (p : Nat) : State := s.forAll ((s.part p).keepers) State.returnHeld

/-- A sync node serves a partition's field rows. -/
def Part.hasNode (x : Part) (node : Nat) : Bool :=
  if node < 1536 then x.rows.getLsbD (fieldRow (node / 24))
  else if node < 1600 then x.rows.getLsbD (fieldRow (node - 1536))
  else node < 1608 && x.rows.getLsbD (node - 1600)

/-- R262, R275: buffers, merge windows, tree nodes and sync rounds of a partition start afresh, as at a warm reset. -/
def State.clearNet (s : State) (p : Nat) : State :=
  let x := s.part p
  { s with
    net := { s.net with
      windows := s.net.windows.filter fun w => !x.fields.contains (stField w.1)
      nodes := s.net.nodes.filter fun n => n.1 / 2 ^ 24 ≠ p
      sync := s.net.sync.filter fun n => !x.hasNode (n.1 / 16)
      heads := s.net.heads.filter fun w => !x.fields.contains (routerField w.gx w.gy)
      links := (s.net.links.map (·.1)).foldl (fun m i =>
        if x.fields.contains (routerField (i / 16 % 200) (i / 3200)) then
          smod {} m i fun l => { l with buffered := [], onWay := [], arrived := [] }
        else m) s.net.links } }

/-- The wafer state of the running step is abandoned: stations restart, host-queue and bucket streams start again at 0,
the networks are empty, requests held at banks are discarded (R274, R275). -/
def State.dropWafer (s : State) (p : Nat) : State :=
  let x := s.part p
  let s := s.forAll x.stations fun s st =>
    let s := if (sget {} s.stations st) = {} then s else s.modStation st Station.restart
    s.modBank (s.stBank st) fun b =>
      if b.heldReads = [] ∧ b.replaying = [] then b else { b with heldReads := [], replaying := [] }
  let s := s.forAll x.fields State.restartOver
  let s := ((s.eachKpr p KprPart.dropBuckets).clearNet p).modPart p fun x => { x with fenceRows := [] }
  s.forAll (List.range 64) fun s q => s.modDq (64 * p + q) fun d => { d with seq := 0 }

def Part.running (x : Part) : Bool := x.phase ≠ .idle && x.phase ≠ .halted && x.phase ≠ .recovery

/-- R275: a partition rolls back its running step; the host issues STEP_BEGIN n again. (DEDUCED, log entry 65) -/
def State.rollbackLocal (s : State) (p : Nat) : State :=
  if (s.part p).running = false then s
  else
    let s := (s.dropWafer p).releaseHold p
    let s := s.modPart p fun x =>
      { x with
        phase := .idle, microDone := 0, waferNonfinite := false, probing := false, probeScales := [], reduced := false
        amax := [] }
    (s.stepEvent 2 p).settle p

/-! ### Beginning a step (R21, R39, R46, R82) -/

/-- The forward operations of a station's MICRO: those before the TFENCE with FWD_END, without deferred ones (R148). -/
def Part.forwardOps (x : Part) (st : Nat) : List (Nat × Nat) :=
  let all := (x.script st .micro).mapIdx fun i o => (i, o)
  (all.takeWhile fun o => !(opCode o.2 == 0x0B && bit o.2 10)).filter fun o => !opDefer o.2

/-- Tensors whose scale an operation uses. -/
def Part.opTensors (x : Part) (st i op : Nat) : List Nat :=
  ((x.opReads st .micro i op ++ x.opWrites st .micro i op).filterMap fun a => (x.space st a.ref).map (·.tensor))
    ++ (match opCode op with
        | 0x02 => [teSA op, teSB op, teSO op]
        | 0x07 => [opAux op]
        | 0x0A => [opAux op]
        | _ => [])

/-- R82: a tensor has no valid entry: at its Keeper on this module (in a replay, of the module replayed, whose schedule record
brings it), or as its scale page came from the owner, SCALE_V clear. Of one whose SCALE no staged page can show, that holds until
the partition has run a measuring pass. (DEDUCED, log entry 64) -/
def State.notValid (s : State) (p t : Nat) : Bool :=
  let x := s.part p
  let g := bits (x.tensor t) 91 64
  let here := (s.scaleKpr x t).isSome || (x.range g).any fun e => x.replayKey == some (prOwner e)
  x.hasEntry t && (if here then (sget {} x.scales t).valid == 0
    else if x.current false x.step g && (x.pageTensors g).head? == some t then !x.served false t
    else x.probes == 0)

/-- R82: some tensor that the forward pass reaches has no valid entry. -/
def State.needsProbe (s : State) (p : Nat) : Bool :=
  let x := s.part p
  x.planStations.any fun st => (x.forwardOps st).any fun o => (x.opTensors st o.1 o.2).any (s.notValid p)

/-- R39: compute begins: every station fetches MICRO, first as a measuring pass where a probe is due. -/
def State.computeStart (s : State) (p : Nat) : State :=
  let s := s.offRoutes p
  let probe := s.needsProbe p
  let x := s.part p
  let s := s.forAll x.planStations fun s st =>
    let s := if probe && !(x.script st .micro).isEmpty then s.keepProbe st else s
    (s.modStation st fun y => { y with fencePosted := false }).modCore st fun c => x.startMicro st probe c
  (s.modPart p fun x => { x with phase := .compute, probing := probe }).progress p

/-- A step begins: STEP reads its number and gather runs. -/
def State.beginStep (s : State) (p n micro : Nat) : State :=
  let s := s.modPart p fun x =>
    { x with
      step := n, micro := micro, microDone := 0, phase := .gather, waferNonfinite := false, fenceRows := [], kprNonfinite := false, sliceSent := false
      choice := 0, nullCommit := false, probeScales := [], amax := [], reduced := false, rollback := none
      rounds := x.rounds.filter fun r => r.step == n
      results := x.results.filter fun r => n == r.step + 1 }
  (s.offRoutes p).gather p false n

/-! ### The commit pip (R35, R46, R347, R350, R425) -/

/-- R347: the commit pip passes: version n+1 is in force at every Keeper. Each drives a pip down channel 3 (R245), VALUE and
ROUND 0 (DESIGN CHOICE, log entry 185). -/
def State.commitPip (s : State) (p : Nat) : State :=
  let x := s.part p
  let n := x.step
  let s := s.eachKpr p fun y =>
    let y := y.dropGradients.huskPip
    { y with
      updates := if y.null then y.updates else satAdd 40 y.updates 1
      skips := if y.null then satAdd 16 y.skips 1 else y.skips
      cstate := .idle, null := false }
  let s := s.modPart p fun x =>
    { x with
      version := n + 1, hver := n + 1, flipPending := false, huskPending := false, nullCommit := false, choice := 0
      resumeDue := false, amax := [], reduced := false, nextScales := []
      scales := x.nextScales.foldl (fun m e => sset {} m e.1 e.2) x.scales }
  let s := if s.recov.pull = 2 then
      { s with recov := { s.recov with pull := 3, role := .member, taking := none } }
    else s
  let s := (s.finalAll 0x35 p {}).finalAll 0x33 p {}
  let s := s.forAll x.syncRows fun s r => s.emit (.pip (1600 + r) (pipBytes 3 false 1 0))
  match x.held with
  | none => (s.modPart p fun x => { x with phase := .idle }).settle p
  | some (micro, csn) =>
    let s := s.modPart p fun x => { x with held := none }
    let s := (s.beginStep p (n + 1) micro).final csn {}
    if (s.part p).gathered false (n + 1) ∧ (s.part p).eval = none then s.computeStart p else s

/-! ### Herd rounds (R386 to R388) -/

def State.selfRank (s : State) (p : Nat) : Nat := ((s.part p).rankOf s.selfId).getD 0

def Part.childRanks (x : Part) (r : Nat) : List Nat :=
  (List.range x.ranks).filter fun c => c ≠ 0 && (c - 1) / x.herdF == r

/-- R386: the lowest-numbered Keeper's OPEN context to a rank, no bypass context (R432). -/
def State.syncCtx (s : State) (p r : Nat) : Option Nat :=
  let id := (s.part p).rankId r
  ((List.range 8).findSome? fun k =>
    s.mlv.ctxs.find? fun c => c.2.state == .opened && c.2.kpr == k && c.2.partner == id && c.2.role ≠ 1).map (·.1)

def SumRec.encode (r : SumRec) : Nat := r.rank + b2n r.nonfinite * 2 ^ 12 + r.choice * 2 ^ 13 + r.sq.toNat * 2 ^ 64

def SumRec.decode (n : Nat) : SumRec := ⟨bits n 11 0, bit n 12, bits n 14 13, BitVec.ofNat 64 (bits n 127 64)⟩

/-- R388: a SUM_UP with its records: 31 in the head cell, the rest after it. -/
def State.sumUp (s : State) (i step herd kind : Nat) (recs : List SumRec) : State :=
  let all := recs.flatMap fun r => leBytes 16 r.encode
  s.send i 2 0x30 (leBytes 16 (step + herd * 2 ^ 40 + kind * 2 ^ 48 + recs.length * 2 ^ 52) ++ all.take 496) true (all.drop 496)

/-- R388: the head of a SUM_DOWN. -/
def RoundResult.head (r : RoundResult) (herd : Nat) : List Byte :=
  leBytes 32 (r.step + herd * 2 ^ 40 + r.kind * 2 ^ 48 + b2n r.result * 2 ^ 52 + r.choice * 2 ^ 53 + r.sumSq.toNat * 2 ^ 64
    + r.nonfinite * 2 ^ 128)

def State.answer (s : State) (p child : Nat) (r : RoundResult) : State :=
  match s.syncCtx p child with
  | some i => s.send i 2 0x31 (r.head (s.part p).herdId) true []
  | none => s

def Part.result (x : Part) (step kind : Nat) : Option RoundResult :=
  x.results.find? fun r => r.step == step && r.kind == kind

/-- A result reaches this node: it is kept, passed down and applied, once. -/
def State.takeResult (apply : State → Nat → RoundResult → State) (s : State) (p : Nat) (r : RoundResult) : State :=
  if ((s.part p).result r.step r.kind).isSome then s
  else
    let s := s.modPart p fun x =>
      { x with
        results := r :: x.results
        rounds := x.rounds.filter fun q => !(q.step == r.step && q.kind == r.kind) }
    let s := s.forAll ((s.part p).childRanks (s.selfRank p)) fun s c => s.answer p c r
    apply s p r

/-- R387: the result that the root forms. -/
def formResult (step kind : Nat) (recs : List SumRec) : RoundResult :=
  match kind with
  | 0 => ⟨step, 0, false, 0, sum64 (recs.map (·.sq)), (recs.filter (·.nonfinite)).length⟩
  | 3 =>
    let c := (recs.map (·.choice)).getD 0 0
    let same := recs.all fun r => r.choice == c
    ⟨step, 3, same, if same then c else 0, 0, 0⟩
  | k => ⟨step, k, true, 0, 0, 0⟩

/-- R387: a round moves on where it can: upward, or to its result at the root. Without an OPEN context to the parent it waits
for one (R391). -/
def State.runRound (apply : State → Nat → RoundResult → State) (s : State) (p step kind : Nat) : State :=
  let x := s.part p
  match x.rounds.find? fun r => r.step == step && r.kind == kind with
  | none => s
  | some r =>
    let self := s.selfRank p
    let kids := x.childRanks self
    let ready := if kind = 2 then r.ownPosted || !r.children.isEmpty
      else r.ownPosted && kids.all fun c => r.children.any fun q => q.1 == c
    if r.sent || !ready then s
    else
      let recs := sortedBy (fun a b => a.rank ≤ b.rank) (r.own.toList ++ r.children.flatMap (·.2))
      let mark (s : State) : State := s.modPart p fun x =>
        { x with rounds := x.rounds.map fun q => if q.step = step ∧ q.kind = kind then { q with sent := true } else q }
      if self = 0 then State.takeResult apply (mark s) p (formResult step kind recs)
      else
        match s.syncCtx p ((self - 1) / x.herdF) with
        | some i => (mark s).sumUp i step x.herdId kind recs
        | none => s

/-- Changes a round, which begins with the first post of it. -/
def Part.modRound (x : Part) (step kind : Nat) (f : Round → Round) : Part :=
  if x.rounds.any fun r => r.step == step && r.kind == kind then
    { x with rounds := x.rounds.map fun r => if r.step = step ∧ r.kind = kind then f r else r }
  else { x with rounds := x.rounds ++ [f { step := step, kind := kind }] }

/-- The module's own post; a stored result answers a repeated one (R350, R387), but for a CHOICE on which the herd did not
agree (DEDUCED, log entry 177). A rank that has posted ROLLBACK for a step posts no COMMIT for it. -/
def State.post (apply : State → Nat → RoundResult → State) (s : State) (p kind : Nat) (own : Option SumRec) : State :=
  let step := (s.part p).step
  let stale (r : RoundResult) : Bool := r.step == step && r.kind == 3 && !r.result
  let s := if kind = 3 then s.modPart p fun x => { x with results := x.results.filter fun r => !stale r } else s
  match (s.part p).result step kind with
  | some r => apply s p r
  | none =>
    if kind = 1 ∧ ((s.part p).rounds.any fun r => r.step == step && r.kind == 2 && r.ownPosted) = true then s
    else
      let s := s.modPart p fun x => x.modRound step kind fun r => { r with own := own, ownPosted := true }
      State.runRound apply s p step kind

/-- A child's post; one for which a result is stored is answered with it. -/
def State.childPost (apply : State → Nat → RoundResult → State) (s : State) (p step kind child : Nat)
    (recs : List SumRec) : State :=
  match (s.part p).result step kind with
  | some r => s.answer p child r
  | none =>
    let s := s.modPart p fun x => x.modRound step kind fun r =>
      { r with children := (child, recs) :: r.children.filter fun q => q.1 ≠ child }
    State.runRound apply s p step kind

/-! ### Commit: shares and the verdict -/

/-- R347: the result of a COMMIT round is the commit pip. -/
def applyCommit (s : State) (p : Nat) (r : RoundResult) : State :=
  if (s.part p).phase = .flipWait ∧ r.step = (s.part p).step then s.commitPip p else s

/-- Every owned page of a Keeper is CLEAN at n+1. -/
def State.allClean (s : State) (k p : Nat) : Bool :=
  let x := s.part p
  (x.ownedBy s.selfId k).all fun g =>
    let pg := s.opage k p g
    pg.body.stamp == x.step + 1 && pg.cstate == .clean

/-- R347: a Keeper whose owned pages are all CLEAN at n+1 has sent its share; with the last share of the module the
partition waits for the commit pip. -/
def State.shares (s : State) (p : Nat) : State :=
  if (s.part p).phase ≠ .commit then s
  else
    let ks := (s.part p).keepers
    let s := s.forAll ks fun s k =>
      if (s.kpart k p).cstate = .running ∧ s.allClean k p = true then
        s.modKpart k p fun y => { y with cstate := .flipWait }
      else s
    if ks.all fun k => (s.kpart k p).cstate == .flipWait then
      State.post applyCommit (s.modPart p fun x => { x with phase := .flipWait, flipPending := true }) p 1 none
    else s

/-- R339, R345, R355: commit of the step begins at every Keeper of the partition. -/
def State.beginCommit (s : State) (p : Nat) (null : Bool) (S : BitVec 64) : State :=
  let x := s.part p
  let s := s.eachKpr p fun y =>
    let c := stepConsts (x.group 0) x.step (y.updates + 1) (fp64.decode S.toNat)
    { y with
      cstate := .running, step := x.step, null := null, done := 0, spillFull := false
      spillUsed := sset 0 y.spillUsed ((x.step + 1) % s.past) 0
      lr := BitVec.ofNat 32 (fp32.convert .nearest c.lr).bits
      clip := BitVec.ofNat 32 (fp32.convert .nearest c.clip).bits }
  let s := s.modPart p fun x =>
    { x with phase := .commit, nullCommit := null, herdSum := S, huskPending := true }
  let s := if null then s else s.huskCommit p
  s.shares p

/-- R34: the verdict: commit, or HALTED_NONFINITE with no page changed. -/
def applyVerdict (s : State) (p : Nat) (r : RoundResult) : State :=
  if (s.part p).phase ≠ .gate ∨ r.step ≠ (s.part p).step then s
  else if r.nonfinite = 0 then s.beginCommit p false r.sumSq
  else
    let s := (s.releaseHold p).modPart p fun x => { x with phase := .halted }
    (s.stepEvent 3 p).settle p

/-- R33, R320: once the fence has passed and the module's reduction is complete, its sync-sum record is posted. -/
def State.gate (s : State) (p : Nat) : State :=
  let x := s.part p
  if x.phase = .reduce ∧ x.reduced = true then
    let sq := sum64 (x.keepers.map fun k => (s.kpart k p).sumSq)
    let bad := x.keepers.any fun k => (s.kpart k p).nonfinite
    let s := s.modPart p fun x => { x with phase := .gate, kprNonfinite := bad }
    State.post applyVerdict s p 0 (some ⟨s.selfRank p, x.waferNonfinite || bad, 0, sq⟩)
  else s

/-! ### The host's choice (R354 to R356) -/

/-- R356: the wafer and Keeper state of step n is discarded and PHASE returns to IDLE. -/
def State.dropStep (s : State) (p : Nat) : State :=
  let s := ((s.dropWafer p).eachKpr p fun y => y.dropGradients.huskRollback).heldGone p
  s.modPart p fun x =>
    { x with
      phase := .idle, reduced := false, microDone := 0, amax := [], probeScales := [], choice := 0
      rounds := [], results := x.results.filter fun r => r.step ≠ x.step || r.kind ≠ 0 }

def applyChoice (s : State) (p : Nat) (r : RoundResult) : State :=
  if (s.part p).phase ≠ .halted ∨ r.step ≠ (s.part p).step then s
  else if r.result = false then
    let s := s.modPart p fun x => { x with choice := 0 }
    (s.finalAll 0x33 p { status := 0x3006 }).finalAll 0x34 p { status := 0x3006 }
  else if r.choice = 1 then (s.finalAll 0x34 p { status := 0x3006 }).beginCommit p true 0
  else (((s.dropStep p).finalAll 0x34 p {}).finalAll 0x33 p { status := 0x3006 }).settle p

/-! ### Rollback (R352, R567, R351) -/

/-- A page on a rollback: restored from its pre-image, where it is no longer one of those stamped n+1, or from the buddy's version-n
copy where it is CLEAN at n+1 (R352, R357). -/
def State.restorePage (s : State) (k p g : Nat) : State :=
  let n := (s.part p).step
  let pg := s.opage k p g
  match pg.pre with
  | some b =>
    let s := if pg.body.stamp = n + 1 then s.modKpart k p fun y => { y with done := y.done - 1 } else s
    s.modOpage k p g fun y => { y with body := b, pre := none, cstate := .clean }
  | none => if pg.body.stamp = n + 1 then s.pullPage k p g 7 else s

/-- R352: every Keeper stops its commit and restores its pages; PHASE reads RECOVERY meanwhile. The cause that a notice
of another module gives is not in its message: a free value (DESIGN CHOICE, log entry 37). -/
def applyRollback (s : State) (p : Nat) (r : RoundResult) : State :=
  if r.step ≠ (s.part p).step ∨ (s.part p).phase = .idle then s
  else
    let (v, s) := s.draw
    let cause := ((s.part p).rollback).getD (if v.getLsbD 0 then .writeBack else .digest)
    let s := s.releaseHold p
    let s := s.forAll ((s.part p).keepers) fun s k =>
      s.forAll ((s.part p).ownedBy s.selfId k) fun s g => s.restorePage k p g
    let s := s.eachKpr p fun y =>
      { y.dropGradients.huskRollback with cstate := .rollback, rolledBack := true, null := false, spillFull := false }
    let s := s.heldGone p
    let s := if (s.part p).beforeFence then (s.dropWafer p).offRoutes p else s
    let s := s.modPart p fun x =>
      { x with
        phase := .recovery, rollback := some cause, resumeDue := false, flipPending := false, nullCommit := false, reduced := false
        huskPending := false, amax := [], nextScales := [] }
    let s := s.finalAll 0x35 p { status := 0x4002 }
    let s := s.finalAll 0x33 p { status := 0x4002 }
    s.stepEvent 2 p

/-- R352: a rollback of the running step is noticed to the herd. -/
def State.startRollback (s : State) (p : Nat) (cause : RollbackCause) : State :=
  State.post applyRollback (s.modPart p fun x => { x with rollback := some cause }) p 2 none

/-- R352, R567: the restore is complete. -/
def State.rollbackDone (s : State) (p : Nat) : State :=
  let x := s.part p
  let pulling := x.keepers.any fun k => (x.ownedBy s.selfId k).any fun g => (s.opage k p g).awaitingHusk
  let restoring := x.keepers.all fun k => (s.kpart k p).cstate == .rollback
  match x.rollback with
  | none => s
  | some cause =>
    if x.phase ≠ .recovery ∨ pulling = true ∨ restoring = false then s
    else
      let s := s.eachKpr p fun y => { y with cstate := .idle }
      if cause = .writeBack then
        ((s.modPart p fun x => { x with phase := .halted, rollback := none }).stepEvent 3 p).settle p
      else
        (s.modPart p fun x =>
          { x with
            phase := .idle, rollback := none, rounds := []
            results := x.results.filter fun r => r.step ≠ x.step || r.kind ≠ 0 }).settle p

/-- R352, R408: a step that a field's loss stops is rolled back by a notice to the herd: a slice of it has left the module, or
its commit runs, whose pages are restored. -/
def Part.noticed (x : Part) : Bool := x.sliceSent || x.phase == .commit

/-- R408: a step stopped by a field's loss: rolled back locally where no slice of it has left the module, else by the
herd. One that has given its share of the commit pip can no longer be (R352; DEDUCED, log entry 78). -/
def State.rollbackWafer (s : State) (p : Nat) : State :=
  let x := s.part p
  if x.running = false ∨ x.phase = .flipWait then s
  else if x.noticed then s.startRollback p .wafer
  else s.rollbackLocal p

/-! ### Sync messages -/

def roundApply (kind : Nat) : State → Nat → RoundResult → State :=
  match kind with
  | 0 => applyVerdict
  | 1 => applyCommit
  | 2 => applyRollback
  | _ => applyChoice

/-- R387, R388, R390: a SUM_UP of a child: its head holds 31 records and each further cell 32; COMMIT and ROLLBACK carry none. -/
def State.sumUpArrives (s : State) (i head : Nat) (data : List Byte) : State :=
  if (s.ctx i).state ≠ .opened then s
  else
    let step := bits head 39 0
    let kind := bits head 51 48
    let n := bits head 64 52
    let s := s.took i 2 (1 + ceilDiv data.length 512)
    let bytes := (leBytes 512 head).drop 16 ++ data
    let recs := (List.range n).map fun j => SumRec.decode (leNat ((bytes.drop (16 * j)).take 16))
    let ok (p : Nat) (x : Part) : Bool :=
      kind ≤ 3 && ceilDiv data.length 512 == ceilDiv (n - 31) 32 && 16 * (n - 31) ≤ data.length
        && (n == 0 || kind == 0 || kind == 3) && (step == x.step || step + 1 == x.step || (x.phase == .idle && step == x.version)) && n ≤ 4096
        && (match x.rankOf (s.ctx i).partner with
            | some r => (x.childRanks (s.selfRank p)).contains r
            | none => false)
        && recs.all fun r => r.rank < x.ranks
    match s.herdPart (bits head 47 40) ok with
    | none => s.msgError i
    | some p =>
      State.childPost (roundApply kind) s p step kind (((s.part p).rankOf (s.ctx i).partner).getD 0) recs

/-- R387, R388: a SUM_DOWN from the parent. The result of a rollback may reach a node that has not begun its step: it passes it down. -/
def State.sumDownArrives (s : State) (i head : Nat) : State :=
  if (s.ctx i).state ≠ .opened then s
  else
    let s := s.took i 2 1
    let kind := bits head 51 48
    let r : RoundResult :=
      ⟨bits head 39 0, kind, bit head 52, bits head 55 53, BitVec.ofNat 64 (bits head 127 64), bits head 159 128⟩
    let ok (p : Nat) (x : Part) : Bool :=
      kind ≤ 3 && (r.step == x.step || (kind == 2 && x.phase == .idle && r.step == x.version))
        && (match x.rankOf (s.ctx i).partner with
            | some q => s.selfRank p ≠ 0 && q == (s.selfRank p - 1) / x.herdF
            | none => false)
    match s.herdPart (bits head 47 40) ok with
    | none => s.msgError i
    | some p => State.takeResult (roundApply kind) s p r

/-! ### The step fence (R31, R32, R258, R304, R426) -/

/-- R192: pages and components that the residency schedule names for an action at a step. -/
def Part.scheduled (x : Part) (fetch : Bool) (n : Nat) : List (Nat × Nat) :=
  (x.sec 0x16).flatMap fun e =>
    let at' := bits e 103 64
    let every := bits e 119 104
    if bit e 59 = fetch ∧ (n = at' ∨ (every ≠ 0 ∧ at' ≤ n ∧ (n - at') % every = 0)) then
      (List.range (bits e 55 28 + 1)).flatMap fun i =>
        ([0, 1, 2].filter fun c => bit e (56 + c)).map fun c => (bits e 27 0 + i, c)
    else []

/-- R304: scheduled fetches start at the step fence. -/
def State.scheduledFetch (s : State) (p : Nat) : State :=
  s.forAll ((s.part p).scheduled true (s.part p).step) fun s gc =>
    match s.ownerKpr p gc.1 with
    | some k => (s.need k p gc.1 gc.2).1
    | none => s

/-- R33: the wafer's NONFINITE level: some station of the partition holds it. -/
def State.waferLevel (s : State) (p : Nat) : Bool :=
  (s.part p).planStations.any fun st => (s.station st).core.flags.nonfinite

/-! ### Meanings -/

/-- R39: compute of a begun step starts once the first layer's staged pages are current and no eval window is open. The
image does not say which pages the first layer uses: the row's coming says that they are current, and the state can
refute it only where the stage holds no current page (DEDUCED, log entry 38). A replay has its schedule records first (R448). -/
def execComputeStart (p : Nat) (s : State) : Host.Outcome State Fault Refusal :=
  .next (
    let x := s.part p
    if x.phase = .gather ∧ x.eval = none ∧ (x.replayKey = none ∨ s.recov.replayWait = [])
        ∧ (x.stagePages = [] ∨ (x.stagePages.any fun g => x.current false x.step g) = true) then
      s.computeStart p
    else s)

/-- A station begins the EVAL script (R144, R147). -/
def Part.startEval (x : Part) (st : Nat) (c : Core) : Core :=
  if (x.script st .eval).isEmpty then c
  else { c with run := c.run + 1, runBase := c.fetched, script := .eval, pos := 0, micro := 0, probe := false }

/-- R37, R38: the window's version is staged; a close accepted meanwhile takes effect at once, else the stations run
EVAL. -/
def execEvalStaged (p : Nat) (s : State) : Host.Outcome State Fault Refusal :=
  .next (
    let x := s.part p
    match x.eval with
    | none => s
    | some w =>
      if w.staged = true ∨ x.gathered true w.version = false then s
      else
        let s := s.finalAll 0x31 p {}
        if w.closing then ((s.modPart p fun x => { x with eval := none, evalStaged := [] }).finalAll 0x32 p {}).settle p
        else
          let s := (s.offRoutes p).modPart p fun x => { x with eval := some { w with staged := true } }
          let x := s.part p
          s.forAll x.planStations fun s st =>
            (s.modStation st fun y => { y with evalClosed := (x.script st .eval).isEmpty }).modCore st fun c => x.startEval st c)

/-- R147: the close takes effect when every station's pass has retired. -/
def execEvalCloseDone (p : Nat) (s : State) : Host.Outcome State Fault Refusal :=
  .next (
    let x := s.part p
    match x.eval with
    | none => s
    | some w =>
      if w.closing ∧ w.staged ∧ (x.planStations.all fun st => (s.station st).evalClosed) = true then
        let s := s.forAll x.planStations fun s st => s.modStation st fun y => { y with evalClosed := false }
        ((s.modPart p fun x => { x with eval := none, evalStaged := [] }).finalAll 0x32 p {}).settle p
      else s)

def execSumUp (ctx head : Nat) (data : List Byte) (s : State) : Host.Outcome State Fault Refusal :=
  .next (s.sumUpArrives ctx head data)

def execSumDown (ctx head : Nat) (s : State) : Host.Outcome State Fault Refusal := .next (s.sumDownArrives ctx head)

def execRollbackDone (p : Nat) (s : State) : Host.Outcome State Fault Refusal := .next (s.rollbackDone p)

end Sys2Proof.Machine
end

