-- ==== Sys2Proof/Machine/Keepers.lean ====
section
/-! DEFINITION. Keepers: buckets and their images (R310 to R316, R321, R322), absolute maxima (R77), reduction (R317 to
R320, R323, R440), the commit of a page (R345 to R348, R355) and the comparison with the buddy (R326, R327). -/

namespace Sys2Proof.Machine

/-- The logical ID in the random key of class 0x4: the module's own, or a replay's key ID (R74, R448). -/
def State.keyId (s : State) (p : Nat) : Nat := ((s.part p).replayKey).getD s.selfId

/-! ### The staging area (R321, R565) -/

def round64K (n : Nat) : Nat := 65536 * ceilDiv n 65536

/-- R565: one place of the comparison window. -/
def Part.windowPlace (x : Part) (self k : Nat) : Nat :=
  (x.ownedBy self k).foldl (fun n g =>
    match x.range g with
    | none => n
    | some e =>
      let frozen := prFrozen e
      let opt := goOpt (x.group (prGroup e))
      let m := if frozen then 0 else round64K (m1Size false) + round64K (m2Size false opt)
      max n (2 ^ 20 + 65536 + m + round64K 540672 + 65536)) 0

/-- Owned pages of a Keeper that receive gradient. -/
def Part.gradPages (x : Part) (self k : Nat) : List Nat := (x.ownedBy self k).filter fun g => (x.bucketOfPage g).isSome

/-- R321, R565: the size of a Keeper's image region: the staging area without the commit record, the gradient slots and
the comparison window. -/
def Part.imageRegion (x : Part) (self k : Nat) : Nat :=
  match (x.sec 0x10).find? fun e => bits e 2 0 == k with
  | none => 0
  | some e => bits e 455 432 * 2 ^ 20 - 4096 - 2 ^ 20 * (x.gradPages self k).length - 16 * x.windowPlace self k

/-- Image bytes that admitted and unparked buckets hold. -/
def State.imagesHeld (s : State) (k p : Nat) : Nat :=
  ((s.part p).bucketsOf k).foldl (fun n b =>
    let y := (s.kpart k p).bucket (bkNum b)
    if y.admitted && !y.parked then n + bkBytes b else n) 0

/-- R315: buckets of a partition at a Keeper that are admitted and unsent. -/
def KprPart.unsent (y : KprPart) : Nat := (y.buckets.filter fun b => b.2.admitted && !b.2.done).length

/-- Buckets of which a tile has arrived and which are not admitted. -/
def KprPart.heldBuckets (y : KprPart) : List (Nat × Bucket) :=
  sortedBy (fun a b => a.2.order ≤ b.2.order) (y.buckets.filter fun b => b.2.seen && !b.2.admitted)

/-! ### Reduction at the owner (R317 to R319, R323, R440) -/

/-- A page's slices are added in rank order as far as they have arrived. -/
def Reduction.run : Nat → Nat → Reduction → Reduction × Bool
  | 0, _, r => (r, false)
  | n + 1, ranks, r =>
    if ranks ≤ r.next then ({ r with complete := true }, false)
    else
      match r.heldSlices.find? fun h => h.1 == r.next with
      | none => (r, false)
      | some h =>
        let acc := addSlice r.partialSum h.2
        let q := Reduction.run n ranks
          { r with next := r.next + 1, partialSum := acc, heldSlices := r.heldSlices.filter fun e => e.1 ≠ h.1 }
        (q.1, acc.any (fun v => (f32 v.toNat).special) || q.2)

/-- Pages of a Keeper that hold a partial slot, over its partitions. -/
def Kpr.slotsUsed (y : Kpr) : Nat :=
  y.parts.foldl (fun n p => n + (p.2.pages.filter fun g => g.2.reduction.slot).length) 0

/-- R318, R323: a page whose rank-0 slice has arrived takes a free slot, its M and D are fetched where SLOW, and its
slices are added as far as they go. -/
def State.runReduction (s : State) (k p g : Nat) : State :=
  let r := (s.opage k p g).reduction
  let here := r.heldSlices.any fun h => h.1 == 0
  let (s, r) :=
    if !r.slot && r.next = 0 && here && (s.kpr k).slotsUsed < 16 then
      let s := s.forAll [1, 2] fun s c => if (s.opage k p g).resid c = .slow then s.startFetch k p g c else s
      (s, { r with slot := true })
    else (s, r)
  if !r.slot then s
  else
    let (r, bad) := r.run ((s.part p).ranks + 1) (s.part p).ranks
    let s := (s.modOpage k p g fun y => { y with reduction := r }).returnHeld k
    if bad then s.modKpart k p fun y => { y with nonfinite := true } else s

/-- R317, R318, R440: a slice reaches the page's owner; a repeat is discarded. -/
def State.takeSlice (s : State) (k p g rank : Nat) (data : List Byte) : State :=
  let r := (s.opage k p g).reduction
  if rank < r.next ∨ r.complete ∨ (r.heldSlices.any fun h => h.1 == rank) = true then s
  else
    let early := r.next < rank
    let s := s.modOpage k p g fun y => { y with
      reduction := { y.reduction with heldSlices := sset [] y.reduction.heldSlices rank data } }
    let s := if early then s.modKpr k fun y => { y with heldSlices := satAdd 16 y.heldSlices 1 } else s
    s.runReduction k p g

/-- R319: the Keeper's reduction of a partition is complete. -/
def State.reductionDone (s : State) (k p : Nat) : Bool :=
  ((s.part p).gradPages s.selfId k).all fun g => (s.opage k p g).reduction.staged

/-- R319, R320, R33: once every Keeper's reduction is complete the module's is, and the gate may be reached. -/
def State.checkReduced (s : State) (p : Nat) : State :=
  let x := s.part p
  if x.running = true ∧ x.reduced = false ∧ x.replays = false ∧ (x.keepers.all fun k => s.reductionDone k p) = true then
    (s.modPart p fun x => { x with reduced := true }).gate p
  else s

/-! ### Sending slices and maxima (R316, R77) -/

/-- R385: the head of a SLICE message. -/
def sliceHead (step herd bucket g rank : Nat) : List Byte :=
  leBytes 16 (step + herd * 2 ^ 40 + bucket * 2 ^ 48 + g * 2 ^ 60 + rank * 2 ^ 88)

/-- The bytes of page `i` of a bucket image. -/
def Bucket.page (y : Bucket) (i : Nat) : List Byte := readBytes y.image (2 ^ 20 * i) (2 ^ 20)

/-- The image holds every element of page `i` of bucket `b`. -/
def Part.pageFormed (x : Part) (b : Nat) (y : Bucket) (i : Nat) : Bool :=
  (x.segments b).all fun e =>
    let lo := segOffset e
    let hi := lo + segCount e
    let last := (i + 1) * pageParams
    hi ≤ i * pageParams || last ≤ lo || min hi last ≤ lo + sget 0 y.written (segStream e)

/-- R422, R449: every owner has acknowledged the bucket: its progress note goes to the buddy. -/
def State.bucketDone (s : State) (k p b : Nat) : State :=
  let x := s.part p
  let y := (s.kpart k p).bucket (bkNum b)
  if y.done ∨ y.acked.length < bkPages b then s
  else
    let s := s.modKpart k p fun z => z.modBucket (bkNum b) fun y => { y with done := true }
    let digest := digest128 (readBytes y.image 0 (2 ^ 20 * bkPages b))
    if x.replays then s
    else s.toBuddy k 0x44
      (leBytes 32 (x.step + x.herdId * 2 ^ 40 + bkNum b * 2 ^ 48 + digest.toNat * 2 ^ 128)) []

/-- R449: in a diagnostic replay a formed bucket is compared with the progress note of the step; without one it is not found equal. -/
def State.compareBucket (s : State) (k p b : Nat) : State :=
  let y := (s.kpart k p).bucket (bkNum b)
  let digest := digest128 (readBytes y.image 0 (2 ^ 20 * bkPages b))
  let note := ((s.kpart k p).scheds.find? fun r => r.step == (s.part p).step).bind fun r =>
    r.notes.find? fun n => n.1 == bkNum b
  let bad := note.any fun n => n.2 ≠ digest
  if bad && !s.recov.replayMismatch then
    { s with recov := { s.recov with replayMismatch := true, firstBucket := bkNum b } }
  else if note.isNone then { s with recov := { s.recov with replayMissed := true } }
  else s

/-- R316: sends page `i` of a bucket to its owner. A slice for an owner here is passed within HBM and is acknowledged
with that. A replay target joins no herd and sends nothing (R447). -/
def State.sendSlice (s : State) (k p b i : Nat) : State :=
  let x := s.part p
  let g := bkFirstPage b + i
  let y := (s.kpart k p).bucket (bkNum b)
  let mark (acked : Bool) (s : State) : State :=
    s.modKpart k p fun z => z.modBucket (bkNum b) fun y =>
      { y with sent := y.sent ++ [g], acked := if acked then y.acked ++ [g] else y.acked }
  match x.range g with
  | none => s
  | some e =>
    if x.replays || (s.kpart k p).skipBuckets.contains (bkNum b) then mark true s
    else if prOwner e = s.selfId then mark true (s.takeSlice (prOwnerKpr e) p g (s.selfRank p) (y.page i))
    else
      match s.trafficCtx k (prOwner e) (prOwnerKpr e) with
      | none => mark false s
      | some c =>
        mark false ((s.send c 0 0x10 (sliceHead x.step x.herdId (bkNum b) g (s.selfRank p)) true (y.page i)).modPart p
          fun x => { x with sliceSent := true })

/-- Sends the pages of a bucket from the first unsent one, as far as they are formed; `n` bounds them. -/
def State.sendPages (k p b : Nat) : Nat → State → State
  | 0, s => s
  | n + 1, s =>
    let y := (s.kpart k p).bucket (bkNum b)
    let i := y.sent.length
    if i < bkPages b ∧ (s.part p).pageFormed b y i = true then State.sendPages k p b n (s.sendSlice k p b i) else s

/-- R77, R316, R385: the Keeper's absolute maxima go to the owners of their entries, up to 63 a message.
(DEDUCED, log entry 69) -/
def State.sendAmax (s : State) (k p : Nat) : State :=
  let x := s.part p
  if (s.kpart k p).amaxSent || x.replays then s
  else
    let s := s.modKpart k p fun y => { y with amaxSent := true }
    let away := x.amax.filterMap fun t =>
      match t.2, x.range (bits (x.tensor t.1) 91 64) with
      | some v, some e => if prOwner e = s.selfId then none else some ((prOwner e, prOwnerKpr e), (t.1, v))
      | _, _ => none
    s.forAll ((away.map (·.1)).eraseDups) fun s o =>
      let ts := (away.filter fun a => a.1 == o).map (·.2)
      match s.trafficCtx k o.1 o.2 with
      | none => s
      | some c => s.forAll (chunks 63 (ceilDiv ts.length 63) ts) fun s l =>
        s.send c 0 0x14
          (leBytes 8 (x.step + x.herdId * 2 ^ 40 + l.length * 2 ^ 48)
            ++ l.flatMap fun t => leBytes 8 (t.1 + t.2.toNat * 2 ^ 32)) true []

/-- R316: slices leave in page order within a bucket and buckets in order of admission; with the last bucket go the
absolute maxima. -/
def State.sendReady (s : State) (k p : Nat) : State :=
  let x := s.part p
  let order := sortedBy (fun a b => a.2.order ≤ b.2.order) ((s.kpart k p).buckets.filter fun b => b.2.admitted)
  let all (s : State) (n : Nat) : Bool := match x.bucketDef k n with
    | some b => bkPages b ≤ ((s.kpart k p).bucket n).sent.length
    | none => true
  let s := order.foldl (fun (s : State) b =>
    if order.all fun a => decide (b.2.order ≤ a.2.order) || all s a.1 then
      match x.bucketDef k b.1 with
      | none => s
      | some d =>
        let full := all s b.1
        let s := State.sendPages k p d (bkPages d) s
        let s := if !full && all s b.1 && x.replayKey.isSome then s.compareBucket k p d else s
        s.bucketDone k p d
    else s) s
  if x.bucketsOf k ≠ [] ∧ (x.bucketsOf k).all (fun b => all s (bkNum b)) = true then s.sendAmax k p else s

/-! ### Intake (R313 to R315, R322) -/

/-- R313: writes the elements of a tile into the image and returns the tile's credit. -/
def State.convertTile (s : State) (k p b stream seq : Nat) (data : List Byte) : State :=
  let x := s.part p
  match x.stream stream, (x.segments b).find? fun e => segStream e == stream with
  | some e, some seg =>
    let per := sdElems e
    let base := sget 0 ((s.kpart k p).bucket (bkNum b)).written stream
    let xs := (unpack 32 per (leNat data)).take (segCount seg - base)
    let cs := xs.mapIdx fun i v =>
      bucketElem x.seed x.step (s.keyId p) (bkFirstPage b * pageParams + segOffset seg + base + i) (f32 v)
    let s := s.modKpart k p fun z =>
      { z.modBucket (bkNum b) fun y =>
          { y with
            image := writeBytes y.image (2 * (segOffset seg + base)) (cs.flatMap fun c => leBytes 2 c.1)
            written := sset 0 y.written stream (base + xs.length) } with
        nonfinite := z.nonfinite || cs.any (·.2) }
    let _ := seq
    s.emit (.credit (0x40000 + k) stream 1 ((s.part p).creditHeader e (0x40000 + k)))
  | _, _ => s

/-- R322: the oldest acknowledged image with PARK set begins to be written to the park segment, unless one is on the
way; `PARK_V` names the segment. -/
def State.startPark (s : State) (k p : Nat) : State :=
  let x := s.part p
  let y := s.kpart k p
  let done := sortedBy (fun a b => (y.bucket (bkNum a)).order ≤ (y.bucket (bkNum b)).order)
    ((x.bucketsOf k).filter fun b =>
      let z := y.bucket (bkNum b)
      bkPark b && z.admitted && z.done && !z.parked && !z.parking)
  if (y.buckets.any fun b => b.2.parking) || !bit x.service 4 || (s.tierPort (x.parkPort - 1)).down then s
  else match done with
    | [] => s
    | b :: _ =>
      (s.modKpart k p fun z => z.modBucket (bkNum b) fun w =>
        { w with parking := true, parkDigest := (List.range (bkPages b)).map fun i => digest128 (w.page i) }).transfer
        x.parkPort (ceilDiv (bkBytes b) 256) ⟨k, p, bkNum b, 3, true⟩

/-- R315: whether a bucket may be admitted now. -/
def State.admits (s : State) (k p b : Nat) : Bool :=
  decide ((s.kpart k p).unsent < (s.part p).bucketAhead)
    && decide (s.imagesHeld k p + bkBytes b ≤ (s.part p).imageRegion s.selfId k)

/-- R315: a bucket is admitted: its waiting tiles are converted and their credits returned. -/
def State.takeIn (s : State) (k p b : Nat) : State :=
  let s := s.modKpart k p fun z =>
    { z.modBucket (bkNum b) fun y => { y with admitted := true, order := z.admissions } with admissions := z.admissions + 1 }
  let s := s.modKpr k fun y => { y with lastBucket := bkNum b }
  let tiles := ((s.kpart k p).bucket (bkNum b)).waiting
  let s := s.modKpart k p fun z => z.modBucket (bkNum b) fun y => { y with waiting := [] }
  (s.forAll tiles fun s t => s.convertTile k p b t.1 t.2.1 t.2.2).sendReady k p

/-- A bucket is taken in where it may be; where image space lacks, an image is parked. -/
def State.tryAdmit (s : State) (k p b : Nat) : State :=
  if s.admits k p b then s.takeIn k p b
  else if (s.kpart k p).unsent < (s.part p).bucketAhead then s.startPark k p
  else s

/-- R314: a tile fails its checks: discarded, and reported to the field controller of the sending station. -/
def State.bucketError (s : State) (k p stream : Nat) : State :=
  let s := (s.modKpr k fun y => { y with seqErr := true }).emit (.report (0x40000 + k) (0x100 + stream))
  match (s.part p).stream stream with
  | some e =>
    if sdSrcKind e = 0 then { s with net := { s.net with reports := insertOnce (sdSrc e, k, stream) s.net.reports } } else s
  | none => s

/-- R157, R313 to R315: a bucket tile reaches the Keeper of its segment. -/
def State.bucketTile (s : State) (k p bucket stream seq : Nat) (data : List Byte) : State :=
  let x := s.part p
  match x.bucketDef k bucket, x.stream stream with
  | some b, some e =>
    if !((x.segments b).any fun g => segStream g == stream) || !sdBucket e || data.length ≠ (streamSpace e).bytes then
      s.bucketError k p stream
    else
      let d := seqAhead 48 (sget 0 (s.kpart k p).expected stream) seq
      if d ≠ 0 then
        if 2 ^ 47 ≤ d then s.emit (.credit (0x40000 + k) stream 1 ((s.part p).creditHeader e (0x40000 + k))) else s.bucketError k p stream
      else
        let s := s.modKpart k p fun z => { z with expected := smod 0 z.expected stream fun q => (q + 1) % 2 ^ 48 }
        if ((s.kpart k p).bucket bucket).admitted then (s.convertTile k p b stream seq data).sendReady k p
        else
          let first := !((s.kpart k p).bucket bucket).seen
          let s := s.modKpart k p fun z =>
            { z.modBucket bucket fun y =>
                { y with
                  seen := true, waiting := y.waiting ++ [(stream, seq, data)]
                  order := if first then z.admissions else y.order } with
              admissions := if first then z.admissions + 1 else z.admissions }
          if first then
            let s := s.tryAdmit k p b
            if ((s.kpart k p).bucket bucket).admitted then s
            else s.modKpr k fun y => { y with creditHolds := satAdd 16 y.creditHolds 1 }
          else s
  | _, _ => s.bucketError k p stream

/-- R315, R422: an owner has acknowledged a slice. -/
def State.sliceAcked (s : State) (k p bucket g : Nat) : State :=
  match (s.part p).bucketDef k bucket with
  | none => s
  | some b =>
    let y := (s.kpart k p).bucket bucket
    if y.sent.contains g && !y.acked.contains g then
      (s.modKpart k p fun z => z.modBucket bucket fun y => { y with acked := y.acked ++ [g] }).bucketDone k p b
    else s

/-! ### Slices, maxima from the herd -/

/-- R390: the step that a message of the reduction may name: the running one, that of a takeover (R439), or the one that begins next.
(DEDUCED, log entry 67) -/
def Part.reduceStep (x : Part) (step : Nat) : Bool :=
  if x.phase = .idle then step == x.version else step == x.step && (x.phase ≠ .recovery || x.rollback.isNone) && x.phase ≠ .halted

/-- R317, R318, R381, R390: a SLICE message; its 2,049 cells are taken, and their credits are withheld where it comes
before the next rank and finds no room. -/
def State.sliceArrives (s : State) (i head : Nat) (data : List Byte) : State :=
  let g := bits head 87 60
  let rank := bits head 99 88
  let k := (s.ctx i).kpr
  if (s.ctx i).state ≠ .opened then s
  else
    let s := s.took i 0 2049
    match s.herdPart (bits head 47 40) fun _ x =>
        x.reduceStep (bits head 39 0) && x.rankOf (s.ctx i).partner == some rank && (x.gradPages s.selfId k).contains g
          && ((x.bucketOfPage g).any fun b => bkNum b == bits head 59 48) && data.length == 2 ^ 20 with
    | none => s.msgError i
    | some p =>
      let r := (s.opage k p g).reduction
      let early : Bool := r.next < rank && !r.complete && !(r.heldSlices.any fun h => h.1 == rank)
      let s := s.takeSlice k p g rank data
      if early then s.withholdSlice i k else s

/-- R322: page `g` of a parked image is read back, for a context or for this module (0x1000); behind a port marked down it is
lost (R306). -/
def State.readParked (s : State) (k p b g who : Nat) : State :=
  let y := (s.kpart k p).bucket b
  let port := (s.part p).parkPort
  if (s.tierPort (port - 1)).down then s.modKpr k fun z => { z with lost := satAdd 16 z.lost 1 }
  else
    let s := if y.resend.any fun r => r.2 == g then s else s.transfer port 4096 ⟨k, p, g, 3, false⟩
    s.modKpart k p fun z => z.modBucket b fun y => { y with resend := y.resend ++ [(who, g)] }

/-- R306, R322, R346: a page of a parked image has been read back: its digest is compared, and it is sent to those that asked; at the
first mismatch it is read again, at the second it is lost. -/
def State.parkedPage (s : State) (k p g : Nat) (data : List Byte) : State :=
  let x := s.part p
  match x.bucketOfPage g with
  | none => s
  | some d =>
    let b := bkNum d
    let y := (s.kpart k p).bucket b
    let who := (y.resend.filter fun r => r.2 == g).map (·.1)
    let done (s : State) : State :=
      (s.transferEnded x.parkPort ⟨k, p, g, 3, false⟩).modKpart k p fun z => z.modBucket b fun y =>
        { y with resend := y.resend.filter fun r => r.2 ≠ g, reread := y.reread.filter (· ≠ g) }
    if who = [] then s
    else if y.parkDigest[g - bkFirstPage d]? = some (digest128 data) then
      (done s).forAll who fun s c =>
        if c = 0x1000 then s.takeSlice ((s.ownerKpr p g).getD k) p g (s.selfRank p) data
        else s.send c 0 0x10 (sliceHead x.step x.herdId b g (s.selfRank p)) true data
    else
      let s := s.modKpr k fun z => { z with digestFails := satAdd 16 z.digestFails 1 }
      if y.reread.contains g then (done s).modKpr k fun z => { z with lost := satAdd 16 z.lost 1 }
      else ((s.modKpart k p fun z => z.modBucket b fun y => { y with reread := insertOnce g y.reread }).transferEnded x.parkPort
        ⟨k, p, g, 3, false⟩).transfer x.parkPort 4096 ⟨k, p, g, 3, false⟩

/-- R346, R439: a slice is requested again; one that has not formed yet goes when it forms. A parked image is read back for
it (R322). -/
def State.sliceRequested (s : State) (i head : Nat) : State :=
  let g := bits head 87 60
  let k := (s.ctx i).kpr
  if (s.ctx i).state ≠ .opened then s
  else
    let s := s.took i 1 1
    match s.herdPart (bits head 47 40) fun p x =>
        x.reduceStep (bits head 39 0) && bits head 99 88 == s.selfRank p
          && ((x.bucketOfPage g).any fun b => bkNum b == bits head 59 48 && bits b 18 16 == k) with
    | none => s.msgError i
    | some p =>
      let x := s.part p
      match x.bucketOfPage g with
      | none => s
      | some b =>
        let y := (s.kpart k p).bucket (bkNum b)
        let n := g - bkFirstPage b
        if y.sent.contains g = false then s
        else if y.parked then s.readParked k p (bkNum b) g i
        else
          s.send i 0 0x10 (sliceHead x.step x.herdId (bkNum b) g (s.selfRank p)) true (y.page n)

/-- R77: a maximum joins those of the step. -/
def Part.addAmax (x : Part) (t : Nat) (v : BitVec 32) : Part :=
  { x with amax := smod none x.amax t fun o => some (match o with
      | some w => if w.toNat ≤ v.toNat then v else w
      | none => v) }

/-- R77, R385, R390: an AMAX message. -/
def State.amaxArrives (s : State) (i head : Nat) : State :=
  let n := bits head 55 48
  let k := (s.ctx i).kpr
  let entries := (List.range n).map fun j => bits head (64 * j + 127) (64 * j + 64)
  if (s.ctx i).state ≠ .opened then s
  else
    let s := s.took i 0 1
    match s.herdPart (bits head 47 40) fun _ x =>
        x.reduceStep (bits head 39 0) && 1 ≤ n && n ≤ 63
          && entries.all fun e => (s.scaleTensors x k).contains (bits e 9 0) with
    | none => s.msgError i
    | some p => s.modPart p fun x =>
      entries.foldl (fun x e => x.addAmax (bits e 9 0) (BitVec.ofNat 32 (bits e 63 32))) x

/-- R77, R82: a station's report of a tensor that has an entry (R76) reaches its Keeper. In a measuring pass the tensor takes its
scale from that one measurement, with the MARGIN of its entry; another module's is taken as 0 (DEDUCED, log entry 64). -/
def State.amaxReport (s : State) (st t : Nat) (v : BitVec 32) : State :=
  match s.stPart st with
  | none => s
  | some p =>
    let x := s.part p
    if x.hasEntry t = false then s
    else
    let e := sget { format := BitVec.ofNat 4 (bits (x.tensor t) 3 0) } x.scales t
    let s := s.modPart p fun x => x.addAmax t v
    let m := ((sget none (s.part p).amax t).getD 0).toNat
    if x.probing then
      s.modPart p fun x =>
        { x with probeScales := sset 0 x.probeScales t (scaleFrom e.format.toNat e.margin.toNat (f32 m).val) }
    else s

/-! ### Staging a reduced page (R317 to R320, R422) -/

def State.pageReduced (s : State) (k p g : Nat) : State :=
  let x := s.part p
  let r := (s.opage k p g).reduction
  if x.running = false ∨ r.complete = false ∨ r.staged = true then s
  else
    let (grad, bad) := stageGrad x.seed x.step (s.keyId p) g r.partialSum
    let q := pageSum grad
    let s := s.modOpage k p g fun y =>
      { y with
        grad := some grad, sumSq := q
        reduction := { y.reduction with slot := false, staged := true, partialSum := [] } }
    let s := s.modKpr k fun y => { y with pagesReduced := satAdd 24 y.pagesReduced 1 }
    let s := if bad || (fp64.decode q.toNat).special then s.modKpart k p fun y => { y with nonfinite := true } else s
    let s := s.sendGrad k p g grad
    let s := if s.reductionDone k p then
        s.modKpart k p fun y =>
          { y with sumSq := sum64 (((s.part p).gradPages s.selfId k).map fun h => (y.page h).sumSq) }
      else s
    -- the slot that falls free goes to the first page, by partition and number, whose rank-0 slice waits (DEDUCED, log entry 39)
    let waits := (s.kpr k).parts.findSome? fun q =>
      (q.2.pages.find? fun h => !h.2.reduction.slot && h.2.reduction.next == 0 && !h.2.reduction.complete
        && h.2.reduction.heldSlices.any fun e => e.1 == 0).map fun h => (q.1, h.1)
    let s := match waits with
      | some (q, h) => s.runReduction k q h
      | none => s
    s.checkReduced p

/-! ### Commit of a page (R345, R348) -/

/-- R336, R348: spill records free in a slot's area. -/
def State.spillFree (s : State) (k p slot : Nat) : Nat :=
  (s.part p).spillCap slot + sget 0 (s.kpart k p).spillExt slot - sget 0 (s.kpart k p).spillUsed slot

/-- R343: the page takes a null update. -/
def Part.isNull (x : Part) (pg : OwnedPage) : Bool :=
  x.nullCommit || pg.frozen || (goSkipEmpty (x.group pg.group) && pg.grad.isNone)

/-- The version n+1 of a page, with its digest record, and whether its write-back is nonfinite (R340 to R344). -/
def State.nextBody (s : State) (k p g : Nat) (old : PageBody) : Updated :=
  let x := s.part p
  let pg := s.opage k p g
  let grp := x.group pg.group
  let sign (b : PageBody) : PageBody := { b with digest := digestRecord g pg.frozen (goOpt grp) b }
  if x.isNull pg then ⟨sign (nullUpdate s.past old), false⟩
  else
    let c := stepConsts grp x.step ((s.kpart k p).updates + 1) (fp64.decode x.herdSum.toNat)
    let r := updateBody x.seed x.step g grp c old (pg.grad.getD [])
    ⟨sign (finishUpdate s.past old r.body), r.nonfinite⟩

/-- R57: a significand of the page's write-back saturates. -/
def State.nextSaturates (s : State) (k p g : Nat) (old : PageBody) : Bool :=
  let x := s.part p
  let pg := s.opage k p g
  let grp := x.group pg.group
  !x.isNull pg
    && updateSaturates x.seed x.step g grp (stepConsts grp x.step ((s.kpart k p).updates + 1) (fp64.decode x.herdSum.toNat)) old
      (pg.grad.getD [])

/-- R442: the page goes to a spare that has become the buddy; HUSKLESS ends with the last one. -/
def State.remirrorPage (s : State) (k p g : Nat) : State :=
  if (s.kpart k p).remirrorLeft.contains g && s.buddyUp k then
    (s.modKpart k p fun y =>
      { y with remirrorLeft := y.remirrorLeft.filter (· ≠ g), lackHidden := false }).mirrorPage k p g
  else s

/-- R345 C5: the page is CLEAN at n+1. -/
def State.pageClean (s : State) (k p g : Nat) : State :=
  let s := s.modOpage k p g fun y => { y with cstate := .clean, pre := none, disputed := none }
  let s := s.remirrorPage k p g
  let due := ((s.part p).scheduled false (s.part p).step).filter fun e => e.1 == g
  let later := (s.opage k p g).evictLater
  let s := s.modOpage k p g fun y => { y with evictLater := [] }
  let cs := (due.map (·.2) ++ later).eraseDups
  let s := s.forAll (s.mayLeave k p g cs) fun s c => s.startEvict k p g c
  (s.serveWaiting k p g).shares p

/-- What the buddy forms its record from goes to it again: the null update's notice, or the gradient. -/
def State.sendStepAgain (s : State) (k p g : Nat) : State :=
  let pg := s.opage k p g
  if (s.part p).isNull pg then s.sendNull k p g else s.sendGrad k p g (pg.grad.getD [])

/-- R326, R327: the owner compares its record with the buddy's. On a mismatch the gradient goes to the buddy again, and
the buddy's next record, with the owner's own recomputation, decides. -/
def State.compareRecord (s : State) (k p g : Nat) : State :=
  let pg := s.opage k p g
  match pg.cstate, pg.buddyRec with
  | .stamped, some d =>
    match pg.disputed with
    | none =>
      if d = pg.body.digest then s.pageClean k p g
      else
        let s := s.modKpr k fun y => { y with buddyFails := satAdd 16 y.buddyFails 1 }
        let s := s.modOpage k p g fun y => { y with disputed := some d, buddyRec := none }
        s.sendStepAgain k p g
    | some first =>
      let again := (s.nextBody k p g (pg.pre.getD pg.body)).body
      if again.digest ≠ d ∨ (pg.body.digest ≠ d ∧ first ≠ d) then
        let s := s.modKpr k fun y => { y with rollbacks := satAdd 8 y.rollbacks 1 }
        (s.modKpart k p fun y => { y with cstate := .rollback }).startRollback p .digest
      else if pg.body.digest = d then
        (s.modKpr k fun y => { y with buddyFixed := satAdd 8 y.buddyFixed 1 }).pageClean k p g
      else
        let s := s.modKpr k fun y => { y with ownerFixed := satAdd 8 y.ownerFixed 1 }
        let (used, b) := placeSpills (s.kpart k p).spillUsed s.past pg.body again
        let s := s.modKpart k p fun y => { y with spillUsed := used }
        (s.modOpage k p g fun y => { y with body := b }).pageClean k p g
  | _, _ => s

/-- R345: every lower owned page of the Keeper has been stamped. -/
def State.inOrder (s : State) (k p g : Nat) : Bool :=
  ((s.part p).ownedBy s.selfId k).all fun h => decide (g ≤ h) || (s.opage k p h).body.stamp == (s.part p).step + 1

/-- R326: pre-images that a partition holds in the Keeper's comparison window. -/
def KprPart.window (y : KprPart) : Nat := (y.pages.filter fun g => g.2.pre.isSome).length

/-- R78: the commit of a scale page writes the history of its tensors. (DEDUCED, log entry 68) -/
def State.writeScales (s : State) (p g : Nat) : State :=
  let x := s.part p
  if x.nullCommit then s
  else
    let ts := (List.range (x.sec 0x07).length).filter fun t =>
      bits (x.tensor t) 17 16 == 2 && bits (x.tensor t) 91 64 == g
    s.modPart p fun x =>
      { x with nextScales := ts.foldl (fun m t => match sget none x.amax t with
          | some v => sset {} m t ((sget {} x.scales t).enter x.step v false)
          | none => m) x.nextScales }

/-- R345: C1 to C4 of the page that is next in order, and C5 where its buddy takes no part. The update unit then serves the husk, as it
does where the page has to wait (R424). -/
def State.pageCommit (s : State) (k p g : Nat) : State :=
  let x := s.part p
  let pg := s.opage k p g
  if x.phase ≠ .commit ∨ x.rollback.isSome ∨ (s.kpart k p).cstate ≠ .running ∨ s.ownerKpr p g ≠ some k
      ∨ pg.body.stamp ≠ x.step ∨ s.inOrder k p g = false then s
  else if pg.awaitingHusk = true ∨ pg.missing ≠ [] ∨ (x.nullCommit = false ∧ s.reductionDone k p = false)
      ∨ (pg.pre.isNone ∧ 16 ≤ (s.kpart k p).window) then s.huskServe k p
  else
    let (s, ready) := s.needAll k p g [0, 1, 2]
    if !ready then
      (if pg.waited then s
        else (s.modKpr k fun y => { y with commitWaits := satAdd 24 y.commitWaits 1 }).modOpage k p g fun y =>
          { y with waited := true }).huskServe k p
    else
      let old := pg.pre.getD pg.body
      let s := s.modOpage k p g fun y => { y with pre := some old, cstate := .preimage }
      let r := s.nextBody k p g old
      if r.nonfinite then
        (s.modKpart k p fun y => { y with wbNonfinite := true, cstate := .rollback }).startRollback p .writeBack
      else
        let need := (sget {} r.body.deltas r.body.head).spill.length
        if s.spillFree k p r.body.head < need then
          (s.modKpart k p fun y => { y with cstate := .heldSpill, spillFull := true }).huskServe k p
        else
          let j := r.body.head
          let first := sget 0 (s.kpart k p).spillUsed j
          let full := s.nextSaturates k p g old
          let s := s.modKpart k p fun y =>
            { y with
              spillUsed := sset 0 y.spillUsed j (first + need), done := y.done + 1, spillFull := false
              saturate := y.saturate || full }
          let s := s.modOpage k p g fun y => { y with body := r.body.spillFrom first, cstate := .stamped, slowValid := [] }
          let s := s.writeScales p g
          let s := if x.isNull pg then s.sendNull k p g else s
          let s := s.toBuddy k 0x47 (cmpHead (x.step + 1) x.herdId g r.body.digest) []
          (if !s.buddyUp k || (s.kpart k p).remirrorLeft.contains g then s.pageClean k p g
            else (s.serveWaiting k p g).compareRecord k p g).huskServe k p

/-! ### Meanings -/

def execBucketTile (k p bucket stream seq : Nat) (data : List Byte) (s : State) : Host.Outcome State Fault Refusal :=
  .next (if (s.part p).beforeFence || (s.part p).replayKey.isSome then s.bucketTile k p bucket stream seq data else s)

/-- R315: the held bucket that came first is admitted once the conditions hold. -/
def execBucketAdmit (k p : Nat) (s : State) : Host.Outcome State Fault Refusal :=
  .next (match (s.kpart k p).heldBuckets with
    | [] => s
    | (n, _) :: _ => match (s.part p).bucketDef k n with
      | some b => s.tryAdmit k p b
      | none => s)

/-- Acknowledgement of a slice (DEDUCED, log entry 81). -/
def execSliceAcknowledged (k p bucket page : Nat) (s : State) : Host.Outcome State Fault Refusal :=
  .next (s.sliceAcked k p bucket page)

/-- R322: a park write completes: the image's space is free. -/
def execParkWriteDone (k p bucket : Nat) (s : State) : Host.Outcome State Fault Refusal :=
  .next (
    if ((s.kpart k p).bucket bucket).parking then
      let s := s.transferEnded (s.part p).parkPort ⟨k, p, bucket, 3, true⟩
      (s.modKpart k p fun z => z.modBucket bucket fun y => { y with parking := false, parked := true, image := [] }).modKpr k fun y =>
        { y with parked := satAdd 16 y.parked 1 }
    else s)

/-- R304, R306, R322: a component that was fetched arrives, or, as component 3, a page of a parked image. -/
def execSlowFetchComplete (k p page comp : Nat) (data : List Byte) (s : State) : Host.Outcome State Fault Refusal :=
  .next (if comp = 3 then s.parkedPage k p page data else s.fetchComplete k p page comp data)

def execSliceHead (ctx head : Nat) (data : List Byte) (s : State) : Host.Outcome State Fault Refusal :=
  .next (s.sliceArrives ctx head data)

def execSliceReq (ctx head : Nat) (s : State) : Host.Outcome State Fault Refusal := .next (s.sliceRequested ctx head)

def execAmax (ctx head : Nat) (s : State) : Host.Outcome State Fault Refusal := .next (s.amaxArrives ctx head)

def execAmaxReport (st k tensor : Nat) (value : BitVec 32) (s : State) : Host.Outcome State Fault Refusal :=
  .next (if fieldRow (stField st) = k ∨ ((s.stPart st).any fun p => (s.part p).keepers.contains k) = true then
      s.amaxReport st tensor value
    else s)

def execPageReduced (k p page : Nat) (s : State) : Host.Outcome State Fault Refusal := .next (s.pageReduced k p page)

def execPageCommit (k p page : Nat) (s : State) : Host.Outcome State Fault Refusal := .next (s.pageCommit k p page)

/-- R326: a record of version `v` is that of a copy of the owner's CLEAN page that a spare has taken as buddy. -/
def State.copyRecord (s : State) (k p g v : Nat) : Bool :=
  let pg := s.opage k p g
  s.ownerKpr p g == some k && pg.cstate == .clean && pg.body.stamp == v && !(s.kpart k p).remirrorLeft.contains g

/-- R326: the copy's record is compared with the owner's; where they differ the page is sent again (DESIGN CHOICE,
log entry 181). -/
def State.compareCopy (s : State) (k p g : Nat) (d : BitVec 256) : State :=
  if d = (s.opage k p g).body.digest then s
  else (s.modKpr k fun y => { y with buddyFails := satAdd 16 y.buddyFails 1 }).mirrorPage k p g

/-- R326, R427: a digest record: at the page's owner the buddy's, to be compared once the page is stamped; at the buddy
the owner's, compared with the pending side. -/
def execHuskCmp (ctx head : Nat) (s : State) : Host.Outcome State Fault Refusal :=
  .next (s.huskMessage ctx 1 head
    (fun k p x => (x.range (bits head 75 48)).isSome
      && ((x.phase == .gate || x.phase == .commit || x.phase == .flipWait) && bits head 39 0 == x.step + 1
        || s.copyRecord k p (bits head 75 48) (bits head 39 0)))
    fun s k p =>
      let g := bits head 75 48
      let d := BitVec.ofNat 256 (bits head 383 128)
      if s.copyRecord k p g (bits head 39 0) then s.compareCopy k p g d
      else if s.ownerKpr p g = some k then
        (s.modOpage k p g fun y => { y with buddyRec := some d }).compareRecord k p g
      else s.modHpage k p g fun h => { h with compared := h.pending.any fun side => side.body.digest == d })

end Sys2Proof.Machine
end

