-- ==== Sys2Proof/Machine/Faults.lean ====
section
/-! DEFINITION. Faults inside the wafer: the fault log (R416 to R419), spares (R397, R413, R414), fencing a core (R396),
fills and resynchronisation (R398 to R405), dead routers (R406, R411), field restart and field loss (R407 to R410). -/

namespace Sys2Proof.Machine

/-! ### Remap entries and bindings (R248, R279) -/

def State.setRemap (s : State) (st : Nat) (r : Remap) : State :=
  s.modField (stField st) fun f =>
    { f with remap := sset ⟨stRow st, stCol st, false, false, false⟩ f.remap (24 * stRow st + stCol st) r }

/-- R242, R248: the field controller writes a remap entry with a remap update. -/
def State.updateRemap (s : State) (st : Nat) (r : Remap) : State := (s.setRemap st r).emit (.access st (remapHeader st))

def State.modBankBind (s : State) (st : Nat) (g : BankBind → BankBind) : State :=
  let d : BankBind := ⟨stRow st, stCol st, false, false, false⟩
  s.modField (stField st) fun f => { f with banks := smod d f.banks (24 * stRow st + stCol st) g }

/-- R248: the 32 bits of a remap entry. -/
def Remap.encode (r : Remap) : Nat :=
  r.prow + r.pcol * 2 ^ 5 + b2n r.moved * 2 ^ 10 + b2n r.fenced * 2 ^ 11 + b2n r.homeDead * 2 ^ 12

def Remap.decode (n : Nat) : Remap := ⟨bits n 4 0, bits n 9 5, bit n 10, bit n 11, bit n 12⟩

/-! ### The fault log (R416 to R419) -/

def FaultRec.encode (r : FaultRec) : Nat :=
  r.cause + r.outcome * 2 ^ 4 + 2 ^ 7 + r.station * 2 ^ 8 + r.prow * 2 ^ 24 + r.pcol * 2 ^ 29 + r.time * 2 ^ 34

/-- TIME of a fault record (R416). -/
def State.faultClock (s : State) (f : Nat) : Nat := bits (s.fieldCounter f) 45 16

/-- Writes a fault record of a detection at `time`, with its lifetime record (R535); a seventeenth is lost. -/
def State.logFaultAt (s : State) (time f cause outcome st prow pcol : Nat) : State :=
  let r : FaultRec := ⟨cause, outcome, st, prow, pcol, time⟩
  let s := s.modField f fun x =>
    if x.log.length < 16 then { x with log := x.log ++ [r] } else { x with logOverflow := true }
  s.lifeRecord 0x10 f (leBytes 8 r.encode)

/-- The record of a fault detected now. -/
def State.logFault (s : State) (f cause outcome st prow pcol : Nat) : State :=
  s.logFaultAt (s.faultClock f) f cause outcome st prow pcol

/-! ### Spares (R254, R397, R413, R414) -/

/-- A field is off: switched off or lost. -/
def Field.isOff (x : Field) : Bool := x.state == .offForHeat || x.state == .lost

/-- R410: a field without power: off, and not being switched on. -/
def Field.dark (x : Field) : Bool := x.isOff && !x.starting

/-- R413: core, router and store site of the spare at pcol 24 of prow `i` are good. -/
def Field.intact (x : Field) (i : Nat) : Bool :=
  sget 0 x.fencedCores (25 * i + 24) == 0 && !x.dead.contains (i, 24) && !x.badSites.contains (25 * i + 24)

def Field.boundSpare (x : Field) (i : Nat) : Bool := x.remap.any fun r => r.2.moved && r.2.pcol == 24 && r.2.prow == i

/-- A spare that a running or queued fill will bind. -/
def Field.targeted (x : Field) (i : Nat) : Bool :=
  (x.fill.toList ++ x.queued).any fun l => !l.own && l.pcol == 24 && l.prow == i

def Field.freeSpare (x : Field) (i : Nat) : Bool := x.intact i && !x.boundSpare i && !x.targeted i

def Field.freeSpares (x : Field) : Nat := ((List.range 24).filter x.freeSpare).length

/-- R254: a router is marked dead. -/
def State.deadSite (s : State) (x y : Nat) : Bool := (s.field (routerField x y)).dead.contains (y % 24, x % 25)

/-- R254: the remap leg of a field from the row of a home site to the spare of prow `i` does not turn at a dead site; from a
dead home, the legs start at its neighbours, which may lie in the next field. -/
def State.legOk (s : State) (f row i : Nat) (homeDead : Bool) : Bool :=
  let gx := 25 * (f % 8) + 24
  let gy := 24 * (f / 8) + row
  (if homeDead then [gy - 1, gy, gy + 1] else [gy]).all fun y => y == 24 * (f / 8) + i || !s.deadSite gx y

/-- R397: the row spare, else the free intact spare of the nearest prow, the lower on a tie. -/
def State.chooseSpare (s : State) (f row : Nat) (homeDead : Bool) : Option Nat :=
  let dist (i : Nat) : Nat := (i - row) + (row - i)
  ((List.range 24).filter fun i => (s.field f).freeSpare i && s.legOk f row i homeDead).foldl
    (fun b i => match b with
      | none => some i
      | some j => if dist i < dist j then some i else some j) none

/-- R414: LOW is reported as two or fewer spares come to be free. -/
def State.spareTaken (s : State) (f before : Nat) : State :=
  let after := (s.field f).freeSpares
  if after ≤ 2 ∧ 2 < before then s.event 0 f else s

/-! ### Fencing and binding (R396, R400, R405) -/

/-- R220, R249, R396: the packet that the core at a site was emitting is cut off as its port is isolated: a truncation flit
goes out where it had gone; what a bank sends goes on. -/
def State.cutPacket (s : State) (gx gy : Nat) : State :=
  let cut (w : Head) : Bool :=
    w.bulk && w.gx == gx && w.gy == gy && w.port == 4 && !w.whole && bits w.header 3 0 != 1 && bits w.header 3 0 != 3
  let s := s.forAll (s.net.heads.filter cut) fun s w =>
    let s := s.forAll w.taken fun s q => s.emit (.truncation gx gy q)
    s.modLink w.input fun l => { l with buffered := smod 0 l.buffered w.chan fun n => n - w.flits }
  { s with net := { s.net with heads := s.net.heads.filter fun w => !cut w } }

/-- R250, R396, R415: fences the core that serves a station; its sync leaf is masked and the packet that it was emitting is cut
off; the cycles that it has spent are counted (R135). A replay that a further fault cuts off keeps the position that it must
come to. (DEDUCED, log entry 80) -/
def State.fenceCore (s : State) (st : Nat) (retest : Bool) : State :=
  let r := s.remapOf st
  let s := (s.countBusy st s.clk.rootTime).cutPacket (25 * (stField st % 8) + r.pcol) (24 * (stField st / 8) + r.prow)
  let s := s.updateRemap st { r with fenced := true, moved := false }
  let s := s.modField (stField st) fun x =>
    { x with fencedCores := sset 0 x.fencedCores (25 * r.prow + r.pcol) (if retest then 2 else 1) }
  let s := s.nonfiniteLevel (24 * stField st + r.prow) r.pcol 0
  let s := { s with net := { s.net with reports := s.net.reports.filter fun q => q.1 ≠ st } }
  (s.modStation st fun y =>
      { y with
        fenced := true, writing := none, error := 0
        faultPos := if y.replayed then some y.core.place else y.faultPos }).modWear (stField st) fun w =>
    { w with fenced := satAdd 16 w.fenced 1 }

/-- A station is bound to another core: its remap entry and its sync leaf (R248, R250). -/
def State.rebind (s : State) (st : Nat) (r : Remap) : State := (s.updateRemap st r).moveLeaf st (s.remapOf st) r

/-- MOVED is set with the spare's place; its bank will be migrated (R277). A rested home core takes its station back in
the same way (R533). -/
def State.setMoved (s : State) (st prow pcol : Nat) : State :=
  let away : Bool := decide (prow ≠ stRow st ∨ pcol ≠ stCol st)
  let s := s.rebind st { s.remapOf st with prow := prow, pcol := pcol, moved := away }
  (s.modBankBind st fun b => { b with migrating := true, copied := false }).modWear (stField st) fun w =>
    if away then { w with bound := satAdd 16 w.bound 1 } else w

/-- R144, R148, R400, R560: what a station runs that had no shadow since its present run of scripts began: the script of
the open eval window, or of the running step, from its first operation. -/
def Part.rerun (x : Part) (y : Station) (st : Nat) (c : Core) : Core :=
  let c := { c with run := y.core.run - 1 }
  if x.eval.any (·.staged) then if y.evalClosed then { c with run := y.core.run } else x.startEval st c
  else if x.phase = .compute ∨ x.phase = .drain then x.startMicro st x.probing c
  else { c with run := y.core.run }

/-- The stream ends of a core from which a station starts without a fill: rings are empty. -/
def Core.ends (c : Core) : Core :=
  { run := c.run, fetched := c.fetched, flags := c.flags, outb := c.outb
    inb := (c.inb.map (·.1)).foldl (fun m i => smod {} m i fun e =>
      { e with
        buffer := e.buffer ++ e.replay, seq := (e.seq + e.replay.length) % 2 ^ 48, replay := [], ring := []
        ringHold := false }) c.inb }

/-- R405: a station starts from its plan, with its stream ends; nothing else of it is needed. Its leaf counts as heard (R395). -/
def State.startFresh (s : State) (st : Nat) : State :=
  let s := match s.stPart st with
    | none => s.modStation st fun y => { y.restart with lastBeat := s.clk.rootTime }
    | some p => s.modStation st fun y =>
      { y.restart with
        core := (s.part p).rerun y st y.core.ends, origin := y.core.ends, evalClosed := y.evalClosed
        lastBeat := s.clk.rootTime }
  s.restartOver (stField st)

/-- R405: a station is bound to a spare without a fill and starts from its plan. -/
def State.bindFresh (s : State) (st prow pcol : Nat) : State := (s.setMoved st prow pcol).startFresh st

/-- R71, R85, R109, R136: what a field reset clears of a restored station: its flags, CORE_ACC_STATUS, CORE_FLOCK_STATUS
and CORE_ARRAY_CYCLES. -/
def Station.fieldReset (y : Station) : Station :=
  { y with
    core := { y.core with flags := {} }
    lambState := 0, lambFault := 0, flockAbort := false, lastLamb := 0, productCc := 0, exchangeCc := 0 }

/-- R71, R407: a fill that a field reset has begun anew clears what the reset clears, also where the fill is given up. -/
def State.endReset (s : State) (l : Fill) : State :=
  if l.reset then s.modStation l.station Station.fieldReset else s

/-- R404: a fill that is given up lets its receiver and those that its station's replay held up go. -/
def State.letFillGo (s : State) (l : Fill) : State :=
  s.letGo ((s.station l.station).holds ++ (l.receiver.toList.map (·.1)).filter fun r => r < 65536)

/-- R405: the running fill and the queue of a field are given up: their stations, but for one that is bound otherwise, are
bound without a fill. -/
def State.dropFills (s : State) (f : Nat) (but : Option Nat) : State :=
  let x := s.field f
  let s := s.modField f fun x => { x with fill := none, queued := [] }
  s.forAll (x.fill.toList ++ x.queued) fun s l =>
    let s := (s.letFillGo l).endReset l
    if but = some l.station then s
    else if l.own then s.startFresh l.station
    else s.bindFresh l.station l.prow l.pcol

/-- R275, R405, R406: a fault of a field rolls back the running step of its partition. -/
def State.fieldRollback (s : State) (f : Nat) : State :=
  match s.fieldPart f with
  | none => s
  | some p =>
    if (s.part p).beforeFence then (s.modField f fun x => { x with rollback := true }).rollbackLocal p else s

/-! ### Field loss (R408) -/

/-- R408: a partition whose routes enter a lost field stops its running step, and runs on the field-off variant from the next
or repeated step on. (DEDUCED, log entry 78) -/
def State.loseFor (s : State) (f p : Nat) : State :=
  let s := (s.leaveLayout f p).rollbackWafer p
  let s := s.loseLayout f p
  let x := s.part p
  if x.running || x.eval.any (·.staged) then s else s.chooseRoutes p

/-- R408: the field is lost, for its own partition and for every other whose route set enters it. (DEDUCED, log entry 77) A
rollback of the herd for it has a record of its own (R418; DESIGN CHOICE, log entry 209). -/
def State.fieldLoss (s : State) (f cause st prow pcol : Nat) : State :=
  if (s.field f).state = .lost ∧ (s.field f).starting = false then s
  else
    let s := s.logFault f cause 5 st prow pcol
    let s := s.forAll ((s.field f).fill.toList ++ (s.field f).queued) State.endReset
    let s := s.modField f fun x =>
      { x with state := .lost, fill := none, queued := [], starting := false, offAtFence := false, restarting := false }
    let s := (s.eraseField f).modWear f fun w => { w with losses := satAdd 16 w.losses 1 }
    let s := s.event 1 (f + 3 * 2 ^ 8)
    let hit := (List.range 8).filter fun p => (s.part p).formed
      && ((s.fieldPart f == some p && !(s.part p).offFields.contains f) || (s.part p).enters f)
    s.forAll hit fun s p =>
      let x := s.part p
      let s := if x.running && x.phase != .flipWait && x.noticed then s.logFault f cause 3 st prow pcol else s
      s.loseFor f p

/-! ### Core faults (R396 to R405) -/

/-- R397, R414: a spare is chosen for a station; with none free the field is lost, `prow` and `pcol` naming the core. -/
def State.withSpare (s : State) (st prow pcol : Nat) (k : State → Nat → State) : State :=
  let f := stField st
  match s.chooseSpare f (stRow st) (s.remapOf st).homeDead with
  | some i => k s i
  | none => ((s.modField f fun x => { x with exhausted := true }).event 0 f).fieldLoss f 0xE st prow pcol

/-- R401: the root time of a fault, for its budget: that of a watchdog counts from its report, that of a lost core from its
last heartbeat (DEDUCED, log entry 178). -/
def State.faultTime (s : State) (st cause : Nat) (receiver : Option Nat) : Nat :=
  match receiver with
  | some r => if r < 65536 then (s.station r).errorAt else s.clk.rootTime
  | none =>
    if cause = 5 then (s.station st).lastBeat
    else if (s.station st).error ≠ 0 ∧ cause ≠ 4 then (s.station st).errorAt
    else s.clk.rootTime

/-- R405: a fault at a station meets the running fill of its field: it is the station being filled, or one of its prow while
the row spare is being filled. -/
def State.meetsFill (s : State) (st : Nat) : Bool :=
  (s.field (stField st)).fill.any fun l =>
    l.station == st || (!l.own && l.prow == stRow l.station && stRow l.station == stRow st)

/-- The fill of a field starts or joins the queue; what a second fault makes of it is R405's. -/
def State.coreFault (s : State) (st cause : Nat) (retest : Bool) (receiver : Option (Nat × Nat)) : State :=
  let f := stField st
  let r := s.remapOf st
  if (s.field f).state ≠ .inService then s
  else
    let before := (s.field f).freeSpares
    let start := s.faultTime st cause (receiver.map (·.1))
    let hit := s.meetsFill st
    let s := s.fenceCore st retest
    s.withSpare st r.prow r.pcol fun s i =>
      let l : Fill :=
        { station := st, prow := i, pcol := 24, cause := cause, receiver := receiver, start := start
          failRow := r.prow, failCol := r.pcol, time := s.faultClock f }
      let s :=
        if (s.field f).fill.isNone then
          (s.logFault f cause 0 st r.prow r.pcol).modField f fun x => { x with fill := some l }
        else if hit || 4 ≤ (s.field f).queued.length then
          ((((s.logFault f cause 2 st r.prow r.pcol).dropFills f (some st)).letFillGo l).bindFresh st i 24).fieldRollback f
        else (s.logFault f cause 6 st r.prow r.pcol).modField f fun x => { x with queued := x.queued ++ [l] }
      s.spareTaken f before

/-- R405: the running fill meets a fault on its source path or in its spare, at a core or router: it is given up, its station
bound to another spare without a fill, or left on its own core (R403), and the step rolled back. -/
def State.breakFill (s : State) (l : Fill) (cause prow pcol : Nat) : State :=
  let f := stField l.station
  let before := (s.field f).freeSpares
  let s := (s.logFault f cause 2 l.station prow pcol).modField f fun x => { x with fill := none }
  let s := (s.letFillGo l).endReset l
  if l.own then ((s.dropFills f none).startFresh l.station).fieldRollback f
  else s.withSpare l.station prow pcol fun s i =>
    (((s.dropFills f none).bindFresh l.station i 24).fieldRollback f).spareTaken f before

/-- R405: a check fails in the core that is being filled: a spare is fenced and another taken; a station's own core goes the
way of a core fault. -/
def State.fillFault (s : State) (st cause : Nat) : State :=
  match (s.field (stField st)).fill with
  | none => s
  | some l =>
    if l.own then s.coreFault st cause false none
    else
      let s := s.modField (stField st) fun x => { x with fencedCores := sset 0 x.fencedCores (25 * l.prow + l.pcol) 1 }
      (s.modWear (stField st) fun w => { w with fenced := satAdd 16 w.fenced 1 }).breakFill l cause l.prow l.pcol

/-- R403, R275: a station is restored on its own core; a fill that runs already is met as R405 says. One that is being filled
to a spare is bound to it without the fill, and one that waits for its spare is restored by that fill. -/
def State.ownFill (s : State) (st cause : Nat) : State :=
  let f := stField st
  let r := s.remapOf st
  let l : Fill :=
    { station := st, prow := r.prow, pcol := r.pcol, own := true, cause := cause, start := s.faultTime st cause none
      failRow := r.prow, failCol := r.pcol, time := s.faultClock f }
  let hit := s.meetsFill st
  let moves (l : Fill) : Bool := l.station == st && !l.own
  if (s.field f).fill.any moves then ((s.logFault f cause 2 st r.prow r.pcol).dropFills f none).fieldRollback f
  else if (s.field f).queued.any moves then s.logFault f cause 6 st r.prow r.pcol
  else
  let s := s.modStation st fun y =>
    { y with fenced := true, writing := none, faultPos := if y.replayed then some y.core.place else y.faultPos }
  if (s.field f).fill.isNone then
    (s.logFault f cause 1 st r.prow r.pcol).modField f fun x => { x with fill := some l }
  else if !hit ∧ (s.field f).queued.length < 4 then
    (s.logFault f cause 6 st r.prow r.pcol).modField f fun x => { x with queued := x.queued ++ [l] }
  else (((s.logFault f cause 2 st r.prow r.pcol).dropFills f (some st)).startFresh st).fieldRollback f

/-! ### Uncorrectable words of a bank (R274, R279) -/

/-- An uncorrectable word is found: counted, and it awaits recovery. -/
def State.foundBad (s : State) (f prow pcol word : Nat) : State :=
  let s := s.modField f fun x => { x with uncorrectable := satAdd 16 x.uncorrectable 1 }
  let s := s.modWear f fun w => { w with uncorrectable := satAdd 32 w.uncorrectable 1 }
  s.modBank (bankIdx f prow pcol) fun b => { b with bad := insertOnce word b.bad }

/-- Words that a read of a station's bank finds uncorrectable: those neither poisoned nor found before are counted. -/
def State.readFinds (s : State) (owner : Nat) (words : List Nat) : State :=
  let i := s.stBank owner
  let new := words.eraseDups.filter fun w => w < 2 ^ 21 && !(s.bank i).poison.contains w && !(s.bank i).bad.contains w
  s.forAll new fun s w => s.foundBad (stField owner) (s.bankBind owner).bprow (s.bankBind owner).bpcol w

/-- R180, R279: a station's read of its own bank finds words uncorrectable: they are counted, and it stops with error 5. -/
def State.ownReadBad (s : State) (st : Nat) (words : List Nat) : State :=
  if words = [] then s else (s.readFinds st words).stationError st 5

/-! ### The end of a fill (R399, R400) -/

/-- The last complete shadow: the area that COPY names (R185). -/
def Station.lastShadow (y : Station) : Option Shadow := if y.copy then y.shadowB else y.shadowA

/-- Tiles at an inbound end whose credits its sender does not hold: in the buffer, in a ring to be replayed, or consumed while
credits are held, without those whose credits went back before a fill. -/
def StreamEnd.unreturned (i : StreamEnd) : Nat := i.buffer.length + i.replay.length - i.returned + i.heldReturns

/-- R233, R399: the contributions of a station that wait at its node of a stream's tree. -/
def State.nodeWaits (s : State) (p st e : Nat) : Nat :=
  match (s.part p).nodeOf (sdTree e) st with
  | some n =>
    (sget [] (sget {} s.net.nodes (2 ^ 24 * p + 2 ^ 16 * sdTree e + bits n 23 8)).inputs ((nodeInputs n).idxOf st)).length
  | none => 0

/-- R399: free places that a destination of a station's stream has for it. -/
def State.freeAt (s : State) (p st e dest : Nat) : Nat :=
  let id := bits e 15 0
  if dest < 0x10000 then sdCredits e - (sget {} (s.station dest).core.inb id).unreturned
  else if dest < 0x20000 then
    let y := s.kpart (dest - 0x10000) p
    sdCredits e - y.buckets.foldl (fun n b => n + (b.2.waiting.filter fun t => t.1 == id).length) 0
  else if dest < 0x30000 then (s.part p).nodeRoom st e - s.nodeWaits p st e
  else min (sdCredits e) (s.dq (64 * p + (dest - 0x30000))).freeSlots

/-- R399: the SEQ that the tree node of a station's contributions expects next at that input. -/
def State.nodeExpects (s : State) (p st e : Nat) : Nat :=
  match (s.part p).nodeOf (sdTree e) st with
  | some n => (sget {} s.net.nodes (2 ^ 24 * p + 2 ^ 16 * sdTree e + bits n 23 8)).expect + s.nodeWaits p st e
  | none => 0

/-- R400, R182: the core that a fill installs: that of the last shadow, or what the plan starts, where the running script
has begun since. The array holds no block but that of a TMUL that resumes. -/
def Part.refilled (x : Part) (y : Station) (st : Nat) : Core :=
  let c := match y.lastShadow with
    | some sh => if sh.core.run < y.core.run then x.rerun y st sh.core else sh.core
    | none => x.rerun y st y.origin
  { c with resident := if c.runningTmul.isSome then c.resident else none }

/-- R133: LAMB_STATE after a fill: the lambs left of a flock TMUL that resumes run (DESIGN CHOICE, log entry 160). -/
def Part.refilledLambs (x : Part) (c : Core) : BitVec 32 :=
  match c.runningTmul with
  | some e =>
    if tmFlock e.op.toNat then
      mapLambs (fun i _ => if lambPresent (x.flockOf e) i && c.lambsLeft.contains i then 1 else 0) 0
    else 0
  | none => 0

/-- R127, R135: a core of a shadow taken at root time `at'` resumes `d` later: what its array has yet to do comes as much
later, and what it had done by then has been counted. -/
def Core.later (c : Core) (at' d : Nat) : Core :=
  let put (m : Sparse Nat) : Sparse Nat := m.map fun q => (q.1, q.2 + d)
  { c with
    busy := (c.busy.filter fun b => at' < b.to').map fun b => { b with from' := max b.from' at' + d, to' := b.to' + d }
    flockBase := c.flockBase + d, lambFrom := put c.lambFrom, lambEnd := put c.lambEnd }

/-- R183, R186, R396, R400: an inbound end of a restored station as the shadow holds it, `old`; the tiles of the ring are yet
to be taken. Those whose credits the failed core, `cur`, had returned are noted. -/
def StreamEnd.refill (old cur : StreamEnd) : StreamEnd :=
  { old with
    ring := cur.ring, replay := cur.ring, heldReturns := cur.heldReturns
    returned := old.buffer.length + cur.ring.length - (cur.buffer.length + cur.replay.length - cur.returned) }

/-- R398 to R400: the station runs on from its last shadow, or from its plan where it has none. Tiles accepted since the
shadow are replayed from the rings; outbound streams are resynchronised. Registers read as the shadow holds them
(R186); CORE_FLOCK_STATUS keeps its W1C bits and LAST_LAMB, and CORE_ARRAY_CYCLES its counts (DESIGN CHOICE, log entry 160). A
request of it that is still held at a bank keeps its watchdog off (R274). -/
def State.restoreStation (s : State) (p st : Nat) : State :=
  let x := s.part p
  let y := s.station st
  let now := s.clk.rootTime
  let core := match y.lastShadow with
    | some sh => (x.refilled y st).later sh.at' (now - sh.at')
    | none => x.refilled y st
  let inb := ((x.sec 0x06).filter fun e => x.inbound st e).foldl (fun (m : Sparse StreamEnd) e =>
    let id := bits e 15 0
    sset {} m id ((sget {} core.inb id).refill (sget {} y.core.inb id))) core.inb
  let outb := ((x.sec 0x06).filter fun e => x.outbound st e).foldl (fun (m : Sparse StreamEnd) e =>
    let id := bits e 15 0
    let cap := if sdDstKind e = 3 then x.nodeRoom st e else sdCredits e
    let free := (x.dests e).foldl (fun n d => min n (s.freeAt p st e d)) cap
    smod {} m id fun o =>
      { o with
        used := (x.dests e).foldl (fun u d => sset 0 u d (cap - free)) []
        suppress := if sdDstKind e = 3 then s.nodeExpects p st e else 0 }) core.outb
  s.setStation st
    { y with
      core := { core with inb := inb, outb := outb }
      error := 0, stopped := false, fenced := false, retryFault := false, bankReads := [], lastBeat := now
      watchdogOff := s.banks.any fun b => b.2.heldReads.any fun h => h.1 == st
      promoted := (y.lastShadow.map (·.promoted)).getD 0, yields := (y.lastShadow.map (·.yields)).getD 0
      lambState := x.refilledLambs core, lambFaultAt := 0, wholeFaultAt := 0, lambFaultNow := 0, writing := none }

/-- R404: the tile that a receiver lacks lies before the sender's shadow. -/
def State.lostTile (s : State) (l : Fill) : Bool :=
  match l.receiver, s.stPart l.station with
  | some (r, id), some p =>
    let expected := if r < 65536 then
        let i := sget {} (s.station r).core.inb id
        i.seq + i.replay.length
      else sget 0 (s.kpart (r - 65536) p).expected id
    let y := s.station l.station
    let base := (y.lastShadow.map (·.core)).getD y.origin
    2 ^ 47 ≤ seqAhead 48 (sget {} base.outb id).seq expected
  | _, _ => false

/-- The next queued fill of a field starts; its second record follows, of the core at fault and with the time of its detection
(R405, R416, R418). -/
def State.nextFill (s : State) (f : Nat) : State :=
  match (s.field f).queued with
  | [] => s.modField f fun x => { x with fill := none }
  | l :: rest =>
    (if l.cause = 0 then s
      else s.logFaultAt l.time f l.cause (if l.own then 1 else 0) l.station l.failRow l.failCol).modField f fun x =>
      { x with fill := some l, queued := rest }

/-- R400, R401, R404, R277: the fill and the resynchronisation of a field are complete. A station that missed the tile stays
halted until the replay has come to the fault position. (DEDUCED, log entry 76) -/
def State.fillComplete (s : State) (f : Nat) : State :=
  match (s.field f).fill with
  | none => s
  | some l =>
    let need := match (s.station l.station).lastShadow with | some sh => sh.bytes | none => 0
    match s.stPart l.station with
    | none => s
    | some p =>
      if l.bytes < need then s
      else if s.lostTile l then
        ((s.logFaultAt l.time f l.cause 2 l.station l.failRow l.failCol).dropFills f none).fieldRollback f
      else
        let s := if l.own then s else s.setMoved l.station l.prow l.pcol
        let s := (s.restoreStation p l.station).endReset l
        let s := if l.start + 180000 < s.clk.rootTime then s.modField f fun x => { x with overrun := true } else s
        let s := s.modStation l.station fun y =>
          { y with holds := y.holds ++ (l.receiver.toList.map (·.1)).filter fun r => r < 65536 }
        (s.endHalt l.station).nextFill f

/-! ### Dead routers (R253, R254, R406, R411) -/

/-- R254: another dead router lies within two sites, over all fields. -/
def State.deadNear (s : State) (gx gy : Nat) : Bool :=
  (List.range 64).any fun f => (s.field f).dead.any fun d =>
    let x := 25 * (f % 8) + d.2
    let y := 24 * (f / 8) + d.1
    x ≤ gx + 2 && gx ≤ x + 2 && y ≤ gy + 2 && gy ≤ y + 2

/-- The alternate record of a site in section 0x0E. -/
def Plan.deadRecord (p : Plan) (site : Nat) : Option Nat :=
  (((p.sections.filter fun c => c.kind == 0x0E).flatMap fun c => c.entries.drop 1)).find? fun r => bits r 15 0 == site

/-- R230: a group entry's router is a branch. -/
def isBranch (e : Nat) : Bool :=
  2 ≤ ([(319, 64), (575, 320), (831, 576), (1087, 832), (1343, 1088)].filter fun b => bits e b.1 b.2 ≠ 0).length

/-- A branch of a group or a tree node of a plan stands at a site. -/
def Plan.usesSite (p : Plan) (site : Nat) : Bool :=
  let gx := 25 * (stField site % 8) + stCol site
  let gy := 24 * (stField site / 8) + stRow site
  p.sections.any fun c =>
    (c.kind == 0x09 && c.entries.any fun e => bits e 23 16 == gx && bits e 31 24 == gy && isBranch e)
      || (c.kind == 0x0C && c.entries.any fun e => bits e 23 8 == site)

/-- R254, R411: the branches and tree nodes of a dead site give way to the plan's replacement entries, which also stand
for the entries of the same group or tree at the routers that they name. Of a branch there the member whose home the site is
stays: its copies go by proxy (R253). -/
def Plan.replaceSite (p : Plan) (site r : Nat) : Plan :=
  let gx := 25 * (stField site % 8) + stCol site
  let gy := 24 * (stField site / 8) + stRow site
  let ng := bits r 39 32
  let groups := (List.range ng).map fun i => (r >>> (128 + 1344 * i)) % 2 ^ 1344
  let nodes := (List.range (bits r 47 40)).map fun i => (r >>> (128 + 1344 * ng + 256 * i)) % 2 ^ 256
  { p with sections := p.sections.map fun c =>
      if c.kind = 0x09 then
        let old := (c.entries.filter fun e =>
            !groups.any fun g => bits g 9 0 == bits e 9 0 && bits g 31 16 == bits e 31 16).filterMap fun e =>
          if bits e 23 16 ≠ gx ∨ bits e 31 24 ≠ gy ∨ isBranch e = false then some e
          else if bits e 1343 1088 = 0 then none
          else some (bits e 63 0 + bits e 1343 1088 * 2 ^ 1088)
        { c with entries := old ++ groups }
      else if c.kind = 0x0C then
        let old := c.entries.filter fun e => bits e 23 8 ≠ site && !nodes.any fun n => bits n 23 0 == bits e 23 0
        { c with entries := old ++ nodes }
      else c }

/-- The alternates of a dead site take over in a partition; HOLDING is set where the plan gives none.
(DEDUCED, log entry 74) -/
def State.useAlternates (s : State) (p site : Nat) : State :=
  match (s.part p).plan with
  | none => s
  | some pl =>
    if !pl.usesSite site then s
    else match pl.deadRecord site with
      | some r => s.modPart p fun x => { x with plan := some (pl.replaceSite site r) }
      | none => s.modField (stField site) fun x => { x with holding := true }

/-- R254: no remap leg of a field turns at a dead site. -/
def State.legsOk (s : State) (f : Nat) : Bool :=
  (s.field f).remap.all fun r =>
    !r.2.moved || r.2.pcol ≠ 24 || (s.field f).dead.contains (r.2.prow, 24) || s.legOk f (r.1 / 24) r.2.prow r.2.homeDead

/-- R405: a dead router lies on the source path of a running fill: at the bank's site, on the fill route (ORDER 0) or at the
core that is filled, or at the gateway tap of the station's row (DEDUCED, log entry 178); or it is one at which the remap leg to
the spare would turn (R254). -/
def State.onFillPath (s : State) (l : Fill) (row col : Nat) : Bool :=
  let b := s.bankBind l.station
  let between (a b i : Nat) : Bool := decide (min a b ≤ i) && decide (i ≤ max a b)
  (row == b.bprow && between b.bpcol l.pcol col) || (col == l.pcol && between b.bprow l.prow row)
    || (row == stRow l.station && col == 12)
    || (!l.own && l.pcol == 24 && !s.legOk (stField l.station) (stRow l.station) l.prow (s.remapOf l.station).homeDead)

/-- R254: queued fills whose spare has died, or cannot be reached, take another. -/
def State.retarget (s : State) (f : Nat) : State :=
  let bad (l : Fill) : Bool := !l.own && ((s.field f).dead.contains (l.prow, l.pcol)
    || !s.legOk f (stRow l.station) l.prow (s.remapOf l.station).homeDead)
  s.forAll ((s.field f).queued.filter bad) fun s l =>
    s.withSpare l.station l.prow l.pcol fun s i => s.modField f fun x =>
      { x with queued := x.queued.map fun q => if q.station = l.station then { q with prow := i } else q }

/-- R278, R406: a station whose bank is lost is bound to a spare with that spare's newly initialised bank, and its partition
rolls back the running step. -/
def State.bindNewBank (s : State) (st i : Nat) (homeDead : Bool) : State :=
  let f := stField st
  let s := s.dropFills f (some st)
  let s := s.rebind st { s.remapOf st with prow := i, pcol := 24, moved := true, homeDead := homeDead }
  let s := (s.modBankBind st fun _ => { bprow := i, bpcol := 24, moved := true }).initBank (bankIdx f i 24)
  ((s.startFresh st).modWear f fun w => { w with bound := satAdd 16 w.bound 1 }).fieldRollback f

/-- R253, R254, R406: what the death of a router means for one station. With its bank there, the station takes a spare with a
new bank; with only its core there, it is filled onto another spare; with only its home there, it is reached by proxy
entries. (DEDUCED, log entry 168) -/
def State.routerLost (s : State) (st row col cause : Nat) : State :=
  let f := stField st
  let r := s.remapOf st
  let b := s.bankBind st
  let home : Bool := decide (stRow st = row ∧ stCol st = col)
  let dead := r.homeDead || home
  if (s.field f).state ≠ .inService then s
  else
    let s := s.setRemap st { r with homeDead := dead }
    if b.bprow = row ∧ b.bpcol = col then
      s.withSpare st row col fun s i => (s.logFault f cause 2 st row col).bindNewBank st i dead
    else if r.prow = row ∧ r.pcol = col then s.coreFault st cause false none
    else if home then (s.logFault f cause 2 st row col).fieldRollback f
    else s

/-- R253: HOME_DEAD is set for the station whose home router has died. -/
def State.markHome (s : State) (st : Nat) : State :=
  if stCol st < 24 then s.updateRemap st { s.remapOf st with homeDead := true } else s

/-- R254, R406: the router of a site is marked dead; its station, a station that a spare there serves, and fills that need
it, are bound anew. Where R254 cannot be met the field is lost. -/
def State.routerFault (s : State) (st cause : Nat) : State :=
  let f := stField st
  let row := stRow st
  let col := stCol st
  if (s.field f).state ≠ .inService ∨ (s.field f).dead.contains (row, col) = true then s
  else if s.deadNear (25 * (f % 8) + col) (24 * (f / 8) + row) then s.fieldLoss f cause st row col
  else
    let before := (s.field f).freeSpares
    let s := (s.modField f fun x => { x with dead := x.dead ++ [(row, col)] }).markHome st
    let s := s.forAll ((List.range 8).filter fun p => (s.part p).formed) fun s p => s.useAlternates p st
    if ([f, f - 8, f + 8].all s.legsOk) = false then s.fieldLoss f cause st row col
    else
      let hit := (fieldStations f).filter fun t =>
        t == st || ((s.remapOf t).prow == row && (s.remapOf t).pcol == col)
          || ((s.bankBind t).bprow == row && (s.bankBind t).bpcol == col)
      let s := if hit = [] then s.logFault f cause 2 st row col else s
      let s := match (s.field f).fill with
        | some l => if s.onFillPath l row col then s.breakFill l cause row col else s
        | none => s
      (s.forAll hit fun s t => s.routerLost t row col cause).retarget f |>.spareTaken f before

/-! ### Field restart (R407) and return (R410) -/

/-- R407: every core of the field is reset and each station restored from its own shadow. A station that a fill moves to a
spare is restored by that fill, which starts again: remap entries are kept (R262). The local counters of the field's controller
and cores start at 0 again (R480). (DEDUCED, log entry 169) -/
def State.fieldRestart (s : State) (f : Nat) : State :=
  let again (l : Fill) : Fill := { l with reset := true, bytes := 0 }
  let s := s.modField f fun x =>
    { x with
      fill := (x.fill.filter (!·.own)).map again, queued := (x.queued.filter (!·.own)).map again }
  let s := (if (s.field f).fill.isNone then s.nextFill f else s).event 1 (f + 1 * 2 ^ 8)
  let s := { s with clk := { s.clk with fieldMark := sset 0 s.clk.fieldMark f s.clk.rootTime } }
  let moving := ((s.field f).fill.toList ++ (s.field f).queued).map (·.station)
  match s.fieldPart f with
  | none => s
  | some p =>
    let s := s.forAll (((s.part p).planStations).filter fun st => stField st == f && !moving.contains st) fun s st =>
      let s := s.modStation st fun y => { y with faultPos := if y.replayed then some y.core.place else y.faultPos }
      ((s.restoreStation p st).modStation st Station.fieldReset).endHalt st
    (s.modField f fun x => { x with restarting := true }).restartOver f

/-- R248, R262, R410, R413, R415: start-up builds a station's remap entry from the maps: it keeps its core where that, its router
and its store site are good, else it takes a spare with that spare's bank. -/
def State.rebindStation (s : State) (st : Nat) : State :=
  let f := stField st
  let x := s.field f
  let r := s.remapOf st
  let homeBad : Bool := sget 0 x.fencedCores (25 * stRow st + stCol st) ≠ 0
  if sget 0 x.fencedCores (25 * r.prow + r.pcol) = 0 ∧ x.dead.contains (r.prow, r.pcol) = false
      ∧ x.badSites.contains (25 * (s.bankBind st).bprow + (s.bankBind st).bpcol) = false then
    s.setRemap st { r with moved := decide (r.prow ≠ stRow st ∨ r.pcol ≠ stCol st), fenced := homeBad }
  else
    let s := s.setRemap st { r with moved := false, fenced := homeBad }
    match s.chooseSpare f (stRow st) r.homeDead with
    | none => s.modField f fun x => { x with exhausted := true }
    | some i =>
      let s := s.setRemap st { s.remapOf st with prow := i, pcol := 24, moved := true }
      ((s.modBankBind st fun _ => { bprow := i, bpcol := 24, moved := true }).initBank (bankIdx f i 24)).modWear f fun w =>
        { w with bound := satAdd 16 w.bound 1 }

/-- R410: the stations of a field whose remap entries are not those of plain home cores are bound as start-up binds them. -/
def State.rebindField (s : State) (f : Nat) : State :=
  let x := s.field f
  let cores := (x.fencedCores.map (·.1) ++ x.badSites).map fun c => (c / 25, c % 25)
  let keys := x.remap.map (·.1) ++ ((cores ++ x.dead).filter fun c => c.2 < 24).map fun c => 24 * c.1 + c.2
  s.forAll keys.eraseDups fun s i => s.rebindStation (stOf f (i / 24) (i % 24))

/-- R270, R410, R413: a field that was switched on again has been initialised and self-tested; cores that failed are fenced,
routers dead and store sites bad, and it is ready. UNRECOVERABLE is clear with the poison list (DESIGN CHOICE, log entry 179). Its partition returns to the full
layout at its next fence. With no spare for a station it is lost again (R414). -/
def State.fieldReady (s : State) (test : FieldTest) : State :=
  let f := test.field
  if (s.field f).starting then
    let s := (s.eraseField f).modField f fun x =>
      { x with
        state := .inService, starting := false, unrecoverable := false
        fencedCores := test.failed.foldl (fun m i => sset 0 m i 1) x.fencedCores
        dead := test.routers.foldl (fun l i => insertOnce (i / 25, i % 25) l) x.dead
        badSites := test.sites.foldl (fun l i => insertOnce i l) x.badSites }
    let s := s.forAll test.routers fun s i => s.markHome (stOf f (i / 25) (i % 25))
    let s := { s with clk := { s.clk with fieldMark := sset 0 s.clk.fieldMark f s.clk.rootTime } }
    let s := s.forAll ((s.stations.map (·.1)).filter fun st => stField st == f) fun s st => s.modStation st Station.restart
    let s := s.rebindField f
    if (s.field f).exhausted then (s.event 0 f).fieldLoss f 0xE 0 0 0
    else s.forAll ((List.range 8).filter fun p => (s.part p).offFields.contains f) fun s p =>
      s.modPart p fun x => { x with offFields := x.offFields.filter (· ≠ f) }
  else s

/-! ### Meanings -/

/-- Causes of R417 for the station errors of R180. -/
def errorCause : Nat → Nat
  | 1 => 7 | 2 => 7 | 3 => 4 | 4 => 2 | 5 => 3 | _ => 1

/-- R404: a gap or a mismatch of a stream at an endpoint is a core fault of its sending station; a stream without one rolls
back the step of the endpoint's field (DEDUCED, log entry 40). -/
def State.gapFault (s : State) (st p stream : Nat) : State :=
  match (s.part p).stream stream with
  | some e => if sdSrcKind e = 0 then s.coreFault (sdSrc e) 7 false (some (st, stream)) else s.fieldRollback (stField st)
  | none => s.fieldRollback (stField st)

/-- R180, R314, R396, R403, R404, R405: a station's error report, or a Keeper's report of the station's stream, reaches its
field controller. An uncorrectable error of the core SRAM is recorded with its report. An own-bank error is recovered by R275
(WORD_RECOVERY). A core that is being filled and fails is met by R405. -/
def execStationErrorReport (st : Nat) (report : ErrorReport) (s : State) : Host.Outcome State Fault Refusal :=
  .next (
    let code := report.code
    if (s.station st).fenced then
      if ((s.field (stField st)).fill.any fun l => l.station == st) = true
          ∧ (code = 4 ∨ (code = 3 ∨ code = 6) ∧ (s.station st).error = code) then
        s.fillFault st (errorCause code)
      else s
    else
      let s := if code = 4 then s.stationError st 4 else s
      let gap : Bool := code = 1 ∨ code = 2
      if gap && (s.station st).error ≠ code then
        match s.net.reports.find? fun r => r.1 == st with
        | some r => s.coreFault st 7 false (some (65536 + r.2.1, r.2.2))
        | none => s
      else if code = 5 then s.ownReadBad st report.bad
      else if (s.station st).error ≠ code ∨ code = 0 then s
      else if gap then
        match s.stPart st with
        | none => s
        | some p => s.gapFault st p (s.station st).errStream
      else s.coreFault st (errorCause code) (code == 3) none)

/-- R395: a core posts its heartbeat. -/
def execHeartbeatPost (st : Nat) (s : State) : Host.Outcome State Fault Refusal :=
  .next (if (s.station st).fenced then s else s.modStation st fun y => { y with lastBeat := s.clk.rootTime })

/-- R395: a leaf that is not masked has posted no heartbeat for 4,096 cycles of its half's clock, since it was bound and since the
field was reset. -/
def execHeartbeatMissing (st : Nat) (s : State) : Host.Outcome State Fault Refusal :=
  .next (
    let y := s.station st
    if y.fenced = false ∧ max y.lastBeat (sget 0 s.clk.fieldMark (stField st)) + 4096 * s.clk.divider (westHalf (stField st)) ≤ s.clk.rootTime then
      s.coreFault st 5 true none
    else s)

/-- R398: the next bytes of the shadow arrive at the core that is being filled, in a fill transfer of its bank. They are those
of the shadow area, which the state holds as a whole (DEDUCED, log entry 178). -/
def execFillTransfer (st offset : Nat) (data : List Byte) (s : State) : Host.Outcome State Fault Refusal :=
  .next (
    match (s.field (stField st)).fill with
    | some l =>
      if l.station = st ∧ l.bytes = offset then
        (s.emit (.fill st offset (fillHeader st (s.station st).copy offset data.length))).modField (stField st) fun x =>
          { x with fill := some { l with bytes := l.bytes + data.length } }
      else s
    | none => s)

def execRouterFaultReport (st : Nat) (s : State) : Host.Outcome State Fault Refusal := .next (s.routerFault st 6)

def execFieldReady (test : FieldTest) (s : State) : Host.Outcome State Fault Refusal := .next (s.fieldReady test)

/-- R407, R408: a field controller fails: a restart where the banks are intact, else a field loss. -/
def execFieldControllerFailure (f : Nat) (banksIntact : Bool) (s : State) : Host.Outcome State Fault Refusal :=
  .next (
    if (s.field f).state ≠ .inService then s
    else if banksIntact then
      (s.logFault f 0xC 4 0 0 0).fieldRestart f
    else s.fieldLoss f 0xC 0 0 0)

/-- R249, R250: the field controller writes a remap entry; the station's leaf moves with it. -/
def execRemapUpdate (st : Nat) (value : BitVec 32) (s : State) : Host.Outcome State Fault Refusal :=
  .next (s.rebind st (Remap.decode value.toNat))

/-- R416, R419: a read of the fault log returns the oldest record and removes it; an empty log reads zero. -/
def execFldFaultLogRead (f : Nat) (s : State) : Host.Outcome State Fault Refusal :=
  .next (match (s.field f).log with
    | [] => s.emit (.readData 0 false)
    | r :: rest => (s.emit (.readData r.encode false)).modField f fun x => { x with log := rest })

end Sys2Proof.Machine
end

