-- ==== Sys2Proof/Machine/Network.lean ====
section
/-! DEFINITION. The wafer networks as their nodes see them: merged bank reads (R231, R232, R274), sync nodes (R244 to
R246), links and tracks (R217 to R221), routing (R223 to R225, R230, R249 to R253) and combining nodes (R236 to R239). -/

namespace Sys2Proof.Machine

/-! ### Merged reads (R231, R232, R274) -/

/-- The reader group of a region with MERGE set. -/
def Part.readerGroup (x : Part) (owner region : Nat) : Option Nat := (x.mergeEntry owner region).map fun e => bits e 41 32

/-- R274: the requests stay held at the bank, and their stations' watchdogs are suspended. -/
def State.holdReads (s : State) (owner region tile : Nat) (members : List (Nat × Nat)) : State :=
  let s := s.modBank (s.stBank owner) fun b =>
    { b with heldReads := b.heldReads ++ members.map fun m => (m.1, m.2, 2 ^ 13 * region + tile) }
  s.forAll members fun s m => s.modStation m.1 fun y => { y with watchdogOff := true }

/-- A response of its own, or a merged one (R231); a hold where the tile cannot be read. -/
def State.respond (s : State) (p owner region d tile : Nat) (merged : Bool) (members : List (Nat × Nat))
    (data : Option (List Byte)) : State :=
  match data with
  | some bytes => s.emit (.bankResponse owner region tile members bytes
      ((s.part p).responseHeader owner region d tile merged (members.map (·.1)) bytes.length))
  | none => s.holdReads owner region tile members

def State.setWindows (s : State) (owner : Nat) (l : List MergeWin) : State :=
  { s with net := { s.net with windows := sset [] s.net.windows owner l } }

/-- R231, R232: a request for a tile reaches the owner's home router; `m` is the requester with its receive space. -/
def State.tileRequest (s : State) (owner : Nat) (m : Nat × Nat) (region tile : Nat) : State :=
  match s.stPart owner with
  | none => s
  | some p =>
    let x := s.part p
    match (x.regionsOf owner)[region]? with
    | none => s
    | some d =>
      if bits d 60 48 < tile then s
      else
        let ws := sget [] s.net.windows owner
        let joins := bit d 26 && match x.readerGroup owner region with
          | some g => (x.groupMembers g).contains m.1
          | none => false
        match ws.find? fun w => joins && w.region == region && w.tile == tile with
        | some w =>
          let again := w.members.any fun q => q.1 == m.1
          let w' : MergeWin := if again then { w with again := w.again ++ [m] } else { w with members := w.members ++ [m] }
          let s := s.setWindows owner (ws.map fun v => if v = w then w' else v)
          if again then s
          else s.modField (stField owner) fun f => { f with merged := satAdd 16 f.merged 1 }
        | none =>
          if joins && ws.length < 8 then s.setWindows owner (ws ++ [⟨region, tile, [m], [], s.readTile owner d tile⟩])
          else s.respond p owner region d tile false [m] (s.readTile owner d tile)

/-- R231, R241: a request for `count` tiles of a region from `tile` on; `bad` are words of the bank that the read finds
uncorrectable (R274). -/
def State.bankRequest (s : State) (owner requester region tile count space : Nat) (bad : List Nat) : State :=
  (s.readFinds owner bad).forAll (List.range count) fun s i => s.tileRequest owner (requester, space) region (tile + i)

/-- R231: the response leaves at W0 + 8; a member that asked again opens the next window. The requests of a tile that could not
be read are held, unless it has been rewritten meanwhile (R274). -/
def State.closeWindow (s : State) (owner region tile : Nat) : State :=
  let ws := sget [] s.net.windows owner
  match s.stPart owner, ws.find? fun w => w.region == region && w.tile == tile with
  | some p, some w =>
    let s := s.setWindows owner (ws.erase w)
    let d := (((s.part p).regionsOf owner)[region]?).getD 0
    let s := s.respond p owner region d tile true w.members (w.data <|> s.readTile owner d tile)
    s.forAll w.again fun s m => s.tileRequest owner m region tile
  | _, _ => s

/-! ### Pips at sync nodes (R243, R246, R250) -/

/-- R250: a fenced core's leaf is masked. -/
def State.masked (s : State) (node member : Nat) : Bool :=
  node < 1536 && member < 25 && sget 0 (s.field (node / 24)).fencedCores (25 * (node % 24) + member) ≠ 0

/-- R243, R246: an upward post reaches a node. One of the other parity counts for the next round; posts of a masked leaf
are ignored (R250). (DEDUCED, log entry 164) -/
def State.syncPost (s : State) (node member head value : Nat) : State :=
  let ch := bits head 3 0
  match s.nodePart node with
  | none => s
  | some p =>
    if bits head 7 5 ≠ 0 ∨ s.masked node member = true then s
    else if ch = 1 then s.nonfiniteLevel node member value
    else if ch = 2 ∨ ch = 3 ∨ (s.nodeMembers p node ch).contains member = false then s
    else
      let n := s.syncNode node ch
      if n.parity ≠ bit head 4 then
        s.modSync node ch fun n =>
          if n.early.any fun q => q.1 == member then n else { n with early := n.early ++ [(member, value)] }
      else if n.posted.any fun q => q.1 == member then s
      else (s.modSync node ch fun n => { n with posted := n.posted ++ [(member, value)] }).nodeReady p node ch

/-- R243, R246: a downward result of the node's round reaches it: one that has sent its post, or that has no member of
the channel below it. -/
def State.syncResult (s : State) (node head value : Nat) : State :=
  let ch := bits head 3 0
  match s.nodePart node with
  | none => s
  | some p =>
    if bits head 7 5 ≠ 1 ∨ ch = 1 ∨ ch = 2 then s
    else if ch = 3 then s.emit (.pip node (pipBytes ch (bit head 4) 1 value))
    else
      let n := s.syncNode node ch
      if n.parity = bit head 4 ∧ (n.sent || (s.nodeMembers p node ch).isEmpty) = true then
        (s.resultPasses p node ch value).nodeReady p node ch
      else s

/-! ### Links and tracks (R217 to R221) -/

/-- R217: working tracks of a link with SECDED: 512 data and 64 check tracks, or 72. A sync link checks parity only. -/
def trackOk (bulk : Bool) (track : Nat) : Bool := track < (if bulk then 576 else 72)

/-- R221: the router at the east or south end of a link, as a report of a dead router. -/
def State.unrepairable (s : State) (gx gy port : Nat) : State :=
  let (x, y) := match port with
    | 1 => (gx + 1, gy)
    | 2 => (gx, gy + 1)
    | _ => (gx, gy)
  s.emit (.report (stOf (routerField x y) (y % 24) (x % 25)) 0x20)

/-- R219, R221: an uncorrectable receipt: the flit is asked for again, or the link is unrepairable at the third. -/
def State.badFlit (s : State) (bulk : Bool) (gx gy port : Nat) : State :=
  let i := linkIdx bulk gx gy port
  if 2 ≤ (s.link i).retries then (s.modLink i fun l => { l with retries := 0 }).unrepairable gx gy port
  else (s.modLink i fun l => { l with retries := l.retries + 1 }).modField (routerField gx gy) fun f =>
    { f with retries := satAdd 16 f.retries 1 }

/-- R218: a corrected flit counts against its track; eight within 2^20 flits steer the track out, once in its group. -/
def State.correctTrack (s : State) (bulk : Bool) (gx gy port track : Nat) : State :=
  let i := linkIdx bulk gx gy port
  let now := (s.link i).flits
  if trackOk bulk track = false then s
  else
    let s := s.modField (routerField gx gy) fun f => { f with corrected := satAdd 16 f.corrected 1 }
    let s := s.modLink i fun l => { l with corrected := smod [] l.corrected track fun h => (now :: h).take 8 }
    let h := sget [] (s.link i).corrected track
    if h.length = 8 ∧ now < h.getLastD 0 + 2 ^ 20 then
      let s := s.modLink i fun l => { l with corrected := sset [] l.corrected track [] }
      if (s.link i).steered.any fun t => t / 32 == track / 32 then s.unrepairable gx gy port
      else (s.modLink i fun l => { l with paused := true, steered := l.steered ++ [track] }).modField
        (routerField gx gy) fun f => { f with steered := satAdd 5 f.steered 1 }
    else s

/-! ### Routing (R222 to R225, R230, R240 to R242, R249 to R253) -/

/-- What routing needs of a header, bulk or control. -/
structure Route where
  /-- Destination site. -/
  x : Nat
  y : Nat
  /-- It leaves at the tap there. -/
  tap : Bool
  /-- The destination station, if it is one. -/
  st : Option Nat
  yFirst : Bool
  escape : Bool
  deriving DecidableEq, Repr

def siteX (f pcol : Nat) : Nat := 25 * (f % 8) + pcol
def siteY (f prow : Nat) : Nat := 24 * (f / 8) + prow

/-- R222: reads a bulk header. -/
def bulkRoute (h : Nat) : Route :=
  let dst := bits h 23 8
  let gw := bit h 7
  ⟨siteX (stField dst) (if gw then 12 else stCol dst), siteY (stField dst) (if gw then bits h 180 176 else stRow dst), gw,
    if gw then none else some dst, bit h 6, bits h 5 4 == 2⟩

/-- R240: reads a control header. The gateway and the field controller are reached at the tap in the sender's prow. -/
def controlRoute (h : Nat) (escape : Bool) : Route :=
  let dst := bits h 23 8
  let station := bits h 25 24 == 0
  ⟨siteX (stField dst) (if station then stCol dst else 12),
    siteY (stField dst) (if station then stRow dst else stRow (bits h 41 26)), !station,
    if station then some dst else none, bit h 54, escape⟩

/-- R223: faults of a bulk header at a router; `length` payload flits have come, and `ended` says that no more follow. A
nonzero MASK beside GROUP 0 counts as a reserved bit (DESIGN CHOICE, log entry 184). -/
def bulkBad (h length : Nat) (ended : Bool) : Bool :=
  3 < bits h 3 0 || bits h 5 4 == 3 || bits h 255 181 ≠ 0 || (bits h 123 114 == 0 && bits h 511 256 ≠ 0)
    || (!bit h 7 && (23 < stRow (bits h 23 8) || 23 < stCol (bits h 23 8)))
    || (if ended then length ≠ bits h 113 104 + 1 else bits h 113 104 < length)

/-- R241, R242: faults of a control header. -/
def controlBad (h length : Nat) (ended : Bool) : Bool :=
  let ty := bits h 3 0
  8 < ty || bit h 4 ≠ (ty == 2 || ty == 3 || ty == 4) || bits h 25 24 == 3 || bits h 43 42 == 3 || bits h 63 61 ≠ 0
    || (bits h 25 24 == 0 && (23 < stRow (bits h 23 8) || 23 < stCol (bits h 23 8)))
    || (if ended then length ≠ bits h 7 5 else bits h 7 5 ≤ length)

/-- Port towards a coordinate: N 0, E 1, S 2, W 3. -/
def towardX (x dx : Nat) : Nat := if x < dx then 1 else 3
def towardY (y dy : Nat) : Nat := if y < dy then 2 else 0

def stepSite (x y port : Nat) : Nat × Nat :=
  match port with
  | 0 => (x, y - 1)
  | 1 => (x + 1, y)
  | 2 => (x, y + 1)
  | _ => (x - 1, y)

/-- R251: the router that a port leads to; the bypass lanes of a dead site lead on to the next. None over the edge. -/
def State.nextRouter (s : State) (x y port : Nat) : Option (Nat × Nat) :=
  match portSite x y port with
  | none => none
  | some q => if s.deadSite q.1 q.2 then portSite q.1 q.2 port else some q

/-- X first, then Y, to a site; none on arrival. -/
def xyPort (x y dx dy : Nat) : Option Nat :=
  if x ≠ dx then some (towardX x dx) else if y ≠ dy then some (towardY y dy) else none
def yxPort (x y dx dy : Nat) : Option Nat :=
  if y ≠ dy then some (towardY y dy) else if x ≠ dx then some (towardX x dx) else none

/-- R249, R252, R253: on the escape channel, whether a packet of a moved station that came in at `port` is on its remap
leg, and not on a turn path towards its home, as far as the place tells it: of a packet that no router of the model has sent.
From a dead home the legs start at its neighbours. (DEDUCED, log entry 73) -/
def onLeg (x y port hx hy : Nat) (homeDead : Bool) : Bool :=
  if homeDead then
    (port == 3 && hx < x && hy ≤ y + 1 && y ≤ hy + 1) || (port == 0 && hy ≤ y) || (port == 2 && y ≤ hy)
  else if y = hy then port == 3 && hx < x
  else if port = 0 then hy < y
  else if port = 2 then y < hy
  else false

/-- R249: the port of a remap leg to a site from a router. -/
def legPort (x y : Nat) (t : Nat × Nat) : Nat := (xyPort x y t.1 t.2).getD 4

/-- R249, R253, R396: where remap legs of a station go, by the entry in force: to the core that it is bound to; while its core is
fenced behind a dead home router, to the bank that takes its tiles (DEDUCED, log entry 73). -/
def State.legTo (s : State) (st : Nat) : Leg :=
  let m := s.remapOf st
  let b := s.bankBind st
  if m.moved then some (siteX (stField st) m.pcol, siteY (stField st) m.prow)
  else if m.homeDead then some (siteX (stField st) b.bpcol, siteY (stField st) b.bprow)
  else none

/-- R252: a packet on its way from (x, y) to (nx, ny), a dead site, would turn there. -/
def Route.turnsAt (r : Route) (x y nx ny : Nat) : Bool :=
  if r.yFirst then ny == r.y && nx ≠ r.x && y ≠ r.y else nx == r.x && ny ≠ r.y && x ≠ r.x

/-- Where a packet goes from a router: output port (4 local, 5 tap), whether it is on the escape channel, and its remap leg.
`leg` is the leg on which it came, none where no router of the model has sent it: a leg goes on to where it set out for (R249).
(DEDUCED, log entry 72) -/
def State.nextPort (s : State) (x y port : Nat) (leg : Option Leg) (r : Route) : Nat × Bool × Leg :=
  let go (t : Nat × Nat) : Nat × Bool × Leg := (legPort x y t, true, some t)
  let turn : Nat × Bool × Leg :=
    match (if r.yFirst then xyPort x y r.x r.y else yxPort x y r.x r.y) with
    | some q => (q, true, none)
    | none => (if r.tap then 5 else 4, true, none)
  let atHome (q : Nat) : Bool := stepSite x y q == (r.x, r.y) && s.deadSite r.x r.y
  let plain : Nat × Bool × Leg :=
    if r.escape then turn
    else match (if r.yFirst then yxPort x y r.x r.y else xyPort x y r.x r.y) with
      | none => (if r.tap then 5 else 4, false, none)
      | some q =>
        let n := stepSite x y q
        if s.deadSite n.1 n.2 && r.turnsAt x y n.1 n.2 then turn else (q, false, none)
  match leg.bind id, r.st.bind fun st => (s.legTo st).map fun t => (st, t) with
  | some t, _ => go t
  | none, none => plain
  | none, some (st, t) =>
    if (x = r.x ∧ y = r.y) ∨ atHome plain.1 then go t
    else if r.escape && leg.isNone && onLeg x y port r.x r.y (s.remapOf st).homeDead then go t
    else plain

/-- R223: the next hop lies in a field that is switched off or lost. -/
def State.hopOff (s : State) (x y q : Nat) : Bool :=
  if 4 ≤ q then false
  else match s.nextRouter x y q with
    | none => false
    | some n => (s.field (routerField n.1 n.2)).state == .offForHeat || (s.field (routerField n.1 n.2)).state == .lost

/-- R223, R249: a packet is discarded and counted. -/
def State.discard (s : State) (gx gy : Nat) : State :=
  s.modField (routerField gx gy) fun f => { f with routerErrors := satAdd 16 f.routerErrors 1 }

/-- R223: the packet is discarded, counted and its header reported. -/
def State.routerError (s : State) (gx gy h : Nat) : State :=
  (s.discard gx gy).emit (.report (0x50000 + routerField gx gy) h)

/-- A header with its VC (R224, R225). -/
def setVc (h vc : Nat) : Nat := h - bits h 5 4 * 16 + vc * 16

/-- Copies of a group packet at a router: output port and member mask (R230). -/
def groupCopies (entry m : Nat) : List (Nat × Nat) :=
  ([(0, bits entry 319 64), (1, bits entry 575 320), (2, bits entry 831 576), (3, bits entry 1087 832),
      (4, bits entry 1343 1088)].map fun c => (c.1, m &&& c.2)).filter fun c => c.2 ≠ 0

/-- R230: a copy for the router's own station: to its core, or on its remap leg if it has moved. -/
def State.localCopy (s : State) (gx gy h : Nat) : Copy :=
  let st := routerSite gx gy
  let h := h - bits h 23 8 * 2 ^ 8 + st * 2 ^ 8
  if (s.remapOf st).moved then
    let t := (s.legTo st).getD (gx, gy)
    ⟨legPort gx gy t, setVc h 2, true, some t⟩
  else ⟨4, h, false, none⟩

/-- The entry of a group at a router (R229). -/
def Part.groupEntry (x : Part) (g gx gy : Nat) : Option Nat :=
  (x.sec 0x09).find? fun e => bits e 9 0 == g && bits e 23 16 == gx && bits e 31 24 == gy

/-- R252: a group packet that would turn to port `t` at the dead neighbour at port `q` takes the turn path to the router beyond
it, which DST names, and goes on from there as a group packet (DEDUCED, log entry 210). -/
def turnCopy (gx gy q t h : Nat) : Copy :=
  let n := stepSite gx gy q
  let beyond := stepSite n.1 n.2 t
  ⟨t, setVc (h - bits h 23 8 * 2 ^ 8 + routerSite beyond.1 beyond.2 * 2 ^ 8) 2, true, none⟩

/-- R230, R252, R253: the copies of group packet `h` for port `q` with member mask `m`. Of those that lead to a dead neighbour the
one for its own station goes on a remap leg from here; one that would turn there takes its turn path. -/
def State.portCopies (s : State) (x : Part) (gx gy h q m : Nat) : List Copy :=
  let masked (m : Nat) : Nat := h - bits h 511 256 * 2 ^ 256 + m * 2 ^ 256
  let n := stepSite gx gy q
  if q = 4 then [s.localCopy gx gy (masked m)]
  else if s.deadSite n.1 n.2 = false then [⟨q, masked m, false, none⟩]
  else
    let entry := (x.groupEntry (bits h 123 114) n.1 n.2).getD 0
    let own := m &&& bits entry 1343 1088
    let st := routerSite n.1 n.2
    let g := masked own
    let t := (s.legTo st).getD (gx, gy)
    let proxy : List Copy := if own = 0 then []
      else [⟨legPort gx gy t, setVc (g - bits g 23 8 * 2 ^ 8 + st * 2 ^ 8) 2, true, some t⟩]
    let on : List Copy := match groupCopies entry (m - own) with
      | [(p, k)] => if p < 4 ∧ p % 2 ≠ q % 2 then [turnCopy gx gy q p (masked k)] else [⟨q, masked k, false, none⟩]
      | _ => if m = own then [] else [⟨q, masked (m - own), false, none⟩]
    proxy ++ on

/-- R254: a contribution for a node at a dead site goes to the router that took the node over. -/
def State.treeRoute (s : State) (x : Part) (h : Nat) (r : Route) : Route :=
  if bits h 3 0 = 2 ∧ bit h 7 = false ∧ s.deadSite r.x r.y = true then
    match x.plan.bind fun pl => pl.deadRecord (bits h 23 8) with
    | some d => { r with x := siteX (stField (bits d 31 16)) (stCol (bits d 31 16)), y := siteY (stField (bits d 31 16)) (stRow (bits d 31 16)) }
    | none => r
  else r

/-- The partition whose plan has what a packet needs at a router: that of its source or of its destination, of the router's
field, or another whose plan reaches there (R216, R230, R566). -/
def State.planFor (s : State) (gx gy h : Nat) (ok : Part → Bool) : Part :=
  let near := [stField (bits h 39 24), stField (bits h 23 8), routerField gx gy].filterMap s.fieldPart
  let all := near ++ (List.range 8).filter fun p => (s.part p).formed
  ((all.map s.part).find? ok).getD ((near.map s.part).headD {})

/-- A packet goes to the tap of a dead router, which nothing leads to (DESIGN CHOICE, log entry 210). -/
def State.lostTap (s : State) (r : Route) : Bool := r.tap && s.deadSite r.x r.y

/-- Copies that a packet sends from a router, with the header of each; none where the router must discard it. A group
packet on the escape channel is a copy on its remap leg, or on a turn path to the site that DST names (R252). -/
def State.outputs (s : State) (bulk : Bool) (gx gy port h : Nat) (escape : Bool) (length : Nat) (ended : Bool)
    (leg : Option Leg := none) : Option (List Copy) :=
  let group := bits h 123 114
  if !bulk then
    let r := controlRoute h escape
    let (q, esc, l) := s.nextPort gx gy port leg r
    if controlBad h length ended || s.lostTap r || s.hopOff gx gy q then none else some [⟨q, h, esc, l⟩]
  else if bulkBad h length ended then none
  else if group ≠ 0 ∧ (bits h 5 4 ≠ 2 ∨ (leg.bind id = none ∧ bits h 23 8 = routerSite gx gy)) then
    let x := s.planFor gx gy h fun x => (x.groupEntry group gx gy).isSome
    match x.groupEntry group gx gy with
    | none => none
    | some e =>
      let copies := (groupCopies e (bits h 511 256)).flatMap fun c => s.portCopies x gx gy (setVc h (b2n (bit h 6))) c.1 c.2
      if copies.any fun c => s.hopOff gx gy c.port then none else some copies
  else
    let dst := bits h 23 8
    let tree := bits h 129 124
    let node (x : Part) : Bool :=
      (x.sec 0x0C).any fun n => bits n 5 0 == tree && (bits n 23 8 == routerSite gx gy || bits n 47 32 == dst)
    let x := s.planFor gx gy h fun x => bits h 3 0 != 2 || node x
    let r := s.treeRoute x h (bulkRoute h)
    let r := if group ≠ 0 ∧ leg = some none then { r with st := none } else r
    let known := bits h 3 0 ≠ 2 || bit h 7 || !(gx == r.x && gy == r.y) || node x
    let (q, esc, l) := s.nextPort gx gy port leg r
    if !known || s.lostTap r || s.hopOff gx gy q then none
    else some [⟨q, setVc h (if esc then 2 else b2n (bit h 6)), esc, l⟩]

/-! ### Buffers, credits and arbitration (R226, R227, R230, R242) -/

/-- Flits of buffer of a channel at an input port. -/
def chanRoom (bulk : Bool) (ch : Nat) : Nat := if bulk then (if ch = 2 then 4 else 8) else if ch % 2 = 1 then 2 else 4

/-- R227: a header with the time that it has waited at the router added to its AGE, in units of 256 cycles. -/
def State.aged (s : State) (w : Head) (h : Nat) : Nat :=
  let lo := if w.bulk then 170 else 55
  let age := bits h (lo + 5) lo
  let waited := (s.clk.rootTime - w.since) / (256 * s.clk.divider (westHalf (routerField w.gx w.gy)))
  h - age * 2 ^ lo + min 63 (age + waited) * 2 ^ lo

/-- R230, R251: a group copy passes straight through a router: its entry there sends all of it on by the same port. -/
def Part.passesOn (x : Part) (n : Nat × Nat) (c : Copy) : Bool :=
  (x.groupEntry (bits c.header 123 114) n.1 n.2).any fun e =>
    groupCopies e (bits c.header 511 256) == [(c.port, bits c.header 511 256)]

/-- R254: a copy that needs a branch or a node of a dead neighbour is held until alternates are loaded. -/
def State.awaitsAlternate (s : State) (w : Head) (c : Copy) : Bool :=
  let n := stepSite w.gx w.gy c.port
  w.bulk && c.port < 4 && s.deadSite n.1 n.2 && (s.field (routerField n.1 n.2)).holding
    && ((bits c.header 123 114 ≠ 0 && bits c.header 5 4 ≠ 2
        && !(s.planFor w.gx w.gy w.header fun x => (x.groupEntry (bits c.header 123 114) w.gx w.gy).isSome).passesOn n c)
      || (bits c.header 3 0 == 2 && !bit c.header 7 && bits c.header 23 8 == routerSite n.1 n.2))

/-- Flits of a link's buffer for a channel that are free (R226). -/
def Link.room (l : Link) (bulk : Bool) (ch : Nat) : Nat :=
  chanRoom bulk ch - sget 0 l.buffered ch - ((sget [] l.onWay ch).map (·.1)).sum

/-- R218, R226: the next router's buffer for a copy's channel has room, and its link is not paused. -/
def State.roomFor (s : State) (w : Head) (c : Copy) : Bool :=
  if 4 ≤ c.port then true
  else match s.nextRouter w.gx w.gy c.port with
    | none => true
    | some n =>
      let l := s.link (linkIdx w.bulk n.1 n.2 ((c.port + 2) % 4))
      let ch := chanOf w.bulk c.header c.escape
      !l.paused && decide (0 < l.room w.bulk ch) && !s.awaitsAlternate w c

/-- A head is the first of its channel buffer, or lies in a reserved buffer; a branch sends only from there. -/
def State.mayGo (s : State) (i : Nat) (w : Head) : Bool :=
  if w.branch || w.stored then w.stored && w.whole
  else !((s.net.heads.take i).any fun v => !v.stored && v.input == w.input && v.chan == w.chan)

/-- The place of an output's turn, one for each class of the control network (R242). -/
def turnIdx (bulk : Bool) (h gx gy q : Nat) : Nat :=
  linkIdx bulk gx gy q + (if !bulk && bit h 4 then 2 ^ 24 else 0)

/-- R227, R242: the grant of an output, on the control network in one of its classes: index of the head, and the copy. The highest
AGE wins; equal ages rotate over the input ports. (DEDUCED, log entry 166) -/
def State.grantOf (s : State) (bulk rsp : Bool) (gx gy q : Nat) : Option (Nat × Copy) :=
  let last := sget 5 s.net.turn (turnIdx bulk (16 * b2n rsp) gx gy q)
  let rank (c : Nat × Head × Copy) : Nat :=
    let lo := if bulk then 170 else 55
    let h := s.aged c.2.1 c.2.2.header
    6 * (63 - bits h (lo + 5) lo) + (c.2.1.port + 5 - last) % 6
  let here := (s.net.heads.zipIdx).filterMap fun w =>
    if w.1.bulk = bulk ∧ (bulk || bit w.1.header 4 == rsp) = true ∧ w.1.gx = gx ∧ w.1.gy = gy ∧ s.mayGo w.2 w.1 = true then
      (w.1.outs.find? fun c => c.port == q && s.roomFor w.1 c).map fun c => (w.2, w.1, c)
    else none
  (here.foldl (fun (b : Option (Nat × Head × Copy)) c =>
    match b with
    | none => some c
    | some d => if rank c < rank d then some c else b) none).map fun c => (c.1, c.2.2)

/-- The flits of a head leave its channel buffer. -/
def State.freeBuffer (s : State) (w : Head) : State :=
  s.modLink w.input fun l => { l with buffered := smod 0 l.buffered w.chan fun n => n - w.flits }

/-- The router before an input port, which has the freed credits. -/
def State.upstream (s : State) (w : Head) : List (Bool × Nat × Nat) :=
  if w.port < 4 then (s.nextRouter w.gx w.gy w.port).toList.map fun n => (w.bulk, n.1, n.2) else []

/-- A head's copy is sent; a whole packet with no copy left leaves the router. Also the routers that have new credits. -/
def State.sendCopy (s : State) (i : Nat) (w : Head) (c : Copy) : State × List (Bool × Nat × Nat) :=
  let s := s.emit (.packet w.gx w.gy c.port w.bulk (s.aged w c.header) c.escape)
  let s := match (if c.port < 4 then s.nextRouter w.gx w.gy c.port else none) with
    | none => s
    | some n =>
      let ch := chanOf w.bulk c.header c.escape
      s.modLink (linkIdx w.bulk n.1 n.2 ((c.port + 2) % 4)) fun l =>
        { l with onWay := smod [] l.onWay ch fun k => k ++ [(min w.flits (l.room w.bulk ch), c.leg)] }
  let w' := { w with outs := w.outs.erase c, taken := w.taken ++ [c.port] }
  let s := { s with net := { s.net with turn := sset 5 s.net.turn (turnIdx w.bulk w.header w.gx w.gy c.port) w.port } }
  if w'.outs = [] ∧ w.whole then
    let s := { s with net := { s.net with heads := s.net.heads.eraseIdx i } }
    if w.stored then (s, [(w.bulk, w.gx, w.gy)]) else (s.freeBuffer w, s.upstream w)
  else ({ s with net := { s.net with heads := s.net.heads.set i w' } }, [])

/-- R230, R254: a whole packet that the router's reserved buffer of its group can take: at a branch, or one that waits for
alternates. -/
def State.storable (s : State) (bulk : Bool) (gx gy : Nat) : Option (Nat × Head) :=
  ((s.net.heads.zipIdx).find? fun q =>
    let w := q.1
    let used := (s.net.heads.filter fun v => v.stored && v.gx == gx && v.gy == gy && bits v.header 123 114 == bits w.header 123 114).length
    let x := s.planFor gx gy w.header fun x => (x.groupEntry (bits w.header 123 114) gx gy).isSome
    let size := ((x.sec 0x09).find? fun e => bits e 9 0 == bits w.header 123 114 && bits e 23 16 == gx && bits e 31 24 == gy).map fun e => bits e 39 32
    w.bulk == bulk && w.gx == gx && w.gy == gy && (w.branch || w.outs.any (s.awaitsAlternate w)) && w.whole && !w.stored && used < max 1 (size.getD 0)).map fun q => (q.2, q.1)

/-- Moves packets on from a list of routers, and from those that get credits back, as far as there is room. -/
def State.drain : Nat → List (Bool × Nat × Nat) → State → State
  | 0, _, s => s
  | _ + 1, [], s => s
  | n + 1, r :: rs, s =>
    match s.storable r.1 r.2.1 r.2.2 with
    | some (i, w) =>
      let s := { s with net := { s.net with heads := s.net.heads.set i { w with stored := true } } }
      State.drain n (r :: rs ++ s.upstream w) (s.freeBuffer w)
    | none =>
      match (List.range 12).findSome? fun q => s.grantOf r.1 (q % 2 == 1) r.2.1 r.2.2 (q / 2) with
      | none => State.drain n rs s
      | some (i, c) =>
        match s.net.heads[i]? with
        | none => s
        | some w =>
          let (s, more) := s.sendCopy i w c
          State.drain n (r :: rs ++ more) s

/-- Enough rounds for every copy and every packet in the routers. -/
def State.flow (s : State) (rs : List (Bool × Nat × Nat)) : State :=
  State.drain (3 * s.net.heads.foldl (fun n w => n + w.outs.length + 1) 0 + rs.length + 1) rs s

/-! ### Packets at a router (R218 to R220, R223, R230, R249) -/

/-- R249: the core of a router's site is fenced, so its local port is isolated. -/
def State.portIsolated (s : State) (gx gy : Nat) : Bool :=
  sget 0 (s.field (routerField gx gy)).fencedCores (25 * (gy % 24) + gx % 25) ≠ 0

/-- R231, R241, R248, R396: what the home router of the station that DST names itself takes while the core is fenced: tiles for
the replay ring, bank read requests and remap updates. (DEDUCED, log entry 167) -/
def takenAtHome (bulk : Bool) (gx gy h : Nat) : Bool :=
  bits h 23 8 == routerSite gx gy && (if bulk then bits h 3 0 == 0 else bits h 3 0 == 5 || bits h 3 0 == 6)

/-- R231, R249, R398: what the bank of a site sends through its local port: responses and fill transfers. -/
def fromBank (bulk : Bool) (h : Nat) : Bool := bulk && (bits h 3 0 == 1 || bits h 3 0 == 3)

/-- R216, R566: a packet from a gateway is a tile of a stream from a mule or the host, and enters at the tap, of the
gateway's field, that its stream's route entry names. -/
def State.entersHere (s : State) (gx gy h : Nat) : Bool :=
  let names (x : Part) : Bool :=
    match (x.sec 0x06).find? fun e => bits e 15 0 == bits h 55 40 with
    | some e =>
      let near := if bits e 55 52 = 1 then (x.groupMembers (bits e 65 56)).headD 0 else bits e 71 56
      let route := x.route (bits e 15 0)
      bits e 35 32 ≠ 0 && gy % 24 == gatewayTap route near
        && routerField gx gy == gatewayField (if bits e 35 32 = 2 then bits e 51 36 else fieldRow (stField near)) route near
    | none => false
  gx % 25 == 12 && bits h 3 0 == 0 && names (s.planFor gx gy h names)

/-- R226: what a packet that arrives over a link has taken of the buffer, and its remap leg; none of one that no router of the
model has sent. -/
def State.bookedAt (s : State) (bulk : Bool) (gx gy port : Nat) (a : Arrival) : Option (Nat × Leg) :=
  if 4 ≤ port then none else (sget [] (s.link (linkIdx bulk gx gy port)).onWay (chanOf bulk a.header a.escape)).head?

/-- The packet has arrived: it is no longer on its way. -/
def State.arriveAt (s : State) (bulk : Bool) (gx gy port : Nat) (a : Arrival) : State :=
  if (s.bookedAt bulk gx gy port a).isNone then s
  else s.modLink (linkIdx bulk gx gy port) fun l => { l with onWay := smod [] l.onWay (chanOf bulk a.header a.escape) (·.drop 1) }

/-- R226: the credits of a packet that is discarded as it comes are free again. -/
def State.freeWay (s : State) (bulk : Bool) (gx gy port : Nat) : State :=
  if 4 ≤ port then s else s.flow ((s.nextRouter gx gy port).toList.map fun n => (bulk, n.1, n.2))

/-- A packet's head enters the router; its flits, as many as it has taken of the buffer, lie there. -/
def State.intake (s : State) (bulk : Bool) (gx gy port h : Nat) (a : Arrival) (outs : List Copy)
    (booked : Option (Nat × Leg) := none) : State :=
  let h := if bulk && 4 ≤ port then setVc h (b2n (bit h 6)) else h
  let ch := chanOf bulk h a.escape
  let flits := (booked.map (·.1)).getD (min (1 + a.length) ((s.link (linkIdx bulk gx gy port)).room bulk ch))
  let w : Head :=
    { bulk := bulk, gx := gx, gy := gy, port := port, header := h, escape := a.escape, flits := flits, outs := outs,
      whole := a.ended, came := a.length, since := s.clk.rootTime
      branch := bulk && 2 ≤ outs.length && !(port == 4 && bits h 3 0 == 1) }
  let s := s.modLink (linkIdx bulk gx gy port) fun l =>
    { l with buffered := smod 0 l.buffered ch fun n => n + flits }
  { s with net := { s.net with heads := s.net.heads ++ [w] } }.flow [(bulk, gx, gy)]

/-- A packet whose payload is not complete at an input. -/
def State.partialAt (s : State) (bulk : Bool) (gx gy port : Nat) (ok : Nat → Bool) : Option (Nat × Head) :=
  ((s.net.heads.zipIdx).find? fun q =>
    q.1.bulk == bulk && q.1.gx == gx && q.1.gy == gy && q.1.port == port && !q.1.whole && ok q.1.header).map fun q => (q.2, q.1)

/-- R220: a partial packet is dropped: its buffer and credits are freed, and a truncation flit goes out on every output
that it had taken. -/
def State.dropPartial (s : State) (i : Nat) (w : Head) : State :=
  let s := { s with net := { s.net with heads := s.net.heads.eraseIdx i } }
  let s := s.forAll w.taken fun s q => s.emit (.truncation w.gx w.gy q)
  (s.freeBuffer w).flow ((w.bulk, w.gx, w.gy) :: s.upstream w)

/-- The rest of a partial packet has come. -/
def State.finishPacket (s : State) (i : Nat) (w : Head) (length : Nat) : State :=
  if (if w.bulk then bulkBad w.header length true else controlBad w.header length true) then
    (s.dropPartial i w).routerError w.gx w.gy w.header
  else if w.outs = [] then
    let s := { s with net := { s.net with heads := s.net.heads.eraseIdx i } }
    (s.freeBuffer w).flow (s.upstream w)
  else { s with net := { s.net with heads := s.net.heads.set i { w with whole := true } } }.flow [(w.bulk, w.gx, w.gy)]

/-- A header and its payload, so far as it has come, reach a router's input. -/
def State.receive (s : State) (bulk : Bool) (gx gy port : Nat) (a : Arrival) : State :=
  let i := linkIdx bulk gx gy port
  if port < 4 && a.bad then s.badFlit bulk gx gy port
  else if port = 4 ∧ s.portIsolated gx gy = true ∧ fromBank bulk a.header = false then s.discard gx gy
  else if port = 5 ∧ (bulk && !s.entersHere gx gy a.header || gx % 25 ≠ 12) = true then s
  else
    let part := s.partialAt bulk gx gy port (· == (if bulk && 4 ≤ port then setVc a.header (b2n (bit a.header 6)) else a.header))
    let s := if port < 4 then
        let new := match part with
          | some (_, w) => a.length - w.came
          | none => a.length + 1
        let s := s.modLink i fun l => { l with flits := l.flits + new, retries := 0 }
        s.forAll a.tracks fun s t => s.correctTrack bulk gx gy port t
      else s
    match part with
    | some (j, w) =>
      if a.ended then s.finishPacket j w a.length
      else { s with net := { s.net with heads := s.net.heads.set j { w with came := max w.came a.length } } }
    | none =>
      let booked := s.bookedAt bulk gx gy port a
      let s := s.arriveAt bulk gx gy port a
      match s.outputs bulk gx gy port a.header a.escape a.length a.ended (booked.map (·.2)) with
      | none => (s.routerError gx gy a.header).freeWay bulk gx gy port
      | some outs =>
        let lost := outs.filter fun c => c.port == 4 && s.portIsolated gx gy && !takenAtHome bulk gx gy c.header
        let s := s.forAll lost fun s _ => s.discard gx gy
        let outs := outs.filter fun c => !lost.contains c
        if outs = [] then s.freeWay bulk gx gy port else s.intake bulk gx gy port a.header a outs booked

/-- A packet reaches a router's input port (N 0, E 1, S 2, W 3, local 4, tap 5). A dead router takes none (R251); a paused
link holds its traffic (R218). -/
def State.routerPacket (s : State) (bulk : Bool) (gx gy port : Nat) (a : Arrival) : State :=
  let i := linkIdx bulk gx gy port
  if 200 ≤ gx ∨ 192 ≤ gy ∨ 5 < port ∨ s.deadSite gx gy = true then s
  else if port < 4 ∧ (s.link i).paused = true then s.modLink i fun l => { l with arrived := l.arrived ++ [a] }
  else s.receive bulk gx gy port a

/-- R218: after 64 cycles both ends have moved the track, and the link resumes. -/
def State.resumeLink (s : State) (bulk : Bool) (gx gy port : Nat) : State :=
  let i := linkIdx bulk gx gy port
  let held := (s.link i).arrived
  let s := s.modLink i fun l => { l with paused := false, arrived := [] }
  let s := s.forAll held fun s a => s.routerPacket bulk gx gy port a
  if 4 ≤ port then s else s.flow ((s.nextRouter gx gy port).toList.map fun n => (bulk, n.1, n.2))

/-- R220: a truncation flit ends the packet that the link carries. -/
def State.truncate (s : State) (gx gy port : Nat) : State :=
  match s.partialAt true gx gy port (fun _ => true) with
  | none => s
  | some (i, w) => s.dropPartial i w

/-- R254: the alternates of the partitions' plans for routers that are already dead. -/
def State.takeAlternates (s : State) : State :=
  let hit := (List.range 64).filter fun f => (s.field f).dead ≠ []
  let s := s.forAll hit fun s f => s.modField f fun x => { x with holding := false }
  let parts := (List.range 8).filter fun p => (s.part p).formed
  s.forAll hit fun s f => s.forAll ((s.field f).dead) fun s d => s.forAll parts fun s p => s.useAlternates p (stOf f d.1 d.2)

/-- R254: alternates are loaded: packets held for a dead neighbour take their new ways. -/
def State.releaseHeld (s : State) : State :=
  let waits (c : Copy) (w : Head) : Bool :=
    let n := stepSite w.gx w.gy c.port
    c.port < 4 && s.deadSite n.1 n.2
  let again (w : Head) : Head :=
    if w.bulk ∧ w.taken = [] ∧ (w.outs.any fun c => waits c w) = true then
      { w with outs := (s.outputs true w.gx w.gy w.port w.header w.escape (bits w.header 113 104 + 1) true).getD w.outs }
    else w
  let s := { s with net := { s.net with heads := s.net.heads.map again } }
  s.flow ((s.net.heads.map fun w => (w.bulk, w.gx, w.gy)).eraseDups)

/-! ### Combining nodes (R236 to R239) -/

/-- R238: one EXACT output tile of `e` elements. (DEDUCED, log entry 70) -/
def combineExact (e : Nat) (draw : Nat → Nat) (imgs : List (List Byte)) : List Byte :=
  let elem (img : List Byte) (i : Nat) : Nat := leNat ((img.drop (26 * i)).take 26)
  let nib (img : List Byte) (i : Nat) : Nat :=
    let b := ((img.drop (26 * e + i / 2)).headD 0).toNat
    if i % 2 = 0 then b % 16 else b / 16
  let recs := imgs.map fun img => TileRec.decode (leNat ((img.drop (26 * e + ceilDiv e 2)).take 8))
  let gang := recs.any (·.gang)
  let one (i : Nat) : Acc × Bool :=
    let ins := imgs.map fun img =>
      if gang then (Acc.ofPair (elem img (2 * i)) (elem img (2 * i + 1)) (nib img (2 * i)) (nib img (2 * i + 1))).1
      else (Acc.ofImage (elem img i) (nib img i)).1
    let a0 := match ins.find? fun a => a.anchor ≠ 0 with
      | some a => a.anchor - 32 * a.lifts
      | none => 0
    combineL192 gang a0 (draw (if gang then 2 * i else i)) ins
  let outs := (List.range (if gang then e / 2 else e)).map one
  let elems := outs.flatMap fun o =>
    if gang then leBytes 26 (o.1.image true false) ++ leBytes 26 (o.1.image true true) else leBytes 26 (o.1.image false false)
  let nibs := outs.flatMap fun o => if gang then [o.1.status, 0] else [o.1.status]
  let r : TileRec :=
    { folds := min (2 ^ 32 - 1) (recs.foldl (fun n r => n + r.folds) 0 + (outs.filter (·.2)).length)
      liftsTotal := min 65535 (outs.foldl (fun n o => n + o.1.lifts) 0)
      inexact := recs.any (·.inexact), loss := recs.any (·.loss), special := recs.any (·.special), gang := gang
      explicit := true }
  let body := elems ++ leBytes (ceilDiv e 2) (pack 4 nibs) ++ leBytes 8 r.encode
  body ++ List.replicate (granular body.length - body.length) 0

/-- R237: one FP32 output tile. -/
def combineTile (d : Desc) (e : Nat) (draw : Nat → Nat) (imgs : List (List Byte)) : List Byte :=
  let xs := imgs.map fun img => decodeImage d e img e
  let out := (List.range e).map fun i =>
    (combineFp32 (d.mode (draw i)) (xs.map fun l => l.getD i .zero)).bits
  leBytes (granular (4 * e)) (pack 32 out)

def State.modNode (s : State) (i : Nat) (f : TreeNode → TreeNode) : State :=
  { s with net := { s.net with nodes := smod {} s.net.nodes i f } }

/-- The entry of a tree's node (R233), the tree's stream, and the place of the node's state. -/
def Part.nodeEntry (x : Part) (tree site : Nat) : Option Nat :=
  (x.sec 0x0C).find? fun n => bits n 5 0 == tree && bits n 23 8 == site
def Part.treeStream (x : Part) (tree : Nat) : Option Nat := (x.sec 0x06).find? fun e => sdDstKind e == 3 && sdTree e == tree
def nodeIdx (p tree site : Nat) : Nat := 2 ^ 24 * p + 2 ^ 16 * tree + site

/-- R235: tiles that the parent of a node, or the tree's destination, has reserved for it. -/
def Part.parentRoom (x : Part) (e n : Nat) : Nat :=
  if bit n 28 then sdCredits e else ((x.nodeEntry (bits n 5 0) (bits n 47 32)).map fun q => bits q 199 192).getD 0

/-- R237, R238: the tile that a node makes of one tile of each input. -/
def Part.combined (x : Part) (e n micro off : Nat) (heads : List (List Byte)) : List Byte :=
  let draw (j : Nat) : Nat := (x.convKey (bits n 63 48) 2 (bits e 15 0)).draw (elemIndex micro (off + j))
  let d := Desc.decode (sdFmt e)
  if d.fmt = .l192 then combineExact (sdElems e) draw heads else combineTile d (sdElems e) draw heads

/-- R235: the place of a contribution at an input of a node is free again: the child node there has one place more; a station
has the credit in a CREDIT_RETURN. -/
def State.freePlace (s : State) (p n input : Nat) : State :=
  let nodes := (s.part p).treeNodes (bits n 5 0)
  let v := (nodeInputs n).getD input 0
  if isChild nodes n v ∧ (nodeInputs n).idxOf v = input then
    s.modNode (nodeIdx p (bits n 5 0) v) fun t => { t with used := t.used - 1 }
  else s.emit (.nodeCredit p (bits n 5 0) (bits n 23 8) input)

/-- R235, R236: nodes of a tree, by their sites, combine the tiles of their next SEQ where every input has one and the parent has a
place; their child nodes may then send on. -/
def State.combine (p tree e : Nat) : Nat → List Nat → State → State
  | 0, _, s => s
  | _ + 1, [], s => s
  | k + 1, site :: rest, s =>
    let x := s.part p
    match x.nodeEntry tree site with
    | none => State.combine p tree e k rest s
    | some n =>
      let i := nodeIdx p tree site
      let t := sget {} s.net.nodes i
      let inputs := List.range (bits n 26 24 + 1)
      let heads := inputs.filterMap fun j => (sget [] t.inputs j).head?
      if t.halted || heads.length < inputs.length || x.parentRoom e n ≤ t.used then State.combine p tree e k rest s
      else
        let key := t.keys.headD (0, 0)
        let out := x.combined e n key.1 key.2 heads
        let s := s.modNode i fun t =>
          { t with
            expect := (t.expect + 1) % 2 ^ 48, keys := t.keys.drop 1, used := t.used + 1
            inputs := inputs.foldl (fun m j => sset [] m j ((sget [] m j).drop 1)) t.inputs }
        let s := s.emit (.contribution p tree site t.expect out (x.nodeHeader e n t.expect out.length))
        let s := s.forAll inputs fun s j => s.freePlace p n j
        let children := ((nodeInputs n).filter fun v => isChild (x.treeNodes tree) n v).eraseDups
        State.combine p tree e k (site :: children ++ rest) s

/-- Enough rounds for all that waits in a tree's nodes. -/
def State.combineFrom (s : State) (p tree e site : Nat) : State :=
  let waits := (s.net.nodes.filter fun q => q.1 / 2 ^ 16 == 256 * p + tree).foldl
    (fun n q => n + q.2.inputs.foldl (fun n l => n + l.2.length) 0) 0
  State.combine p tree e (10 * waits + 2) [site] s

/-- R235, R236: a contribution of SEQ `seq` enters a node at an input. The micro-step and offset are those that R75 gives the
tile's first element. One that finds no place has no credit, and does not enter. -/
def State.contribute (s : State) (p tree site input seq micro off : Nat) (data : List Byte) : State :=
  let x := s.part p
  let i := nodeIdx p tree site
  match x.nodeEntry tree site, x.treeStream tree with
  | some n, some e =>
    let t := sget {} s.net.nodes i
    let waiting := sget [] t.inputs input
    if t.halted || bits n 26 24 < input || data.length ≠ (streamSpace e).bytes then s
    else if seqAhead 48 (t.expect + waiting.length) seq ≠ 0 then
      ((s.modNode i fun t => { t with halted := true }).modField (stField site) fun f => { f with treeHalt := true }).emit
        (.report site 0x21)
    else if bits n 199 192 ≤ waiting.length then s
    else
      let s := s.modNode i fun t =>
        { t with
          inputs := sset [] t.inputs input (waiting ++ [data])
          keys := if t.keys.length ≤ waiting.length then t.keys ++ [(micro, off)] else t.keys }
      s.combineFrom p tree e site
  | _, _ => s

/-- R156, R235: credits return to the sender of a stream: to a station, or, from the destination of a tree, to its root node,
which combines on. -/
def State.creditsBack (s : State) (st stream dest n : Nat) : State :=
  let root := (s.stPart st).bind fun p => ((s.part p).stream stream).bind fun e =>
    if sdDstKind e = 3 ∧ dest ≠ 0x20000 then
      (((s.part p).treeNodes (sdTree e)).find? fun q => bit q 28).map fun q => (p, e, bits q 23 8)
    else none
  match root with
  | none => s.creditReturn st stream dest n
  | some (p, e, site) =>
    (s.modNode (nodeIdx p (sdTree e) site) fun t => { t with used := t.used - n }).combineFrom p (sdTree e) e site

def execCreditReturn (st stream dest n : Nat) (s : State) : Host.Outcome State Fault Refusal :=
  .next (s.creditsBack st stream dest n)

/-! ### Meanings -/

def execBankReadRequest (owner requester region : Nat) (tiles : TileRange) (s : State) : Host.Outcome State Fault Refusal :=
  .next (s.bankRequest owner requester region tiles.tile tiles.count tiles.space tiles.bad)

def execMergeWindowClose (owner region tile : Nat) (s : State) : Host.Outcome State Fault Refusal :=
  .next (s.closeWindow owner region tile)

def execSyncPost (node member : Nat) (head value : Byte) (s : State) : Host.Outcome State Fault Refusal :=
  .next (s.syncPost node member head.toNat value.toNat)

def execSyncResult (node : Nat) (head value : Byte) (s : State) : Host.Outcome State Fault Refusal :=
  .next (s.syncResult node head.toNat value.toNat)

def execRouterPacket (bulk : Bool) (gx gy port : Nat) (header : BitVec 512) (escape : Bool) (flits : Flits)
    (bad : Bool) (s : State) : Host.Outcome State Fault Refusal :=
  .next (s.routerPacket bulk gx gy port
    ⟨if bulk then header.toNat else header.toNat % 2 ^ 64, flits.length, flits.tracks, bad, escape, flits.ended⟩)

def execLinkSteerResume (bulk : Bool) (gx gy port : Nat) (s : State) : Host.Outcome State Fault Refusal :=
  .next (s.resumeLink bulk gx gy port)

/-- R219: a check flit of an idle link; a missing or uncorrectable one is an uncorrectable error of the link. -/
def execCheckFlit (bulk : Bool) (gx gy port : Nat) (ok : Bool) (s : State) : Host.Outcome State Fault Refusal :=
  .next (
    if ok then s.modLink (linkIdx bulk gx gy port) fun l => { l with flits := l.flits + 1, retries := 0 }
    else s.badFlit bulk gx gy port)

def execTruncationFlit (gx gy port : Nat) (s : State) : Host.Outcome State Fault Refusal := .next (s.truncate gx gy port)

def execReductionContribution (p tree site input seq micro offset : Nat) (data : List Byte) (s : State) :
    Host.Outcome State Fault Refusal :=
  .next (s.contribute p tree site input seq micro offset data)

end Sys2Proof.Machine
end

