-- ==== Sys2Proof/Machine/Store.lean ====
section
/-! DEFINITION. The store wafer: refresh and its bands (R267 to R270), correction, patrol scrub and row retirement (R271 to
R273), uncorrectable words (R274 to R276), migration and bank controllers (R277, R278). -/

namespace Sys2Proof.Machine

/-! ### Sites -/

/-- A store site (R263): one over every core site, spares included. -/
def siteOk (f prow pcol : Nat) : Bool := f < 64 && prow < 24 && pcol < 25

/-- The station whose store addresses a site's bank holds (R265). -/
def State.siteStation (s : State) (f prow pcol : Nat) : Option Nat :=
  (fieldStations f).find? fun st => (s.bankBind st).bprow == prow && (s.bankBind st).bpcol == pcol

/-! ### Refresh (R267 to R269) -/

/-- R267: the store band of a reading. -/
def storeBand (t : Nat) : Nat := if t ≤ 55 then 0 else if t ≤ 70 then 1 else if t ≤ 85 then 2 else 3

/-- The lower threshold of a band. -/
def bandFloor : Nat → Nat
  | 0 => 0 | 1 => 55 | 2 => 70 | _ => 85

/-- R268: the band falls to that of the reading once it has been 2 K below the lower threshold for 1 ms.
(DEDUCED, log entry 84) -/
def State.bandFall (s : State) (f : Nat) : State :=
  let x := s.field f
  if 0 < x.band ∧ x.storeTemp + 2 ≤ bandFloor x.band then
    s.modField f fun x => { x with band := x.band - 1, nextBand := min x.nextBand (x.band - 1) }
  else s

/-! ### Row retirement (R273) -/

/-- Sub-bank and row of a word of a bank (R265). -/
def wordSub (w : Nat) : Nat := bits w 9 6
def wordRow (w : Nat) : Nat := bits w 20 10

/-- Spare rows left in a sub-bank. -/
def Bank.spareRows (b : Bank) (sub : Nat) : Nat := 16 - (b.retired.filter fun r => r.1 == sub).length

/-- R273: a row is retired to a spare row of its sub-bank; with none left that is a bank fault, and its station goes to
a spare core. -/
def State.retireRow (s : State) (f prow pcol sub row : Nat) : State :=
  let i := bankIdx f prow pcol
  if 0 < (s.bank i).spareRows sub then
    let s := s.modBank i fun b =>
      { b with retired := b.retired ++ [(sub, row)], corrections := sset [] b.corrections (16 * row + sub) [] }
    (s.modField f fun x => { x with rowsRetired := satAdd 16 x.rowsRetired 1 }).modWear f fun w =>
      { w with retired := satAdd 32 w.retired 1 }
  else match s.siteStation f prow pcol with
    | some st => s.coreFault st 8 false none
    | none => s

/-- R271, R273: one read or scrub pass corrects words of a row: counted, and the row is retired at the third such event
within 2^24 store cycles. Corrections of one instant are of one read (DEDUCED, log entry 163). -/
def State.correctRow (s : State) (f prow pcol sub row words : Nat) : State :=
  let i := bankIdx f prow pcol
  let now := s.clk.rootTime
  let s := s.modField f fun x => { x with storeCorrected := satAdd 16 x.storeCorrected words }
  let s := s.modWear f fun w => { w with corrected := satAdd 64 w.corrected words }
  let times := (insertOnce now (sget [] (s.bank i).corrections (16 * row + sub))).filter fun t => now ≤ t + 2 ^ 24 * 8
  let s := s.modBank i fun b => { b with corrections := sset [] b.corrections (16 * row + sub) times }
  if 3 ≤ times.length then s.retireRow f prow pcol sub row else s

/-- R271: a corrected word is written back: one that scrub found, or one that a read has just delivered corrected. -/
def State.correctWriteback (s : State) (f prow pcol word : Nat) : State :=
  let i := bankIdx f prow pcol
  if (s.bank i).writeBack.contains word then s.modBank i fun b => { b with writeBack := b.writeBack.filter (· ≠ word) }
  else s.correctRow f prow pcol (wordSub word) (wordRow word) 1

/-! ### Patrol scrub (R272) -/

/-- R272: a fill transfer reads a bank, or the copy of a migration reads or writes it. -/
def State.bankBusy (s : State) (f prow pcol : Nat) : Bool :=
  let x := s.field f
  let home := s.siteStation f prow pcol
  (x.fill.any fun l => home == some l.station)
    || (fieldStations f).any fun st =>
      (s.bankBind st).migrating && !(s.bankBind st).copied
        && (home == some st || ((s.remapOf st).prow == prow && (s.remapOf st).pcol == pcol))

/-- Blocks of a bank, spare rows included. -/
def scrubBlocks : Nat := 16 * 2064

/-- The row of a bank that a row of a sub-bank's cells holds, spare rows (from 2,048) included: none in a retired row and in
a spare row that is not in use. -/
def Bank.heldRow (b : Bank) (sub cells : Nat) : Option Nat :=
  if cells < 2048 then (if b.retired.contains (sub, cells) then none else some cells)
  else
    let used := (b.retired.filter fun r => r.1 == sub).map (·.2)
    (used[cells - 2048]?).filter fun r => !(used.drop (cells - 2047)).contains r

/-- R272, R276, R279: the next block is read. Words are named by their address in the bank. A poisoned word is no new find.
(DEDUCED, log entry 85) -/
def State.scrubBlock (s : State) (f prow pcol : Nat) (fixed bad : List Nat) : State :=
  let i := bankIdx f prow pcol
  if (s.field f).scrubEn = false ∨ s.bankBusy f prow pcol = true then s
  else
    let pos := (s.bank i).scrubPos
    let sub := pos % 16
    let held := (s.bank i).heldRow sub (pos / 16)
    let row := held.getD 0
    let here (w : Nat) : Bool := held.isSome && w < 2 ^ 21 && wordSub w == sub && wordRow w == row
    let fixed := fixed.eraseDups.filter here
    let found := bad.eraseDups.filter fun w => here w && !(s.bank i).poison.contains w
    let s := if fixed = [] then s
      else (s.modBank i fun b => { b with writeBack := fixed.foldl (fun l w => insertOnce w l) b.writeBack }).correctRow
        f prow pcol sub row fixed.length
    let s := s.forAll found fun s w => s.foundBad f prow pcol w
    let last : Bool := scrubBlocks ≤ pos + 1
    let s := s.modBank i fun b =>
      { b with scrubPos := if last then 0 else pos + 1, passes := if last then b.passes + 1 else b.passes }
    let all := (List.range 600).all fun j => (s.field f).passesDone < (s.bank (600 * f + j)).passes
    if last && all then
      s.modField f fun x => { x with passesDone := x.passesDone + 1, scrubPasses := satAdd 16 x.scrubPasses 1 }
    else s

/-! ### Recovery of an uncorrectable word (R274 to R276) -/

/-- The station's region that holds an offset of its bank. -/
def Part.regionAt (x : Part) (st off : Nat) : Option Nat :=
  (x.regionsOf st).find? fun d =>
    bits d 47 32 == st && bits d 23 0 ≤ off && off < bits d 23 0 + regionTileBytes d * (bits d 60 48 + 1)

/-- The offset lies in the shadow area that COPY names (R185). -/
def Station.inShadow (y : Station) (off : Nat) : Bool :=
  y.lastShadow.isSome && (if y.copy then 0xF00000 ≤ off else 0xE00000 ≤ off && off < 0xF00000)

/-- R276: some operation of a training script of the station writes the region. -/
def Part.stepWrites (x : Part) (st d : Nat) : Bool :=
  bits d 25 24 ≠ 0 || [Script.micro, Script.tail].any fun sc =>
    ((x.script st sc).mapIdx fun i o => (i, o)).any fun o => (x.opWrites st sc o.1 o.2).any fun a =>
      match a.ref with
      | .bank r _ _ => (x.regionOf st r).any fun e => bits e 23 0 == bits d 23 0 && bits e 47 32 == st
      | _ => false

/-- The word is rewritten as zero with valid check bits; the write sets its granule's epoch bit (R266). -/
def State.zeroWord (s : State) (f prow pcol word : Nat) : State :=
  let i := bankIdx f prow pcol
  { s with store := writeBytes s.store (2 ^ 24 * i + 8 * word) (List.replicate 8 0) }.modBank i fun b =>
    { b with bad := b.bad.filter (· ≠ word), epoch := insertOnce (word / 32) b.epoch }

/-- R275: the word is poisoned; a step before its fence is rolled back, and a word that no step rewrites is reported. -/
def State.poisonWord (s : State) (f prow pcol word : Nat) (rewritten : Bool) : State :=
  let s := s.modBank (bankIdx f prow pcol) fun b =>
    { b with bad := b.bad.filter (· ≠ word), poison := insertOnce word b.poison }
  let s := if rewritten then s else s.modField f fun x => { x with unrecoverable := true }
  s.fieldRollback f

/-- R274, R276: a poisoned word has been read: it has stopped its station, or requests for it are held. -/
def State.poisonRead (s : State) (f prow pcol : Nat) : Bool :=
  (s.bank (bankIdx f prow pcol)).heldReads ≠ [] || (s.siteStation f prow pcol).any fun st => (s.station st).error == 5

/-- R275: a region granule with its epoch bit set: the station is restored from its last shadow and its replay rewrites the word,
which stays uncorrectable until then. -/
def State.replayWord (s : State) (st i word : Nat) : State :=
  (s.modBank i fun b => { b with replaying := insertOnce word b.replaying }).ownFill st 3

/-- R275: the recovery of a word of a station's bank that no replay rewrites, by where it lies. -/
def State.mendWord (s : State) (p st f prow pcol word : Nat) : State :=
  let x := s.part p
  let y := s.station st
  match x.regionAt st (8 * word) with
  | some d =>
    if bits d 25 24 = 2 then
      let filling := y.fenced || y.error ≠ 0
      let s := (s.zeroWord f prow pcol word).modStation st Station.startInterim
      if filling then s.fieldRollback f else s
    else s.poisonWord f prow pcol word (x.stepWrites st d)
  | none => if y.inShadow (8 * word) then s.poisonWord f prow pcol word true else s.zeroWord f prow pcol word

/-- R273, R274: a word has been recovered: requests held for it are served, and its row is retired. -/
def State.wordRecovered (s : State) (f prow pcol word : Nat) : State :=
  let s := match s.siteStation f prow pcol with
    | some st => s.serveHeld st
    | none => s
  s.retireRow f prow pcol (wordSub word) (wordRow word)

/-- R274 to R276: the field controller recovers an uncorrectable word according to where it lies; its row is retired once it has
been (R273). A poisoned word that has been read rolls the step back again. (DEDUCED, log entry 82) (DEDUCED, log entry 83) -/
def State.recoverWord (s : State) (f prow pcol word : Nat) : State :=
  let i := bankIdx f prow pcol
  if (s.bank i).poison.contains word then (if s.poisonRead f prow pcol then s.fieldRollback f else s)
  else if !(s.bank i).bad.contains word || (s.bank i).replaying.contains word then s
  else match s.siteStation f prow pcol, s.fieldPart f with
    | some st, some p =>
      let region : Bool := ((s.part p).regionAt st (8 * word)).any fun d => bits d 25 24 != 2
      if region && (s.bank i).epoch.contains (word / 32) then (s.replayWord st i word).serveHeld st
      else (s.mendWord p st f prow pcol word).wordRecovered f prow pcol word
    | _, _ => (s.zeroWord f prow pcol word).wordRecovered f prow pcol word

/-- R273: the rows of words that a replay, or another write, has recovered are retired. -/
def State.retireRecovered (s : State) (st : Nat) : State :=
  let b := s.bankBind st
  let i := s.stBank st
  let words := (s.bank i).toRetire
  if words = [] then s
  else
    let s := s.modBank i fun b => { b with toRetire := [] }
    let rows := (words.map fun w => (wordSub w, wordRow w)).eraseDups
    s.forAll rows fun s r => s.retireRow (stField st) b.bprow b.bpcol r.1 r.2

/-! ### Migration and bank controllers (R277, R278) -/

/-- Station `i` of a field, as FLD_BANK_i numbers them (R279). -/
def fieldStation (f i : Nat) : Nat := stOf f (i / 24) (i % 24)

/-- R277: the copy of a migration is complete; `bad` are words that its reads find uncorrectable, and they are recovered
before they are copied. -/
def State.copyDone (s : State) (st : Nat) (bad : List Nat) : State :=
  let s := if (s.bankBind st).migrating && !(s.bankBind st).copied then s.readFinds st bad else s
  if (s.bankBind st).migrating && (s.bank (s.stBank st)).bad.isEmpty then s.modBankBind st fun b => { b with copied := true }
  else s

/-- R278: a bank is lost with its controller: the station is bound to a spare with a newly initialised bank, and the
running step is rolled back. The site is good no more (R413). -/
def State.bankFault (s : State) (st : Nat) : State :=
  let f := stField st
  let r := s.remapOf st
  let i := s.stBank st
  if (s.field f).state ≠ .inService then s
  else
    let before := (s.field f).freeSpares
    let s := (s.initBank i).modBank i fun b => { b with lost := true }
    let s := s.modField f fun x => { x with badSites := insertOnce (i % 600) x.badSites }
    s.withSpare st r.prow r.pcol fun s j =>
      ((s.logFault f 9 2 st r.prow r.pcol).bindNewBank st j r.homeDead).spareTaken f before

/-! ### Meanings (DESIGN CHOICE, log entry 13) -/
def execStoreBandFall (f : Nat) (s : State) : Host.Outcome State Fault Refusal := .next (s.bandFall f)

def execStoreCorrectWriteback (f prow pcol word : Nat) (s : State) : Host.Outcome State Fault Refusal :=
  .next (if siteOk f prow pcol then s.correctWriteback f prow pcol word else s)

def execScrubBlock (f prow pcol : Nat) (fixed bad : List Nat) (s : State) : Host.Outcome State Fault Refusal :=
  .next (if siteOk f prow pcol then s.scrubBlock f prow pcol fixed bad else s)

/-- R272: a block 1 ms behind its turn is scrubbed at shadow priority, with the same effect. -/
def execScrubOverdue (f prow pcol : Nat) (fixed bad : List Nat) (s : State) : Host.Outcome State Fault Refusal :=
  .next (if siteOk f prow pcol then s.scrubBlock f prow pcol fixed bad else s)

def execWordRecovery (f prow pcol word : Nat) (s : State) : Host.Outcome State Fault Refusal :=
  .next (if siteOk f prow pcol then s.recoverWord f prow pcol word else s)

def execMigrationCopyDone (f : Nat) (copy : CopyEnd) (s : State) : Host.Outcome State Fault Refusal :=
  .next (s.copyDone (fieldStation f copy.station) copy.bad)

def execBankControllerFault (f i : Nat) (s : State) : Host.Outcome State Fault Refusal :=
  .next (s.bankFault (fieldStation f i))

end Sys2Proof.Machine
end

