-- ==== Sys2Proof/Machine/Fence.lean ====
section
/-! DEFINITION. The step fence (R31, R32, R258, R304, R409, R426), spare rotation (R533), and fields that wait for an
eval pass to be switched off (R497). -/

namespace Sys2Proof.Machine

/-! ### Spare rotation (R533) -/

/-- R530: *quiet*: a partition commits, waits for its flip or recovers. -/
def State.quiet (s : State) : Bool :=
  (List.range 8).any fun p =>
    let x := s.part p
    x.phase == .commit || x.phase == .flipWait || x.phase == .recovery

/-- Background work marked quiet-paused stops (R530). -/
def State.paused (s : State) : Bool := s.life.autoQuiet && s.quiet

/-- R533: a station moves between its home core and the row spare by a fill from its step-fence shadow. -/
def State.rotate (s : State) (st prow pcol : Nat) : State :=
  let f := stField st
  let l : Fill := { station := st, prow := prow, pcol := pcol, cause := 0, start := s.clk.rootTime }
  let s := (s.modStation st fun y => { y with fenced := true }).modWear f fun w => { w with rotations := satAdd 32 w.rotations 1 }
  s.modField f fun x => if x.fill.isNone then { x with fill := some l } else { x with queued := x.queued ++ [l] }

/-- R253, R413, R533: a station's home core is intact: neither fenced nor behind a dead router or a bad store site. -/
def Field.homeIntact (x : Field) (st : Nat) : Bool :=
  sget 0 x.fencedCores (25 * stRow st + stCol st) == 0 && !x.dead.contains (stRow st, stCol st)
    && !x.badSites.contains (25 * stRow st + stCol st)

/-- R533: with fewer than 4 free spares, rotated stations return to their home cores. -/
def State.returnRested (s : State) (f : Nat) : State :=
  let back := (s.field f).rested.filter (s.field f).homeIntact
  let s := s.modField f fun x => { x with rested := [] }
  s.forAll back fun s st => if (s.remapOf st).moved then s.rotate st (stRow st) (stCol st) else s

/-- R533: the station that rotation moves: on its home core, which has 2,000 h more active time than the free spare of
its row (the lowest address; DEDUCED, log entry 41). -/
def State.rotatee (s : State) (f : Nat) : Option Nat :=
  let at' (row col : Nat) : Nat := sget 0 s.life.active (bankIdx f row col)
  (fieldStations f).find? fun st =>
    let r := s.remapOf st
    !r.moved && !r.fenced && !r.homeDead && (s.field f).freeSpare (stRow st)
      && at' (stRow st) 24 + 2000 * 3600 ≤ at' (stRow st) (stCol st)

def State.rotateField (s : State) (f : Nat) : State :=
  let x := s.field f
  if s.life.rotateEn = false ∨ s.paused = true ∨ x.fill.isSome = true ∨ x.state ≠ .inService then s
  else if x.freeSpares < 4 then s.returnRested f
  else if x.freeSpares < 8 ∨ 4 ≤ x.rested.length ∨ (x.lastMove.any fun t => decide ((s.wear f).powered < t + 3600)) = true then s
  else match s.rotatee f with
    | none => s
    | some st =>
      (s.rotate st (stRow st) 24).modField f fun x =>
        { x with rested := x.rested ++ [st], lastMove := some (s.wear f).powered }

/-! ### The step fence -/

/-- R245: channel 1's level at the root of a partition's sync tree is up. -/
def State.rootLevel (s : State) (p : Nat) : Bool := s.net.nonfinite.any fun k => k / 32 == (s.part p).syncRoot

/-- Field rows that hold stations of the plan: the Keepers there wait for the result of channel 0. -/
def Part.fenceWaits (x : Part) : List Nat := (x.planStations.map fun st => fieldRow (stField st)).eraseDups

/-- R31, R32, R245, R258, R304, R426, R533: every station has posted its step-fence pip, every deferred operation has
drained, and the result of channel 0 has reached the Keepers: the wafer's NONFINITE is sampled, schedule records go to the buddies, switched-off fields leave, the route set
is chosen, scheduled fetches and rotations start. -/
def State.stepFence (s : State) (p : Nat) : State :=
  let x := s.part p
  if x.phase ≠ .drain ∨ (x.planStations.all fun st => (s.station st).fencePosted) = false
      ∨ (x.fenceWaits.all fun r => x.fenceRows.contains r) = false then s
  else
    let bad := s.waferLevel p || s.rootLevel p
    let s := s.sendSched p
    let s := s.modPart p fun x => { x with phase := .reduce, waferNonfinite := bad, microDone := x.micro, fenceRows := [] }
    let s := (s.offAtFence p).chooseRoutes p
    let s := s.forAll ((s.part p).fields) fun s f => s.rotateField f
    let s := s.scheduledFetch p
    let s := s.forAll ((s.part p).keepers) fun s k => if (s.part p).bucketsOf k = [] then s.sendAmax k p else s
    (s.checkReduced p).gate p

/-! ### Meanings -/

def execStepFence (p : Nat) (s : State) : Host.Outcome State Fault Refusal := .next (s.stepFence p)

/-- R177, R273, R497: an operation retires; rows of words that it has rewritten are retired; with the last of an eval pass,
waiting fields are switched off. -/
def execOpRetire (st id : Nat) (s : State) : Host.Outcome State Fault Refusal :=
  .next (match s.stPart st with
    | none => s
    | some p => (((s.retire st id).endHalt st).retireRecovered st).settle p)

end Sys2Proof.Machine
end

