-- ==== Sys2Proof/Machine/PlanSpan.lean ====
section
/-! DEFINITION. What plan load derives from the scripts of a plan under each of its sets: the sets in force (R189, R258),
loaded pairs (R196), the accumulator tiles that feed a stream (R89), operation times (R170) and replay spans (R402). -/

namespace Sys2Proof.Machine

/-- A partition under one of its plan's SET codes (R258). -/
def Part.under (x : Part) (set : Nat) : Part :=
  if set = 0 then { x with routeSet := 0, offField := none }
  else if set = 1 then { x with routeSet := 1, offField := none }
  else { x with routeSet := 2, offField := some (set - 0x40) }

/-- The SET codes that a plan holds, the normal set among them. -/
def Plan.sets (p : Plan) : List Nat := (0 :: p.sections.map (·.set)).eraseDups

/-- A partition under every set of its plan. -/
def Part.everySet (x : Part) : List Part :=
  match x.plan with
  | none => [x]
  | some p => p.sets.map x.under

/-- The field that the set in force avoids; 64, which is no field, for another set. -/
def Part.avoids (x : Part) : Nat := if x.routeSet = 2 then x.offField.getD 64 else 64

/-- Operations of a station with their script and index. -/
def Part.allOps (x : Part) (st : Nat) : List (Script × Nat × Nat) :=
  [Script.micro, Script.tail, Script.eval].flatMap fun sc => (x.script st sc).mapIdx fun i o => (sc, i, o)

/-! ### Loaded pairs (R195, R196) -/

/-- Loaded pairs that a station's scripts name, under every set of the plan. -/
def Part.pairsOf (x : Part) (st : Nat) : List Nat :=
  (x.everySet.flatMap fun y => y.allOps st).foldl (fun l q =>
    if opCode q.2.2 = 0x08 ∧ 8 ≤ bits q.2.2 13 8 then insertOnce (bits q.2.2 13 8) l else l) []

/-! ### What feeds a stream (R89) -/

/-- Two references name one slot, stream, region or accumulator tile. -/
def Ref.sameObject : Ref → Ref → Bool
  | .slot m, .slot n => m == n
  | .stream m, .stream n => m == n
  | .acc m, .acc n => m == n
  | .bank r _ _, .bank q _ _ => r == q
  | _, _ => false

/-- A reference of a station, at the station whose bank holds the region that it names (R150, R151). -/
def Part.atOwner (x : Part) (q : Nat × Ref) : Nat × Ref :=
  match q.2 with
  | .bank r t tr =>
    match x.regionOf q.1 r with
    | some d => if bits d 47 32 = q.1 then q else (bits d 47 32, .bank (x.ownerRegion d) t tr)
    | none => q
  | _ => q

/-- Sources of the movers and TACCs that write what a station's reference names; a stream is written at any station, a region
by its owner. -/
def Part.feeders (x : Part) (goal : Nat × Ref) : List (Nat × Ref) :=
  let goal := x.atOwner goal
  let sites := match goal.2 with
    | .stream _ => x.planStations
    | _ => [goal.1]
  sites.flatMap fun st => (x.allOps st).filterMap fun q =>
    let c := opCode q.2.2
    if (c = 0x09 ∨ (3 ≤ c ∧ c ≤ 6)) ∧ (opDst q.2.2).sameObject goal.2 = true then some (x.atOwner (st, opSrc1 q.2.2)) else none

/-- Everything that reaches some references through movers and TACCs, in at most `n` rounds. -/
def Part.feedClosure (x : Part) : Nat → List (Nat × Ref) → List (Nat × Ref)
  | 0, l => l
  | n + 1, l => x.feedClosure n ((l ++ l.flatMap x.feeders).eraseDups)

/-- The anchor fields of the TMULs on an accumulator tile; those of its lambs for a flock. -/
def Part.tileAnchors (x : Part) (st acc : Nat) : List Nat :=
  (x.allOps st).flatMap fun q =>
    if opCode q.2.2 = 1 ∧ tmAcc q.2.2 = acc then
      if tmFlock q.2.2 then (lambs (x.flock (tmM q.2.2 - 1))).map fun i => ltAnchor (lambTile (x.flock (tmM q.2.2 - 1)) i)
      else [tmAnchor q.2.2]
    else []

/-- R89: the anchors of the TMULs that feed a stream: those on the accumulator tiles whose L192 images reach it by TACC
and movers. (DEDUCED, log entry 161) -/
def Part.anchorsOf (x : Part) (id : Nat) : List Nat :=
  (x.feedClosure (x.sec 0x02).length [(0, .stream id)]).flatMap fun g =>
    match g.2 with
    | .acc t => x.tileAnchors g.1 t
    | _ => []

/-! ### Replay spans (R402) -/

/-- R121: the time of a TMUL that is not a flock; `resident` is the tile whose block the array holds. -/
def Part.tmulTime (x : Part) (st op : Nat) (resident : Option Nat) : Nat :=
  let gang := x.tmulGang st op
  let fold := chooseFold gang (tmM op) (tmN op) (tmFold op)
  let nb := numBlocks gang (tmM op) (tmN op) fold
  let cont := tmCont op || opStepAcc op
  if tmK op = 0 then (if tmCont op then 1 else nb)
  else
    let rate := rho (x.descOf st (tmA op)).fmt (x.descOf st (tmB op)).fmt
    let p := if cont then 107 else 1
    let a := if tmAnchor op = 0 && !cont then 4 else 0
    let w0 := if resident = none ∨ resident = some (tmAcc op) then 0 else 107
    nb * (p + a + ceilDiv (tmK op) rate + foldSkew fold) + (nb - 1) * 107 + w0
      - (if resident = some (tmAcc op) ∧ nb = 1 then p else 0)

/-- R127: the time of a flock TMUL whose lambs all start at once. -/
def Part.flockTime (x : Part) (st op : Nat) (resident : Option Nat) : Nat :=
  let fl := x.flock (tmM op - 1)
  let cont := tmCont op || opStepAcc op
  let spanOf (i : Nat) : Nat :=
    let t := lambTile fl i
    let rate := rho (x.descOf st (.stream (ltA t))).fmt (x.descOf st (.stream (ltB t))).fmt
    let shape := lambShape (bits (lambByte fl i) 6 4)
    if ltK t = 0 then 0
    else (if ltAnchor t = 0 && !cont then 4 else 0) + ceilDiv (ltK t) rate + shape.1 + shape.2
  (if cont then 107 else 1) + (if resident = none ∨ resident = some (tmAcc op) then 0 else 107)
    + (lambs fl).foldl (fun m i => max m (spanOf i)) 0

/-- R170: the time of an operation from issue to retirement without contention; a tile of a stream or a remote bank counts as
one of the own bank, whose first read alone takes 6 cycles more, an Await as one cycle. (DEDUCED, log entry 162) -/
def Part.opTime (x : Part) (st : Nat) (sc : Script) (idx op : Nat) (resident : Option Nat) : Nat :=
  let elems := let s := x.opShape st op; s.1 * s.2
  match opCode op with
  | 0x01 => if tmFlock op then x.flockTime st op resident else x.tmulTime st op resident
  | 0x02 =>
    let here := resident = some (teAcc op)
    match x.layoutOp st sc idx (teAcc op) with
    | none => 0
    | some t =>
      if teFlock op then 16 + (if here then 0 else 107)
      else
        let gang := x.tmulGang st t
        let nb := numBlocks gang (tmM t) (tmN t) (chooseFold gang (tmM t) (tmN t) (tmFold t))
        16 * nb + 107 * (if here then nb - 1 else nb)
  | 0x09 =>
    match opAcc op with
    | some t => 107 * x.accNb st t + (if resident = some t then 16 else 0)
    | none => 0
  | 0x07 => ceilDiv elems 64 + 8
  | 0x08 => ceilDiv elems 32 + 12
  | 0x0A => (if bit op 8 && bit op 9 then 2 else 1) * (ceilDiv elems 64 + 8)
  | 0x0C => 1
  | _ =>
    match x.space st (opSrc1 op) with
    | some sp =>
      let own := match opSrc1 op with
        | .bank r _ _ => (x.regionOf st r).any fun d => bits d 47 32 == st
        | _ => false
      opCount op * ceilDiv sp.bytes 256 + (if own then 6 else 0)
    | none => 0

/-- The largest sum of the times of operations with DEFER clear between TFENCEs in a sequence of operations. -/
def Part.spanOf (x : Part) (st : Nat) (ops : List (Script × Nat × Nat)) : Nat :=
  let r := ops.foldl (fun (a : Nat × Nat × Option Nat) q =>
    let op := q.2.2
    if opCode op = 0x0B then (max a.1 a.2.1, 0, a.2.2)
    else
      (a.1, a.2.1 + (if opDefer op then 0 else x.opTime st q.1 q.2.1 op a.2.2),
        if opCode op = 1 then some (tmAcc op) else a.2.2)) (0, 0, none)
  max r.1 r.2.1

/-- R402: the replay span of a station: of MICRO run twice and TAIL, and of EVAL run twice. (DEDUCED, log entry 162) -/
def Part.replaySpan (x : Part) (st : Nat) : Nat :=
  let ops := fun (sc : Script) => (x.script st sc).mapIdx fun i o => (sc, i, o)
  max (x.spanOf st (ops .micro ++ ops .micro ++ ops .tail)) (x.spanOf st (ops .eval ++ ops .eval))

/-- The largest replay span of a plan's stations, in units of 64 cycles rounded up, under every set. -/
def Part.largestSpan (x : Part) : Nat :=
  x.everySet.foldl (fun n y => y.planStations.foldl (fun n st => max n (ceilDiv (y.replaySpan st) 64)) n) 0

end Sys2Proof.Machine
end

