-- ==== Sys2Proof/Machine/Recovery.lean ====
section
/-! DEFINITION. Modules that fail: watching contexts (R432, R433), module fences and self-fence (R434, R435), spares and
takeover (R429 to R445), the messages of the husk between buddy, owner and spare (R427, R428, R441, R442, R446), and
replays for diagnosis (R447 to R449). -/

namespace Sys2Proof.Machine

def State.modRecov (s : State) (f : Recovery → Recovery) : State := { s with recov := f s.recov }

/-- Generation of the fence held for a logical ID; 0 is none. -/
def State.gen (s : State) (f : Nat) : Nat := sget 0 s.recov.gens f

/-- Contexts that are not closed, by index. -/
def State.liveCtxs (s : State) : List (Nat × Ctx) := s.mlv.ctxs.filter fun c => c.2.state ≠ .closed

/-! ### Unrecoverable pages (R443) -/

/-- R443, R465: pages are unrecoverable: every STEP_BEGIN completes with class 6 until a plan is loaded again. -/
def State.setUnrecoverable (s : State) : State :=
  let ps := (List.range 8).filter fun p => (s.part p).formed && (s.part p).plan.isSome
  let s := s.modRecov fun r => { r with unrecoverable := true }
  let s := s.forAll ps fun s p => s.modPart p fun x => { x with unrecoverable := true }
  s.event 5 (2 + (ps.getD 0 0) * 2 ^ 8)

/-! ### Fences (R433 to R435) -/

/-- A PEER_CMD: the 64 bytes of a command packet (R389, R461). -/
def State.peerSend (s : State) (i opcode params : Nat) : State :=
  s.send i 1 0x22 (leBytes 64 (opcode + params * 2 ^ 64)) true []

/-- R434: contexts on which a notice about `f` is forwarded: WATCH contexts other than the one it came on; the bypass
contexts only where a tree edge leads to `f`. -/
def State.noticeCtxs (s : State) (f : Nat) (came : Option Nat) : List Nat :=
  let edge := s.liveCtxs.any fun c => c.2.role == 0 && c.2.partner == f
  (s.liveCtxs.filter fun c =>
    c.2.watch && c.2.state == .opened && c.2.partner ≠ f && some c.1 ≠ came && (c.2.role ≠ 1 || edge)).map (·.1)

/-- R435: the module stops: ports DISABLED, every partition in RECOVERY, and it waits to be admitted again. A held STEP_BEGIN loses its hold
with 0x3001 (DESIGN CHOICE, log entry 205). -/
def State.selfFence (s : State) : State :=
  if s.recov.selfFenced then s
  else
    let s := s.modRecov fun r => { r with selfFenced := true, awaitRejoin := true }
    let s := s.forAll ((List.range 64).filter s.portPresent) fun s p =>
      s.modPort p fun x => { x.cleared with state := .disabled, phase := 0 }
    s.forAll ((List.range 8).filter fun p => (s.part p).formed) fun s p =>
      (s.releaseHold p).modPart p fun x => { x with phase := .recovery }

/-- R435: every WATCH context is LOST or FENCED. -/
def State.isolated (s : State) : Bool :=
  let ws := s.liveCtxs.filter (·.2.watch)
  ws ≠ [] && ws.all fun c => c.2.state == .lost || c.2.state == .fenced

/-- R326, R442, R443: what the fence of `f` means for the pages whose buddy it was: their comparisons end, they lack a
husk copy from now on, and those whose pull had not ended are unrecoverable. (DEDUCED, log entry 90) -/
def State.buddyFenced (s : State) (f : Nat) : State :=
  let ks := (List.range 8).filter fun k =>
    s.liveCtxs.any fun c => c.2.role == 3 && c.2.kpr == k && c.2.partner == f
  s.forAll (List.range 8) fun s p =>
    s.forAll (((s.part p).keepers).filter ks.contains) fun s k =>
      let owned := (s.part p).ownedBy s.selfId k
      let lost := owned.any fun g => (s.opage k p g).awaitingHusk || (s.opage k p g).missing ≠ []
      let s := if lost then s.setUnrecoverable else s
      let s := s.modKpart k p fun y => { y with remirrorLeft := owned, lackHidden := false }
      s.forAll (owned.filter fun g => (s.opage k p g).cstate == .stamped) fun s g => s.pageClean k p g

/-- R443: an owner fails while this module, its new buddy, still lacks copies of its pages. -/
def State.ownerFenced (s : State) (f : Nat) : State :=
  let bad := (List.range 8).any fun p => (s.part p).keepers.any fun k =>
    (s.kpart k p).lacking.any fun g => ((s.part p).range g).any fun e => prOwner e == f
  if bad then s.setUnrecoverable else s

/-! ### Takeover: the beginning (R437) -/

/-- Standby plans that a member runs: those whose herd list names it (DEDUCED, log entry 42). -/
def SpareCfg.plansOf (c : SpareCfg) (f : Nat) : List (Nat × Plan) :=
  (c.plans.mapIdx fun j pl => (j, pl)).filter fun q => (({ plan := some q.2 } : Part).rankOf f).isSome

/-- The highest version that a staged copy holds of the pages that are not frozen; 0 where it holds none. -/
def Part.stageTop (x : Part) (st : Sparse StagedPage) : Nat :=
  let moving := x.stagePages.filter fun g => !(x.range g).any prFrozen
  st.foldl (fun m e => if moving.contains e.1 then max m e.2.version else m) 0

/-- The staged copy that snooping keeps for a standby plan. -/
def SpareCfg.stage (c : SpareCfg) (j : Nat) : Sparse StagedPage :=
  (c.staged.filter fun e => e.1 / 2 ^ 28 == j).map fun e => (e.1 % 2 ^ 28, e.2)

/-- R437: the lowest-ranked member that is not fenced, by an OPEN standby context. -/
def State.admitCtx (s : State) (c : SpareCfg) (f : Nat) : Option Nat :=
  let rank (id : Nat) : Nat :=
    (c.plans.findSome? fun pl => ({ plan := some pl } : Part).rankOf id).getD 4096
  let cands := (s.liveCtxs.filter fun x => x.2.state == .opened && x.2.partner ≠ f && c.members.contains x.2.partner)
  (cands.foldl (fun (b : Option (Nat × Ctx)) x => match b with
    | none => some x
    | some y => if rank x.2.partner < rank y.2.partner then some x else some y) none).map (·.1)

/-- R186, R190, R212: the stations of a partition as its plan installs them: everything at reset, the loaded pairs that
their scripts name copied from the module table store. -/
def State.installStations (s : State) (p : Nat) : State :=
  let x := s.part p
  let s := { s with stations := s.stations.filter fun q => !(x.fields.contains (stField q.1)) }
  s.forAll ((x.everySet.flatMap Part.planStations).eraseDups) fun s st =>
    s.modStation st fun y =>
      { y with tables := (x.pairsOf st).foldl (fun m n => sset [] m n (sget [] s.hbm.tables n)) [] }

/-- The highest version that a spare has snooped. -/
def State.snoopedVersion (s : State) : Nat :=
  match s.recov.spare with
  | some c => (c.plans.mapIdx fun j pl => (({ plan := some pl } : Part).stageTop (c.stage j))).foldl max 0
  | none => 0

/-- R437: an armed spare whose group holds `f` takes it over. The running step is that of the version that it has snooped (R439 K2);
it knows of no other spare's configuration (R431; DESIGN CHOICE, log entry 217). -/
def State.startTakeover (s : State) (f g : Nat) : State :=
  match s.recov.spare with
  | none => s
  | some c =>
    if s.recov.role ≠ .armed ∨ c.members.contains f = false then s
    else
      let s := s.modRecov fun r => { r with role := .taking, taking := some (f, g), pull := 0, scheds := [] }
      let s := s.forAll (c.plansOf f) fun s q =>
        s.setPart q.2.partition
          { formed := true, rows := BitVec.ofNat 8 (bits q.2.header 55 48), plan := some q.2, phase := .recovery
            staged := c.stage q.1, step := ({ plan := some q.2 } : Part).stageTop (c.stage q.1) }
      let s := (s.forAll ((c.plansOf f).map fun q => q.2.partition) State.installStations).takeAlternates
      let s := s.forAll ((c.plansOf f).map fun q => q.2.partition) fun s p => s.changeLease p 1
      match s.admitCtx c f with
      | some i => (s.peerSend i 0x51 (f + g * 2 ^ 12 + c.standbyId * 2 ^ 28)).modRecov fun r => { r with admitOn := some i }
      | none => s

/-- R535: the body of the lifetime record of a module fence or admission: ID, generation, standby ID, 16 bits each. -/
def fenceBody (f g standby : Nat) : List Byte := leBytes 2 f ++ leBytes 2 g ++ leBytes 2 standby

/-- R443: whether a fence that follows another module's leaves pages without an owner and without a husk copy is seen by the modules that
it touches; at another member of the herd, which nothing tells, it is a free value (DESIGN CHOICE, log entry 216). -/
def State.secondFailure (s : State) (f : Nat) : State :=
  if s.recov.role ≠ .member ∨ s.recov.unrecoverable = true ∨ f = s.selfId ∨ s.recov.gens.all (fun e => e.1 == f) = true then s
  else
    let (v, s) := s.draw
    if v.getLsbD 0 then s.setUnrecoverable else s

/-- R434, R435, R437: a fence of `f` at generation `g`, above the one held, is applied and forwarded. -/
def State.moduleFence (s : State) (f g : Nat) (came : Option Nat) : State :=
  let s := s.modRecov fun r =>
    { r with gens := sset 0 r.gens f g, lastId := BitVec.ofNat 12 f, lastGen := g }
  let s := s.lifeRecord 0x11 0 (fenceBody f g 0)
  let out := s.noticeCtxs f came
  let s := ((s.ownerFenced f).buddyFenced f).secondFailure f
  let s := s.forAll (s.liveCtxs.filter fun c => c.2.partner == f) fun s c => s.dropCtx c.1 .fenced
  let s := s.forAll out fun s i => s.peerSend i 0x50 (f + g * 2 ^ 12)
  let s := s.event 4 (f + g * 2 ^ 12)
  let s := if f = s.selfId ∨ s.isolated = true then s.selfFence else s
  s.startTakeover f g

/-- R433: the module begins a fence of `f`. -/
def State.detectFence (s : State) (f : Nat) : State :=
  if s.recov.selfFenced then s else s.moduleFence f (s.gen f + 1) none

/-- R433: the module's own fatal fault: it names itself before it stops. -/
def State.fatalFault (s : State) : State := if s.idAssigned then s.detectFence s.selfId else s

/-- R42, R433: the control processor has failed: the module fences itself, and the reset that follows finds the phases reached. -/
def State.watchdogFence (s : State) : State :=
  if s.boot.stage = .ready then { s.fatalFault with parts := s.parts } else s

/-- R383, R432, R433, R435: a context becomes LOST. -/
def State.ctxLost (s : State) (i : Nat) : State :=
  let c := s.ctx i
  let s := (s.dropCtx i .lost).modMlv fun m => { m with partnersLost := satAdd 16 m.partnersLost 1 }
  let s := s.emit (.report (0x40000 + c.kpr) 4)
  if c.watch then s.detectFence c.partner else if s.isolated then s.selfFence else s

/-! ### Contexts of a partner table (R193, R378) -/

/-- R378: another context joins the Keeper pair of a partner-table entry. -/
def State.joined (s : State) (e : Nat) : Bool :=
  s.liveCtxs.any fun q =>
    q.1 != bits e 11 0 && q.2.kpr == bits e 14 12 && q.2.partner == bits e 26 15 && q.2.partnerKpr == bits e 29 27

/-- Opens the context of a partner-table entry; where another context joins its Keepers already, that one serves
(DEDUCED, log entry 190). -/
def State.openPartner (s : State) (e : Nat) : State :=
  if s.joined e then s
  else
  let i := bits e 11 0
  let grants : Sparse Nat := [(0, bits e 74 64), (1, bits e 80 75), (2, bits e 84 81), (3, bits e 93 85), (4, bits e 98 94)].foldl
    (fun m q => sset 0 m q.1 q.2) []
  let s := s.modCtx i fun c =>
    { state := .closed, incarnation := c.incarnation, kpr := bits e 14 12, partner := bits e 26 15, partnerKpr := bits e 29 27
      watch := bit e 30, snoop := bit e 31, role := bits e 34 32, grants := grants }
  s.openCtx i

/-- Opens every context of a partition's partner table that is not in service. -/
def State.openPartners (s : State) (p : Nat) : State :=
  s.forAll ((s.part p).sec 0x18) fun s e =>
    if (s.ctx (bits e 11 0)).state = .opened ∨ (s.ctx (bits e 11 0)).state = .opening then s else s.openPartner e

/-- A context is closed; its cells are discarded. -/
def State.closeCtx (s : State) (i : Nat) : State := (s.purge i).modCtx i fun c => { incarnation := c.incarnation }

/-- R378, R430: a standby context of a partner-table entry is opened, on the lowest closed context where its own is in use; none where
the Keepers are joined already. -/
def State.openStandbyCtx (s : State) (e : Nat) : State :=
  if s.liveCtxs.any fun q => q.2.kpr == bits e 14 12 && q.2.partner == bits e 26 15 && q.2.partnerKpr == bits e 29 27 then s
  else
    let i := if (s.ctx (bits e 11 0)).state = .closed then bits e 11 0
      else ((List.range 4096).find? fun i => (s.ctx i).state == .closed).getD (bits e 11 0)
    (s.openPartner (e - bits e 11 0 + i)).modRecov fun r => { r with standbyCtxs := r.standbyCtxs ++ [i] }

/-- R430: the standby contexts: those of the standby partner tables that the owners mark SNOOP, and one to every other member with WATCH,
which joins Keeper 0 to Keeper 0 (DESIGN CHOICE, log entry 43). -/
def State.openStandby (s : State) (c : SpareCfg) : State :=
  let s := s.modRecov fun r => { r with standbyCtxs := [] }
  let s := s.forAll (c.plans.flatMap fun pl => (({ plan := some pl } : Part).sec 0x18).filter fun e => bit e 31) State.openStandbyCtx
  s.forAll (c.members.eraseDups.filter fun m => m ≠ s.selfId) fun s m =>
    match s.ctxOf 0 m 0 with
    | some i => s.modCtx i fun x => { x with watch := true }
    | none => s.openStandbyCtx (m * 2 ^ 15 + 2 ^ 30 + 2 * 2 ^ 32)

/-- The standby contexts are closed. -/
def State.closeStandby (s : State) : State :=
  (s.forAll s.recov.standbyCtxs fun s i => s.closeCtx i).modRecov fun r => { r with standbyCtxs := [] }

/-! ### Admission (R437, R438, R443 to R445) -/

/-- R442: the module, as the buddy that `f` now is, lacks a copy of every page that it is to mirror. -/
def State.lackAll (s : State) : State :=
  s.forAll ((List.range 8).filter fun p => (s.part p).formed) fun s p =>
    s.forAll ((s.part p).keepers) fun s k =>
      let owners := (s.liveCtxs.filter fun c => c.2.role == 4 && c.2.kpr == k).map fun c => (c.2.partner, c.2.partnerKpr)
      let gs := ((s.part p).sec 0x11).flatMap fun e => if owners.contains (prOwner e, prOwnerKpr e) then prPages e else []
      s.modKpart k p fun y => { y with lacking := gs, lackHidden := false }

/-- R437 step 4, R444: claims go out again on every port that may train, and every context of the partner tables opens. -/
def State.claimAll (s : State) : State :=
  let s := s.modRecov fun r => { r with selfFenced := false, awaitRejoin := false }
  let s := s.forAll ((List.range 64).filter fun p => s.portPresent p && (s.port p).enable) fun s p =>
    if (s.port p).state = .disabled then s.startTraining p
    else if (s.port p).state = .up then s.sendLive p
    else s
  s.forAll ((List.range 8).filter fun p => (s.part p).formed) fun s p => s.openPartners p

/-- R567: after a warm reset the Keepers of a partition whose rollback was not complete post its round again. -/
def State.resumeRollbacks (s : State) : State :=
  s.forAll ((List.range 8).filter fun p => (s.part p).formed) fun s p =>
    match (s.part p).rollback with
    | some cause => s.startRollback p cause
    | none => s

/-- R444, R445: a module that awaits its rejoin has been admitted. After a warm reset it has its owner state; otherwise it
pulls its husk. (DEDUCED, log entry 91) -/
def State.rejoin (s : State) (g : Nat) : State :=
  let s := s.claimAll
  if s.boot.kind = .warm then s.resumeRollbacks
  else
    let f := s.selfId
    let s := s.modRecov fun r => { r with role := .taking, taking := some (f, g), pull := 0, scheds := [] }
    let s := s.forAll ((List.range 8).filter fun p => (s.part p).formed && (s.part p).plan.isSome) fun s p =>
      s.modPart p fun x => { x with phase := .recovery }
    s.lackAll

/-- R443 to R445: this module's own admission is what it waits for: after its fence, or after a cold reset, to pull its husk. -/
def State.awaitsAdmission (s : State) : Bool :=
  s.recov.awaitRejoin || (s.boot.kind ≠ .warm && s.recov.role == .member && s.recov.pull == 0)

/-- R437, R438: an admission for `f` is recorded, forwarded, and its FENCED contexts await a HELLO of any incarnation. -/
def State.spareAdmit (s : State) (f g standby csn : Nat) (came : Option Nat) : State :=
  let s := s.modRecov fun r => { r with admitted := sset (0, 0, 0) r.admitted f (g, csn, standby) }
  let s := s.lifeRecord 0x11 0 (fenceBody f g standby)
  let out := s.noticeCtxs f came
  let s := s.forAll (s.liveCtxs.filter fun c => c.2.partner == f && c.2.state == .fenced) fun s c =>
    s.modCtx c.1 fun x => { x with awaitHello := true }
  let s := s.forAll out fun s i => s.peerSend i 0x51 (f + g * 2 ^ 12 + standby * 2 ^ 28)
  if f = s.selfId ∧ s.awaitsAdmission = true then s.rejoin g else s

/-- R437 step 4: the spare takes the ID. -/
def State.takeId (s : State) (f : Nat) : State :=
  let s := s.forAll s.liveCtxs fun s c => s.closeCtx c.1
  let s := s.modMlv fun m => { m with selfId := BitVec.ofNat 12 f }
  (s.modRecov fun r => { r with standbyCtxs := [], admitOn := none }).claimAll.lackAll

/-- R438: the admission of this spare is superseded: it is ARMED again, under its standby ID. -/
def State.giveUpTakeover (s : State) : State :=
  match s.recov.spare, s.recov.taking with
  | some c, some (f, _) =>
    let s := s.forAll ((c.plansOf f).map fun q => q.2.partition) fun s p => (s.setPart p {}).changeLease p 0
    let s := s.modRecov fun r => { r with role := .armed, taking := none, pull := 0, admitOn := none }
    if s.selfId = c.standbyId then s
    else
      let s := s.forAll s.liveCtxs fun s x => s.closeCtx x.1
      (s.modMlv fun m => { m with selfId := BitVec.ofNat 12 c.standbyId }).openStandby c
  | _, _ => s

/-! ### The takeover's points K1 to K5 (R439) -/

/-- Partitions that a takeover restores. -/
def State.takenParts (s : State) : List Nat :=
  (List.range 8).filter fun p => (s.part p).formed && (s.part p).plan.isSome && (s.part p).phase == .recovery

/-- R427: a HUSK_PULL of pages of one range. -/
def State.pullRange (s : State) (i p first n comps : Nat) : State :=
  s.send i 3 0x45 (leBytes 32 ((s.part p).herdId * 2 ^ 40 + first * 2 ^ 48 + n * 2 ^ 76 + comps * 2 ^ 104)) true []

/-- K2, R346: the slices of step n of an owned page are requested from every other rank. -/
def State.requestPageSlices (s : State) (k p g : Nat) : State :=
  let x := s.part p
  match x.bucketOfPage g with
  | none => s
  | some b =>
    s.forAll ((List.range x.ranks).filter fun r => x.rankId r ≠ s.selfId) fun s r =>
      match s.trafficCtx k (x.rankId r) (bits b 18 16) with
      | some i => s.send i 1 0x21 (sliceHead x.step x.herdId (bkNum b) g r) true []
      | none => s

/-- K2: the slices of every owned page are requested. -/
def State.requestSlices (s : State) (p : Nat) : State :=
  s.forAll (s.part p).keepers fun s k =>
    s.forAll ((s.part p).gradPages s.selfId k) fun s g => s.requestPageSlices k p g

/-- K1: W of every owned page is pulled first, then M, D and the schedule records. K2 follows at once where the running step is known. -/
def State.pullAll (s : State) : State :=
  let s := s.forAll s.takenParts fun s p =>
    s.forAll ((s.part p).keepers) fun s k =>
      let ranges := ((s.part p).sec 0x11).filter fun e => prOwner e == s.selfId && prOwnerKpr e == k
      let s := s.forAll (ranges.flatMap prPages) fun s g =>
        s.modOpage k p g fun y => { y with awaitingHusk := true, missing := [0, 1, 2] }
      match s.buddyCtx k with
      | none => s
      | some i =>
        let s := s.forAll ranges fun s e => s.pullRange i p (bits e 27 0) (bits e 55 28 + 1) 1
        s.forAll (ranges.mapIdx fun j e => (j, e)) fun s q =>
          s.pullRange i p (bits q.2 27 0) (bits q.2 55 28 + 1) (if q.1 = 0 then 14 else 6)
  let s := s.forAll (s.takenParts.filter fun p => (s.part p).step ≠ 0) State.requestSlices
  s.modRecov fun r => { r with pull := 1 }

/-- R346: a staged reduced gradient was read poisoned: the page's slices are requested again, this module's own taken from
its bucket image, and reduced again. -/
def State.reduceAgain (s : State) (k p g : Nat) : State :=
  let x := s.part p
  let s := s.modOpage k p g fun y => { y with grad := none, reduction := {} }
  let s := match x.bucketOfPage g with
    | none => s
    | some b =>
      let j := bits b 18 16
      let y := (s.kpart j p).bucket (bkNum b)
      if y.sent.contains g = false then s
      else if y.parked then s.readParked j p (bkNum b) g 0x1000
      else s.takeSlice k p g (s.selfRank p) (y.page (g - bkFirstPage b))
  s.requestPageSlices k p g

/-- Tensors whose scale entries Keeper `k` of a module holds (R76). -/
def Part.scaleTensorsOf (x : Part) (id k : Nat) : List Nat :=
  (List.range (x.sec 0x07).length).filter fun t =>
    x.hasEntry t
      && (x.range (bits (x.tensor t) 91 64)).any fun e => prOwner e == id && prOwnerKpr e == k

/-- Reads `n` counters of six bytes. -/
def counters (n : Nat) (bs : List Byte) : List Nat := (chunks 6 n bs).map leNat

/-- K4, R426, R448: a schedule record of Keeper `k` is installed: sequence counters, scale entries and the probe count;
the layout is that of `schedBytes`. (DEDUCED, log entry 88) -/
def State.installSched (s : State) (k p id : Nat) (bs : List Byte) : State :=
  let x := s.part p
  let eps := (x.rowStations k).flatMap fun st => (x.endpoints st).map fun e => (st, e)
  let bst := x.bucketStreams k
  let ts := x.scaleTensorsOf id k
  let body := bs.drop 14
  let seqs := counters eps.length body
  let body := body.drop (6 * eps.length)
  let bseqs := counters bst.length body
  let body := body.drop (6 * bst.length)
  let qseqs := counters x.hostQueues.length body
  let body := body.drop (6 * x.hostQueues.length)
  let s := s.modPart p fun y =>
    { y with
      micro := leNat ((bs.drop 8).take 2), probes := leNat ((bs.drop 10).take 4)
      scales := (ts.mapIdx fun j t => (j, t)).foldl (fun m q =>
        sset {} m q.2 (ScaleEntry.decode (leNat ((body.drop (128 * q.1)).take 128)))) y.scales }
  let s := s.forAll (eps.zip seqs) fun s q =>
    let id := bits q.1.2.1 15 0
    s.modCore q.1.1 fun c =>
      if q.1.2.2 then c.modIn id fun e => { e with seq := q.2 } else c.modOut id fun e => { e with seq := q.2 }
  let s := s.modKpart k p fun y =>
    { y with expected := (bst.zip bseqs).foldl (fun m q => sset 0 m (bits q.1 15 0) q.2) y.expected }
  s.forAll (x.hostQueues.zip qseqs) fun s q => s.modDq (64 * p + q.1) fun d => { d with seq := q.2 }

/-- K3: W of every page has come: the pointer and VERSION are HVER's, and gathers are served. Where the step was not known, or F's share had
completed its pip (R441), it is that of HVER: its slices are requested, and its schedule records, if they have come, installed. -/
def State.pulledW (s : State) (p : Nat) : State :=
  let x := s.part p
  let n := x.hver
  let s := s.modPart p fun x => { x with version := n, step := n }
  let s := if x.step = n ∧ n ≠ 0 then s
    else
      s.forAll x.keepers fun s k =>
        match (s.kpart k p).scheds.find? fun r => r.owner == 8 * s.selfId + k && r.step + 1 == n && r.bytes ≠ [] with
        | some r => (s.installSched k p s.selfId r.bytes).modRecov fun y => { y with scheds := insertOnce (8 * p + k) y.scheds }
        | none => s
  let s := if x.step = n ∧ n ≠ 0 then s else s.requestSlices p
  s.forAll x.keepers fun s k => s.forAll (x.ownedBy s.selfId k) fun s g => s.serveWaiting k p g

/-- K4: with every component and record the state is complete, and PULL 0b10 asks the host for its input. -/
def State.pullProgress (s : State) : State :=
  if s.recov.role ≠ .taking ∨ s.recov.pull ≠ 1 then s
  else
    let ps := s.takenParts
    let done := ps.all fun p => (s.part p).keepers.all fun k =>
      let owned := (s.part p).ownedBy s.selfId k
      owned.isEmpty || (s.recov.scheds.contains (8 * p + k) && owned.all fun g => (s.opage k p g).missing == [])
    if done then
      (s.forAll ps fun s p => s.eachKpr p fun y => { y with scheds := y.scheds.filter fun r => r.owner / 8 ≠ s.selfId }).modRecov
        fun r => { r with pull := 2 }
    else s

/-- K1 once the takeover's contexts to the buddies are OPEN. -/
def State.takeoverProgress (s : State) : State :=
  match s.recov.taking with
  | some (f, _) =>
    let buddies := s.liveCtxs.filter (·.2.role == 3)
    if s.recov.role = .taking ∧ s.recov.pull = 0 ∧ s.selfId = f ∧ buddies ≠ []
        ∧ (buddies.all fun c => c.2.state == .opened) = true then s.pullAll
    else s
  | none => s

/-- K5: the first input of step n reaches the module: the step is recomputed from micro-step 0 on its staged copy. -/
def State.recompute (s : State) (p : Nat) : State :=
  if s.recov.role = .taking ∧ s.recov.pull = 2 ∧ (s.part p).phase = .recovery then
    let x := s.part p
    let s := s.beginStep p x.step x.micro
    if (s.part p).gathered false x.step then s.computeStart p else s
  else s

/-! ### A context comes into service again -/

/-- R326, R350, R444: the buddy's context has opened: what it forms its records from goes to it again, for the pages that wait for them. -/
def State.buddyOpened (s : State) (k p : Nat) : State :=
  let x := s.part p
  if (s.kpart k p).cstate ≠ .running then s
  else s.forAll ((x.ownedBy s.selfId k).filter fun g =>
      (s.opage k p g).cstate == .stamped && (s.opage k p g).buddyRec.isNone) fun s g =>
    (s.toBuddy k 0x47 (cmpHead (x.step + 1) x.herdId g (s.opage k p g).body.digest) []).sendStepAgain k p g

/-- R448: what a replay pulls by a context to a buddy: of each Keeper of the replayed module `key` its schedule records, and with the deltas
that rebuild version m the pages of owners to which no context leads. (DEDUCED, log entry 87) -/
def State.replayPull (s : State) (p key i : Nat) : State :=
  let x := s.part p
  let k := (s.ctx i).kpr
  let ranges := x.sec 0x11
  let mine := ranges.filter fun r => prOwner r == key && prOwnerKpr r == k
  let gone := ranges.filter fun r =>
    prOwner r ≠ s.selfId && (prOwner r ≠ key || prOwnerKpr r == k) && (s.trafficCtx (prStageKpr r) (prOwner r) (prOwnerKpr r)).isNone
  let s := match mine with
    | [] => s
    | r :: _ => s.pullRange i p (bits r 27 0) 1 8
  s.forAll gone fun s r => s.pullRange i p (bits r 27 0) (bits r 55 28 + 1) 5

/-- R448: the entry of a partner table that leads to a buddy of the replayed module. -/
def Part.buddyEntry (x : Part) (c : Ctx) : Bool :=
  (x.sec 0x18).any fun e =>
    bits e 34 32 == 3 && bits e 14 12 == c.kpr && bits e 26 15 == c.partner && bits e 29 27 == c.partnerKpr

/-- Requests that a partner lost with its fence go out again: gathers of its pages (R436), posts of herd rounds to the
parent, absolute maxima and what a buddy compares; rounds that waited for a context to the parent move on (R391), and a replay pulls. -/
def State.ctxOpened (s : State) (i : Nat) : State :=
  let c := s.ctx i
  s.forAll ((List.range 8).filter fun p => (s.part p).formed && (s.part p).plan.isSome) fun s p =>
    let x := s.part p
    let again (eval : Bool) (v : Nat) (s : State) : State :=
      s.forAll (x.stagePages.filter fun g => !x.current eval v g && (x.range g).any fun e =>
          prOwner e == c.partner && prOwnerKpr e == c.partnerKpr && prStageKpr e == c.kpr) fun s g => s.gatherPage p eval g v
    let s := if x.phase = .gather ∨ x.phase = .compute then again false x.step s else s
    let s := match x.eval with | some w => if w.staged then s else again true w.version s | none => s
    let self := s.selfRank p
    let s := if 0 < self ∧ s.syncCtx p ((self - 1) / x.herdF) = some i then
        s.forAll x.rounds fun s r =>
          if r.sent then
            s.sumUp i r.step x.herdId r.kind
              (sortedBy (fun a b => a.rank ≤ b.rank) (r.own.toList ++ r.children.flatMap (·.2)))
          else State.runRound (roundApply r.kind) s p r.step r.kind
      else s
    let s := if c.role = 3 then s.buddyOpened c.kpr p else s
    let s := match x.replayKey with
      | some key => if x.replays && x.buddyEntry c then s.replayPull p key i else s
      | none => s
    if (s.kpart c.kpr p).amaxSent then (s.modKpart c.kpr p fun y => { y with amaxSent := false }).sendAmax c.kpr p else s

/-- Applies a change of contexts and then what follows from contexts that it opened. -/
def State.withContexts (s : State) (f : State → State) : State :=
  let t := f s
  let opened := (t.mlv.ctxs.map (·.1)).filter fun i => (t.ctx i).state == .opened && (s.ctx i).state ≠ .opened
  (t.forAll opened fun t i => t.ctxOpened i).takeoverProgress

/-! ### Husk messages (R427, R428, R441, R442, R446) -/

/-- R428: a pull is served from the current sides, and from compared pending sides with STAMPED set; then the schedule
records of the pages' owner, and HUSK_END. -/
def State.servePull (s : State) (i k p first n comps : Nat) : State :=
  let x := s.part p
  let gs := (s.mirrored k p).filter fun g => first ≤ g && g < first + n && !(s.kpart k p).lacking.contains g
  let send (s : State) (g v : Nat) (stamped : Bool) (b : PageBody) : State :=
    let h := s.hpage k p g
    s.sendPage i p g v (comps % 8) stamped
      (huskImage s.past (s.past + 1) h.frozen h.group (goOpt (x.group h.group)) g (comps % 8) { b with stamp := v })
  let s := if comps % 8 = 0 then s
    else s.forAll gs fun s g =>
      let h := s.hpage k p g
      let s := send s g x.hver false h.current.body
      match h.pending with
      | some side => if h.compared then send s g side.version true side.body else s
      | none => s
  let s := if !bit comps 3 then s
    else
      let owner := match x.range first with | some e => 8 * prOwner e + prOwnerKpr e | none => 0
      s.forAll ((s.kpart k p).scheds.filter fun r => r.owner == owner) fun s r =>
        let s := if r.bytes = [] then s
          else s.send i 3 0x43 (leBytes 16 (pageKey r.step x.herdId (owner % 8) + r.bytes.length * 2 ^ 64)) true r.bytes
        s.forAll r.notes fun s n =>
          s.send i 3 0x44 (leBytes 32 (r.step + x.herdId * 2 ^ 40 + n.1 * 2 ^ 48 + n.2.toNat * 2 ^ 128)) true []
  s.send i 3 0x48 (leBytes 16 (x.herdId * 2 ^ 40 + (if comps % 8 = 0 then 0 else gs.length) * 2 ^ 48)) true []

/-- Bytes of the components of a page message before its spill records (R331, R427). -/
def huskBytes (P : Nat) (frozen : Bool) (opt comps : Nat) : Nat :=
  (if bit comps 0 then 2 ^ 20 + 16384 else 0)
    + (if bit comps 1 then m1Size frozen + m2Size frozen opt else 0) + (if bit comps 2 then 540672 * P else 0)

/-- R390: the length of a page message agrees with its header. -/
def Part.huskLength (x : Part) (P comps header : Nat) (data : List Byte) : Bool :=
  let base := huskBytes P (bit header 42) (goOpt (x.group (bits header 47 44))) comps
  if bit comps 2 then base ≤ data.length && (data.length - base) % 72 == 0 else data.length == base

/-- R439, R441, R446: a page of its own reaches the owner, and the commands that needed it go on. STAMPED pages are CLEAN at their version;
one is not taken while the step is being rolled back. -/
def State.ownPage (s : State) (k p g v comps header : Nat) (stamped : Bool) (data : List Byte) : State :=
  let x := s.part p
  if stamped ∧ x.rollback.isSome then s
  else
    let opt := goOpt (x.group (bits header 47 44))
    let taking : Bool := s.recov.role == .taking && x.phase == .recovery
    let early := s.beforeK3 p
    let old := (s.opage k p g).body
    let (used, b) := placeSpills (s.kpart k p).spillUsed s.past old
      { huskInstall s.past s.past opt comps header v data old with stamp := v }
    let back : Bool := old.stamp == x.step + 1 && v ≤ x.step
    let s := s.modKpart k p fun y => { y with spillUsed := used, done := if back then y.done - 1 else y.done }
    let s := s.modOpage k p g fun y =>
      let b := { b with digest := digestRecord g (bit header 42) opt b }
      { y with
        body := b, frozen := bit header 42, group := bits header 47 44, cstate := .clean, pre := none, buddyRec := none
        missing := y.missing.filter fun c => !bit comps c
        awaitingHusk := y.awaitingHusk && y.missing.any fun c => !bit comps c }
    let s := s.forAll ([0, 1, 2].filter (bit comps)) fun s c => s.modOpage k p g fun y => y.setResid c .hbm
    let s := if taking && !stamped then s.modPart p fun x => { x with hver := max x.hver v } else s
    let s := if taking && early && !s.beforeK3 p then s.pulledW p else s
    (((s.serveWaiting k p g).shares p).tierDone p).pullProgress

/-- R423, R442, R468: an owner's page reaches its buddy: the current side of the mirror. A spare that still lacks it sends
its record, for the comparison of R326. -/
def State.mirrorArrives (s : State) (k p g v header : Nat) (data : List Byte) : State :=
  let opt := goOpt ((s.part p).group (bits header 47 44))
  let b := { huskInstall s.past (s.past + 1) opt 7 header v data (s.hpage k p g).current.body with stamp := v }
  let b := { b with digest := digestRecord g (bit header 42) opt b }
  let lacked := (s.kpart k p).lacking.contains g
  let s := s.modHpage k p g fun _ =>
    { group := bits header 47 44, frozen := bit header 42, current := { version := v, body := b } }
  let s := s.modKpart k p fun y =>
    { y with lacking := y.lacking.filter (· ≠ g), lackHidden := y.lackHidden && !y.lacking.contains g }
  if lacked then s.sendRecord k p g v b.digest else s

/-- A page of the husk reaches its owner, a replay, which rebuilds the version of its step (R335, R448), or the owner's buddy. -/
def State.huskPageArrives (s : State) (k p head : Nat) (data : List Byte) : State :=
  let g := bits head 75 48
  let v := bits head 39 0
  let header := bits head 511 256
  if s.ownerKpr p g = some k then s.ownPage k p g v (bits head 79 76) header (bit head 80) data
  else if (s.part p).replays then
    let x := s.part p
    let comps := bits head 79 76
    let b := { huskInstall s.past s.past (goOpt (x.group (bits header 47 44))) comps header v data {} with stamp := v }
    match b.version s.past x.step with
    | some (w, e) =>
      if bit comps 0 ∧ (v = x.step ∨ bit comps 2 = true) then
        s.modPart p fun x => x.setStaged false g
          { version := x.step, bytes := writeBytes [] 0 (readBytes w 0 (2 ^ 20) ++ readBytes e 0 16384) }
      else s
    | none => s
  else s.mirrorArrives k p g v header data

/-- R422: the records of the last `n` step fences of an owner, newest first; notes whose fence has not come stay beside them. -/
def lastFences : Nat → List SchedRec → List SchedRec
  | _, [] => []
  | n, r :: l => if r.bytes = [] then r :: lastFences n l else match n with
    | 0 => []
    | n + 1 => r :: lastFences n l

/-- R390: the steps that a record or note of the herd may name: the running one and the one before. -/
def Part.huskStep (x : Part) (step : Nat) : Bool :=
  if x.phase = .idle then step == x.version || step + 1 == x.version
  else step == x.step || step + 1 == x.step || (x.phase == .flipWait && step == x.step + 1)

/-- R390: the step of a record or note agrees with the running one, where it is not one that is being restored or replayed. -/
def State.recordStep (s : State) (x : Part) (step : Nat) : Bool :=
  x.replays || (s.recov.role == .taking && x.phase == .recovery) || x.huskStep step

/-- A schedule record reaches the module that restores the step (R439, R448), or the buddy that keeps it (R426). -/
def State.schedArrives (s : State) (i k p head : Nat) (data : List Byte) : State :=
  let step := bits head 39 0
  let x := s.part p
  if s.recov.role = .taking ∧ x.phase = .recovery then
    let j := bits head 50 48
    let own := 8 * s.selfId + j
    let s := s.modKpart j p fun y =>
      { y with scheds := ⟨own, step, data, []⟩ :: y.scheds.filter fun r => !(r.owner == own && r.step == step) }
    let s := if step + 1 = x.step then
        (s.installSched j p s.selfId data).modRecov fun r => { r with scheds := insertOnce (8 * p + j) r.scheds }
      else s
    s.pullProgress
  else if x.replayKey.isSome ∧ step + 1 = x.step then
    let j := bits head 50 48
    (s.installSched j p (x.replayKey.getD 0) data).modRecov fun r => { r with replayWait := r.replayWait.filter (· ≠ j) }
  else s.modKpart k p fun y =>
    let owner := 8 * (s.ctx i).partner + (s.ctx i).partnerKpr
    let notes := ((y.scheds.find? fun r => r.owner == owner && r.step == step).map (·.notes)).getD []
    let mine := lastFences (s.past + 1) (⟨owner, step, data, notes⟩ :: y.scheds.filter fun r => r.owner == owner && r.step ≠ step)
    { y with scheds := mine ++ y.scheds.filter fun r => r.owner ≠ owner }

/-- R422, R439 K6: a progress note joins the record of its step; in a takeover the bucket's slices need not be sent. -/
def State.noteArrives (s : State) (i k p head : Nat) : State :=
  let note := (bits head 59 48, BitVec.ofNat 128 (bits head 255 128))
  let step := bits head 39 0
  if s.recov.role = .taking ∧ (s.part p).phase = .recovery then
    if step = (s.part p).step then s.modKpart k p fun y => { y with skipBuckets := insertOnce note.1 y.skipBuckets } else s
  else s.modKpart k p fun y =>
    let owner := 8 * (s.ctx i).partner + (s.ctx i).partnerKpr
    if y.scheds.any fun r => r.owner == owner && r.step == step then
      { y with scheds := y.scheds.map fun r =>
          if r.owner = owner ∧ r.step = step then { r with notes := r.notes ++ [note] } else r }
    else
      let mine := ⟨owner, step, [], [note]⟩ :: y.scheds.filter fun r => r.owner == owner
      { y with scheds := mine ++ y.scheds.filter fun r => r.owner ≠ owner }

/-! ### Spares that snoop (R430) -/

/-- R430: every page of a standby stage is current at one version, the highest that it holds: a spare, which is no member of the herd,
learns its version pointer from the pages alone. -/
def SpareCfg.armed (c : SpareCfg) : Bool :=
  (c.plans.mapIdx fun j pl => (j, pl)).all fun q =>
    let x : Part := { plan := some q.2 }
    let st := c.stage q.1
    let moving := x.stagePages.filter fun g => !(x.range g).any prFrozen
    let top := x.stageTop st
    x.stagePages.all fun g =>
      let y := sget {} st g
      y.version ≠ noVersion && (!moving.contains g || y.version == top)

/-- R325, R430: a PAGE message that an owner also sends to a spare is checked and kept. -/
def State.snoop (s : State) (i head : Nat) (data : List Byte) : State :=
  match s.recov.spare with
  | none => s.pageArrives i head data
  | some c =>
    if s.recov.role ≠ .standby ∧ s.recov.role ≠ .armed then s.pageArrives i head data
    else if (s.ctx i).state ≠ .opened then s
    else
      let s := s.took i 0 2081
      let v := bits head 39 0
      let g := bits head 75 48
      let w := writeBytes [] 0 (data.take (2 ^ 20))
      let e := writeBytes [] 0 (data.drop (2 ^ 20))
      let js := (c.plans.mapIdx fun j pl => (j, pl)).filter fun q =>
        let x : Part := { plan := some q.2 }
        x.herdId == bits head 47 40 && x.stagePages.contains g
      if js = [] ∨ data.length ≠ 2 ^ 20 + 16384 then s.msgError i
      else if digestW g v w e ≠ BitVec.ofNat 128 (bits head 255 128) then
        s.modKpr (s.ctx i).kpr fun y => { y with stagedFails := satAdd 16 y.stagedFails 1 }
      else
        let page (pl : Plan) : StagedPage :=
          { version := v, bytes := writeBytes [] 0 data, scales := ({ plan := some pl } : Part).arrivedScales g head }
        let c := { c with staged := js.foldl (fun m q => sset {} m (2 ^ 28 * q.1 + g) (page q.2)) c.staged }
        s.modRecov fun r => { r with spare := some c, role := if c.armed then .armed else .standby }

/-! ### Replays (R447 to R449) -/

/-- R450: every rank of a quarantined herd replays itself: the key is the module's own ID, it has a rank in the plan's herd,
and its owner state is at version m. (DEDUCED, log entry 170) -/
def State.wholeHerd (s : State) (p key step : Nat) (plan : Plan) : Bool :=
  key == s.selfId && (s.part p).version == step && (({ plan := some plan } : Part).rankOf key).isSome

/-- R448: a replay waits for the schedule record of every Keeper of the module `key`, and pulls from the buddies whose contexts are OPEN;
from the others once theirs open. -/
def State.replayPulls (s : State) (p key : Nat) : State :=
  let x := s.part p
  let ks := x.keepers.filter fun k => (x.sec 0x11).any fun r => prOwner r == key && prOwnerKpr r == k
  let s := s.modRecov fun y => { y with replayWait := ks }
  s.forAll ((x.sec 0x18).filter fun e => bits e 34 32 == 3) fun s e =>
    match s.trafficCtx (bits e 14 12) (bits e 26 15) (bits e 29 27) with
    | some i => if (s.ctx i).state = .opened then s.replayPull p key i else s
    | none => s

/-- R412, R447: the field-off variant in force at the replayed step: that of a field that is off here; else, since the command does not
name it, a free value among none and the plan's (DESIGN CHOICE, log entry 214). -/
def State.replayVariant (s : State) (p : Nat) : State :=
  let x := s.part p
  let fs := x.fields.filter x.hasVariant
  if x.offFields ≠ [] ∨ fs = [] then s
  else
    let (v, s) := s.draw
    match fs[v.toNat % (fs.length + 1)]? with
    | some f => s.modPart p fun x => { x with routeSet := 2, offField := some f }
    | none => s

/-- R448, R450: a replay begins in partition `p`: the stage is gathered at version m, and the rest is pulled from the buddies. -/
def State.startReplay (s : State) (p csn key step : Nat) (plan : Plan) (mask : List Byte) : State :=
  let herd := s.wholeHerd p key step plan
  let s := s.modPart p fun x =>
    if herd then { x with plan := some plan, replayKey := some key, recordMask := mask, herdReplay := true }
    else
      { formed := x.formed, rows := x.rows, plan := some plan, replayKey := some key, recordMask := mask
        offFields := x.fields.filter fun f => (s.field f).isOff }
  let s := s.modRecov fun r =>
    { r with
      role := .replayTarget, replayMissed := false, record := []
      replayStep := step, replayRunning := true, replayMatch := false, replayMismatch := false, firstBucket := 0
      replayCmd := some (p, csn), replayPart := p, replayWait := [] }
  let s := if herd then s else s.replayVariant p
  ((s.installStations p).beginStep p step (bits plan.header 143 128)).replayPulls p key

/-- A replay is over: the partition is idle with its plan, and the module is what it was before (R447); after one of the
whole herd it is as its step left it (R450). -/
def State.leaveReplay (s : State) (p : Nat) (matched : Bool) : State :=
  let x := s.part p
  let s := s.modRecov fun r =>
    { r with
      replayRunning := false, replayMatch := matched, replayCmd := none
      role := match r.spare with | none => .member | some c => if c.armed then .armed else .standby
      record := [] }
  if x.herdReplay then
    (if x.running then s.rollbackLocal p else s).modPart p fun x => { x with replayKey := none, recordMask := [], herdReplay := false }
  else ((s.eachKpr p fun _ => {}).dropWafer p).modPart p fun x' => { formed := x'.formed, rows := x'.rows, plan := x'.plan, step := x.step }

/-- R469: a replay that has timed out stops without a match. -/
def State.stopReplay (s : State) (csn : Nat) : State :=
  match s.recov.replayCmd with
  | some (p, c) => if c = csn then s.leaveReplay p false else s
  | none => s

/-- R449, R450: the replay ends once every bucket has been formed and every recorded tile has left, one of the whole herd with its commit:
MATCH where every digest was equal. -/
def State.endReplay (s : State) (csn : Nat) : State :=
  match s.recov.replayCmd with
  | none => s
  | some (p, c) =>
    let x := s.part p
    let formed := x.keepers.all fun k => (x.bucketsOf k).all fun b =>
      bkPages b ≤ ((s.kpart k p).bucket (bkNum b)).sent.length
    let done := if x.herdReplay then x.phase == .idle && x.version == s.recov.replayStep + 1 else formed && !x.beforeFence
    if c ≠ csn ∨ done = false ∨ s.recov.record ≠ [] then s
    else (s.leaveReplay p (!s.recov.replayMismatch && !s.recov.replayMissed)).final csn {}

/-! ### Meanings -/

def execHello (ctx incarnation partnerCtx : Nat) (s : State) : Host.Outcome State Fault Refusal :=
  .next (s.withContexts fun s => s.receiveHello ctx incarnation partnerCtx)

def execHelloSend (ctx : Nat) (s : State) : Host.Outcome State Fault Refusal :=
  .next (s.withContexts fun s => if (s.ctx ctx).state = .opening then (s.sendHello ctx).pumpAll ctx else s)

/-- R435: a frame whose credit violation has FENCED the last WATCH context makes the module fence itself. Codes on wires
(DESIGN CHOICE, log entry 18). -/
def execCellReceive (port symbols : Nat) (correctable : Bool) (frame : List Byte) (s : State) :
    Host.Outcome State Fault Refusal :=
  .next (s.withContexts fun s =>
    let s := s.receiveCell port symbols correctable frame
    if s.isolated then s.selfFence else s)

def execPageHead (ctx head : Nat) (data : List Byte) (s : State) : Host.Outcome State Fault Refusal :=
  .next (s.snoop ctx head data)

/-- R383: a cell is still unacknowledged 16 µs after it was first sent, whether or not another port could resend it. -/
def execContextLost (ctx cls : Nat) (s : State) : Host.Outcome State Fault Refusal :=
  .next (
    let c := s.ctx ctx
    let k := c.cls cls
    if c.state = .opened ∧ k.unacked ≠ [] then s.ctxLost ctx else s)

/-- R432: a WATCH context has received no cell for 6 µs. -/
def execWatchLost (ctx : Nat) (s : State) : Host.Outcome State Fault Refusal :=
  .next (if (s.ctx ctx).state = .opened ∧ (s.ctx ctx).watch = true then s.ctxLost ctx else s)

/-- R433: reopening a LOST context by command has failed for 100 µs. -/
def execReopenTimeout (ctx : Nat) (s : State) : Host.Outcome State Fault Refusal :=
  .next (
    let c := s.ctx ctx
    if (c.state = .lost ∨ c.state = .opening) ∧ c.watch = false then s.detectFence c.partner else s)

/-- R433: a Keeper fails: the module fences itself. -/
def execKeeperFailure (k : Nat) (s : State) : Host.Outcome State Fault Refusal :=
  .next (if k < 8 then s.fatalFault else s)

/-- R437: ADMIT_WAIT has passed since SPARE_ADMIT was sent. -/
def execAdmitWaitExpiry (id : Nat) (s : State) : Host.Outcome State Fault Refusal :=
  .next (match s.recov.taking with
    | some (f, _) => if s.recov.role = .taking ∧ f = id ∧ s.selfId ≠ f then s.takeId f else s
    | none => s)

/-- R438: the claim has not been bound for 1 s. -/
def execTakeoverBlocked (s : State) : Host.Outcome State Fault Refusal :=
  .next (match s.recov.taking with
    | some (f, _) =>
      if s.recov.role = .taking ∧ s.selfId = f ∧ s.recov.pull = 0 then
        (s.modRecov fun r => { r with takeoverBlocked := true }).event 5 1
      else s
    | none => s)

/-- R385, R438: a peer's completion: the first one to this spare's own admission, which may have been superseded; those to copies of it
that it has forwarded say nothing. -/
def execPeerCpl (ctx head : Nat) (s : State) : Host.Outcome State Fault Refusal :=
  .next (
    if (s.ctx ctx).state ≠ .opened then s
    else
      let s := s.took ctx 1 1
      if s.recov.role = .taking ∧ s.recov.admitOn = some ctx ∧ bits head 47 40 = 0x51 then
        let s := s.modRecov fun r => { r with admitOn := none }
        if bits head 15 12 = 4 then s.giveUpTakeover else s
      else s)

/-- R448: a record or note on a context: a buddy answers the pull of a replay of its herd before any other, and an owner's go
to the partition that mirrors it. -/
def State.recordFor (s : State) (i : Nat) (x : Part) : Bool :=
  if x.replays then (s.ctx i).role ≠ 4
  else (s.ctx i).role == 4 || !(List.range 8).any fun q => (s.part q).replays && (s.part q).herdId == x.herdId

/-- R428, R448: a page of a range on a context: its owner's here, one that a replay lacks, or one to be mirrored. -/
def State.pageFor (s : State) (i g : Nat) (x : Part) : Bool :=
  (x.range g).any fun e =>
    if x.replays then (s.ctx i).role ≠ 4 && x.stagePages.contains g
    else prOwner e == s.selfId || (s.ctx i).role == 4 || !(List.range 8).any fun q => (s.part q).replays && (s.part q).herdId == x.herdId

/-- R422, R426, R439, R448: a schedule record. -/
def execHuskSched (ctx head : Nat) (data : List Byte) (s : State) : Host.Outcome State Fault Refusal :=
  .next (s.huskMessage ctx (1 + ceilDiv data.length 512) head (fun _ _ x =>
      data.length == bits head 95 64 && s.recordFor ctx x && s.recordStep x (bits head 39 0)
        && ((s.ctx ctx).role ≠ 4 || bits head 50 48 == (s.ctx ctx).partnerKpr))
    fun s k p => s.schedArrives ctx k p head data)

/-- R422, R439: a progress note. -/
def execHuskProg (ctx head : Nat) (s : State) : Host.Outcome State Fault Refusal :=
  .next (s.huskMessage ctx 1 head (fun k _ x =>
      s.recordFor ctx x && s.recordStep x (bits head 39 0)
        && (x.bucketDef (if (s.ctx ctx).role = 4 then (s.ctx ctx).partnerKpr else k) (bits head 59 48)).isSome) fun s k p => s.noteArrives ctx k p head)

def execHuskPull (ctx head : Nat) (s : State) : Host.Outcome State Fault Refusal :=
  .next (s.huskMessage ctx 1 head (fun _ _ x => (x.range (bits head 75 48)).isSome)
    fun s k p => s.servePull ctx k p (bits head 75 48) (bits head 103 76) (bits head 107 104))

def execHuskPage (ctx head : Nat) (data : List Byte) (s : State) : Host.Outcome State Fault Refusal :=
  .next (s.huskMessage ctx (1 + ceilDiv data.length 512) head
    (fun _ _ x => s.pageFor ctx (bits head 75 48) x && x.huskLength s.past (bits head 79 76) (bits head 511 256) data)
    fun s k p => s.huskPageArrives k p head data)

/-- R427: the end of a pull: its cell is taken. -/
def execHuskEnd (ctx head : Nat) (s : State) : Host.Outcome State Fault Refusal :=
  .next (s.huskMessage ctx 1 head (fun _ _ _ => true) fun s _ _ => s.pullProgress)

def execDiagReplayEnd (csn : Nat) (s : State) : Host.Outcome State Fault Refusal := .next (s.endReplay csn)

end Sys2Proof.Machine
end

