-- ==== Sys2Proof/Machine/Hbm.lean ====
section
/-! DEFINITION. HBM stacks: the host's accesses and the absent log (R282 to R284), refresh modes (R290), errors and scrub
(R292, R293), and the bandwidth regulators (R293 to R299). -/

namespace Sys2Proof.Machine

/-- The stack of an HBM address (R282). -/
def hbmStack (a : Nat) : Nat := bits a 41 37

/-- R286: the place of a byte in a stack: pseudo-channel, bank, row, and byte of the row. -/
structure HbmPlace where
  pc : Nat
  bank : Nat
  row : Nat
  byte : Nat
  deriving DecidableEq, Repr

/-- R286: the hashes of a row that permute pseudo-channels and banks. -/
def rowHashPc (row : Nat) : Nat := bits row 5 0 ^^^ bits row 11 6 ^^^ bits row 16 12
def rowHashBank (row : Nat) : Nat := bits row 3 0 ^^^ bits row 7 4 ^^^ bits row 11 8 ^^^ bits row 15 12 ^^^ bits row 16 16

/-- R286: decodes a 37-bit stack offset. -/
def hbmDecode (o : Nat) : HbmPlace :=
  let row := bits o 36 20
  ⟨bits o 13 8 ^^^ rowHashPc row, bits o 17 14 ^^^ rowHashBank row, row, 256 * bits o 19 18 + bits o 7 0⟩

/-! ### The absent log (R283, R284) -/

/-- R283, R284: an access to an absent range is logged; while VALID is set only COUNT grows. -/
def State.absentAccess (s : State) (a : Nat) (write : Bool) : State :=
  let h := s.hbm
  { s with hbm :=
      if h.absentValid then { h with absentCount := satAdd 16 h.absentCount 1 }
      else { h with
        absentAddr := BitVec.ofNat 42 a, absentWrite := write, absentValid := true
        absentCount := satAdd 16 h.absentCount 1 } }

/-- R284: a write of 1 to VALID clears the log. -/
def State.clearAbsent (s : State) : State :=
  { s with hbm := { s.hbm with absentAddr := 0, absentWrite := false, absentValid := false, absentCount := 0 } }

/-! ### Regulators (R293 to R298) -/

def Stack.reg (x : Stack) (p : Nat) : Regulator := sget {} x.regs p
def Stack.modReg (x : Stack) (p : Nat) (f : Regulator → Regulator) : Stack := { x with regs := smod {} x.regs p f }

/-- The cap of a bucket in its units of 1/96 B: BURST times 4 KiB. -/
def Regulator.cap (r : Regulator) : Nat := r.burst.toNat * 4096 * 96

def Regulator.clamp (r : Regulator) : Regulator :=
  { r with guaranteeTokens := min r.guaranteeTokens r.cap, ceilingTokens := min r.ceilingTokens r.cap }

/-- R297: a setting is refused. `others` is the sum of GUARANTEE over the stack's other enabled regulators. -/
def regRefused (v others : Nat) : Bool :=
  let g := bits v 7 0
  let c := bits v 15 8
  let en := bit v 24
  decide (c < g) || (en && c == 0) || (en && bits v 23 16 == 0) || bits v 63 25 ≠ 0 || (en && 216 < others + g)

/-- Sum of GUARANTEE over enabled regulators but that of partition `p`. -/
def Stack.guarantees (x : Stack) (p : Nat) : Nat :=
  ((List.range 8).filter (· ≠ p)).foldl (fun n q => if (x.reg q).enable then n + (x.reg q).guarantee.toNat else n) 0

/-- An accepted setting, with each bucket clamped to the new BURST (R298). -/
def Stack.setReg (x : Stack) (p v : Nat) : Stack :=
  x.modReg p fun r =>
    Regulator.clamp
      { r with
        guarantee := BitVec.ofNat 8 (bits v 7 0), ceiling := BitVec.ofNat 8 (bits v 15 8)
        burst := BitVec.ofNat 8 (bits v 23 16), enable := bit v 24 }

/-- R295, R298: the Keeper cycles, of `n`, in which requests of a partition still wait for tokens: until the ceiling's bucket holds
what the largest of them needs. -/
def Stack.waitCycles (x : Stack) (p n : Nat) : Nat :=
  let r := x.reg p
  let need := ((x.queue.filter fun q => q.part == some p).map fun q => 96 * q.bytes).foldl max 0
  let rate := 875 * r.ceiling.toNat
  if need ≤ r.ceilingTokens then 0
  else if rate = 0 ∨ r.cap < need then n
  else min n (ceilDiv ((need - r.ceilingTokens) * (if x.throttled then 2 else 1)) rate)

/-- R293, R295, R290: the buckets gain what the Keeper cycles since the last refill bring, halved while THROTTLED, and
waiting time is counted. The host's bucket has no cap in the spec (DESIGN CHOICE, log entry 44). -/
def State.refill (s : State) (stk : Nat) : State :=
  let now := s.kprCounter (stk / 4) / 6
  s.modStack stk fun x =>
    let n := now - x.lastFill
    let gain (rate : Nat) : Nat := if x.throttled then n * 875 * rate / 2 else n * 875 * rate
    let x := (List.range 8).foldl (fun (x : Stack) p =>
      if (x.reg p).enable then
        x.modReg p fun r =>
          Regulator.clamp
            { r with
              guaranteeTokens := r.guaranteeTokens + gain r.guarantee.toNat
              ceilingTokens := r.ceilingTokens + gain r.ceiling.toNat
              held := min (7200 * 2 ^ 24 - 1) (r.held + 6 * x.waitCycles p n) }
      else x) x
    { x with hostTokens := x.hostTokens + gain x.hostCeiling.toNat, lastFill := now }

/-- R297, R298: a write of HBM_REG_CFG_p of a stack. -/
def State.regCfg (s : State) (src : Source) (stk p v : Nat) : State :=
  if s.stackPresent stk = false ∨ 8 ≤ p then s
  else if s.holds src p = false then s.refuseLease
  else if regRefused v ((s.stack stk).guarantees p) then s.modStack stk fun x => { x with regReject := true }
  else (s.refill stk).modStack stk fun x => x.setReg p v

/-- R298: a dissolved partition's regulators return to ENABLE 0. -/
def State.clearRegs (s : State) (p : Nat) : State :=
  s.forAll ((List.range 32).filter s.stackPresent) fun s i =>
    (s.refill i).modStack i fun x => x.modReg p fun r => { r with enable := false }

/-- R193, R293: the plan's regulator section is installed. -/
def State.installRegs (s : State) (p : Nat) : State :=
  s.forAll ((s.part p).sec 0x1A) fun s e =>
    (s.refill (bits e 4 0)).modStack (bits e 4 0) fun x => x.setReg p (bits e 15 8 + bits e 23 16 * 2 ^ 8 + bits e 31 24 * 2 ^ 16 + b2n (bit e 32) * 2 ^ 24)

/-- Two requests touch one granule (R296). -/
def HbmReq.meets (q r : HbmReq) : Bool :=
  decide (q.addr / 256 ≤ (r.addr + r.bytes - 1) / 256) && decide (r.addr / 256 ≤ (q.addr + q.bytes - 1) / 256)

/-- R292: the 64 B bursts that a request touches, and the address of one. -/
def HbmReq.bursts (q : HbmReq) : Nat := (q.addr + q.bytes - 1) / 64 - q.addr / 64 + 1
def HbmReq.burst (q : HbmReq) (i : Nat) : Nat := 64 * (q.addr / 64 + i)

/-- R296: the requests of a list that follow no earlier one to a granule of theirs. -/
def firstRequests : List HbmReq → List HbmReq → List HbmReq
  | _, [] => []
  | older, q :: l => (if older.any q.meets then [] else [q]) ++ firstRequests (q :: older) l

/-- A host's request, limited by HOST_CEILING alone. -/
def HbmReq.ofHost (q : HbmReq) : Bool := q.part.isNone && !q.writeBack

/-- Requests in a direction that may be granted when their tokens come; HOST_CEILING 0 bars the host's. -/
def Stack.waiting (x : Stack) (write : Bool) : List HbmReq :=
  (firstRequests [] x.queue).filter fun q => q.write == write && !(q.ofHost && x.hostCeiling == 0)

/-- R288: the direction changes once 64 KiB have moved in it, or when its queue is empty. A queue of which no request can
be granted whatever tokens come counts as empty (DESIGN CHOICE, log entry 182). -/
def Stack.turned (x : Stack) : Stack :=
  if (x.waiting x.writing = [] ∨ 65536 ≤ x.moved) ∧ x.waiting (!x.writing) ≠ [] then
    { x with writing := !x.writing, moved := 0 }
  else x

/-- R295: the request that a slot of a pseudo-channel grants, with its class. A write-back goes when no class has a request
(DESIGN CHOICE, log entry 182). -/
def Stack.choose (x : Stack) (channel : Nat) : Option (HbmReq × Nat) :=
  let l := (x.waiting x.writing).filter fun q => (hbmDecode (q.addr % 2 ^ 37)).pc == channel
  let has (q : HbmReq) (n : Nat) : Bool := decide (96 * q.bytes ≤ n)
  let class1 (q : HbmReq) : Bool := q.part.any fun p =>
    (x.reg p).enable && has q (x.reg p).guaranteeTokens && has q (x.reg p).ceilingTokens
  let class2 (q : HbmReq) : Bool := q.part.any fun p => (x.reg p).enable && has q (x.reg p).ceilingTokens
  let class3 (q : HbmReq) : Bool := q.ofHost && has q x.hostTokens
  let class4 (q : HbmReq) : Bool := q.part.any fun p => !(x.reg p).enable
  ([(class1, 1), (class2, 2), (class3, 3), (class4, 4), (HbmReq.writeBack, 5)] : List ((HbmReq → Bool) × Nat)).findSome? fun c =>
    (l.find? c.1).map fun q => (q, c.2)

/-- R295: the bytes of a grant are debited from the buckets that it was checked against, and counted. -/
def Stack.debit (x : Stack) (q : HbmReq) (cls : Nat) : Stack :=
  let n := 96 * q.bytes
  match q.part with
  | none => if q.writeBack then x else { x with hostTokens := x.hostTokens - n }
  | some p => x.modReg p fun r =>
    let total := r.grantedBytes + q.bytes
    { r with
      guaranteeTokens := if cls = 1 then r.guaranteeTokens - n else r.guaranteeTokens
      ceilingTokens := if cls = 1 ∨ cls = 2 then r.ceilingTokens - n else r.ceilingTokens
      grantedBytes := total % 1024, granted := satAdd 40 r.granted (total / 1024) }

/-! ### Errors (R292) -/

def State.kprLife (s : State) (k : Nat) (f : KprLife → KprLife) : State :=
  { s with life := { s.life with kprs := smod {} s.life.kprs k f } }

/-- R292: the write-back of a corrected burst, unless a write to it is already queued. -/
def Stack.writeBack (x : Stack) (a : Nat) : Stack :=
  let q : HbmReq := { part := none, bytes := 64, addr := 64 * (a / 64), write := true, writeBack := true }
  if x.queue.any fun r => r.write && decide (r.addr / 64 ≤ a / 64) && decide (a / 64 ≤ (r.addr + r.bytes - 1) / 64) then x
  else { x with queue := x.queue ++ [q] }

/-- R292: the burst at an address is corrected: counted, with its lifetime counter (R535), and written back. -/
def State.burstFixed (s : State) (stk a : Nat) : State :=
  (s.modStack stk fun x => { x with corrected := satAdd 16 x.corrected 1 }.writeBack a).kprLife (stk / 4) fun l =>
    { l with corrected := smod 0 l.corrected (stk % 4) fun n => satAdd 64 n 1 }

/-- An uncorrectable burst is counted. -/
def State.countBad (s : State) (stk : Nat) : State :=
  (s.modStack stk fun x => { x with uncorrectable := satAdd 16 x.uncorrectable 1 }).kprLife (stk / 4) fun l =>
    { l with uncorrectable := smod 0 l.uncorrectable (stk % 4) fun n => satAdd 32 n 1 }

/-- It stays poisoned until written. (DEDUCED, log entry 86) -/
def State.burstBad (s : State) (a : Nat) : State :=
  let s := s.countBad (hbmStack a)
  { s with hbm := { s.hbm with poison := insertOnce (a / 64) s.hbm.poison } }

/-- R29, R292, R346: what follows where a unit has read poisoned data of its own. -/
def State.poisonedRead (s : State) (k : Nat) (o : HbmOwner) : State :=
  match o.use with
  | .staged eval => s.regather o.part eval o.page
  | .owner | .tier => s.restoreFromHusk k o.part o.page
  | .gradient => s.reduceAgain k o.part o.page
  | .plan => s.modPart o.part fun x => { x with planBad := true }
  | .bucket | .mirror => s

/-- R292: the bytes of such a burst are obtained again, and so written again. -/
def renewed : HbmUse → Bool
  | .staged _ | .owner | .tier | .gradient => true
  | .bucket | .mirror | .plan => false

/-- R292, R293: a burst is found uncorrectable: counted; its owner's value is obtained and written, or else it is poisoned
until written. (DEDUCED, log entry 86) -/
def State.burstFound (s : State) (stk a : Nat) (owner : Option HbmOwner) : State :=
  match owner with
  | none => s.burstBad a
  | some o =>
    if renewed o.use then (s.countBad stk).poisonedRead (stk / 4) o else (s.burstBad a).poisonedRead (stk / 4) o

/-- A range holds a poisoned burst. -/
def State.hbmBad (s : State) (a n : Nat) : Bool := s.hbm.poison.any fun b => a < 64 * b + 64 && 64 * b < a + n

/-- A write of HBM bytes; the poison of bursts written whole is cleared. -/
def State.writeHbm (s : State) (a : Nat) (data : List Byte) : State :=
  { s with hbm :=
      { s.hbm with
        mem := writeBytes s.hbm.mem a data
        poison := s.hbm.poison.filter fun b => !(a ≤ 64 * b && 64 * b + 64 ≤ a + data.length) } }

/-- The areas of a placement: the field of the base, the base, the field of the size, and the size in MiB: owner, staged copy, staging,
husk store, spill (R192). -/
def placeAreas (e : Nat) : List (Nat × Nat × Nat × Nat) :=
  [(64, bits e 105 64, 384, bits e 407 384), (128, bits e 169 128, 408, bits e 431 408),
   (192, bits e 233 192, 432, bits e 455 432), (256, bits e 297 256, 456, bits e 479 456),
   (320, bits e 361 320, 480, bits e 503 480)]

/-- Bytes of a host's write that fall into a component of `size` bytes, at a place that `at'` picks. -/
def strayInto (m : Sparse Byte) (size at' : Nat) (data : List Byte) : Sparse Byte :=
  writeBytes m (at' % (size + 1 - min size data.length)) (data.take size)

/-- The bytes fall into a body: its weights, exponents or moments. -/
def PageBody.stray (b : PageBody) (v : Nat) (data : List Byte) : PageBody :=
  match v % 4 with
  | 0 => { b with weights := strayInto b.weights (2 ^ 20) (v / 4) data }
  | 1 => { b with exps := strayInto b.exps 16384 (v / 4) data }
  | 2 => { b with m1 := strayInto b.m1 (2 ^ 20) (v / 4) data }
  | _ => { b with m2 := strayInto b.m2 (2 ^ 20) (v / 4) data }

/-- One of a list that a free value picks, or none. -/
def pick {α : Type} (l : List α) (v : Nat) : Option α := l[v % (l.length + 1)]?

/-- R192, R455: a host's write into area `j` of Keeper `k`'s placement changes what the Keeper keeps there. Where in the area it keeps
what, the Keeper chooses: two free values say (DESIGN CHOICE, log entry 17). -/
def State.strayWrite (s : State) (k p j : Nat) (data : List Byte) : State :=
  let (v, s) := s.draw
  let (u, s) := s.draw
  let y := s.kpart k p
  match j with
  | 0 => match pick ((s.part p).ownedBy s.selfId k) v.toNat with
    | some g => s.modOpage k p g fun o => { o with body := o.body.stray u.toNat data }
    | none => s
  | 1 => match pick (s.part p).staged v.toNat with
    | some e => s.modPart p fun x => x.setStaged false e.1 { e.2 with bytes := strayInto e.2.bytes (2 ^ 20 + 16384) u.toNat data }
    | none => s
  | 2 => match pick (y.pages.filter fun e => e.2.grad.isSome) v.toNat with
    | some e => s.modOpage k p e.1 fun o => { o with grad := o.grad.map fun m => strayInto m (2 ^ 20) u.toNat data }
    | none => s
  | 3 => match pick y.husk v.toNat with
    | some e => s.modHpage k p e.1 fun h => { h with current := { h.current with body := h.current.body.stray u.toNat data } }
    | none => s
  | _ => s

/-- R455: a BAR2 write into the areas of a placement is performed as written. -/
def State.hostInto (s : State) (a : Nat) (data : List Byte) : State :=
  s.forAll (List.range 8) fun s p => s.forAll ((s.part p).sec 0x10) fun s e =>
    s.forAll ((placeAreas e).mapIdx fun j r => (j, r)) fun s q =>
      if q.2.2.1 < a + data.length ∧ a < q.2.2.1 + q.2.2.2.2 * 2 ^ 20 then s.strayWrite (bits e 2 0) p q.1 data else s

/-! ### Issue slots (R288, R295) -/

/-- R283, R292, R295, R455: a granted host access is carried out; a read answers the host. -/
def State.hostAccess (s : State) (q : HbmReq) : State :=
  match q.data with
  | some d => (s.writeHbm q.addr d).hostInto q.addr d
  | none => s.emit (.readData (leNat (readBytes s.hbm.mem q.addr q.bytes)) (s.hbmBad q.addr q.bytes))

/-- R294: the traffic of stack `stk` that is charged to a partition: its staged pages, its owned pages and their gradients
and transfers, its buckets, the pages that it mirrors, and its plan. -/
def State.charged (s : State) (stk : Nat) (r : HbmTraffic) : Bool :=
  let o := r.owner
  let x := s.part o.part
  let k := stk / 4
  hbmStack r.addr == stk && 0 < r.bytes && r.bytes ≤ 256 && r.addr / 256 == (r.addr + r.bytes - 1) / 256 && o.part < 8 &&
    (match o.use with
      | .staged eval => x.stagePages.contains o.page && (!eval || x.eval.isSome)
      | .owner | .gradient | .tier => s.ownerKpr o.part o.page == some k
      | .bucket => (x.bucketDef k o.page).isSome
      | .mirror => (s.mirrored k o.part).contains o.page
      | .plan => x.formed && x.plan.isSome)

/-- R288, R290, R293 to R296: a slot of a pseudo-channel: the units' new requests, each charged by R294 (of equal age, the
lower partition first; DESIGN CHOICE, log entry 45), enter the queues, and one request is granted. Of a read that is granted,
`fixed` and `bad` name the bursts, from its first, that the code corrected and found uncorrectable. -/
def State.issueSlot (s : State) (slot : IssueSlot) (requests : List HbmTraffic) (fixed bad : List Nat) : State :=
  let stk := slot.stack
  if s.stackPresent stk = false ∨ (s.stack stk).fault = true then s
  else
    let new := (sortedBy (fun a b => a.owner.part ≤ b.owner.part) (requests.filter (s.charged stk))).map fun r =>
      ({ part := some r.owner.part, bytes := r.bytes, addr := r.addr, write := r.write, owner := some r.owner } : HbmReq)
    let s := (s.refill stk).modStack stk fun x => { x with queue := x.queue ++ new }.turned
    match (s.stack stk).choose slot.channel with
    | none => s
    | some (q, cls) =>
      let s := s.modStack stk fun x => { (x.debit q cls) with queue := x.queue.erase q, moved := x.moved + q.bytes }
      let s := if q.write then s
        else
          let s := s.forAll ((List.range q.bursts).filter fixed.contains) fun s i => s.burstFixed stk (q.burst i)
          s.forAll ((List.range q.bursts).filter bad.contains) fun s i => s.burstFound stk (q.burst i) q.owner
      if q.ofHost then s.hostAccess q else s

/-! ### Refresh and scrub (R290, R291, R293) -/

/-- R290: an all-bank refresh applies a mode that a reading has called for. -/
def State.hbmRefresh (s : State) (stk : Nat) : State :=
  if s.stackPresent stk then s.modStack stk fun x => { x with refresh2x := x.refresh2x || x.wantDouble, wantDouble := false }
  else s

/-- R290: the mode falls once every reading has been 2 K below the threshold for 10 ms, and so does THROTTLED. -/
def State.modeFall (s : State) (stk : Nat) : State :=
  (s.refill stk).modStack stk fun x =>
    { x with
      throttled := x.throttled && decide (95 < x.temp + 2)
      refresh2x := x.refresh2x && decide (85 < x.temp + 2) }

/-- Bursts of a stack. -/
def hbmBursts : Nat := 2 ^ 31

/-- R293, R530: scrub reads the next burst; one found uncorrectable is rewritten with its owner's value, or poisoned until
written. -/
def State.hbmScrub (s : State) (stk : Nat) (fixed : Bool) (bad : Option BadBurst) : State :=
  let x := s.stack stk
  if s.stackPresent stk = false ∨ x.scrubEn = false ∨ x.fault = true ∨ s.paused = true then s
  else
    let a := stk * 2 ^ 37 + 64 * x.scrubPos
    let s := if fixed then s.burstFixed stk a else s
    let s := match bad with | some b => s.burstFound stk a b.owner | none => s
    s.modStack stk fun x =>
      if x.scrubPos + 1 < hbmBursts then { x with scrubPos := x.scrubPos + 1, scrubActive := true }
      else { x with scrubPos := 0, scrubActive := false, scrubPasses := satAdd 16 x.scrubPasses 1 }

/-! ### Meanings -/

/-- R283, R295: a host read through BAR2: poisoned and logged in an absent range, else it waits for an issue slot. -/
def execHostMemRead (addr len : Nat) (s : State) : Host.Outcome State Fault Refusal :=
  .next (
    let a := addr % 2 ^ 42
    if s.stackPresent (hbmStack a) then
      s.modStack (hbmStack a) fun x => { x with queue := x.queue ++ [{ part := none, bytes := len, addr := a }] }
    else (s.absentAccess a false).emit (.readData 0 true))

def execHostMemWrite (addr : Nat) (data : List Byte) (s : State) : Host.Outcome State Fault Refusal :=
  .next (
    let a := addr % 2 ^ 42
    if s.stackPresent (hbmStack a) then
      s.modStack (hbmStack a) fun x =>
        { x with queue := x.queue ++ [{ part := none, bytes := data.length, addr := a, data := some data, write := true }] }
    else s.absentAccess a true)

def execHbmRegCfgWrite (src : Source) (stk p : Nat) (value : BitVec 64) (s : State) :
    Host.Outcome State Fault Refusal :=
  .next (s.regCfg src stk p value.toNat)

def execHbmIssueSlot (slot : IssueSlot) (requests : List HbmTraffic) (fixed bad : List Nat) (s : State) :
    Host.Outcome State Fault Refusal :=
  .next (s.issueSlot slot requests fixed bad)

def execHbmRefresh (stk : Nat) (s : State) : Host.Outcome State Fault Refusal := .next (s.hbmRefresh stk)

def execHbmRefreshModeFall (stk : Nat) (s : State) : Host.Outcome State Fault Refusal :=
  .next (if s.stackPresent stk then s.modeFall stk else s)

def execHbmScrubBurst (stk : Nat) (fixed : Bool) (bad : Option BadBurst) (s : State) : Host.Outcome State Fault Refusal :=
  .next (s.hbmScrub stk fixed bad)

end Sys2Proof.Machine
end

