-- ==== Sys2Proof/Machine/PlanCheck.lean ====
section
/-! DEFINITION. The checks of plan load in the order of R194: header, directory, presence, decoding, the rules of entries
and sections, the rules that join sections, absent units, capacity. The first fault decides status and RESULT. -/

namespace Sys2Proof.Machine

/-! ### Faults and places -/

/-- A fault's status and the byte offset of its field. -/
abbrev PlanFault := Nat × Nat

/-- Checks of one entry in ascending bit position: the field's lowest bit, and whether it passes. -/
abbrev Checks := List (Nat × Bool)

/-- The failing check of lowest bit of an entry that lies at a byte offset (R194). -/
def Checks.fault (l : Checks) (status offset : Nat) : Option PlanFault :=
  (((l.filter fun c => !c.2).map (·.1)).min?).map fun b => (status, offset + b / 8)

/-- A section with the byte offsets of its directory entry and of its entries. -/
structure Sect where
  dir : Nat
  kind : Nat
  set : Nat
  entries : List (Nat × Nat)

/-- Byte offsets of the entries of section 0x0E: the header, then records of varying length. -/
def recordOffsets : Nat → List Nat → List Nat
  | _, [] => []
  | o, r :: rs => o :: recordOffsets (o + 16 + 168 * bits r 39 32 + 32 * bits r 47 40) rs

def Plan.sects (p : Plan) : List Sect :=
  (planDir p.image).mapIdx fun i d =>
    let sec := readSection p.image d
    let base := bits d 95 64
    let offs := if sec.kind = 0x0E then base :: recordOffsets (base + 64) (sec.entries.drop 1)
      else (List.range sec.entries.length).map fun j => base + entrySize sec.kind * j
    ⟨256 + 16 * i, sec.kind, sec.set, offs.zip sec.entries⟩

/-- The byte offset of the COUNT field of a section's directory entry; SECTIONS where the plan has none. -/
def Plan.countField (p : Plan) (kind set : Nat) : Nat :=
  match p.sects.find? fun c => c.kind == kind && c.set == set with
  | some c => c.dir + 4
  | none => 22

/-- The partition under each SET in which a section is in force: its own, and for a normal section those that hold no
section of its kind (R189). The remap alternates have one set. -/
def Plan.views (pl : Plan) (x : Part) (c : Sect) : List Part :=
  if c.kind = 0x0E then [x.under 0]
  else (pl.sets.filter fun v => v == c.set || (c.set == 0 && !pl.hasSec v c.kind)).map x.under

/-! ### Step 1: the header (R187) -/

/-- Every field but DIGEST. -/
def headerChecks (img : List Byte) (p rows length : Nat) : Checks :=
  let h := planHeader img
  [(0, bits h 31 0 == 0x4E414C50), (32, bits h 39 32 == 1), (40, bits h 42 40 == p), (43, bits h 47 43 == 0),
   (48, bits h 55 48 == rows), (56, bits h 63 56 == 0), (128, bits h 143 128 ≠ 0),
   (144, 4096 ≤ bits h 168 144 && bits h 168 144 ≤ 2 ^ 24), (169, bits h 175 169 == 0),
   (176, 1 ≤ bits h 181 176 && bits h 181 176 ≤ 48), (182, bits h 191 182 == 0), (192, bits h 223 192 == length),
   (224, bits h 255 224 == 0), (384, bits h 2047 384 == 0)]

/-- DIGEST, which is checked last (R194). -/
def digestChecks (img : List Byte) (length : Nat) : Checks :=
  [(256, bits (planHeader img) 383 256 == (digest128 ((img.take length).drop 256)).toNat)]

/-! ### Step 2: the directory (R188, R189) -/

/-- R189: the SET codes that a kind permits. -/
def setOk (kind set : Nat) : Bool :=
  set = 0 || (set = 1 && (kind = 0x09 || kind = 0x0A || kind = 0x0B || kind = 0x0C))
    || (0x40 ≤ set && set < 0x80
        && (kind = 0x01 || kind = 0x09 || kind = 0x0A || kind = 0x0B || kind = 0x0C || kind = 0x0D || kind = 0x19))

/-- Two byte ranges overlap. -/
def overlap (a n b m : Nat) : Bool := n ≠ 0 && m ≠ 0 && a < b + m && b < a + n

/-- The fields of a directory entry. -/
def dirChecks (d : Nat) : Checks :=
  let kind := bits d 7 0
  [(0, 1 ≤ kind && kind ≤ 0x1A), (8, setOk kind (bits d 15 8)), (16, bits d 31 16 == 0)]

/-- The placement rules of a directory entry. -/
def placementChecks (img : List Byte) (length i d : Nat) : Checks :=
  let dirs := planDir img
  let kind := bits d 7 0
  let off := bits d 95 64
  let size := bits d 127 96
  let need := if kind = 0x0E then 64 + 16 * bits d 63 32 else entrySize kind * bits d 63 32
  [(0, !((dirs.take i).any fun e => bits e 7 0 == kind && bits e 15 8 == bits d 15 8)),
   (64, off % 64 == 0 && off + size ≤ length && !overlap off size 0 (256 + 16 * dirs.length)
      && !((dirs.take i).any fun e => overlap off size (bits e 95 64) (bits e 127 96))),
   (96, need ≤ size)]

/-- The first fault of a directory entry: its fields, then its placement (R194). -/
def dirFault (img : List Byte) (length i d : Nat) : Option PlanFault :=
  match (dirChecks d).fault 0x2004 (256 + 16 * i) with
  | some f => some f
  | none => (placementChecks img length i d).fault 0x2004 (256 + 16 * i)

/-! ### Step 3: presence (R189) -/

/-- R209: trainable pages exist. -/
def Part.trains (x : Part) : Bool := (x.sec 0x11).any fun e => !prFrozen e

/-- R184: TPIP names a plan channel. -/
def Part.usesChannels (x : Part) : Bool := (x.sec 0x02).any fun o => opCode o == 0x0C && 4 ≤ bits o 12 9

def present (pl : Plan) (x : Part) : Bool :=
  let has := fun k => pl.hasSec 0 k
  [0x01, 0x02, 0x03, 0x06, 0x07, 0x0B, 0x0E, 0x0F, 0x10, 0x11, 0x17, 0x18].all has
    && (!x.trains || (has 0x12 && has 0x13 && has 0x14))
    && (!((x.sec 0x01).any fun e => bits e 231 224 ≠ 0) || has 0x04)
    && (!((x.sec 0x01).any fun e => bits e 300 288 ≠ 0) || has 0x05)
    && (!((x.sec 0x02).any fun o => opCode o == 1 && tmFlock o) || has 0x08)
    && (!((x.sec 0x06).any fun e => sdDstKind e == 1) || has 0x09)
    && (!((x.sec 0x03).any fun e => bit e 26) || has 0x0A)
    && (!((x.sec 0x06).any fun e => sdDstKind e == 3) || has 0x0C)
    && (!x.usesChannels || has 0x0D) && (!has 0x0D || has 0x19)

/-! ### Step 4: decoding -/

/-- R162: the reserved bits of a reference. -/
def refBitsOk (n : Nat) : Bool :=
  n = 0 || match bits n 21 20 with
    | 0 => bits n 19 8 = 0 && bits n 7 0 ≠ 0
    | 1 => bits n 19 16 = 0
    | 2 => true
    | _ => bits n 19 12 = 0

/-- A reference names something that the station has. -/
def Part.refResolves (x : Part) (st n : Nat) : Bool :=
  match Ref.decode n with
  | .none => true
  | .slot k => (x.slotEntry st k).isSome
  | .stream id => (x.stream id).isSome
  | .bank r _ _ => (x.regionOf st r).isSome
  | .acc t => (x.accEntry st t).isSome

/-- The reference fields of an operation: lowest bit and value (R164, R166, R167). -/
def opRefs (op : Nat) : List (Nat × Nat) :=
  match opCode op with
  | 0x01 => [(84, bits op 105 84), (106, bits op 127 106)]
  | 0x02 => [(20, bits op 41 20), (42, bits op 63 42)]
  | _ => [(16, bits op 37 16), (38, bits op 59 38), (60, bits op 81 60), (82, bits op 103 82)]

/-- R167: bits that the SUB and AUX fields of an operation define. -/
def subAux : Nat → Nat × Nat
  | 0x03 => (0, 0xFFFF) | 0x04 => (0, 0xFFFF) | 0x05 => (0, 0xFFFF) | 0x06 => (0, 0xFFFF)
  | 0x07 => (0x3F, 0x3FF) | 0x08 => (0x7F, 0) | 0x09 => (1, 0) | 0x0A => (3, 0x3FF) | 0x0B => (7, 0) | 0x0C => (0x1F, 0xFF)
  | _ => (0, 0)

/-- Whether a value has no bit outside a mask. -/
def within (v mask : Nat) : Bool := v &&& mask == v

/-- Fields of an operation by themselves. -/
def opFieldChecks (x : Part) (op : Nat) : Checks :=
  let tensors := (x.sec 0x07).length
  let refs := (opRefs op).map fun r => (r.1, refBitsOk r.2)
  match opCode op with
  | 0x00 => [(0, false)]
  | 0x01 =>
    let fl := tmFlock op
    ([(8, !fl || tmM op ≤ (x.sec 0x08).length), (18, !fl || bits op 27 18 == 0),
     (28, tmK op ≤ 2 ^ 24 && (!fl || tmK op == 0)), (53, tmFold op < 6),
     (58, !fl || tmAnchor op == 0), (68, !fl || tmGuard op == 0),
     (84, !fl || bits op 105 84 == 0), (106, !fl || bits op 127 106 == 0)] : Checks) ++ refs
  | 0x02 =>
    let head : Checks := [(20, !teFlock op || bits op 41 20 == 0), (42, !teFlock op || bits op 63 42 == 0)]
    let rest : Checks := [(64, teFuse op ≠ 3), (67, !bit op 67), (68, teSA op < tensors), (78, teSB op < tensors), (88, teSO op < tensors),
     (98, bits op 127 98 == 0)]
    head ++ refs ++ rest
  | c =>
    if c ≤ 0x0C then
      let m := subAux c
      [(8, within (opSub op) m.1 && (c ≠ 0x07 || opVop op ≤ 0x0E) && (c ≠ 0x08 || bits op 13 8 ≠ 7)
          && (c ≠ 0x0C || 4 ≤ bits op 12 9))]
        ++ refs ++ [(104, within (bits op 127 104) m.2 && ((c ≠ 0x07 && c ≠ 0x0A) || opAux op < tensors))]
    else [(0, false)]

/-- Stations whose tables take an entry of a pool: the field of the base and of the count. -/
def Part.poolOwners (x : Part) (j : Nat) (base count : Nat → Nat) : List Nat :=
  (x.sec 0x01).filterMap fun e => if base e ≤ j ∧ j < base e + count e then some (bits e 15 0) else none

def scriptLen (e : Nat) : Nat := bits e 75 64 + bits e 87 76 + bits e 99 88
/-- The stations that run operation `j` of the script pool. -/
def Part.opOwners (x : Part) (j : Nat) : List Nat := x.poolOwners j (fun e => bits e 63 32) scriptLen

/-- The own number `f` of an entry repeats among the first `j` entries. -/
def repeats (es : List (Nat × Nat)) (j : Nat) (f : Nat → Nat) (e : Nat) : Bool := (es.take j).any fun q => f q.2 == f e

/-- A number of a pool entry repeats within a station that owns both entries. -/
def Part.poolRepeats (x : Part) (es : List (Nat × Nat)) (j : Nat) (f base count : Nat → Nat) (e : Nat) : Bool :=
  (x.sec 0x01).any fun t => base t ≤ j && j < base t + count t
    && ((es.take j).drop (base t)).any fun q => f q.2 == f e

/-- A station address that the plan's station table lists. -/
def Part.listed (x : Part) (st : Nat) : Bool := stationOk st && (x.stEntry st).isSome

/-- Decoding checks of one entry. `x` is the partition under the section's SET; `j` is the entry's index. Under DST_KIND 0x3 the tree
is that of TREE, and DST is free (DESIGN CHOICE, log entry 200). -/
def decodeChecks (x : Part) (c : Sect) (j e : Nat) : Checks :=
  let n := fun k => (x.sec k).length
  let tensor := fun t => decide (t < n 0x07)
  match c.kind with
  | 0x01 =>
    [(0, stationOk (bits e 15 0) && !repeats c.entries j (fun q => bits q 15 0) e), (16, bits e 31 16 == 0),
     (32, bits e 63 32 + scriptLen e ≤ n 0x02), (76, 1 ≤ bits e 87 76), (100, bits e 127 100 == 0),
     (128, bits e 159 128 + bits e 166 160 ≤ n 0x03), (160, bits e 166 160 ≤ 64), (167, bits e 191 167 == 0),
     (192, bits e 223 192 + bits e 231 224 ≤ n 0x04), (232, bits e 255 232 == 0),
     (256, bits e 287 256 + bits e 300 288 ≤ n 0x05), (288, bits e 300 288 ≤ 4096), (301, bits e 511 301 == 0)]
  | 0x02 =>
    opFieldChecks x e ++ (x.opOwners j).flatMap fun st =>
      (opRefs e).map (fun r => (r.1, x.refResolves st r.2)) ++
        (if opCode e = 1 ∨ opCode e = 2 then
          [(if opCode e = 1 then 72 else 8, (x.accEntry st (if opCode e = 1 then tmAcc e else teAcc e)).isSome)] else [])
  | 0x03 =>
    [(0, bits e 23 0 % 256 == 0), (24, bits e 25 24 ≠ 3), (27, bits e 31 27 == 0), (32, x.listed (bits e 47 32)),
     (61, bits e 63 61 == 0), (72, descOk (bits e 87 72)), (88, bits e 95 88 == 0),
     (96, bits e 25 24 ≠ 2 || (x.stream (bits e 111 96)).isSome), (112, tensor (bits e 121 112)), (122, bits e 127 122 == 0)]
  | 0x04 =>
    [(0, bits e 7 0 ≠ 0 && !x.poolRepeats c.entries j (fun q => bits q 7 0) (fun t => bits t 223 192) (fun t => bits t 231 224) e),
     (16, descOk (bits e 31 16)), (54, tensor (bits e 63 54))]
  | 0x05 =>
    [(0, !x.poolRepeats c.entries j (fun q => bits q 11 0) (fun t => bits t 287 256) (fun t => bits t 300 288) e),
     (14, bits e 15 14 == 0),
     (16, (x.poolOwners j (fun t => bits t 287 256) fun t => bits t 300 288).all fun st => (x.regionOf st (bits e 21 16)).isSome),
     (22, bits e 31 22 == 0),
     (32, 1 ≤ bits e 42 32 && bits e 42 32 ≤ 1024 && (!bit e 12 || bits e 42 32 == 1)), (43, bits e 63 43 == 0)]
  | 0x06 =>
    let sk := sdSrcKind e
    let dk := sdDstKind e
    [(0, bits e 15 0 ≤ 0xFFFD && !repeats c.entries j (fun q => bits q 15 0) e), (16, descOk (sdFmt e)),
     (32, sk = 0 || sk = 2 || sk = 5),
     (36, if sk = 0 then x.listed (sdSrc e) else if sk = 2 then sdSrc e < 8 else sdSrc e < 64),
     (52, dk ≤ 5 && dk ≠ 2),
     (56, match dk with
        | 0 => x.listed (sdDst e)
        | 1 => sdDst e ≤ 1023 && (x.sec 0x09).any fun g => bits g 9 0 == sdDst e
        | 3 => true
        | 4 => sdDst e < 8
        | _ => sdDst e < 64),
     (94, 1 ≤ sdCredits e), (102, 2 ≤ sdRing e && sdRing e ≤ 510),
     (112, if dk = 3 then (x.sec 0x0C).any fun t => bits t 5 0 == sdTree e else true), (118, tensor (sdTensor e)),
     (128, bits e 255 128 == 0)]
  | 0x07 =>
    let src := bits e 17 16
    let used := fun (v : Nat) => decide (j ≠ 0) || v == 0
    [(0, descOk (bits e 15 0) && used (bits e 15 0)), (16, src ≠ 3 && used src), (18, bits e 31 18 == 0),
     (32, (src = 1 || bits e 63 32 == 0) && used (bits e 63 32)),
     (64, (src ≠ 2 || (x.range (bits e 91 64)).isSome) && used (bits e 91 64)), (92, bits e 127 92 == 0)]
  | 0x08 =>
    (129, bits e 255 129 == 0) :: (List.range 16).flatMap fun i =>
      let t := lambTile e i
      let o := 256 + 128 * i
      if lambPresent e i then
        [(o + 10, ltK t ≤ 2 ^ 24), (o + 49, (x.stream (ltA t)).isSome), (o + 65, (x.stream (ltB t)).isSome),
         (o + 81, (x.stream (ltOut t)).isSome), (o + 97, bits t 127 97 == 0)]
      else [(o, t == 0)]
  | 0x09 =>
    [(0, bits e 9 0 ≠ 0 && !repeats c.entries j (fun q => bits q 9 0 + 1024 * bits q 31 16) e), (10, bits e 15 10 == 0),
     (16, bits e 23 16 < 200), (24, bits e 31 24 < 192), (40, bits e 63 40 == 0)]
  | 0x0A =>
    [(0, x.listed (bits e 15 0)),
     (16, (x.regionOf (bits e 15 0) (bits e 21 16)).isSome && !repeats c.entries j (fun q => bits q 21 0) e),
     (23, bits e 31 23 == 0), (32, (x.sec 0x09).any fun g => bits g 9 0 == bits e 41 32), (42, bits e 127 42 == 0)]
  | 0x0B =>
    [(0, (x.stream (bits e 15 0)).isSome && !repeats c.entries j (fun q => bits q 15 0) e),
     (18, !bit e 17 || bits e 22 18 < 24), (23, bit e 26 || bits e 26 23 == 0), (27, bits e 63 27 == 0)]
  | 0x0C =>
    let ins := bits e 26 24 + 1
    let head : Checks := [(6, bits e 7 6 == 0),
     (8, x.listed (bits e 23 8) && !repeats c.entries j (fun q => bits q 5 0 + 64 * bits q 23 8) e),
     (29, if bit e 28 then bits e 31 29 ≤ 1 else bits e 31 29 == 0),
     (32, if bit e 28 then (if bits e 31 29 = 0 then x.listed (bits e 47 32)
            else bits e 47 32 < 8) else x.listed (bits e 47 32)),
     (48, (x.under 0).listed (bits e 63 48))]
    let last : Checks := [(192, 1 ≤ bits e 199 192), (200, bits e 255 200 == 0)]
    let inputs : Checks := ((List.range 8).map fun i =>
        let v := bits e (16 * i + 79) (16 * i + 64)
        (16 * i + 64, if i < ins then x.listed v else v == 0))
    head ++ inputs ++ last
  | 0x0D =>
    [(0, 4 ≤ bits e 3 0 && !repeats c.entries j (fun q => bits q 3 0) e), (4, bits e 5 4 ≠ 3), (6, bits e 31 6 == 0),
     (32, bits e 63 32 + bits e 79 64 ≤ n 0x19), (64, 1 ≤ bits e 79 64 && bits e 79 64 ≤ 36864), (80, bits e 127 80 == 0)]
  | 0x0E =>
    if j = 0 then [(1, bits e 15 1 == 0), (96, bits e 511 96 == 0)]
    else
      [(0, x.listed (bits e 15 0) && !repeats (c.entries.drop 1) (j - 1) (fun q => bits q 15 0) e),
       (16, x.listed (bits e 31 16)), (48, bits e 127 48 == 0)]
  | 0x0F =>
    [(0, bits e 3 0 ≤ 8), (5, !bit e 4 || bits e 10 5 < n 0x15), (11, bits e 31 11 == 0),
     (128, bits e 511 128 == 0)]
  | 0x10 =>
    [(0, !repeats c.entries j (fun q => bits q 2 0) e), (3, bits e 63 3 == 0),
     (64, bits e 105 64 % 2 ^ 20 == 0), (106, bits e 127 106 == 0), (170, bits e 191 170 == 0), (234, bits e 255 234 == 0),
     (298, bits e 319 298 == 0), (362, bits e 383 362 == 0), (504, bits e 511 504 == 0)]
  | 0x11 =>
    [(0, bits e 27 0 + bits e 55 28 < 2 ^ 28),
     (72, if prFrozen e then prGroup e == 0 else prGroup e < n 0x12),
     (83, bits e 127 83 == 0)]
  | 0x12 => [(7, bits e 31 7 == 0), (456, bits e 511 456 == 0)]
  | 0x13 =>
    [(0, !repeats c.entries j (fun q => bits q 11 0) e), (12, bits e 14 12 ≠ 7),
     (19, bits e 23 19 == 0), (24, bits e 70 24 % 2 ^ 19 == 0), (71, bits e 79 71 == 0),
     (80, bkPages e ≤ 2 ^ (2 + bits e 14 12)), (89, bits e 95 89 == 0), (104, bits e 115 104 + bits e 103 96 + 1 ≤ n 0x14),
     (116, bits e 255 116 == 0)]
  | 0x14 => [(0, (x.stream (segStream e)).isSome), (70, bits e 127 70 == 0)]
  | 0x15 => [(0, bits e 1 0 ≠ 0), (14, bits e 29 14 == 0), (64, bits e 79 64 ≠ 0), (80, bits e 127 80 == 0)]
  | 0x16 => [(0, (x.range (bits e 27 0)).isSome), (28, (x.range (bits e 27 0 + bits e 55 28)).isSome), (60, bits e 63 60 == 0),
     (120, bits e 127 120 == 0)]
  | 0x17 =>
    if j = 0 then
      [(8, bits e 12 8 == 0 || (2 ≤ bits e 12 8 && bits e 12 8 ≤ 16)), (13, bits e 15 13 == 0),
       (16, 1 ≤ bits e 28 16 && bits e 28 16 ≤ 4096), (29, bits e 127 29 == 0)]
    else [(0, !repeats (c.entries.drop 1) (j - 1) (fun q => bits q 11 0) e), (12, bits e 127 12 == 0)]
  | 0x18 =>
    [(0, !repeats c.entries j (fun q => bits q 11 0) e), (32, bits e 34 32 ≤ 4),
     (35, bits e 63 35 == 0), (64, bits e 74 64 ≤ 1024), (99, bits e 127 99 == 0)]
  | 0x19 => [(0, x.listed (bits e 15 0))]
  | 0x1A => [(0, !repeats c.entries j (fun q => bits q 4 0) e), (5, bits e 7 5 == 0), (33, bits e 63 33 == 0)]
  | _ => []

/-- The nested entries of a dead-router record, decoded as those of sections 0x09 and 0x0C (R191). -/
def recordFault (x : Part) (o r : Nat) : Option PlanFault :=
  let ng := bits r 39 32
  let groups := (List.range ng).map fun i => (o + 16 + 168 * i, (r >>> (128 + 1344 * i)) % 2 ^ 1344)
  let nodes := (List.range (bits r 47 40)).map fun i => (o + 16 + 168 * ng + 32 * i, (r >>> (128 + 1344 * ng + 256 * i)) % 2 ^ 256)
  let faultOf := fun kind (l : List (Nat × Nat)) =>
    (l.zipIdx).findSome? fun q => (decodeChecks x ⟨0, kind, 0, l⟩ q.2 q.1.2).fault 0x2004 q.1.1
  match faultOf 0x09 groups with
  | some f => some f
  | none => faultOf 0x0C nodes

/-- The first fault of a kind of checks over a section, entry by entry. -/
def Sect.scan (c : Sect) (f : Nat → Nat → Checks) (status : Nat := 0x2004) : Option PlanFault :=
  (c.entries.zipIdx).findSome? fun q => (f q.2 q.1.2).fault status q.1.1

/-- The first fault of a section's decoding. Scripts, slots and accumulator tiles resolve at the stations of every set. A partner
table of more than 4,096 entries is refused for capacity at COUNT before its entries are decoded (DESIGN CHOICE, log entry
202). -/
def decodeFault (x : Part) (pl : Plan) (c : Sect) : Option PlanFault :=
  if c.kind = 0x0F ∧ c.entries.length ≠ 1 then some (0x2004, c.dir + 4)
  else if (c.kind = 0x07 ∨ c.kind = 0x08) ∧ 1024 < c.entries.length then some (0x2004, c.dir + 4)
  else if c.kind = 0x14 ∧ 4096 < c.entries.length then some (0x2004, c.dir + 4)
  else if (c.kind = 0x12 ∧ 16 < c.entries.length) ∨ (c.kind = 0x15 ∧ 64 < c.entries.length) then some (0x2004, c.dir + 4)
  else if c.kind = 0x17 ∧ c.entries.length ≠ (x.under c.set).ranks + 1 then some (0x2004, c.dir + 4)
  else if c.kind = 0x18 ∧ 4096 < c.entries.length then some (0x5002, c.dir + 4)
  else match c.scan fun j e =>
      (if c.kind = 0x02 ∨ c.kind = 0x04 ∨ c.kind = 0x05 then pl.views x c else [x.under c.set]).flatMap fun y =>
        decodeChecks y c j e with
    | some f => some f
    | none =>
      if c.kind = 0x0E then (c.entries.drop 1).findSome? fun q => recordFault (x.under 0) q.1 q.2
      else none

/-! ### Step 5: the rules of entries and sections -/

/-- R59: TENSOR is nonzero exactly under SCALING 0b01 and names an entry of the same FORMAT and SCALING. -/
def Part.tensorOk (x : Part) (fmt t : Nat) : Bool :=
  if bits fmt 5 4 = 1 then t ≠ 0 && bits (x.tensor t) 5 0 == bits fmt 5 0 else t == 0

/-- R163: the kinds of operand: none, stream, slot, bank, accumulator tile. -/
def Ref.kindIn (r : Ref) (none stream slot bank acc : Bool) : Bool :=
  match r with
  | .none => none
  | .stream _ => stream
  | .slot _ => slot
  | .bank _ _ _ => bank
  | .acc _ => acc

def Ref.isStream : Ref → Bool
  | .stream _ => true
  | _ => false

/-- R163, R171: operand kinds and header bits of an operation. -/
def opRuleChecks (op : Nat) : Checks :=
  let c := opCode op
  let vsb := fun (r : Ref) => r.kindIn false true true true false
  let opt := fun (r : Ref) => r.kindIn true true true true false
  let none := fun (r : Ref) => r.kindIn true false false false false
  let source : Bool := match c with
    | 0x01 => (tmA op).isStream || (tmB op).isStream || tmFlock op
    | 0x02 => (teC op).isStream
    | _ => (opSrc1 op).isStream || (opSrc2 op).isStream || (opSrc3 op).isStream
  [(5, !opDefer op || !(c = 0x06 || c = 0x0A || c = 0x0B || c = 0x0C)), (6, !opHold op || source), (7, !opStepAcc op || c = 1)] ++
  match c with
  | 0x01 => if tmFlock op then [(53, tmFold op == 0)] else [(84, vsb (tmA op)), (106, vsb (tmB op))]
  | 0x02 =>
    [(20, if teFlock op then none (teOut op) else vsb (teOut op)), (42, opt (teC op)),
     (64, (!teFlock op || teFuse op == 0) && (teFuse op ≠ 0 || teC op = .none))]
  | 0x03 => [(16, (opDst op).kindIn false false true false false), (38, (opSrc1 op).kindIn false false false true false),
      (60, none (opSrc2 op)), (82, none (opSrc3 op))]
  | 0x04 => [(16, (opDst op).kindIn false false false true false), (38, (opSrc1 op).kindIn false false true false false),
      (60, none (opSrc2 op)), (82, none (opSrc3 op))]
  | 0x05 => [(16, (opDst op).isStream), (38, (opSrc1 op).kindIn false false true true false),
      (60, none (opSrc2 op)), (82, none (opSrc3 op))]
  | 0x06 => [(16, (opDst op).kindIn false false true true false), (38, (opSrc1 op).isStream),
      (60, none (opSrc2 op)), (82, none (opSrc3 op))]
  | 0x07 =>
    let v := opVop op
    let b := 1 ≤ vopFull v || vopRow v || vopCol v
    [(16, vsb (opDst op)), (38, vsb (opSrc1 op)), (60, if b then vsb (opSrc2 op) else none (opSrc2 op)),
     (82, if v = 4 then vsb (opSrc3 op) else none (opSrc3 op))]
  | 0x08 => [(16, vsb (opDst op)), (38, vsb (opSrc1 op)), (60, none (opSrc2 op)), (82, none (opSrc3 op))]
  | 0x09 =>
    let isAcc := fun (r : Ref) => r.kindIn false false false false true
    [(16, if bit op 8 then isAcc (opDst op) else vsb (opDst op)), (38, if bit op 8 then vsb (opSrc1 op) else isAcc (opSrc1 op)),
     (60, none (opSrc2 op)), (82, none (opSrc3 op))]
  | 0x0A => [(16, opt (opDst op)), (38, vsb (opSrc1 op)),
      (60, none (opSrc2 op)), (82, none (opSrc3 op))]
  | 0x0B => [(9, !bit op 9 || bit op 8), (16, none (opDst op)), (38, none (opSrc1 op)), (60, none (opSrc2 op)), (82, none (opSrc3 op))]
  | _ => [(16, none (opDst op)), (38, none (opSrc1 op)), (60, none (opSrc2 op)), (82, none (opSrc3 op))]

/-- Bytes of a region. -/
def regionBytes (e : Nat) : Nat := (bits e 60 48 + 1) * regionTileBytes e

/-- R338: the faults of an optimiser group, by field. -/
def groupChecks (g : Nat) : Checks :=
  let real := fun (lo : Nat) => let v := bits g (lo + 31) lo; bits v 30 23 ≠ 255 && (v < 2 ^ 31 || v == 2 ^ 31)
  let val := fun (lo : Nat) => (f32 (bits g (lo + 31) lo)).val
  let adam := goOpt g = 1 || goOpt g = 3
  [(32, real 32 && decide (val 32 < 1)), (64, real 64 && decide (val 64 < 1) && (goOpt g ≠ 0 || bits g 95 64 == 0)),
   (96, real 96 && (!adam || decide (val 96 ≠ 0))), (128, real 128), (160, real 160),
   (192, real 192 && decide (val 192 ≤ val 160)),
   (224, real 224 && (goSched g ≠ 3 || (decide (0 < val 224) && decide (val 224 ≤ 1)))),
   (256, real 256 && (!goClipEn g || decide (val 256 ≠ 0))),
   (328, goSched g ≠ 1 || goWarmup g < goTotal g), (360, !(goSched g = 1 || goSched g = 2) || goTotal g ≠ 0),
   (392, goSched g ≠ 3 || goPeriod g ≠ 0), (424, real 424 && (goOpt g ≠ 3 || decide (val 424 ≠ 0)))]

/-- R125: blocks of the 4 × 4 grid that a lamb covers. -/
def lambBlocks (b : Nat) : List (Nat × Nat) :=
  let sh := lambShape (bits b 6 4)
  (List.range (sh.1 / 8)).flatMap fun r => (List.range (sh.2 / 8)).map fun c => (bits b 1 0 + r, bits b 3 2 + c)

/-- R125, R126: checks of a flock entry. -/
def flockChecks (x : Part) (e : Nat) : Checks :=
  let ls := lambs e
  (0, ls ≠ []) :: ls.flatMap fun i =>
    let b := lambByte e i
    let t := lambTile e i
    let fmtOf := fun id => (x.descOf 0 (.stream id)).fmt
    let gang := (fmtOf (ltA t)).wide || (fmtOf (ltB t)).wide
    let cls := fun l => (rho (fmtOf (ltA (lambTile e l))) (fmtOf (ltB (lambTile e l))),
      (fmtOf (ltA (lambTile e l))).wide || (fmtOf (ltB (lambTile e l))).wide)
    [(8 * i, bits b 6 4 ≠ 7 && (lambBlocks b).all (fun q => q.1 ≤ 3 && q.2 ≤ 3)
        && (ls.filter (· < i)).all fun l => !((lambBlocks (lambByte e l)).any fun q => (lambBlocks b).contains q)),
     (256 + 128 * i, ltM t ≤ (lambShape (bits b 6 4)).1),
     (256 + 128 * i + 5, ltN t ≤ (lambShape (bits b 6 4)).2 / (if gang then 2 else 1)),
     (256 + 128 * i + 10, (!(x.descOf 0 (.stream (ltA t))).mx && !(x.descOf 0 (.stream (ltB t))).mx) || ltK t % 32 == 0),
     (256 + 128 * i + 49, (ls.take 1).all fun l => cls l == cls i),
     (256 + 128 * i + 81, (ls.filter (· < i)).all fun l => ltOut (lambTile e l) ≠ ltOut t)]

/-- R311, R312: segments of a bucket cover its parameters exactly once. -/
def segmentsCover (segs : List Nat) (total : Nat) : Bool :=
  (segs.foldl (fun n e => n + segCount e) 0) == total
    && segs.all (fun e => segOffset e + segCount e ≤ total)
    && (segs.zipIdx).all fun q => (segs.take q.2).all fun e =>
      !overlap (segOffset e) (segCount e) (segOffset q.1) (segCount q.1)

/-- R234: every node of a tree reaches the root through its parents. -/
def reachesRoot (nodes : List Nat) : Nat → Nat → Bool
  | 0, _ => false
  | n + 1, site =>
    match nodes.find? fun e => bits e 23 8 == site with
    | some e => bit e 28 || reachesRoot nodes n (bits e 47 32)
    | none => false

/-- R234: the nodes of an entry's tree form one tree with exactly one root. -/
def treeOk (all : List Nat) (e : Nat) : Bool :=
  let nodes := all.filter fun q => bits q 5 0 == bits e 5 0
  (nodes.filter fun q => bit q 28).length == 1 && reachesRoot nodes nodes.length (bits e 23 8)
    && (bit e 28 || nodes.any fun q => bits q 23 8 == bits e 47 32 && (nodeInputs q).contains (bits e 23 8))

/-- Group entries and tree nodes at one router, with the buffers that they reserve (R235). -/
def Part.routerBuffers (x : Part) (gx gy : Nat) : Nat :=
  let tile := fun e => (streamSpace e).bytes
  let trees := ((x.sec 0x0C).filter fun e => siteGx (bits e 23 8) == gx && siteGy (bits e 23 8) == gy).foldl (fun n e =>
    let size := ((x.sec 0x06).filter fun q => sdDstKind q == 3 && sdTree q == bits e 5 0).foldl (fun m q => max m (tile q)) 0
    n + (bits e 26 24 + 1) * bits e 199 192 * size) 0
  let groups := ((x.sec 0x09).filter fun e => bits e 23 16 == gx && bits e 31 24 == gy).foldl (fun n e =>
    let size := ((x.sec 0x06).filter fun q => sdDstKind q == 1 && sdDst q == bits e 9 0).foldl (fun m q => max m (tile q)) 0
    let merged := ((x.sec 0x0A).filter fun q => bits q 41 32 == bits e 9 0).foldl (fun m q =>
      match x.regionOf (bits q 15 0) (bits q 21 16) with
      | some r => max m (regionTileBytes r)
      | none => m) size
    n + bits e 39 32 * merged) 0
  trees + groups
where
  siteGx (st : Nat) : Nat := 25 * (stField st % 8) + stCol st
  siteGy (st : Nat) : Nat := 24 * (stField st / 8) + stRow st

/-- The masks of a group entry: N, E, S, W, local. -/
def groupMask (e i : Nat) : Nat := bits e (64 + 256 * i + 255) (64 + 256 * i)

/-- R228: member `i` is led from a router to its home router in fewer than `n` hops; `all` are the entries of the group. -/
def groupLeads (all : List Nat) (i : Nat) : Nat → Nat → Nat → Bool
  | 0, _, _ => false
  | n + 1, gx, gy =>
    match all.find? fun q => bits q 23 16 == gx && bits q 31 24 == gy with
    | none => false
    | some e =>
      match (List.range 5).find? fun p => bit (groupMask e p) i with
      | none => false
      | some 4 => true
      | some p =>
        match portSite gx gy p with
        | some (x, y) => groupLeads all i n x y
        | none => false

/-- R228: masks do not share a bit; each bit leads to its home, which is one router. -/
def groupOk (all : List Nat) (e : Nat) : Bool :=
  let m := (List.range 5).map (groupMask e)
  let own := all.filter fun q => bits q 9 0 == bits e 9 0
  ((List.range 5).all fun i => (List.range i).all fun j => (m.getD i 0) &&& (m.getD j 0) == 0)
    && ((List.range 256).all fun i => !(m.any fun v => bit v i) || groupLeads own i own.length (bits e 23 16) (bits e 31 24))
    && own.all fun q =>
      (bits q 31 16 == bits e 31 16) || (groupMask q 4 &&& m.getD 4 0) == 0

/-- R254, R412: a router that is dead, or within two sites of a dead router other than that of the record, takes nothing over.
(DEDUCED, log entry 213) -/
def State.takerExcluded (s : State) (site taker : Nat) : Bool :=
  let gx (st : Nat) : Nat := 25 * (stField st % 8) + stCol st
  let gy (st : Nat) : Nat := 24 * (stField st / 8) + stRow st
  (List.range 64).any fun f => (s.field f).dead.any fun d =>
    let x := 25 * (f % 8) + d.2
    let y := 24 * (f / 8) + d.1
    (x ≠ gx site || y ≠ gy site) && x ≤ gx taker + 2 && gx taker ≤ x + 2 && y ≤ gy taker + 2 && gy taker ≤ y + 2

/-- The rules of one entry and its section. A context of a tree edge, a bypass or a buddy has WATCH (R421, R432). -/
def ruleChecks (s : State) (x : Part) (c : Sect) (j e : Nat) : Checks :=
  match c.kind with
  | 0x01 =>
    let st := bits e 15 0
    [(0, x.rows.getLsbD (fieldRow (stField st)) && (c.set < 0x40 || stField st ≠ c.set - 0x40)
        && (j = 0 || (match c.entries[j - 1]? with | some q => bits q.2 15 0 < st | none => true))),
     (64, scriptLen e ≤ 4096)]
  | 0x02 => opRuleChecks e
  | 0x03 =>
    let own := fun (st : Nat) => bits e 47 32 == st
    let used := fun (i : Nat) => x.poolOwners i (fun t => bits t 159 128) (fun t => bits t 166 160) ≠ []
    [(0, bits e 23 0 + regionBytes e ≤ 0xE00000
        && (!used j || (c.entries.take j).zipIdx.all fun q => bits q.1.2 47 32 ≠ bits e 47 32 || !used q.2
          || (bits q.1.2 23 0 == bits e 23 0 && regionBytes q.1.2 == regionBytes e)
          || !overlap (bits e 23 0) (regionBytes e) (bits q.1.2 23 0) (regionBytes q.1.2))
        && (x.poolOwners j (fun t => bits t 159 128) fun t => bits t 166 160).all fun st => !own st ||
          match x.stEntry st with
          | none => true
          | some t => ((x.regionsOf st).zipIdx).all fun q =>
            q.2 + bits t 159 128 == j || bits q.1 47 32 ≠ st
              || !overlap (bits e 23 0) (regionBytes e) (bits q.1 23 0) (regionBytes q.1)),
     (64, bits e 25 24 == 1 || 1 ≤ (regionSpace e).elems), (112, x.tensorOk (bits e 87 72) (bits e 121 112))]
  | 0x04 =>
    let sp := slotSpace e
    [(8, sp.bytes ≤ 256 * (bits e 15 8 + 1)), (42, !sp.desc.mx || sp.cols % 32 == 0), (54, x.tensorOk (bits e 31 16) (bits e 63 54))]
  | 0x05 =>
    [(16, (x.poolOwners j (fun t => bits t 287 256) fun t => bits t 300 288).all fun st =>
        match x.regionOf st (bits e 21 16) with
        | some r => bits r 25 24 == 1 && bits r 47 32 == st && 2 * bits e 42 32 * 27392 ≤ regionBytes r
        | none => false),
     (16, !x.poolRepeats c.entries j (fun q => bits q 21 16) (fun t => bits t 287 256) (fun t => bits t 300 288) e)]
  | 0x06 =>
    let sp := streamSpace e
    let station := x.inbound
    [(52, sdDstKind e ≠ 4 || sdBucket e), (72, sp.bytes ≤ 65536), (82, !sp.desc.mx || sp.cols % 32 == 0),
     (102, 2 * sdCredits e ≤ sdRing e || !(x.sec 0x01).any fun t => station (bits t 15 0) e),
     (118, x.tensorOk (sdFmt e) (sdTensor e))]
  | 0x08 => flockChecks x e
  | 0x09 =>
    [(0, ((x.sec 0x09).filter fun q => bits q 31 16 == bits e 31 16).length ≤ 64),
     (32, x.routerBuffers (bits e 23 16) (bits e 31 24) ≤ 2 ^ 18), (64, groupOk (x.sec 0x09) e)]
  | 0x0C =>
    [(0, treeOk (x.sec 0x0C) e), (8, ((x.sec 0x0C).filter fun q => bits q 23 8 == bits e 23 8).length ≤ 16),
     (64, let nodes := (x.sec 0x0C).filter fun q => bits q 5 0 == bits e 5 0
        (nodeInputs e).all fun v => contributes nodes e v = 0 ||
          nodes.foldl (fun n q => n + contributes nodes q v) 0 == 1),
     (192, x.routerBuffers (Part.routerBuffers.siteGx (bits e 23 8)) (Part.routerBuffers.siteGy (bits e 23 8)) ≤ 2 ^ 18)]
  | 0x0E =>
    if j = 0 then [(0, !bit e 0 || bits e 31 16 ≤ 320)]
    else [(16, bits e 31 16 ≠ bits e 15 0 && !s.takerExcluded (bits e 15 0) (bits e 31 16))]
  | 0x10 =>
    let k := bits e 2 0
    ([(64, bits e 105 64, bits e 407 384), (128, bits e 169 128, bits e 431 408), (192, bits e 233 192, bits e 455 432),
      (256, bits e 297 256, bits e 479 456), (320, bits e 361 320, bits e 503 480)].map fun (o, a, m) =>
        (o, m == 0 || a / 2 ^ 39 == k)) ++
    (let areas := [(bits e 105 64, bits e 407 384), (bits e 169 128, bits e 431 408), (bits e 233 192, bits e 455 432),
        (bits e 297 256, bits e 479 456), (bits e 361 320, bits e 503 480)]
     let bases := [64, 128, 192, 256, 320]
     (areas.zipIdx).map fun q => (bases.getD q.2 64,
       (areas.take q.2).all fun a => !overlap a.1 (a.2 * 2 ^ 20) q.1.1 (q.1.2 * 2 ^ 20)))
  | 0x11 =>
    [(0, j = 0 || (match c.entries[j - 1]? with | some q => bits q.2 27 0 + bits q.2 55 28 < bits e 27 0 | none => true)),
     (80, !prFrozen e || !bit e 80)]
  | 0x12 => if (x.sec 0x11).any fun p => !prFrozen p && prGroup p == j then groupChecks e else []
  | 0x15 =>
    [(30, ((c.entries.take j).all fun q => bits q.2 13 2 ≠ bits e 13 2
        || !overlap (bits q.2 63 30) (bits q.2 79 64) (bits e 63 30) (bits e 79 64)))]
  | 0x16 =>
    let ok := fun (b : Nat) => ((List.range (bits e 55 28 + 1)).all fun i =>
      match x.range (bits e 27 0 + i) with | some r => bit r b | none => false)
    [(56, (!bit e 56 || ok 82) && (!bit e 57 || ok 80 || ok 82) && (!bit e 58 || ok 81 || ok 82))]
  | 0x18 =>
    [(15, (bits e 34 32 ≠ 3 || bits e 26 15 ≠ s.selfId) && !repeats c.entries j (fun q => bits q 29 12) e), (30, bits e 34 32 == 2 || bit e 30)]
  | 0x1A =>
    let v := bits e 15 8 + bits e 23 16 * 2 ^ 8 + bits e 31 24 * 2 ^ 16 + b2n (bit e 32) * 2 ^ 24
    [(8, !regRefused v ((s.stack (bits e 4 0)).guarantees (planPartition x)))]
  | _ => []
where
  planPartition (x : Part) : Nat := match x.plan with | some p => p.partition | none => 0

/-- The rules of a section as a whole: every station of the rows appears; the module's ID appears in the herd list; every
stream has a route; BOUNDED, variants. -/
def sectionFault (s : State) (x : Part) (pl : Plan) (c : Sect) : Option PlanFault :=
  match c.kind with
  | 0x01 =>
    let fields := x.fields.filter fun f => c.set < 0x40 || f ≠ c.set - 0x40
    if c.entries.length = 576 * fields.length then none else some (0x2004, c.dir + 4)
  | 0x0B =>
    if (x.sec 0x06).all fun e => c.entries.any fun q => bits q.2 15 0 == bits e 15 0 then none else some (0x2004, c.dir + 4)
  | 0x17 => if (x.rankOf s.selfId).isSome then none else some (0x2004, c.dir + 4)
  | 0x0E =>
    let mask := bits ((c.entries.getD 0 (0, 0)).2) 95 32
    let off := (c.entries.getD 0 (0, 0)).1
    if (List.range 64).all fun f =>
        (!bit mask f || (x.fields.contains f && pl.hasSec (0x40 + f) 0x01 && pl.hasSec (0x40 + f) 0x0B))
          && (bit mask f || !(pl.sections.any fun q => q.set == 0x40 + f))
    then none else some (0x2004, off + 4)
  | _ => none

def ruleFault (s : State) (x : Part) (pl : Plan) (c : Sect) : Option PlanFault :=
  match c.scan fun j e => (pl.views x c).flatMap fun y => ruleChecks s y c j e with
  | some f => some f
  | none => sectionFault s (x.under c.set) pl c

/-! ### Step 6: the rules that join sections -/

/-- The lowest bit of the reference field of an operation that names a reference. -/
def refField (op : Nat) (r : Ref) : Nat :=
  match (opRefs op).find? fun q => Ref.decode q.2 = r with
  | some q => q.1
  | none => 0

/-- R562, R564: the images of an access exist at the station. -/
def Part.accessFits (x : Part) (st : Nat) (a : Access) : Bool :=
  match a.ref with
  | .slot n =>
    match x.slotEntry st n with
    | some e => a.images * (slotSpace e).bytes ≤ 256 * (bits e 15 8 + 1)
    | none => false
  | .bank r _ _ =>
    match x.regionOf st r with
    | some e => a.first + a.images ≤ bits e 60 48 + 1
    | none => false
  | _ => true

/-- A stream or slot operand's image has the shape of its part (R563). -/
def Part.shapeIs (x : Part) (st : Nat) (r : Ref) (rows cols : Nat) : Bool :=
  match r with
  | .slot _ => match x.space st r with | some sp => sp.rows == rows && sp.cols == cols | none => false
  | .stream _ => match x.space st r with | some sp => sp.rows == rows && sp.cols == cols | none => false
  | _ => true

/-- R563: the shapes of a TVEC, TFUN or TSCALE. -/
def Part.shapeChecks (x : Part) (st op : Nat) : Checks :=
  let (r, c) := x.opShape st op
  let v := opVop op
  let vec := opCode op = 0x07
  [(16, if vec && vopReduce v then x.shapeIs st (opDst op) r 1 else x.shapeIs st (opDst op) r c),
   (38, x.shapeIs st (opSrc1 op) r c),
   (60, if vec && vopRow v then x.shapeIs st (opSrc2 op) r 1 else if vec && vopCol v then x.shapeIs st (opSrc2 op) 1 c
        else x.shapeIs st (opSrc2 op) r c),
   (82, x.shapeIs st (opSrc3 op) r c)]

/-- Operations that stand before one in a station's fence interval (R152): those since the last TFENCE, through the former
pass of the script, or MICRO before TAIL. Those towards a bucket stream read nothing in a pass that is not the last, and in
EVAL (R146). -/
def Part.interval (x : Part) (st : Nat) (sc : Script) (idx : Nat) : List (Script × Nat × Nat) :=
  let once : Bool := match x.plan with | some p => decide (p.maxMicro ≤ 1) | none => true
  let before : List Nat := match sc with
    | .tail => x.script st .micro
    | .micro => if once then [] else x.script st .micro
    | other => x.script st other
  let name : Script := if sc = .tail then .micro else sc
  let runs (q : Script × Nat × Nat) : Bool := !x.toBucket st q.1 q.2.1 q.2.2
  let prior := (before.mapIdx fun i o => (name, i, o)).filter (fun q => sc == .tail || runs q)
    ++ (((x.script st sc).take idx).mapIdx fun i o => (sc, i, o)).filter fun q => sc != .eval || runs q
  (prior.reverse.takeWhile fun q => opCode q.2.2 ≠ 0x0B)

/-- R151, R152: what an operation writes to the bank is the station's own, and was neither written nor read in the interval,
nor is read by the operation itself. -/
def Part.intervalOk (x : Part) (st : Nat) (sc : Script) (idx op : Nat) : Bool :=
  let bank := fun (a : Access) => match a.ref with | .bank _ _ _ => true | _ => false
  ((x.opWrites st sc idx op).filter bank).all fun a =>
    (match a.ref with
     | .bank r _ _ => (match x.regionOf st r with | some e => bits e 47 32 == st | none => false)
     | _ => true)
    && !((x.opReads st sc idx op).any fun b => b.meets a)
    && (x.interval st sc idx).all fun q =>
      !((x.opReads st q.1 q.2.1 q.2.2 ++ x.opWrites st q.1 q.2.1 q.2.2).any fun b => b.meets a)

/-- Elements of a format that the array takes (R114, R113). -/
def arrayFmt (d : Desc) : Bool := d.fmt.code ≤ 7

/-- R204: an accumulator tile that a TEPI of the station reads towards a bucket stream. -/
def Part.gradTile (x : Part) (st acc : Nat) : Bool :=
  (x.allOps st).any fun q => opCode q.2.2 == 2 && teAcc q.2.2 == acc && x.toBucket st q.1 q.2.1 q.2.2

/-- R204: checks of an operation on a weight-gradient tile. A TMUL of TAIL is later than those of MICRO, and EVAL has a first TMUL of
its own (DESIGN CHOICE, log entry 203). -/
def Part.gradChecks (x : Part) (st : Nat) (sc : Script) (idx op : Nat) : Checks :=
  match opAcc op with
  | none => []
  | some acc =>
    if x.gradTile st acc = false then []
    else match opCode op with
      | 0x01 =>
        let first := !((x.allOps st).any fun q => opCode q.2.2 == 1 && tmAcc q.2.2 == acc
          && ((q.1 = .micro && sc = .tail) || (q.1 = sc && q.2.1 < idx)))
        [(5, opDefer op), (7, !first || opStepAcc op), (57, if first then !tmCont op else tmCont op)]
      | 0x02 =>
        let before := fun (q : Script × Nat × Nat) => q.1 ≠ sc && (q.1 = .micro || sc = .eval) || (q.1 = sc && q.2.1 < idx)
        [(5, opDefer op), (8, x.toBucket st sc idx op
          && !((x.allOps st).any fun q => before q && opCode q.2.2 == 2 && teAcc q.2.2 == acc))]
      | _ => [(if bit op 8 then 16 else 38, false)]

/-- R203: a DERIV TFUN of MICRO follows its forward reading of the same saved region. -/
def Part.derivOk (x : Part) (st : Nat) (sc : Script) (idx op : Nat) : Bool :=
  sc ≠ .micro || !bit op 14 ||
    ((opSrc1 op).kindIn false false false true false &&
      ((x.script st .micro).take idx).any fun o =>
        opCode o == 0x08 && !bit o 14 && bits o 13 8 == bits op 13 8 && (opSrc1 o).sameObject (opSrc1 op)
          && decide ((range o) = (range op)))
where
  range (o : Nat) : Nat × Nat :=
    let s := x.opShape st o
    let a := x.acc st (opSrc1 o) (s.1 * s.2)
    (a.first, a.images)

/-- Slots, regions and streams of one direction: streams written are outbound, streams read inbound (R163). -/
def Part.directionOk (x : Part) (st : Nat) (r : Ref) (out : Bool) : Bool :=
  match r with
  | .stream id => match x.stream id with | some e => if out then x.outbound st e else x.inbound st e | none => false
  | _ => true

/-- R162, R171: T only without MX scaling; it affects only TMUL operands. -/
def Part.transOk (x : Part) (st : Nat) (r : Ref) : Bool := !r.transposed || !(x.descOf st r).mx

/-- R75: the elements that an operation and those before it carry, in one micro-step, on the operation's streams and in
slot and bank results of its class. -/
def Part.carriedOk (x : Part) (st : Nat) (sc : Script) (idx op : Nat) : Bool :=
  let label := fun (q : Script × Nat × Nat) => x.toBucket st q.1 q.2.1 q.2.2 || q.1 = .tail
  let upTo := (x.allOps st).filter fun q =>
    if label (sc, idx, op) then label q && (q.1 ≠ sc || q.2.1 ≤ idx) else !label q && q.1 = sc && q.2.1 ≤ idx
  let on := fun (a : Access) => match a.ref with | .stream id => some (id, a.images * (match x.stream id with | some e => sdElems e | none => 0)) | _ => none
  let cls := convClass op
  ((x.opWrites st sc idx op).all fun a => match on a with
    | some (id, _) => upTo.foldl (fun n q => (x.opWrites st q.1 q.2.1 q.2.2).foldl (fun m b => match on b with
        | some (i, k) => if i = id then m + k else m
        | none => m) n) 0 ≤ 2 ^ 32
    | none => true)
  && (cls = none || upTo.foldl (fun n q =>
    if convClass q.2.2 = cls then n + x.localElems st q.1 q.2.1 q.2.2 else n) 0 ≤ 2 ^ 32)

/-- The checks of an operation in its place, an unwritten destination of a TSCALE among them (R171): directions, formats, extents, fence intervals, weight gradients. -/
def Part.opJoinChecks (x : Part) (st : Nat) (sc : Script) (idx op : Nat) : Checks :=
  let c := opCode op
  let d := fun r => x.descOf st r
  let unwritten := if c = 0x0A ∧ opDst op ≠ .none ∧ bit op 9 = false then
      [x.acc st (opDst op) ((x.opShape st op).1 * (x.opShape st op).2)] else []
  let fits : Checks := (x.opReads st sc idx op ++ x.opWrites st sc idx op ++ unwritten).map fun a => (refField op a.ref, x.accessFits st a)
  let trans : Checks := (opRefs op).map fun q => (q.1, x.transOk st (Ref.decode q.2))
  let own : Checks := match c with
    | 0x01 =>
      let e := x.accEntry st (tmAcc op)
      let prior := x.layoutOps st sc idx (tmAcc op)
      let cont := tmCont op || opStepAcc op
      let same := (if tmCont op then prior else prior.take 1).all fun t => x.sameTile t op
      let gang := x.tmulGang st op
      if tmFlock op then
        let fl := x.flock (tmM op - 1)
        [(8, sc = .eval || flockRetry fl), (57, !cont || same),
         (72, match e with | some a => bit a 12 && bit a 13 == gang | none => false),
         (8, (lambs fl).all fun i =>
            let t := lambTile fl i
            x.directionOk st (.stream (ltA t)) false && x.directionOk st (.stream (ltB t)) false
              && x.directionOk st (.stream (ltOut t)) true && arrayFmt (d (.stream (ltA t))) && arrayFmt (d (.stream (ltB t))))]
      else
        [(28, (!(d (tmA op)).mx && !(d (tmB op)).mx) || tmK op % 32 == 0), (57, !cont || same),
         (72, match e with
            | some a => !bit a 12 && bit a 13 == gang
                && numBlocks gang (tmM op) (tmN op) (chooseFold gang (tmM op) (tmN op) (tmFold op)) ≤ bits a 42 32
            | none => false),
         (84, x.directionOk st (tmA op) false && arrayFmt (d (tmA op))),
         (106, x.directionOk st (tmB op) false && arrayFmt (d (tmB op)))]
    | 0x02 =>
      let flk := match x.accEntry st (teAcc op) with | some a => bit a 12 | none => false
      let wide := (x.opWrites st sc idx op).all fun a =>
        !(d a.ref).mx || (match a.ref with | .bank _ _ _ => false | _ => decide (a.images ≤ 1))
      let cols := match x.layoutOp st sc idx (teAcc op) with
        | none => []
        | some t => if tmFlock t then (lambs (x.flock (tmM t - 1))).map fun i => ltN (lambTile (x.flock (tmM t - 1)) i) else [tmN t]
      [(8, (x.layoutOp st sc idx (teAcc op)).isSome && flk == teFlock op), (20, x.directionOk st (teOut op) true),
       (20, wide || cols.all fun n => n % 32 == 0),
       (20, teFuse op ≠ 1 || (d (teC op)).fmt ≠ .fp32 || teC op = .none || ((d (teOut op)).fmt = .fp32 && (d (teOut op)).scaling = 0)),
       (42, x.directionOk st (teC op) false)]
    | 0x08 =>
      [(8, x.derivOk st sc idx op), (16, (d (opDst op)).fmt.code ≤ 8 && x.directionOk st (opDst op) true),
       (38, (d (opSrc1 op)).fmt.code ≤ 8 && x.directionOk st (opSrc1 op) false)] ++ x.shapeChecks st op
    | 0x09 =>
      let r := if bit op 8 then opSrc1 op else opDst op
      [(if bit op 8 then 38 else 16, x.directionOk st r (!bit op 8) && (d r).fmt = .l192
          && (match x.space st r with | some sp => sp.elems == 1024 | none => false))]
    | 0x0B => [(9, if bit op 9 then sc = .tail && idx + 1 == (x.script st .tail).length else true),
        (10, !bit op 10 || (sc = .micro && !((x.script st .micro).take idx).any fun o => opCode o == 0x0B && bit o 10))]
    | 0x0C => [(9, (x.sec 0x0D).any fun e => bits e 3 0 == bits op 12 9)]
    | _ =>
      let mover := 3 ≤ c && c ≤ 6
      let src := x.space st (opSrc1 op)
      let dst := x.space st (opDst op)
      let moves := match src, dst with
        | some a, some b => decide (a.desc = b.desc) && a.elems ≤ b.elems
        | _, _ => false
      [(16, x.directionOk st (opDst op) true && (!mover || moves)), (38, x.directionOk st (opSrc1 op) false),
       (60, x.directionOk st (opSrc2 op) false), (82, x.directionOk st (opSrc3 op) false)]
      ++ (if mover then [] else x.shapeChecks st op)
  own ++ trans ++ fits ++ [(if c = 2 then 20 else 16, x.intervalOk st sc idx op && x.carriedOk st sc idx op)] ++ x.gradChecks st sc idx op

/-- Script and index of an operation of the pool at a station. -/
def Part.placeOf (x : Part) (st j : Nat) : Option (Script × Nat) :=
  match x.stEntry st with
  | none => none
  | some e =>
    let i := j - bits e 63 32
    let m := bits e 75 64
    let t := bits e 87 76
    if i < m then some (.micro, i) else if i < m + t then some (.tail, i - m) else some (.eval, i - m - t)

/-- Elements that a station's scripts send on a stream in one step (R312). -/
def Part.elemsSent (x : Part) (st id : Nat) : Nat :=
  (x.allOps st).foldl (fun n q =>
    if q.1 = .eval then n
    else (x.opWrites st q.1 q.2.1 q.2.2).foldl (fun m a =>
      if a.ref = .stream id then
        m + a.images * (match x.stream id with | some e => sdElems e | none => 0)
      else m) n) 0

/-- A station's scripts send on a stream. -/
def Part.sends (x : Part) (st id : Nat) : Bool :=
  (x.allOps st).any fun q => (x.opWrites st q.1 q.2.1 q.2.2).any fun a => a.ref == .stream id

/-- R312: a bucket's stream ends at its Keeper, and carries what the scripts send: each station that sends on it sends the
segment's elements, and one does. -/
def Part.segmentOk (x : Part) (k seg : Nat) : Bool :=
  match x.stream (segStream seg) with
  | none => false
  | some e =>
    let d := Desc.decode (sdFmt e)
    d.fmt = .fp32 && d.scaling == 0 && d.grad && sdBucket e
      && ((sdDstKind e == 4 && sdDst e == k)
        || (sdDstKind e == 3 && (x.sec 0x0C).any fun n => bits n 5 0 == sdTree e && bit n 28 && bits n 31 29 == 1 && bits n 34 32 == k))
      && (let sent := (x.planStations.map fun st => x.elemsSent st (segStream seg)).filter (· ≠ 0)
        sent ≠ [] && sent.all fun n => n == segCount seg)

/-- The joining rules of one entry under a set in which its section is in force. The stream of a ring region is inbound at OWNER in
every set that lists OWNER (DESIGN CHOICE, log entry 201). -/
def joinChecks (x : Part) (c : Sect) (j e : Nat) : Checks :=
  let off := x.avoids
  match c.kind with
  | 0x02 => (x.opOwners j).flatMap fun st => match x.placeOf st j with | some (sc, i) => x.opJoinChecks st sc i e | none => []
  | 0x01 =>
    let st := bits e 15 0
    [(76, match (x.script st .tail).getLast? with | some o => opCode o == 0x0B && bit o 8 && bit o 9 | none => false),
     (32, (x.pairsOf st).length ≤ 16)]
  | 0x06 =>
    let d := Desc.decode (sdFmt e)
    let tree := sdDstKind e = 3
    let fed := x.anchorsOf (bits e 15 0)
    [(16, !tree || (d.fmt = .fp32 && d.scaling == 0) || (d.fmt = .l192 && d.exact)),
     (16, !(tree && d.exact) || (fed.all fun a => a ≠ 0 && a == fed.getD 0 0)),
     (52, !sdBucket e || (x.sec 0x14).any fun q => segStream q == bits e 15 0),
     (102, (x.planStations.filter fun st => x.inbound st e).all fun st =>
        (x.regionsOf st).any fun r => bits r 25 24 == 2 && bits r 111 96 == bits e 15 0 && bits r 47 32 == st
          && sdRing e ≤ bits r 60 48 + 1 && (streamSpace e).bytes ≤ regionTileBytes r),
     (112, !tree || (x.planStations.filter fun st => x.sends st (bits e 15 0)).all fun st => (x.contributors (sdTree e)).contains st)]
  | 0x03 => [(96, bits e 25 24 ≠ 2 || !x.listed (bits e 47 32)
        || (match x.stream (bits e 111 96) with | some q => x.inbound (bits e 47 32) q | none => false)),
      (26, !bit e 26 || !x.listed (bits e 47 32) || (x.sec 0x0A).any fun m => bits m 15 0 == bits e 47 32
        && (match x.regionOf (bits m 15 0) (bits m 21 16) with | some q => bits q 23 0 == bits e 23 0 | none => false))]
  | 0x09 => [(16, !x.entryEnters c.kind e off),
      (1088, bits e 1343 1088 == 0 || x.listed (routerSite (bits e 23 16) (bits e 31 24)))]
  | 0x0A => [(0, !x.entryEnters c.kind e off)]
  | 0x0B => [(0, !x.entryEnters c.kind e off)]
  | 0x0C => [(8, !x.entryEnters c.kind e off)]
  | 0x0E => if j = 0 then [(16, !bit e 0 || bits e 31 16 == x.largestSpan)] else []
  | 0x10 => [(0, true)]
  | 0x13 =>
    let segs := x.segments e
    [(24, (List.range (bkPages e)).all fun i =>
        (match x.range (bkFirstPage e + i) with | some r => !prFrozen r | none => false)
          && ((c.entries.take j).all fun q => !overlap (bkFirstPage q.2) (bkPages q.2) (bkFirstPage e) (bkPages e))),
     (96, segmentsCover segs (bkPages e * pageParams)), (104, segs.all (x.segmentOk (bits e 18 16)))]
  | 0x14 => [(0, !repeats c.entries j segStream e)]
  | _ => []

/-- R386: logical IDs of a module's neighbours in its herd tree. -/
def Part.treeNeighbours (x : Part) (self : Nat) : List Nat :=
  match x.rankOf self with
  | none => []
  | some r => ((if r = 0 then [] else [(r - 1) / x.herdF]) ++ x.childRanks r).map x.rankId

/-- R421, R192, R196, R386: placements and buddies of the module's owning Keepers, a context on every Keeper for each edge of
the herd tree, and loaded pairs that the store lacks. -/
def joinFault (s : State) (x : Part) (pl : Plan) : Option PlanFault :=
  let kprs := (List.range 8).filter fun k => (x.ownedBy s.selfId k) ≠ []
  let place := fun k => (x.sec 0x10).any fun e => bits e 2 0 == k
  let stages := (x.sec 0x11).filterMap fun e => if prStaged e then some (prStageKpr e) else none
  let mirrors := (x.sec 0x18).filterMap fun e => if bits e 34 32 = 4 then some (bits e 14 12) else none
  if (kprs ++ stages ++ mirrors).any fun k => !place k then some (0x2004, pl.countField 0x10 0)
  else if kprs.any fun k => !((x.sec 0x18).any fun e => bits e 34 32 == 3 && bits e 14 12 == k) then
    some (0x2004, pl.countField 0x18 0)
  else if (x.treeNeighbours s.selfId).any fun id => (List.range 8).any fun k =>
      !((x.sec 0x18).any fun e => bits e 26 15 == id && bits e 14 12 == k)
        || !((x.sec 0x18).any fun e => bits e 26 15 == id && bits e 29 27 == k) then
    some (0x2004, pl.countField 0x18 0)
  else match (pl.sects.filter fun c => c.kind == 0x02).findSome? fun c => (c.entries.zipIdx).findSome? fun q =>
      if opCode q.1.2 = 0x08 ∧ 8 ≤ bits q.1.2 13 8 ∧ (x.everySet.any fun y => y.opOwners q.2 ≠ []) ∧
          ¬(s.hbm.tables.any fun t => t.1 == bits q.1.2 13 8) then some q.1.1 else none with
    | some o => some (0x3001, o + 1)
    | none => none

/-! #### Dead-router records (R254, R411) -/

/-- The tree nodes and the group branches of a partition's plan, under every set, as (site, entry). -/
def Part.allNodes (x : Part) : List (Nat × Nat) := x.everySet.flatMap fun y => (y.sec 0x0C).map fun n => (bits n 23 8, n)

def Part.allBranches (x : Part) : List (Nat × Nat) :=
  x.everySet.flatMap fun y => ((y.sec 0x09).filter fun g => bits g 39 32 ≠ 0 && bits g 23 16 % 25 < 24).map fun g =>
    (routerSite (bits g 23 16) (bits g 31 24), g)

/-- R254, R411: the replacement entries of one record: each group branch and tree node of the site is given at the taker, and
every node keeps the KEYSITE of the node for which it stands; R137: a local copy names a station of the partition. -/
def replacementChecks (x : Part) (r : Nat) : Checks :=
  let site := bits r 15 0
  let taker := bits r 31 16
  let ng := bits r 39 32
  let groups := (List.range ng).map fun i => (r >>> (128 + 1344 * i)) % 2 ^ 1344
  let local' : Checks := groups.mapIdx fun i h =>
    (128 + 1344 * i + 1088, groupMask h 4 == 0 || (x.under 0).listed (routerSite (bits h 23 16) (bits h 31 24)))
  let nodes := (List.range (bits r 47 40)).map fun i => (128 + 1344 * ng + 256 * i, (r >>> (128 + 1344 * ng + 256 * i)) % 2 ^ 256)
  let olds := x.allNodes
  [(32, (x.allBranches.filter fun g => g.1 == site).all fun g =>
      groups.any fun h => bits h 9 0 == bits g.2 9 0 && routerSite (bits h 23 16) (bits h 31 24) == taker),
   (40, (olds.filter fun n => n.1 == site).all fun n =>
      nodes.any fun m => bits m.2 5 0 == bits n.2 5 0 && bits m.2 23 8 == taker)]
  ++ local' ++ nodes.map fun m => (m.1 + 48,
      let own := olds.filter fun n => bits n.2 5 0 == bits m.2 5 0 && (n.1 == bits m.2 23 8 || (n.1 == site && bits m.2 23 8 == taker))
      own.any fun n => bits n.2 63 48 == bits m.2 63 48)

/-- R411: every router that holds a group branch or a tree node, under any set, has a record; every record is whole. -/
def alternatesFault (x : Part) (c : Sect) : Option PlanFault :=
  if c.kind ≠ 0x0E then none
  else match (c.entries.drop 1).findSome? fun q => (replacementChecks x q.2).fault 0x2004 q.1 with
    | some f => some f
    | none =>
      if ((x.allNodes ++ x.allBranches).map (·.1)).eraseDups.all fun v => (c.entries.drop 1).any fun r => bits r.2 15 0 == v then none
      else some (0x2004, c.dir + 4)

/-! ### Step 7: absent units (R5, R192, R283, R302, R322) -/

def absentChecks (s : State) (x : Part) (c : Sect) (_ e : Nat) : Checks :=
  match c.kind with
  | 0x0F => (List.range 3).map fun j => (32 + 32 * j, bits e (63 + 32 * j) (32 + 32 * j) == 0 || j < s.past)
  | 0x10 => (placeAreas e).map fun (o, a, _, m) =>
      (o, m == 0 || (List.range 4).all fun i =>
        let stk := 4 * bits e 2 0 + i
        s.stackPresent stk || !overlap a (m * 2 ^ 20) (stk * 2 ^ 37) (2 ^ 37))
  | 0x13 => [(15, !bkPark e || (s.fuses.tierMask ≠ 0 && bit x.service 4))]
  | 0x15 => [(0, s.tierPresent (bits e 1 0 - 1))]
  | 0x1A => [(0, s.stackPresent (bits e 4 0))]
  | _ => []

/-! ### Step 8: capacity (R149, R565, R321) -/

/-- R331: the components of an owned page in HBM, each rounded up to whole 64 KiB blocks. -/
def Part.pageNeed (x : Part) (P g : Nat) : Nat :=
  match x.range g with
  | none => 0
  | some e =>
    let opt := goOpt (x.group (prGroup e))
    2 ^ 20 + 65536 + round64K (m1Size (prFrozen e)) + round64K (m2Size (prFrozen e) opt) + P * round64K 540672

/-- R306, R565: MiB of the components of a page that may rest in the slow tier. -/
def Part.slowMib (x : Part) (P g : Nat) : Nat :=
  match x.range g with
  | none => 0
  | some e =>
    let m := ceilDiv (m1Size (prFrozen e) + m2Size (prFrozen e) (goOpt (x.group (prGroup e)))) (2 ^ 20)
    (if bit e 80 || bit e 82 then m else 0) + (if bit e 81 || bit e 82 then ceilDiv ((P - 1) * 540672) (2 ^ 20) else 0)
      + (if bit e 82 then 2 else 0)

/-- R565: the requirement of a Keeper's owner area of a given size in MiB. -/
def State.ownerNeed (s : State) (x : Part) (k mib : Nat) : Nat :=
  let pages := x.ownedBy s.selfId k
  round64K (8 * 16 * mib) + pages.foldl (fun n g => n + x.pageNeed s.past g) 0 + round64K (96 * pages.length)
    + round64K (16 * pages.foldl (fun n g => n + x.slowMib s.past g) 0)
    + round64K (128 * ((List.range (x.sec 0x07).length).filter fun t =>
        x.hasEntry t && pages.contains (bits (x.tensor t) 91 64)).length)

/-- R321: the least image region of a Keeper. -/
def State.imageNeed (s : State) (x : Part) (k : Nat) : Nat :=
  let bs := x.bucketsOf k
  let every := bs.foldl (fun n b => n + bkBytes b) 0
  if s.fuses.tierMask = 0 then every
  else (bs.filter fun b => !bkPark b).foldl (fun n b => n + bkBytes b) 0
    + x.bucketAhead * (bs.filter bkPark).foldl (fun n b => max n (bkBytes b)) 0

/-- R565: the requirement of a Keeper's staging area. -/
def State.stageNeed (s : State) (x : Part) (k : Nat) : Nat :=
  4096 + s.imageNeed x k + 2 ^ 20 * (x.gradPages s.selfId k).length + 16 * x.windowPlace s.selfId k

/-- R336, R565: the spill areas of a placement. -/
def State.spillNeed (s : State) (x : Part) : Nat := (List.range s.past).foldl (fun n j => n + 72 * x.spillCap j) 0

/-- R421: the pages that a Keeper mirrors under a plan: those of the owners whose buddy it is. -/
def Part.mirrorPages (x : Part) (k : Nat) : List Nat :=
  (x.sec 0x11).flatMap fun e =>
    if (x.sec 0x18).any fun q => bits q 34 32 == 4 && bits q 14 12 == k && bits q 26 15 == prOwner e && bits q 29 27 == prOwnerKpr e then
      prPages e
    else []

/-- R423: bytes of a mirrored page in the husk store, and those of them that may rest in the slow tier. Spill records are not
counted (DEDUCED, log entry 192). -/
def Part.huskNeed (x : Part) (P g : Nat) : Nat × Nat :=
  match x.range g with
  | none => (0, 0)
  | some e =>
    let m := m1Size (prFrozen e) + m2Size (prFrozen e) (goOpt (x.group (prGroup e)))
    (2 * (64 + 2 ^ 20 + 16384 + m) + (P + 1) * 540672 + 2 ^ 20 + 64,
      (if bit e 80 || bit e 82 then 2 * m else 0) + (if bit e 81 || bit e 82 then (P - 1) * 540672 else 0))

/-- R421: the husk store of a Keeper fits its area of a given size in MiB, with the slow-tier segments for what may rest
there. -/
def State.huskFits (s : State) (x : Part) (k mib : Nat) : Bool :=
  let need := (x.mirrorPages k).map fun g => x.huskNeed s.past g
  let all := (need.map (·.1)).sum
  let slow := if s.fuses.tierMask = 0 then 0
    else min ((need.map (·.2)).sum) (((x.sec 0x15).map fun e => bits e 79 64).sum * 2 ^ 30)
  decide (all ≤ mib * 2 ^ 20 + slow)

/-- R149: granules of slots and of receive buffers at a station. -/
def Part.sramNeed (x : Part) (st : Nat) : Nat :=
  (x.slotsOf st).foldl (fun n e => n + 256 * (bits e 15 8 + 1)) 0
    + ((x.sec 0x06).filter fun e => x.inbound st e).foldl (fun n e => n + sdCredits e * (streamSpace e).bytes) 0

def capacityChecks (s : State) (x : Part) (c : Sect) (_ e : Nat) : Checks :=
  match c.kind with
  | 0x01 => [(224, x.sramNeed (bits e 15 0) ≤ 832 * 1024)]
  | 0x0F =>
    if bit e 4 then
      let seg := (x.sec 0x15).getD (bits e 10 5) 0
      [(5, (x.sec 0x13).foldl (fun n b => if bkPark b then n + bkBytes b else n) 0 ≤ bits seg 79 64 * 2 ^ 30)]
    else []
  | 0x10 =>
    let k := bits e 2 0
    let fit : Checks := ((placeAreas e).map fun (_, a, o, m) => (o, m == 0 || a + m * 2 ^ 20 ≤ (k + 1) * 2 ^ 39))
    let need : Checks := [(384, s.ownerNeed x k (bits e 407 384) ≤ bits e 407 384 * 2 ^ 20),
       (432, s.stageNeed x k ≤ bits e 455 432 * 2 ^ 20), (456, s.huskFits x k (bits e 479 456)),
       (480, s.spillNeed x ≤ bits e 503 480 * 2 ^ 20)]
    fit ++ need
  | _ => []

/-- R142: endpoints at a station, under every set in which its entry is in force. -/
def streamLimitFault (x : Part) (pl : Plan) (c : Sect) : Option PlanFault :=
  if c.kind = 0x01 then c.scan fun _ e => (pl.views x c).map fun y =>
    (0, ((y.sec 0x06).filter fun q => y.inbound (bits e 15 0) q || y.outbound (bits e 15 0) q).length ≤ 256)
  else none

/-! ### The whole check -/

/-- The first of several optional faults. -/
def firstFault : List (Unit → Option PlanFault) → Option PlanFault
  | [] => none
  | f :: fs => match f () with
    | some r => some r
    | none => firstFault fs

/-- R194: the first fault of a plan image for partition `p`, as its status and RESULT. (DEDUCED, log entry 93) -/
def State.planFault (s : State) (p rows : Nat) (img : List Byte) (length : Nat) : Option PlanFault :=
  let pl := Plan.ofImage img
  let x : Part := { formed := true, rows := BitVec.ofNat 8 rows, plan := some pl }
  let sects := pl.sects
  firstFault
    [fun _ => (headerChecks img p rows length).fault 0x2004 0,
     fun _ => (digestChecks img length).fault 0x2004 0,
     fun _ => ((planDir img).zipIdx).findSome? fun q => dirFault img length q.2 q.1,
     fun _ => if present pl x then none else some (0x2004, 22),
     fun _ => sects.findSome? (decodeFault x pl),
     fun _ => sects.findSome? (ruleFault s x pl),
     fun _ => sects.findSome? fun c => c.scan fun j e => (pl.views x c).flatMap fun y => joinChecks y c j e,
     fun _ => sects.findSome? (alternatesFault x),
     fun _ => sects.findSome? (streamLimitFault x pl),
     fun _ => joinFault s x pl,
     fun _ => sects.findSome? fun c => c.scan (absentChecks s x c) 0x5001,
     fun _ => sects.findSome? fun c => c.scan (fun j e =>
       (if c.kind = 0x01 then pl.views x c else [x]).flatMap fun y => capacityChecks s y c j e) 0x5002]

end Sys2Proof.Machine
end

