-- ==== Sys2Proof/Machine/Power.lean ====
section
/-! DEFINITION. Clocks, supply, power and heat (spec/16): dividers (R477, R478), the 60 V entry (R482 to R484), the power
arbiter (R487 to R490), issue gates (R491, R492), the thermal ladder (R495 to R497) and coolant (R499, R500). -/

namespace Sys2Proof.Machine

def State.modPwr (s : State) (f : Pwr → Pwr) : State := { s with pwr := f s.pwr }

/-! ### Dividers (R477, R478, R496) -/

/-- The effective divider codes of the two halves. -/
def Clk.effective (c : Clk) : Nat × Nat :=
  (max c.westCmd.toNat c.westTherm.toNat, max c.eastCmd.toNat c.eastTherm.toNat)

/-- R478, R501: a change of clock settings; a change of either effective divider counts. -/
def State.setClk (s : State) (c : Clk) : State :=
  let n := (if c.effective.1 = s.clk.effective.1 then 0 else 1) + (if c.effective.2 = s.clk.effective.2 then 0 else 1)
  { s with clk := { c with divChanges := satAdd 16 c.divChanges n } }

/-- R468, R478: HALF_CLOCK commands a divider of a half. -/
def State.halfClock (s : State) (east : Bool) (code : BitVec 2) : State :=
  s.setClk (if east then { s.clk with eastCmd := code } else { s.clk with westCmd := code })

def Clk.therm (c : Clk) (east : Bool) : Nat := if east then c.eastTherm.toNat else c.westTherm.toNat

def State.setTherm (s : State) (east : Bool) (code : Nat) : State :=
  let v := BitVec.ofNat 2 code
  s.setClk (if east then { s.clk with eastTherm := v } else { s.clk with westTherm := v })

/-! ### The 60 V entry (R482 to R484) -/

/-- A pair whose own voltage is below 50 V counts as lost. -/
def Pwr.pairOk (p : Pwr) (b : Bool) : Bool := 500 ≤ (if b then p.vinB else p.vinA)

/-- R482: the higher of the two pair voltages, in 0.1 V. -/
def Pwr.vin (p : Pwr) : Nat := max p.vinA p.vinB

/-- R482: the state of the entry at a voltage. (DEDUCED, log entry 94) -/
def supplyBand (v : Nat) : Supply :=
  if v < 500 then .lockout
  else if v < 540 then .marginal
  else if v ≤ 660 then .operating
  else if v ≤ 700 then .marginal
  else .overvoltage

/-- R484: the input current limit, in A. -/
def Pwr.currentLimit (p : Pwr) : Nat := if p.pairOk false && p.pairOk true then 700 else 400

/-- R487: the lower voltage of the present pairs. -/
def Pwr.lowVin (p : Pwr) : Nat :=
  match p.pairOk false, p.pairOk true with
  | true, true => min p.vinA p.vinB
  | true, false => p.vinA
  | false, true => p.vinB
  | false, false => 0

/-- The pair voltages change; a running module's state follows the higher. -/
def State.setVin (s : State) (a b : Nat) : State :=
  s.modPwr fun p =>
    let p := { p with vinA := a, vinB := b }
    let band := supplyBand p.vin
    { p with supply := if band = .operating ∨ band = .marginal then band else p.supply }

/-! ### The power arbiter (R485 to R490); quantities in 1/256 unit -/

/-- R488: the table in force after a cold reset. -/
def grantDefault (i : Nat) : GrantEntry :=
  if i < 64 then ⟨512, 1024, 1⟩ else if i < 72 then ⟨384, 512, 1⟩ else ⟨128, 256, 1⟩

def Pwr.entry (p : Pwr) (i : Nat) : GrantEntry := sget (grantDefault i) p.grants i

/-- R510, R551: the Keepers, HBM and wafer are not powered. -/
def State.unpowered (s : State) : Bool := s.boot.dry || s.boot.mode == 2

/-- R489: a region that is switched off, lost or tripped has no demand. -/
def State.regionDark (s : State) (i : Nat) : Bool :=
  if s.unpowered then true
  else if i < 64 then
    (s.region i).tripped
      || (((s.field i).state == .lost || (s.field i).state == .offForHeat) && !(s.field i).starting)
  else if i < 72 then (s.region i).tripped
  else (s.region (i - 8)).tripped

/-- R489: d of a region. -/
def State.demand (s : State) (i : Nat) : Nat :=
  let e := s.pwr.entry i
  if s.regionDark i then 0 else min e.ceiling (max e.floor ((s.region i).power + 64))

/-- R489: one turn of the arbiter's loop over (demand, weight, grant): the increments, from the rest shared by weight. -/
def shareTurn (l : List (Nat × Nat × Nat)) (rest : Nat) : List Nat :=
  let total := ((l.filter fun x => x.2.2 < x.1).map fun x => x.2.1).sum
  l.map fun x => if x.2.2 < x.1 then min (x.1 - x.2.2) (rest * x.2.1 / total) else 0

/-- R489: the loop, from (demand, weight, grant) of every region; 228 units are shared. Each turn that changes a grant
spends at least 1/256 unit, so the fuel of 228 × 256 turns is never short. (DESIGN CHOICE, log entry 95) -/
def shareLoop : Nat → List (Nat × Nat × Nat) → List (Nat × Nat × Nat)
  | 0, l => l
  | n + 1, l =>
    let rest := 228 * 256 - (l.map fun x => x.2.2).sum
    let xs := shareTurn l rest
    if xs.all (· == 0) then l else shareLoop n (List.zipWith (fun x k => (x.1, x.2.1, x.2.2 + k)) l xs)

/-- R489: every region's grant. -/
def State.grantAll (s : State) : State :=
  let l := (List.range 80).map fun i =>
    let e := s.pwr.entry i
    let d := s.demand i
    (d, e.weight, if s.regionDark i then 0 else min e.floor d)
  s.forAll ((shareLoop (228 * 256) l).mapIdx fun i x => (i, x.2.2)) fun s q =>
    s.modRegion q.1 fun r => { r with grant := q.2 }

/-- A region's effective grant is the lower of its grant and its thermal cap. -/
def Region.effective (r : Region) : Nat := match r.cap with
  | some c => min r.grant c
  | none => r.grant

/-- R500: the coolant budget, in 10 W. -/
def Pwr.coolBudget (p : Pwr) : Nat := min 4200 (6 * (p.flow * (50 - p.inlet)))

/-- CAP in force, in 10 W. -/
def Pwr.capInForce (p : Pwr) : Nat := if p.cap = 0 then 4200 else p.cap

/-- R487: the budget and its terms, in 10 W. -/
def Pwr.evaluate (p : Pwr) : Pwr :=
  let supply := p.currentLimit * p.lowVin / 100
  { p with
    limitSupply := supply, limitCool := p.coolBudget
    budget := min (min 4200 supply) (min p.coolBudget p.capInForce) }

/-- R490: tables that commands have named take effect. -/
def Pwr.takeTables (p : Pwr) : Pwr :=
  let p := match p.newGrants with
    | some (cap, g) => { p with cap := cap, grants := g, newGrants := none }
    | none => p
  match p.newLimits with
  | some l => { p with limits := l, newLimits := none }
  | none => p

/-- The measured inputs, in the order VIN_A, VIN_B, IIN, FLOW, INLET, OUT_WAFER, OUT_CARRIER, PRESSURE and in their
registers' units; one not listed keeps its last value. -/
def Pwr.measure (p : Pwr) (m : List Nat) : Pwr :=
  { p with
    vinA := m.getD 0 p.vinA, vinB := m.getD 1 p.vinB, iin := m.getD 2 p.iin, flow := m.getD 3 p.flow
    inlet := m.getD 4 p.inlet, outWafer := m.getD 5 p.outWafer, outCarrier := m.getD 6 p.outCarrier
    pressure := m.getD 7 p.pressure }

/-- R487 to R490: one evaluation of the arbiter, every 10 µs. -/
def State.powerEvaluation (s : State) (measures : List Nat) (powers : List (Nat × Nat)) : State :=
  let s := s.modPwr fun p => p.measure measures
  let s := (s.setVin s.pwr.vinA s.pwr.vinB).modPwr fun p => p.takeTables.evaluate
  let s := s.forAll (powers.filter fun q => q.1 < 80) fun s q => s.modRegion q.1 fun r => { r with power := q.2 }
  s.grantAll

/-- The offset of the first check that fails, in order. -/
def firstBad (l : List (Bool × Nat)) : Option Nat := (l.find? fun q => !q.1).map (·.2)

/-- R464, R488: the offset of the first fault of a grant table: CAP, reserved bits, FLOOR against CEILING, the sum of the
FLOORs, WEIGHT. -/
def grantFault (data : List Byte) : Option Nat :=
  let n := leNat (data.take 704)
  let at' (i hi lo : Nat) : Nat := bits n (512 + 64 * i + hi) (512 + 64 * i + lo)
  let floors (i : Nat) : Nat := ((List.range (i + 1)).map fun j => at' j 15 0).sum
  let head : List (Bool × Nat) := [(bits n 15 0 ≤ 4200, 0), (bits n 511 16 == 0, 2)]
  firstBad (head ++ (List.range 80).flatMap fun i =>
    [(at' i 15 0 ≤ at' i 31 16 && floors i ≤ 228 * 256, 64 + 8 * i), (at' i 39 32 ≠ 0, 64 + 8 * i + 4)
    , (at' i 63 40 == 0, 64 + 8 * i + 5)])

/-- R488: a grant table's CAP, and the entries that differ from the defaults. -/
def grantTable (data : List Byte) : Nat × Sparse GrantEntry :=
  let n := leNat (data.take 704)
  let at' (i hi lo : Nat) : Nat := bits n (512 + 64 * i + hi) (512 + 64 * i + lo)
  (bits n 15 0, (List.range 80).foldl (fun m i => sset (grantDefault i) m i ⟨at' i 15 0, at' i 31 16, at' i 39 32⟩) [])

/-- R494: a limit table. -/
def limitTable (data : List Byte) : Limits :=
  let n := leNat (data.take 16)
  ⟨bits n 7 0, bits n 15 8, bits n 23 16, bits n 31 24, bits n 33 32⟩

/-- R464, R494: the offset of the first fault of a limit table. -/
def limitFault (data : List Byte) : Option Nat :=
  let n := leNat (data.take 16)
  let l := limitTable data
  let head : List (Bool × Nat) := [(60 ≤ l.throttle && l.throttle ≤ 95, 0), (65 ≤ l.half && l.half ≤ 100 && l.throttle < l.half, 1)
    , (70 ≤ l.off && l.off ≤ 102 && l.half < l.off, 2), (100 ≤ l.emerg && l.emerg ≤ 110 && l.off < l.emerg, 3)
    , (1 ≤ l.maxDiv && bits n 39 34 == 0, 4)]
  firstBad (head ++ (List.range 11).map fun i => (bits n (47 + 8 * i) (40 + 8 * i) == 0, 5 + i))

/-! ### Issue gates (R491, R492) -/

/-- R492: one sample of a region's power sets its gate. (DEDUCED, log entry 96) -/
def State.issueSample (s : State) (i p : Nat) : State :=
  s.modRegion i fun r =>
    let g := r.effective
    let low := if p ≤ g ∧ 10 * p < 9 * g then min 8 (r.lowSamples + 1) else 0
    let n := if g < p then max 8 (r.issue * g / p) else if low = 8 then min 64 (r.issue + 4) else r.issue
    let n := if s.pwr.clip then min n 16 else n
    let n := if r.stage = 3 then min n 8 else n
    { r with issue := n, lowSamples := low }

/-! ### The thermal ladder (R495 to R497) -/

/-- R532: the field's THROTTLE threshold: 5 K lower once DERATED, but not below 60 °C. -/
def State.throttleAt (s : State) (f : Nat) : Nat :=
  if (s.wear f).derated then max 60 (s.pwr.limits.throttle - 5) else s.pwr.limits.throttle

/-- R495: entry into stage 1: G0 is the effective grant, and the cap makes its first step down. -/
def State.throttle (s : State) (f : Nat) : State :=
  let floor := (s.pwr.entry f).floor
  s.modRegion f fun r =>
    let g := r.effective
    { r with stage := 1, g0 := g, cap := some (max floor (g - g / 16)) }

/-- R501, R535: PWR_REGION_i of a region, with the stage that it reports: 2 while its half has a thermal divider slower
than ÷4 and it stands lower. -/
def State.regionReg (s : State) (i : Nat) : Nat :=
  let r := s.region i
  let slowed := 0 < s.clk.therm (!westHalf i)
  let stage := if 64 ≤ i then 0 else if r.stage < 2 ∧ slowed = true then 2 else r.stage
  bits r.effective 15 0 + bits r.power 15 0 * 2 ^ 16 + bits r.issue 6 0 * 2 ^ 32
    + (if i < 72 then bits r.temp 7 0 else 0) * 2 ^ 39 + stage * 2 ^ 47 + b2n r.tripped * 2 ^ 50 + b2n r.lockout * 2 ^ 51

/-- R535: a lifetime record of an eFuse trip or a thermal emergency. -/
def State.regionRecord (s : State) (i : Nat) : State :=
  s.lifeRecord 0x14 (if i < 64 then i else i - 64) (leBytes 8 i ++ leBytes 8 (s.regionReg i))

/-- R495: a hottest reading of a field that has power. -/
def State.fieldReading (s : State) (f t : Nat) : State :=
  let s := s.modRegion f fun r => { r with temp := t }
  if (s.field f).dark then s
  else
    let s := if (s.region f).stage = 0 ∧ (s.throttleAt f ≤ t ∨ (s.field f).band = 3) then s.throttle f else s
    if s.pwr.limits.emerg ≤ t then
      ((s.modRegion f fun r => { r with stage := 5, grant := 0 }).regionRecord f).fieldLoss f 0xD 0 0 0
    else if s.pwr.limits.off ≤ t ∧ (s.region f).stage < 3 then
      (s.modRegion f fun r => { r with stage := 3 }).offWhenIdle f
    else s

/-- R267 to R269: a burst refreshes the next 128 rows of every sub-bank; the band rises at the first burst after a reading,
and the field is throttled as it enters band 3. -/
def State.refreshBurst (s : State) (f prow pcol : Nat) : State :=
  let enters : Bool := decide ((s.field f).band < 3 ∧ (s.field f).nextBand = 3)
  let s := s.modField f fun x => { x with band := max x.band x.nextBand }
  let s := if enters ∧ (s.region f).stage = 0 then s.throttle f else s
  s.modBank (bankIdx f prow pcol) fun b => { b with burst := (b.burst + 1) % 16 }

/-- R268, R269, R495: a hottest store-site reading of a field. Above 95 °C the field is lost. -/
def State.storeReading (s : State) (f t : Nat) : State :=
  let s := s.modField f fun x => { x with storeTemp := t, nextBand := max x.nextBand (storeBand t) }
  if (s.field f).dark then s
  else if 95 < t then s.fieldLoss f 0xB 0 0 0
  else s

/-- R290: a stack's hottest die temperature. Above 95 °C it is THROTTLED and asks the thermal control for cooling, whose
answer the spec does not give (DESIGN CHOICE, log entry 183). Above 105 °C it is a stack fault, which is fatal for the module (R433). -/
def State.stackReading (s : State) (stk t : Nat) : State :=
  if s.stackPresent stk = false then s
  else
    let s := (s.refill stk).modStack stk fun x =>
      { x with temp := t, wantDouble := x.wantDouble || decide (85 < t), throttled := x.throttled || decide (95 < t) }
    let s := if 95 < t then s.emit (.report (0x60000 + stk) 1) else s
    if 105 < t ∧ (s.stack stk).fault = false then (s.modStack stk fun x => { x with fault := true }).fatalFault else s

/-- R493: one reading: compute sensors of field 0 to 63, store sites of field 64 to 127, stack 128 to 159, Keeper 160
to 167. -/
def State.reading (s : State) (code t : Nat) : State :=
  if code < 64 then s.fieldReading code t
  else if code < 128 then s.storeReading (code - 64) t
  else if code < 160 then s.stackReading (code - 128) t
  else if code < 168 then s.modRegion (code - 160 + 64) fun r => { r with temp := t }
  else s

/-- The fields of a half that have power. -/
def State.halfFields (s : State) (east : Bool) : List Nat :=
  (List.range 64).filter fun f => westHalf f != east && !s.regionDark f

/-- R495, R496: a throttled field stands at its FLOOR. -/
def State.atFloor (s : State) (f : Nat) : Bool :=
  let r := s.region f
  (r.stage == 1 || r.stage == 3) && r.effective ≤ (s.pwr.entry f).floor

/-- R495, R496: the thermal divider of a half moves one step: slower while a reading stands at HALF or a throttled field
at its FLOOR; at MAX_DIV, fields at their FLOOR with a reading of HALF enter stage 3 instead; faster once every reading
has stayed 5 K below. -/
def State.dividerStep (s : State) (east : Bool) : State :=
  let l := s.pwr.limits
  let fs := s.halfFields east
  let cur := s.clk.therm east
  if fs.any (fun f => l.half ≤ (s.region f).temp || s.atFloor f) then
    if cur < l.maxDiv then s.setTherm east (cur + 1)
    else s.forAll (fs.filter fun f => s.atFloor f && l.half ≤ (s.region f).temp && (s.region f).stage < 3) fun s f =>
      (s.modRegion f fun r => { r with stage := 3 }).offWhenIdle f
  else if fs.all (fun f => (s.region f).temp + 5 ≤ l.half) then s.setTherm east (cur - 1)
  else s

/-- R495: every 100 µs the cap of a throttled field falls by G0/16, down to FLOOR; after exit it rises until it is G0.
(DEDUCED, log entry 97) -/
def State.capStep (s : State) (f : Nat) : State :=
  let floor := (s.pwr.entry f).floor
  s.modRegion f fun r =>
    match r.cap with
    | none => r
    | some c =>
      if r.stage = 1 ∨ r.stage = 3 then { r with cap := some (max floor (c - r.g0 / 16)) }
      else if r.stage = 0 then { r with cap := if r.g0 ≤ c + r.g0 / 16 then none else some (c + r.g0 / 16) }
      else r

/-- R495: a field whose reading has stayed 3 K below leaves stage 3 for stage 1, or stage 1 for stage 0. -/
def State.stageExit (s : State) (f : Nat) : State :=
  let r := s.region f
  if r.stage = 3 ∧ r.temp + 3 ≤ s.pwr.limits.off then s.modRegion f fun r => { r with stage := 1 }
  else if r.stage = 1 ∧ r.temp + 3 ≤ s.throttleAt f ∧ (s.field f).band < 3 then
    s.modRegion f fun r => { r with stage := 0 }
  else s

/-! ### FIELD_POWER (R468, R486, R410) -/

/-- R410, R486, R495: a field is switched on: its eFuse is re-armed, and stages 4 and 5 are left. -/
def State.fieldOn (s : State) (f : Nat) : State :=
  let s := s.modRegion f fun r =>
    { r with tripped := false, rearmed := if r.tripped then some s.clk.rootTime else r.rearmed, stage := 0, cap := none, lowSamples := 0 }
  s.modField f fun x => { x with starting := true }

/-- R485, R486: a field's eFuse trips. Within 1 s of its re-arming the field is locked out. -/
def State.fieldTrip (s : State) (f : Nat) : State :=
  let r := s.region f
  if r.tripped = true ∨ (s.field f).dark = true then s
  else
    let again := r.rearmed.any fun t => decide (s.clk.rootTime < t + 7200000000)
    let s := s.modRegion f fun r => { r with tripped := true, lockout := r.lockout || again, grant := 0 }
    let s := (s.regionRecord f).modWear f fun w => { w with trips := satAdd 16 w.trips 1 }
    (s.fieldLoss f 0xA 0 0 0).modField f fun x => { x with starting := false, state := .lost }

/-! ### Meanings -/

def execRefreshBurst (f prow pcol : Nat) (s : State) : Host.Outcome State Fault Refusal :=
  .next (if siteOk f prow pcol then s.refreshBurst f prow pcol else s)

/-- R493: sensors are read. -/
def execSensorRead (readings : List (Nat × Nat)) (s : State) : Host.Outcome State Fault Refusal :=
  .next (s.forAll readings fun s q => s.reading q.1 q.2)

/-- R482, R484: a pair falls below 50 V while the other holds the supply. -/
def execPairLost (pair volts : Nat) (s : State) : Host.Outcome State Fault Refusal :=
  .next (
    if 500 ≤ volts ∨ s.pwr.pairOk (pair == 1) = false ∨ s.pwr.pairOk (pair == 0) = false then s
    else if pair = 0 then s.setVin volts s.pwr.vinB
    else if pair = 1 then s.setVin s.pwr.vinA volts
    else s)

/-- R482, R484: a lost pair returns. -/
def execPairRestored (pair volts : Nat) (s : State) : Host.Outcome State Fault Refusal :=
  .next (
    if volts < 500 ∨ 700 < volts ∨ s.pwr.pairOk (pair == 1) = true then s
    else if pair = 0 then s.setVin volts s.pwr.vinB
    else if pair = 1 then s.setVin s.pwr.vinA volts
    else s)

/-- R482: the input enters or leaves a marginal band. -/
def execMarginalBandChange (a b : Nat) (s : State) : Host.Outcome State Fault Refusal :=
  .next (
    let band := supplyBand (max a b)
    if (band = .operating ∨ band = .marginal) ∧ band ≠ s.pwr.supply
        ∧ (s.pwr.supply = .operating ∨ s.pwr.supply = .marginal) then s.setVin a b
    else s)

/-- R484: input current reaches 98 % of the limit: CLIP is asserted and counted. -/
def execClipAssert (amps : Nat) (s : State) : Host.Outcome State Fault Refusal :=
  .next (
    if s.pwr.clip = true ∨ 100 * amps < 98 * s.pwr.currentLimit then s
    else
      let s := s.modPwr fun p => { p with iin := amps, clip := true, clips := satAdd 16 p.clips 1 }
      { s with life := { s.life with clipsTotal := satAdd 32 s.life.clipsTotal 1 } })

/-- R484: current has stayed below 90 % of the limit for 10 µs: CLIP is released. -/
def execClipRelease (amps : Nat) (s : State) : Host.Outcome State Fault Refusal :=
  .next (
    if s.pwr.clip = false ∨ 90 * s.pwr.currentLimit ≤ 100 * amps then s
    else s.modPwr fun p => { p with iin := amps, clip := false })

/-- R487 to R490. -/
def execPowerEvaluation (measures : List Nat) (powers : List (Nat × Nat)) (s : State) :
    Host.Outcome State Fault Refusal := .next (s.powerEvaluation measures powers)

/-- R492: a region's power is sampled. -/
def execIssueGateSample (region power : Nat) (s : State) : Host.Outcome State Fault Refusal :=
  .next (if region < 80 then s.issueSample region power else s)

def execThermalCapStep (region : Nat) (s : State) : Host.Outcome State Fault Refusal :=
  .next (if region < 64 then s.capStep region else s)

def execThermalStageExit (region : Nat) (s : State) : Host.Outcome State Fault Refusal :=
  .next (if region < 64 then s.stageExit region else s)

def execThermalDividerStep (east : Bool) (s : State) : Host.Outcome State Fault Refusal := .next (s.dividerStep east)

/-- R500: flow below 30 L/min for 100 ms, or a plate outlet above 60 °C: a fatal own fault. (DEDUCED, log entry 100) -/
def execCoolantFault (flow outWafer outCarrier : Nat) (s : State) : Host.Outcome State Fault Refusal :=
  .next (
    if 30 ≤ flow ∧ outWafer ≤ 60 ∧ outCarrier ≤ 60 then s
    else (s.modPwr fun p => { p with flow := flow, outWafer := outWafer, outCarrier := outCarrier }).fatalFault)

end Sys2Proof.Machine
end

