-- ==== Sys2Proof/Machine/RegRead.lean ====
section
/-! DEFINITION. The registers of BAR0 as they read (R456 and the register tables of spec/00 to 18): for every aligned
8-byte place its value, and what a read of each of its RC fields clears (R15). -/

namespace Sys2Proof.Machine

/-- A register place: its 64 bits, and its RC fields as (high bit, low bit, clearing). -/
structure Reg where
  value : Nat
  rc : List (Nat × Nat × (State → State)) := []

/-- A counting field of `w` bits saturates. -/
def capped (w n : Nat) : Nat := min (2 ^ w - 1) n

/-- Bits set at the numbers of a list. -/
def maskOf (l : List Nat) : Nat := (l.map fun i => 2 ^ i).sum

/-! ### Module registers (R6, R43, R451, R473) -/

def Fuses.cap0 (f : Fuses) : Nat :=
  packBits [(0, 8, f.part.toNat), (8, 8, f.stepping.toNat), (16, 32, f.stackMask), (48, 3, f.tierMask), (52, 2, f.pastVersions)]

/-- R45. A partition replaying a committed step reads RECOVERY (R448). -/
def Phase.code : Phase → Nat
  | .idle => 0 | .gather => 1 | .compute => 2 | .drain => 3 | .reduce => 4 | .gate => 5 | .commit => 6 | .flipWait => 7
  | .halted => 8 | .recovery => 9

def Part.phaseCode (x : Part) : Nat := if x.replayKey.isSome then 9 else x.phase.code

def Part.stepStatus (x : Part) : Nat :=
  packBits [(0, 40, x.step), (40, 4, x.phaseCode), (44, 1, b2n x.eval.isSome), (45, 1, b2n x.held.isSome)
    , (46, 1, b2n x.waferNonfinite), (47, 1, b2n x.kprNonfinite), (48, 16, x.microDone)]

/-- R43, R319: some Keeper's reduction of the partition has seen a nonfinite value in the step. -/
def State.kprNonfinite (s : State) (p : Nat) : Bool :=
  (s.part p).kprNonfinite || (s.part p).keepers.any fun k => (s.kpart k p).nonfinite

/-- MOD_STEP_STATUS_p (R43). -/
def State.stepStatus (s : State) (p : Nat) : Nat := { s.part p with kprNonfinite := s.kprNonfinite p }.stepStatus

def Part.stepVersion (x : Part) : Nat := packBits [(0, 40, x.version), (40, 1, b2n x.flipPending)]

def Role.code : Role → Nat
  | .member => 0 | .standby => 1 | .armed => 2 | .taking => 3 | .replayTarget => 4

def Recovery.status (r : Recovery) : Nat :=
  packBits [(0, 3, r.role.code), (3, 1, b2n r.selfFenced), (4, 1, b2n r.awaitRejoin), (5, 1, b2n r.unrecoverable)
    , (6, 1, b2n r.takeoverBlocked), (7, 2, r.pull), (9, 12, r.lastId.toNat), (21, 16, r.lastGen)]

def State.huskStatus (s : State) (p : Nat) : Nat :=
  let x := s.part p
  let ks := x.keepers
  let shown (k : Nat) : Bool := !(s.kpart k p).lackHidden
  let lacks (k : Nat) : Bool := shown k && (s.kpart k p).remirrorLeft ≠ []
  let down := (List.range 8).filter fun k =>
    s.mlv.ctxs.any fun c => c.2.role == 3 && c.2.kpr == k && c.2.state == .fenced
  packBits [(0, 40, x.hver), (40, 1, b2n x.huskPending)
    , (41, 1, b2n (ks.any fun k => (lacks k && s.buddyUp k) || (shown k && (s.kpart k p).lacking ≠ [])))
    , (42, 1, b2n (ks.any lacks)), (43, 8, maskOf down)]

def Recovery.replay (r : Recovery) : Nat :=
  packBits [(0, 40, r.replayStep), (40, 1, b2n r.replayRunning), (41, 1, b2n r.replayMatch), (42, 1, b2n r.replayMismatch)
    , (43, 12, r.firstBucket)]

def State.leaseReg (s : State) : Nat :=
  packBits ((List.range 18).map fun r => ((if r < 8 then 2 * r else if r < 16 then 2 * (r - 8) + 16 else 2 * r), 2, s.holder r))

def State.modArb (s : State) (f : Arb → Arb) : State := { s with arb := f s.arb }
def State.modHost (s : State) (f : HostIf → HostIf) : State := { s with host := f s.host }
def State.modMgmt (s : State) (f : Mgmt → Mgmt) : State := { s with mgmt := f s.mgmt }
def State.modLife (s : State) (f : Life → Life) : State := { s with life := f s.life }

def State.arbReg (s : State) : Reg :=
  let a := s.arb
  { value := packBits [(0, 32, a.lastCsn), (32, 12, capped 12 a.superseded), (44, 12, capped 12 a.refusedLease)
      , (56, 8, capped 8 a.badAccess)]
    rc := [(43, 32, fun s => s.modArb fun a => { a with superseded := 0 })
      , (55, 44, fun s => s.modArb fun a => { a with refusedLease := 0 })
      , (63, 56, fun s => s.modArb fun a => { a with badAccess := 0 })] }

def State.linkReg (s : State) : Reg :=
  let h := s.host
  { value := packBits [(0, 2, h.width.toNat), (2, 2, h.speed.toNat), (4, 1, b2n h.attached), (5, 1, b2n h.lostEvents)
      , (6, 16, capped 16 h.linkResets)]
    rc := [(21, 6, fun s => s.modHost fun h => { h with linkResets := 0 })] }

/-! ### Rings (R459) -/

def Ring.ctl (r : Ring) : Nat := packBits [(0, 1, b2n r.enable), (1, 4, r.size), (5, 6, r.vector)]

def Ring.status (r : Ring) : Nat :=
  packBits [(0, 12, r.sqHead), (12, 12, r.cqTail), (24, 1, b2n r.phase), (25, 1, b2n (r.enable && r.free == 0))
    , (26, 1, b2n r.err), (27, 9, r.finals.length)]

/-! ### Fields (R248, R260, R279, R416) -/

def FieldState.code : FieldState → Nat
  | .inService => 0 | .restarting => 1 | .offForHeat => 2 | .lost => 3

def State.netStatus (s : State) (f : Nat) : Nat :=
  let x := s.field f
  let p := (s.fieldPart f).map s.part
  let d := x.dead.head?.getD (0, 0)
  packBits [(0, 2, (p.map (·.routeSet)).getD 0), (2, 6, (p.bind fun y => if y.routeSet = 2 then y.offField else none).getD 0)
    , (8, 1, b2n (x.dead ≠ [])), (9, 5, d.1), (14, 5, d.2), (19, 5, capped 5 x.steered), (24, 1, b2n x.holding)
    , (25, 1, b2n x.treeHalt)]

def State.netCounts (s : State) (f : Nat) : Reg :=
  let x := s.field f
  { value := packBits [(0, 16, capped 16 x.corrected), (16, 16, capped 16 x.retries), (32, 16, capped 16 x.merged)
      , (48, 16, capped 16 x.routerErrors)]
    rc := [(15, 0, fun s => s.modField f fun x => { x with corrected := 0 })
      , (31, 16, fun s => s.modField f fun x => { x with retries := 0 })
      , (47, 32, fun s => s.modField f fun x => { x with merged := 0 })
      , (63, 48, fun s => s.modField f fun x => { x with routerErrors := 0 })] }

/-- Fewest spare rows left in any sub-bank of a bank. -/
def Bank.minSpare (b : Bank) : Nat := (List.range 16).foldl (fun n i => min n (b.spareRows i)) 16

/-- Banks of a field that differ from a fresh one. -/
def State.fieldBanks (s : State) (f : Nat) : List Bank :=
  (s.banks.filter fun b => 600 * f ≤ b.1 && b.1 < 600 * f + 600).map (·.2)

def State.storeStatus (s : State) (f : Nat) : Nat :=
  let x := s.field f
  let bs := s.fieldBanks f
  let held := x.fill.isSome || x.banks.any fun b => b.2.migrating && !b.2.copied
  packBits [(0, 2, x.band), (2, 8, x.storeTemp), (10, 1, b2n (x.scrubEn && bs.any fun b => b.scrubPos ≠ 0)), (11, 1, b2n held)
    , (12, 5, bs.foldl (fun n b => min n b.minSpare) 16), (17, 1, b2n x.unrecoverable)]

def Field.storeCounts (x : Field) : Nat :=
  packBits [(0, 16, capped 16 x.storeCorrected), (16, 16, capped 16 x.uncorrectable), (32, 16, capped 16 x.rowsRetired)
    , (48, 16, capped 16 x.scrubPasses)]

def State.storeCountsReg (s : State) (f : Nat) : Reg :=
  { value := (s.field f).storeCounts
    rc := [(15, 0, fun s => s.modField f fun x => { x with storeCorrected := 0 })
      , (31, 16, fun s => s.modField f fun x => { x with uncorrectable := 0 })
      , (47, 32, fun s => s.modField f fun x => { x with rowsRetired := 0 })
      , (63, 48, fun s => s.modField f fun x => { x with scrubPasses := 0 })] }

def Field.storeCtrl (x : Field) : Nat := b2n x.scrubEn + 2 * x.scrubPeriod.toNat

def State.bankReg (s : State) (st : Nat) : Nat :=
  let b := s.bankBind st
  let k := s.bank (bankIdx (stField st) b.bprow b.bpcol)
  packBits [(0, 5, b.bprow), (5, 5, b.bpcol), (10, 1, b2n b.moved), (11, 1, b2n b.migrating), (12, 1, b2n (k.poison ≠ []))
    , (13, 5, k.minSpare)]

def Field.faultStatus (x : Field) : Nat :=
  packBits [(0, 1, b2n x.fill.isSome), (1, 16, (x.fill.map (·.station)).getD 0), (17, 3, x.queued.length), (20, 2, if x.restarting && x.state == .inService then 1 else x.state.code)
    , (22, 1, b2n x.rollback), (23, 1, b2n x.overrun), (24, 1, b2n x.exhausted), (25, 1, b2n x.logOverflow)]

def Field.spareStatus (x : Field) : Nat :=
  let all := List.range 24
  packBits [(0, 5, (all.filter x.intact).length), (5, 5, (all.filter fun i => x.intact i && x.boundSpare i).length)
    , (10, 1, b2n (x.freeSpares ≤ 2)), (32, 24, maskOf (all.filter x.freeSpare))]

/-- R416: a read of the fault log removes the oldest record. -/
def State.faultLogReg (s : State) (f : Nat) : Reg :=
  match (s.field f).log with
  | [] => { value := 0 }
  | r :: _ => { value := r.encode, rc := [(63, 0, fun s => s.modField f fun x => { x with log := x.log.tail })] }

/-- The place at an offset of a field window. -/
def State.fieldReg (s : State) (f o : Nat) : Option Reg :=
  if o = 0x100 then some { value := s.netStatus f }
  else if o = 0x108 then some (s.netCounts f)
  else if o = 0x200 then some { value := s.storeStatus f }
  else if o = 0x208 then some (s.storeCountsReg f)
  else if o = 0x210 then some { value := (s.field f).storeCtrl }
  else if o = 0x300 then some { value := (s.field f).faultStatus }
  else if o = 0x308 then some { value := (s.field f).spareStatus }
  else if o = 0x310 then some (s.faultLogReg f)
  else if 0x1000 ≤ o ∧ o < 0x1000 + 4 * 576 then
    let at' (i : Nat) : Nat := (s.remapOf (stOf f (i / 24) (i % 24))).encode
    some { value := at' ((o - 0x1000) / 4) + at' ((o - 0x1000) / 4 + 1) * 2 ^ 32 }
  else if 0x2000 ≤ o ∧ o < 0x2000 + 4 * 576 then
    let at' (i : Nat) : Nat := s.bankReg (stOf f (i / 24) (i % 24))
    some { value := at' ((o - 0x2000) / 4) + at' ((o - 0x2000) / 4 + 1) * 2 ^ 32 }
  else none

/-! ### Stations (R70, R107, R133, R135, R140, R159, R179, R185) -/

/-- R180: the registers of a station in no partition show no script. -/
def State.stationPart (s : State) (st : Nat) : Part := ((s.stPart st).map s.part).getD {}

def Core.scriptStatus (c : Core) (error : Nat) : Nat :=
  packBits [(0, 2, c.script.code), (2, 1, b2n (c.queue ≠ [])), (3, 1, b2n c.probe)
    , (4, 12, (c.queue.head?.map (·.index)).getD 0), (16, 16, c.micro), (32, 8, error)]

/-- Fetch is held by a full queue: the next operation of the script finds no place. -/
def Part.fetchStall (x : Part) (st : Nat) (c : Core) : Bool :=
  match (x.script st c.script)[c.pos]? with
  | none => false
  | some op => if opDefer op then 256 ≤ c.defUsed else 64 ≤ c.sbUsed

def State.schedReg (s : State) (st : Nat) : Reg :=
  let y := s.station st
  { value := packBits [(0, 7, y.core.sbUsed), (7, 9, y.core.defUsed), (16, 1, b2n ((s.stationPart st).fetchStall st y.core))
      , (17, 1, b2n (y.core.queue.any fun e => e.yielded)), (32, 16, capped 16 y.promoted)
      , (48, 16, capped 16 y.yields)]
    rc := [(47, 32, fun s => s.modStation st fun y => { y with promoted := 0 })
      , (63, 48, fun s => s.modStation st fun y => { y with yields := 0 })] }

def Station.fenceStatus (y : Station) : Nat :=
  packBits [(0, 48, y.shadows), (48, 1, b2n y.lastInterim), (49, 1, b2n y.copy), (50, 1, b2n y.lastShadow.isSome)]

def Station.flockStatus (y : Station) : Nat :=
  packBits [(0, 32, y.lambState.toNat), (32, 16, y.lambFault.toNat), (48, 1, b2n y.flockAbort), (49, 4, y.lastLamb)]

def State.cyclesReg (s : State) (st : Nat) : Reg :=
  let y := (s.countBusy st s.clk.rootTime).station st
  { value := packBits [(0, 32, capped 32 y.productCc), (32, 32, capped 32 y.exchangeCc)]
    rc := [(31, 0, fun s => (s.countBusy st s.clk.rootTime).modStation st fun y => { y with productCc := 0 })
      , (63, 32, fun s => (s.countBusy st s.clk.rootTime).modStation st fun y => { y with exchangeCc := 0 })] }

/-- R159: the selection in force; a stream that has no such end at the station reads zero. -/
def State.streamStatus (s : State) (st : Nat) : Nat :=
  let y := s.station st
  let id := y.streamSel.toNat
  match s.stPart st with
  | none => 0
  | some p =>
    let x := s.part p
    match x.stream id with
    | none => 0
    | some e =>
      let round := (Desc.decode (sdFmt e)).effRound
      if y.streamDir then
        if x.outbound st e then
          let o := sget {} y.core.outb id
          let credits := ((x.dests e).map fun d => s.credits p st e d).foldl min (sdCredits e)
          packBits [(0, 48, o.seq), (48, 8, credits), (56, 2, round), (58, 1, 1), (59, 1, b2n o.dup), (60, 1, b2n o.ringHold)]
        else 0
      else if x.inbound st e then
        let i := sget {} y.core.inb id
        packBits [(0, 48, i.seq), (48, 8, sdCredits e - i.buffer.length), (56, 2, round), (58, 1, 1), (59, 1, b2n i.dup)
          , (60, 1, b2n i.ringHold)]
      else 0

/-- The place at an offset of a station window (R139). -/
def State.stationReg (s : State) (st o : Nat) : Option Reg :=
  let y := s.station st
  if stationOk st = false then none
  else if o = 0x00 then some { value := y.core.scriptStatus y.error }
  else if o = 0x08 then some (s.schedReg st)
  else if o = 0x10 then some { value := y.fenceStatus }
  else if o = 0x40 then some { value := y.core.flags.convStatus }
  else if o = 0x48 then some { value := y.core.flags.accStatus }
  else if o = 0x50 then some { value := ((s.settleLambs st).station st).flockStatus }
  else if o = 0x58 then some (s.cyclesReg st)
  else if o = 0x60 then some { value := y.streamSel.toNat + 65536 * b2n y.streamDir }
  else if o = 0x68 then some { value := s.streamStatus st }
  else none

/-! ### HBM and the slow tier (R283, R298, R306) -/

def Hbm.absentReg (h : Hbm) : Nat :=
  packBits [(0, 42, h.absentAddr.toNat), (42, 1, b2n h.absentWrite), (43, 1, b2n h.absentValid), (48, 16, capped 16 h.absentCount)]

def Stack.status (x : Stack) : Nat :=
  packBits [(0, 1, 1), (1, 8, x.temp), (9, 1, b2n x.refresh2x), (10, 1, b2n x.throttled), (11, 1, b2n x.fault)
    , (12, 1, b2n x.regReject), (13, 1, b2n x.scrubActive)]

def Stack.ctrl (x : Stack) : Nat := packBits [(0, 1, b2n x.scrubEn), (1, 3, x.scrubPeriod.toNat), (4, 8, x.hostCeiling.toNat)]

def State.errCounts (s : State) (stk : Nat) : Reg :=
  let x := s.stack stk
  { value := packBits [(0, 16, capped 16 x.corrected), (16, 16, capped 16 x.uncorrectable), (32, 16, capped 16 x.scrubPasses)]
    rc := [(15, 0, fun s => s.modStack stk fun x => { x with corrected := 0 })
      , (31, 16, fun s => s.modStack stk fun x => { x with uncorrectable := 0 })
      , (47, 32, fun s => s.modStack stk fun x => { x with scrubPasses := 0 })] }

def Regulator.cfg (r : Regulator) : Nat :=
  packBits [(0, 8, r.guarantee.toNat), (8, 8, r.ceiling.toNat), (16, 8, r.burst.toNat), (24, 1, b2n r.enable)]

/-- HELD counts whole microseconds of 7,200 root periods; a clear keeps what is below one. -/
def State.regCount (s : State) (stk p : Nat) : Reg :=
  let r := ((s.refill stk).stack stk).reg p
  { value := packBits [(0, 40, capped 40 r.granted), (40, 24, capped 24 (r.held / 7200))]
    rc := [(39, 0, fun s => s.modStack stk fun x => x.modReg p fun r => { r with granted := 0 })
      , (63, 40, fun s => (s.refill stk).modStack stk fun x => x.modReg p fun r =>
          { r with held := r.held - 7200 * capped 24 (r.held / 7200) })] }

def State.stackReg (s : State) (stk o : Nat) : Option Reg :=
  if s.stackPresent stk = false then none
  else if o = 0 then some { value := (s.stack stk).status }
  else if o = 8 then some { value := (s.stack stk).ctrl }
  else if o = 16 then some (s.errCounts stk)
  else if 0x100 ≤ o ∧ o < 0x180 then
    if o % 16 = 0 then some { value := ((s.stack stk).reg ((o - 0x100) / 16)).cfg } else some (s.regCount stk ((o - 0x100) / 16))
  else none

def State.tierReg (s : State) (t : Nat) : Option Reg :=
  let x := s.tierPort t
  if s.tierPresent t = false then none
  else some
    { value := packBits [(0, 1, 1), (1, 1, b2n x.linkUp), (2, 2, x.width.toNat), (4, 1, b2n x.speed), (5, 1, b2n x.down)
        , (16, 16, capped 16 x.timeouts), (32, 16, x.outstanding)]
      rc := [(31, 16, fun s => s.modTier t fun x => { x with timeouts := 0 })] }

/-! ### Keepers (R84, R306, R328, R357) -/

def State.bucketStatus (s : State) (k : Nat) : Nat :=
  let y := s.kpr k
  packBits [(0, 4, y.parts.foldl (fun n q => max n q.2.unsent) 0), (4, 1, b2n (y.parts.any fun q => q.2.heldBuckets ≠ []))
    , (5, 1, b2n (y.parts.any fun q => q.2.buckets.any fun b => b.2.parking)), (6, 1, b2n y.seqErr), (8, 12, y.lastBucket)
    , (20, 8, maskOf ((List.range 8).filter fun p => (y.part p).nonfinite))]

def State.redCounts (s : State) (k : Nat) : Reg :=
  let y := s.kpr k
  { value := packBits [(0, 16, capped 16 y.heldSlices), (16, 16, capped 16 y.creditHolds), (32, 16, capped 16 y.parked)
      , (48, 16, capped 16 (y.pagesReduced / 256))]
    rc := [(15, 0, fun s => s.modKpr k fun y => { y with heldSlices := 0 })
      , (31, 16, fun s => s.modKpr k fun y => { y with creditHolds := 0 })
      , (47, 32, fun s => s.modKpr k fun y => { y with parked := 0 })
      , (63, 48, fun s => s.modKpr k fun y => { y with pagesReduced := y.pagesReduced - 256 * capped 16 (y.pagesReduced / 256) })] }

def State.digestCounts (s : State) (k : Nat) : Reg :=
  let y := s.kpr k
  { value := packBits [(0, 16, capped 16 y.stagedFails), (16, 16, capped 16 y.buddyFails), (32, 8, capped 8 y.ownerFixed)
      , (40, 8, capped 8 y.buddyFixed), (48, 8, capped 8 y.rollbacks), (56, 8, capped 8 y.selfRestores)]
    rc := [(15, 0, fun s => s.modKpr k fun y => { y with stagedFails := 0 })
      , (31, 16, fun s => s.modKpr k fun y => { y with buddyFails := 0 })
      , (39, 32, fun s => s.modKpr k fun y => { y with ownerFixed := 0 })
      , (47, 40, fun s => s.modKpr k fun y => { y with buddyFixed := 0 })
      , (55, 48, fun s => s.modKpr k fun y => { y with rollbacks := 0 })
      , (63, 56, fun s => s.modKpr k fun y => { y with selfRestores := 0 })] }

def State.probesReg (s : State) (k : Nat) : Reg :=
  { value := capped 32 (s.kpr k).scaleProbes, rc := [(31, 0, fun s => s.modKpr k fun y => { y with scaleProbes := 0 })] }

def State.tierCounts (s : State) (k : Nat) : Reg :=
  let y := s.kpr k
  { value := packBits [(0, 16, capped 16 y.commitWaits), (16, 16, capped 16 (y.fetches / 256)), (32, 16, capped 16 y.digestFails)
      , (48, 16, capped 16 y.lost)]
    rc := [(15, 0, fun s => s.modKpr k fun y => { y with commitWaits := 0 })
      , (31, 16, fun s => s.modKpr k fun y => { y with fetches := y.fetches - 256 * capped 16 (y.fetches / 256) })
      , (47, 32, fun s => s.modKpr k fun y => { y with digestFails := 0 })
      , (63, 48, fun s => s.modKpr k fun y => { y with lost := 0 })] }

def CState.code : CState → Nat
  | .idle => 0 | .running => 1 | .heldSpill => 2 | .heldResume => 3 | .flipWait => 4 | .rollback => 5

def KprPart.commitStatus (y : KprPart) : Nat :=
  packBits [(0, 40, y.step), (40, 3, y.cstate.code), (43, 1, b2n y.spillFull), (44, 1, b2n y.wbNonfinite), (45, 1, b2n y.rolledBack)
    , (46, 5, y.window), (51, 1, b2n y.null)]

def State.commitPages (s : State) (k p : Nat) : Nat :=
  packBits [(0, 28, (s.kpart k p).done), (28, 28, ((s.part p).ownedBy s.selfId k).length)]

/-- The slot that retires in the running commit: the one after HEAD, which is HEAD of a page already stamped. -/
def State.retiring (s : State) (k p : Nat) : Nat :=
  match (s.part p).ownedBy s.selfId k with
  | [] => 0
  | g :: _ =>
    let b := (s.opage k p g).body
    if b.stamp = (s.kpart k p).step + 1 then b.head else (b.head + 1) % s.past

def State.spillReg (s : State) (k p : Nat) : Nat :=
  let j := s.retiring k p
  packBits [(0, 32, sget 0 (s.kpart k p).spillUsed j), (32, 32, (s.part p).spillCap j + sget 0 (s.kpart k p).spillExt j)]

/-- The place at an offset of a Keeper window (R309). -/
def State.kprReg (s : State) (k o : Nat) : Option Reg :=
  if o = 0x200 then some { value := s.bucketStatus k }
  else if o = 0x208 then some (s.redCounts k)
  else if o = 0x218 then some (s.digestCounts k)
  else if 0x220 ≤ o ∧ o < 0x260 then some { value := (s.kpart k ((o - 0x220) / 8)).sumSq.toNat }
  else if o = 0x300 then some (s.probesReg k)
  else if o = 0x310 then some (s.tierCounts k)
  else if 0x400 ≤ o ∧ o < 0x500 then
    let p := (o - 0x400) / 32
    let y := s.kpart k p
    match (o % 32) / 8 with
    | 0 => some { value := y.commitStatus }
    | 1 => some { value := s.commitPages k p }
    | 2 => some { value := packBits [(0, 32, y.lr.toNat), (32, 32, y.clip.toNat)] }
    | _ => some { value := packBits [(0, 40, y.updates), (40, 16, capped 16 y.skips)] }
  else if 0x500 ≤ o ∧ o < 0x540 then some { value := s.spillReg k ((o - 0x500) / 8) }
  else none

/-! ### Malvotan (R392) -/

def PortState.code : PortState → Nat
  | .absent => 0 | .disabled => 1 | .training => 2 | .up => 3 | .down => 4 | .failed => 5

def Port.status (now : Nat) (x : Port) : Nat :=
  packBits [(0, 3, x.state.code), (3, 1, 1), (4, 1, b2n x.stalled), (5, 1, b2n x.precode), (6, 2, x.trainFails), (8, 12, x.peerId)
    , (20, 8, x.peerPort), (28, 4, (x.recentSymbols now).foldl (fun n e => max n e.2) 0)]

def State.portCounts (s : State) (p : Nat) : Reg :=
  let x := s.port p
  let n := capped 16 (x.fecCorrected / 65536)
  { value := packBits [(0, 16, n), (16, 16, capped 16 x.fecUncorrectable), (32, 16, capped 16 x.resends), (48, 16, capped 16 x.downs)]
    rc := [(15, 0, fun s => s.modPort p fun x => { x with fecCorrected := x.fecCorrected - 65536 * n })
      , (31, 16, fun s => s.modPort p fun x => { x with fecUncorrectable := 0 })
      , (47, 32, fun s => s.modPort p fun x => { x with resends := 0 })
      , (63, 48, fun s => s.modPort p fun x => { x with downs := 0 })] }

def State.portReg (s : State) (p o : Nat) : Option Reg :=
  let x := s.port p
  if s.portPresent p = false then none
  else if o = 0 then some { value := x.status s.clk.rootTime }
  else if o = 8 then some (s.portCounts p)
  else if o = 16 then some { value := b2n x.enable + 2 * b2n x.retrain }
  else none

def CtxState.code : CtxState → Nat
  | .closed => 0 | .opening => 1 | .opened => 2 | .lost => 3 | .fenced => 4

def State.selfReg (s : State) : Nat :=
  packBits [(0, 12, s.mlv.selfId.toNat), (12, 1, b2n s.claims), (13, 13, (s.mlv.ctxs.filter fun c => c.2.state == .opened).length)]

/-- The selected context and class. -/
def State.selected (s : State) : Ctx × CtxClass :=
  let c := s.ctx s.mlv.ctxSel.toNat
  (c, c.cls s.mlv.classSel.toNat)

def State.ctxStatus (s : State) : Nat :=
  let (c, k) := s.selected
  packBits [(0, 3, c.state.code), (3, 12, c.partner), (15, 3, c.partnerKpr), (18, 3, c.kpr), (21, 11, k.unacked.length)
    , (32, 11, k.credits), (43, 2, k.resends), (45, 16, c.partnerInc)]

def State.mlvReg (s : State) (o : Nat) : Option Reg :=
  let m := s.mlv
  if o = 0 then some { value := s.selfReg }
  else if o = 8 then some { value := m.ctxSel.toNat + 4096 * m.classSel.toNat }
  else if o = 16 then some { value := s.ctxStatus }
  else if o = 24 then some { value := packBits [(0, 48, s.selected.2.txSeq)] }
  else if o = 32 then some { value := packBits [(0, 48, s.selected.2.rxSeq)] }
  else if o = 40 then some
    { value := packBits [(0, 16, capped 16 m.hdrErr), (16, 16, capped 16 m.misrouted), (32, 16, capped 16 m.ctxErr)
        , (48, 16, capped 16 m.creditViol)]
      rc := [(15, 0, fun s => s.modMlv fun m => { m with hdrErr := 0 })
        , (31, 16, fun s => s.modMlv fun m => { m with misrouted := 0 })
        , (47, 32, fun s => s.modMlv fun m => { m with ctxErr := 0 })
        , (63, 48, fun s => s.modMlv fun m => { m with creditViol := 0 })] }
  else if o = 48 then some
    { value := packBits [(0, 16, capped 16 m.retransmits), (16, 16, capped 16 m.dups), (32, 8, capped 8 m.msgErr)
        , (40, 8, capped 8 m.restarts), (48, 16, capped 16 m.partnersLost)]
      rc := [(15, 0, fun s => s.modMlv fun m => { m with retransmits := 0 })
        , (31, 16, fun s => s.modMlv fun m => { m with dups := 0 })
        , (39, 32, fun s => s.modMlv fun m => { m with msgErr := 0 })
        , (47, 40, fun s => s.modMlv fun m => { m with restarts := 0 })
        , (63, 48, fun s => s.modMlv fun m => { m with partnersLost := 0 })] }
  else none

/-! ### Power and clocks (R501) -/

def Pwr.marginal (p : Pwr) : Bool := p.supply == .marginal

def State.powerReg (s : State) : Reg :=
  let p := s.pwr
  { value := packBits [(0, 10, p.vinA), (10, 10, p.vinB), (20, 10, p.iin), (30, 1, b2n (p.pairOk false)), (31, 1, b2n (p.pairOk true))
      , (32, 1, b2n p.clip), (33, 1, b2n p.marginal), (34, 1, b2n (p.coolBudget < 4200)), (48, 16, capped 16 p.clips)]
    rc := [(63, 48, fun s => s.modPwr fun p => { p with clips := 0 })] }

def Pwr.budgetReg (p : Pwr) : Nat :=
  packBits [(0, 16, p.budget), (16, 16, p.limitSupply), (32, 16, p.limitCool), (48, 16, p.capInForce)]

def Pwr.coolantReg (p : Pwr) : Nat :=
  packBits [(0, 8, p.flow), (8, 8, p.inlet), (16, 8, p.outWafer), (24, 8, p.outCarrier), (32, 8, p.pressure)]

def State.clkReg (s : State) : Reg :=
  let c := s.clk
  { value := packBits [(0, 1, b2n c.lock), (1, 1, b2n c.refLost), (2, 2, c.effective.1), (4, 2, c.effective.2), (6, 2, c.westCmd.toNat)
      , (8, 2, c.eastCmd.toNat), (10, 2, c.westTherm.toNat), (12, 2, c.eastTherm.toNat), (14, 16, capped 16 c.divChanges)]
    rc := [(29, 14, fun s => { s with clk := { s.clk with divChanges := 0 } })] }

def State.pwrReg (s : State) (o : Nat) : Option Reg :=
  if o = 0 then some s.powerReg
  else if o = 8 then some { value := s.pwr.budgetReg }
  else if o = 0x10 then some { value := s.pwr.coolantReg }
  else if 0x10000 ≤ o ∧ o < 0x10000 + 8 * 80 then some { value := s.regionReg ((o - 0x10000) / 8) }
  else if o = 0x80000 then some s.clkReg
  else if o = 0x80008 then some { value := s.cpCounter % 2 ^ 64 }
  else if o = 0x80010 then some { value := s.clk.epochMark.toNat }
  else none

/-! ### Start-up, management, lifetime, identity (R519, R543) -/

def State.bootStatus (s : State) : Nat :=
  let b := s.boot
  packBits [(0, 2, b.mode), (2, 4, b.cause), (6, 4, b.reason), (10, 6, s.fuses.secFloor), (16, 6, b.secVersion)
    , (22, 1, b2n b.updateRunning), (23, 1, b2n b.updatePending), (24, 1, b2n b.hbmKept), (25, 2, b.wdStreak), (32, 32, b.build.toNat)]

def Boot.info (b : Boot) : Nat := packBits [(0, 16, capped 16 b.readyMs), (16, 32, b.pendingBuild.toNat), (48, 8, b.fieldsHeld)]

def State.mgmtReg (s : State) : Reg :=
  let m := s.mgmt
  { value := packBits [(0, 1, b2n m.linked), (1, 4, m.outstanding), (16, 16, capped 16 m.busyRefusals), (32, 16, capped 16 m.eventsLost)
      , (48, 16, capped 16 m.portResets)]
    rc := [(31, 16, fun s => s.modMgmt fun m => { m with busyRefusals := 0 })
      , (47, 32, fun s => s.modMgmt fun m => { m with eventsLost := 0 })
      , (63, 48, fun s => s.modMgmt fun m => { m with portResets := 0 })] }

def Telem.value (t : Telem) : Nat := packBits [(0, 40, t.seq), (40, 1, b2n t.enable), (56, 8, capped 8 t.skipped)]

/-- EM units of one EM-hour, in the model's unit. -/
def emHour : Nat := 3600 * 2 ^ 40

def State.wearReg (s : State) (f : Nat) : Nat :=
  let w := s.wear f
  packBits [(0, 16, capped 16 (w.hot / 3600)), (16, 16, capped 16 (w.em / (2 * emHour))), (32, 7, min 127 (w.hot * 100 / (20000 * 3600)))
    , (39, 7, min 127 (w.em * 100 / (100000 * emHour))), (46, 1, b2n w.warn), (47, 1, b2n w.derated)
    , (48, 3, (s.field f).rested.length)]

def State.identityReg (s : State) : Reg :=
  let l := s.life
  { value := packBits [(0, 17, l.sigsUsed), (17, 1, b2n l.attEn), (18, 1, b2n (65536 ≤ l.nextIndex)), (32, 16, capped 16 l.attDropped)]
    rc := [(47, 32, fun s => s.modLife fun l => { l with attDropped := 0 })] }

def State.secReg (s : State) (o : Nat) : Option Reg :=
  if o = 0 then some s.mgmtReg
  else if o = 0x100 then some
    { value := s.mgmt.hostTelem.value
      rc := [(63, 56, fun s => s.modMgmt fun m => { m with hostTelem := { m.hostTelem with skipped := 0 } })] }
  else if o = 0x110 then some
    { value := s.mgmt.mgmtTelem.value
      rc := [(63, 56, fun s => s.modMgmt fun m => { m with mgmtTelem := { m.mgmtTelem with skipped := 0 } })] }
  else if o = 0x10000 then some { value := packBits [(0, 1, b2n s.life.autoQuiet), (1, 1, b2n s.life.calHold), (2, 1, b2n s.life.rotateEn)] }
  else if o = 0x10008 then some { value := packBits [(0, 48, s.life.lastSeq), (48, 1, b2n s.life.writeFail)] }
  else if 0x20000 ≤ o ∧ o < 0x20200 then some { value := s.wearReg ((o - 0x20000) / 8) }
  else if o = 0x1F0000 then some { value := s.bootStatus }
  else if o = 0x1F0008 then some { value := s.boot.info }
  else if o = 0x1F0010 then some s.identityReg
  else none

/-! ### BAR0 (R456) -/

/-- Registers of the module and the rings, below 0x0002_0000. -/
def State.moduleReg (s : State) (o : Nat) : Option Reg :=
  if o = 0x100 then some { value := s.fuses.cap0 }
  else if o = 0x108 then some { value := s.fuses.portMask }
  else if 0x1000 ≤ o ∧ o < 0x1100 then
    match (o % 32) / 8 with
    | 0 => some { value := s.stepStatus ((o - 0x1000) / 32) }
    | 1 => some { value := (s.part ((o - 0x1000) / 32)).stepVersion }
    | _ => none
  else if o = 0x2000 then some { value := s.recov.status }
  else if 0x2100 ≤ o ∧ o < 0x2180 then
    if o % 16 = 0 then some { value := s.huskStatus ((o - 0x2100) / 16) } else none
  else if o = 0x2200 then some { value := s.recov.replay }
  else if o = 0x3000 then some { value := s.leaseReg }
  else if o = 0x3008 then some s.arbReg
  else if o = 0x3010 then some s.linkReg
  else if 0x12000 ≤ o ∧ o < 0x12800 then
    let r := s.ring ((o - 0x12000) / 32)
    match (o % 32) / 8 with
    | 0 => some { value := r.sqb.toNat }
    | 1 => some { value := r.cqb.toNat }
    | 2 => some { value := r.ctl }
    | _ => some { value := r.status }
  else none

/-- R510: offsets that recovery mode serves: capabilities, start, rings, leases, arbiter and link. -/
def recoveryServes (o : Nat) : Bool :=
  o == 0x100 || o == 0x108 || o == 0x3000 || o == 0x3008 || o == 0x3010 || (0x10000 ≤ o && o < 0x10400)
    || (0x12000 ≤ o && o < 0x12800) || o == 0x35F0000 || o == 0x35F0008

/-- The register at an offset, a multiple of 8; none at a reserved offset, or one that recovery mode does not serve. -/
def State.bar0 (s : State) (o : Nat) : Option Reg :=
  if s.boot.mode = 2 ∧ recoveryServes o = false then none
  else if o < 0x20000 then s.moduleReg o
  else if 0x1000000 ≤ o ∧ o < 0x1400000 then s.fieldReg ((o - 0x1000000) / 0x10000) (o % 0x10000)
  else if 0x2000000 ≤ o ∧ o < 0x3000000 then s.stationReg ((o - 0x2000000) / 256) (o % 256)
  else if 0x3000000 ≤ o ∧ o < 0x3020000 then s.stackReg ((o - 0x3000000) / 0x1000) (o % 0x1000)
  else if o = 0x3020000 then some { value := s.hbm.absentReg }
  else if 0x3030000 ≤ o ∧ o < 0x3030300 then (if o % 256 = 0 then s.tierReg ((o - 0x3030000) / 256) else none)
  else if 0x3100000 ≤ o ∧ o < 0x3180000 then s.kprReg ((o - 0x3100000) / 0x10000) (o % 0x10000)
  else if 0x3200000 ≤ o ∧ o < 0x3204000 then s.portReg ((o - 0x3200000) / 256) (o % 256)
  else if 0x3240000 ≤ o ∧ o < 0x3240100 then s.mlvReg (o - 0x3240000)
  else if 0x3300000 ≤ o ∧ o < 0x3400000 then s.pwrReg (o - 0x3300000)
  else if 0x3400000 ≤ o ∧ o < 0x3600000 then s.secReg (o - 0x3400000)
  else none

/-- R456, R15: a read of 4 or 8 aligned bytes: the value, and the state with the RC fields that the read returned cleared.
Any other access reads zero and counts in BAD_ACCESS. -/
def State.readBar0 (s : State) (offset size : Nat) : Nat × State :=
  if (size = 4 ∨ size = 8) ∧ offset % size = 0 ∧ offset < 0x4000000 then
    let lo := 8 * (offset % 8)
    match s.bar0 (offset - offset % 8) with
    | none => (0, s)
    | some r =>
      (bits r.value (lo + 8 * size - 1) lo
        , s.forAll (r.rc.filter fun c => c.2.1 < lo + 8 * size && lo ≤ c.1) fun s c => c.2.2 s)
  else (0, s.modArb fun a => { a with badAccess := satAdd 8 a.badAccess 1 })

end Sys2Proof.Machine
end

