-- ==== Sys2Proof/Machine/Boot.lean ====
section
/-! DEFINITION. Start-up, reset and firmware (spec/17, and the reset tables R42, R85, R109, R136, R186, R212, R262, R281,
R307, R330, R360, R393, R420, R452, R475, R503, R544): the cold and the warm reset, bring-up, recovery mode, firmware
update, and the losses of supply, reference and enable (R479, R483). -/

namespace Sys2Proof.Machine

def State.modBoot (s : State) (f : Boot → Boot) : State := { s with boot := f s.boot }

/-! ### The maps (R248, R279, R415, R533) -/

/-- R415: the station's core was fenced only until a retest, so it takes the station back. -/
def Field.freed (x : Field) (i : Nat) : Bool := sget 0 x.fencedCores (25 * (i / 24) + i % 24) == 2

/-- R248, R281, R415: a field as start-up builds it from the runtime map: fenced cores, dead routers, bindings and rotated
stations stay; retested cores return to service and their spares are freed; abandoned migrations bind the spare's bank. -/
def Field.rebuilt (x : Field) : Field :=
  let home (i : Nat) : Remap := ⟨i / 24, i % 24, false, false, false⟩
  let bound (i : Nat) : Remap :=
    let r := sget (home i) x.remap i
    if x.freed i && !r.homeDead then home i else r
  { remap := (x.remap.map (·.1)).foldl (fun m i => sset (home i) m i (bound i)) []
    banks := (x.banks.map (·.1)).foldl (fun m i =>
      let d : BankBind := { bprow := i / 24, bpcol := i % 24 }
      let b := sget d x.banks i
      let r := bound i
      let b : BankBind :=
        if x.freed i && !r.homeDead then d
        else if b.migrating then { bprow := r.prow, bpcol := r.pcol, moved := r.moved }
        else { b with copied := false }
      sset d m i b) []
    dead := x.dead, badSites := x.badSites, steered := x.steered, rested := x.rested, lastMove := x.lastMove
    fencedCores := x.fencedCores.filter fun c => c.2 ≠ 2 }

/-- R281: banks as start-up initialises them; retired rows stay. -/
def Bank.rebuilt (b : Bank) : Bank := { retired := b.retired, lost := b.lost }

/-- Applies a change to every listed entry of a table. -/
def smapAll {α : Type} [DecidableEq α] (d : α) (m : Sparse α) (f : Nat → α → α) : Sparse α :=
  (m.map (·.1)).foldl (fun t i => smod d t i (f i)) m

/-- R480: every local counter starts again. -/
def Clk.restarted (c : Clk) : Clk :=
  { c with
    cpMark := c.rootTime
    fieldMark := (List.range 64).foldl (fun m f => sset 0 m f c.rootTime) []
    kprMark := (List.range 8).foldl (fun m k => sset 0 m k c.rootTime) []
    westCmd := 0, eastCmd := 0, divChanges := 0, refLost := false, markValid := false, epochSinceStart := false }

/-- R540, R544: lifetime records and wear stay; unused indices of a block are forfeited. -/
def Life.restarted (l : Life) : Life :=
  { l with
    autoQuiet := true, calHold := false, rotateEn := true, nextIndex := l.sigsUsed, attEn := false, attDropped := 0
    lastAtt := none, samples := [], writeFail := false }

/-- R512, R513: an update that a reset cuts short; its intent record stays where step 3 had begun. -/
def Boot.restarted (b : Boot) (kind : ResetKind) (cause : Nat) : Boot :=
  { stage := .carrier, kind := kind, cause := cause, mode := 0, flash := b.flash, intent := b.intent
    wdStreak := b.wdStreak, faulted := b.faulted && kind == .warm, dry := b.dry && kind == .warm, hbmKept := kind == .warm }

/-! ### Cold reset and power-up (R514, R516) -/

/-- The stacks after a reset: registers at their reset values, but TEMP, and STACK_FAULT of a group whose eFuse has tripped
(R485, R486). -/
def Hbm.freshStacks (h : Hbm) (tripped : List Nat) : Sparse Stack :=
  smapAll {} h.stack fun i x => { temp := x.temp, fault := tripped.contains (i / 4) }

/-- R516: the state that a cold reset or a power-up leaves as bring-up begins: HBM contents, partitions, plans, logical ID,
husks and fences are gone; image, fuses, maps and lifetime records stay, and measured values. (DEDUCED, log entry 104) -/
def State.coldReset (s : State) (kind : ResetKind) (cause : Nat) : State :=
  let p := s.pwr
  let s' : State :=
    { fuses := s.fuses, boot := s.boot.restarted kind cause
      clk := { s.clk.restarted with westTherm := 0, eastTherm := 0, epochMark := 0, epoch := 0, lock := true }
      fields := smapAll {} s.fields fun _ x => x.rebuilt
      banks := smapAll {} s.banks fun _ b => b.rebuilt
      net := { links := smapAll {} s.net.links fun _ l => { steered := l.steered } }
      hbm := { stack := s.hbm.freshStacks [] }
      pwr :=
        { supply := p.supply, enable := p.enable, latched := p.latched, vinA := p.vinA, vinB := p.vinB, iin := p.iin
          flow := p.flow, inlet := p.inlet, outWafer := p.outWafer, outCarrier := p.outCarrier, pressure := p.pressure }
      life := s.life.restarted, out := s.out, freeCtr := s.freeCtr, pending := s.pending }
  s'.forAll (List.range 64) State.rebindField

/-! ### Warm reset (R42, R515) -/

/-- R42, R349, R567: PHASE after a warm reset. The table has no row for a self-fence without a rollback: IDLE, also where the partition was
HALTED before it, or COMMIT where a commit ran (DESIGN CHOICE, log entry 204). -/
def State.warmPhase (s : State) (p : Nat) : Phase :=
  let x := s.part p
  let some' (q : CState → Bool) : Bool := x.keepers.any fun k => q (s.kpart k p).cstate
  if x.rollback.isSome || some' (· == .rollback) then .recovery
  else if x.phase = .commit ∨ x.phase = .flipWait then x.phase
  else if x.phase = .recovery then
    (if some' (fun c => c == .running || c == .heldSpill || c == .heldResume || c == .flipWait) then .commit else .idle)
  else if x.phase = .halted then .halted
  else .idle

/-- What a phase keeps of its step: all of a commit or rollback, the verdict of a halt. -/
def Phase.keepsStep : Phase → Bool
  | .commit | .flipWait | .recovery | .halted => true
  | _ => false

/-- R42, R85, R147, R262: a partition after a warm reset. STEP of MOD_STEP_STATUS is kept with a commit, a rollback or a halt, though its
Reset is 0 (R43; DESIGN CHOICE, log entry 196). -/
def Part.warm (x : Part) (ph : Phase) (off : List Nat) : Part :=
  let kept := ph.keepsStep
  let base : Part :=
    { formed := x.formed, rows := x.rows, plan := x.plan, phase := ph, version := x.version, staged := x.staged
      scales := x.scales, results := x.results, unrecoverable := x.unrecoverable, planBad := x.planBad, layoutLost := x.layoutLost
      hver := x.hver, probes := x.probes, offFields := off }
  if kept then
    { base with
      step := x.step, micro := x.micro
      nextScales := x.nextScales, rollback := x.rollback, nullCommit := x.nullCommit, herdSum := x.herdSum
      reduced := x.reduced, amax := if ph == .commit || ph == .flipWait then x.amax else [], resumeDue := ph == .commit || ph == .flipWait }
  else base

/-- R330, R346, R360: an owned page after a warm reset; gradient and reduction stay in a commit. -/
def OwnedPage.warm (o : OwnedPage) (commit : Bool) : OwnedPage :=
  let back : Resid → Resid
    | .fetch => .slow
    | .evict => .hbm
    | r => r
  let red := o.reduction
  { o with
    resW := back o.resW, resM := back o.resM, resD := back o.resD, refetched := []
    grad := if commit then o.grad else none
    reduction := if commit then { next := red.next, complete := red.complete, staged := red.staged } else {}
    waiting := [], evictLater := [], asked := [], waited := false }

/-- R349: a commit that ran is held until COMMIT_RESUME; a rollback stays one. -/
def CState.warm : CState → CState
  | .idle => .idle
  | .rollback => .rollback
  | _ => .heldResume

/-- R330: a bucket's image stays over a warm reset; its admission and its intake are lost. -/
def Bucket.warm (b : Bucket) : Bucket := { b with seen := false, admitted := false, waiting := [], parking := false, order := 0 }

/-- R330, R349, R360, R425: a partition's state at a Keeper after a warm reset; `commit` says that PHASE is COMMIT or
FLIP_WAIT. -/
def KprPart.warm (y : KprPart) (commit : Bool) (hver : Nat) : KprPart :=
  { y with
    nonfinite := false, buckets := if commit then smapAll {} y.buckets fun _ b => b.warm else []
    admissions := 0, sumSq := 0
    pages := smapAll {} y.pages fun _ o => o.warm commit
    cstate := y.cstate.warm, wbNonfinite := false, rolledBack := false, expected := [], amaxSent := false
    skipBuckets := [], lackHidden := true, huskDue := if commit then y.huskDue else []
    husk := smapAll {} y.husk fun _ h =>
      { h with pending := match h.pending with
          | some side => if side.version = hver + 1 then some side else none
          | none => none } }

/-- A herd member: a partition's herd has another rank (R444). -/
def State.herdMember (s : State) : Bool := (List.range 8).any fun p => (s.part p).formed && 2 ≤ (s.part p).ranks

/-- R503, R509: a field after a warm reset: stages 4 and 5 and tripped eFuses stay off. -/
def State.warmFieldState (s : State) (f : Nat) : FieldState :=
  let r := s.region f
  if r.stage = 4 then .offForHeat else if r.stage = 5 ∨ r.tripped = true ∨ r.lockout = true then .lost else .inService

/-- R452: recovery state after a warm reset. -/
def Recovery.warm (r : Recovery) (selfId : Nat) (member : Bool) : Recovery :=
  let spare := r.spare.any fun c => c.standbyId == selfId
  { role := if spare then .standby else .member
    awaitRejoin := member && !spare
    lastId := r.lastId, lastGen := r.lastGen, gens := r.gens, admitted := r.admitted
    spare := r.spare.map fun c => { c with staged := [] } }

/-- R515: a warm reset, as the reset tables settle each subject. (DEDUCED, log entry 105) -/
def State.warmReset (s : State) (cause : Nat) : State :=
  let states := (List.range 64).map fun f => (f, s.warmFieldState f)
  let off (x : Part) : List Nat := x.fields.filter fun f => states.any fun q => q.1 == f && q.2 ≠ .inService
  let ctx (c : Ctx) : Ctx := { incarnation := c.incarnation }
  let s' : State :=
    { fuses := s.fuses, boot := s.boot.restarted .warm cause, clk := s.clk.restarted
      arb := { leasePart := s.arb.leasePart, leaseKpr := s.arb.leaseKpr, leasePower := s.arb.leasePower
               leaseIdentity := s.arb.leaseIdentity }
      parts := smapAll {} s.parts fun p x => x.warm (s.warmPhase p) (off x)
      kprs := smapAll {} s.kprs fun _ y => { parts := smapAll {} y.parts fun p z => z.warm (s.warmPhase p == .commit || s.warmPhase p == .flipWait) (s.part p).hver }
      fields := states.foldl (fun m q => smod {} m q.1 fun x =>
        { x.rebuilt with state := q.2, offAtFence := x.offAtFence }) s.fields
      banks := smapAll {} s.banks fun _ b => b.rebuilt
      net := { links := smapAll {} s.net.links fun _ l => { steered := l.steered } }
      hbm := { mem := s.hbm.mem, poison := s.hbm.poison, stack := s.hbm.freshStacks s.pwr.hbmTripped, tables := s.hbm.tables }
      mlv := { selfId := s.mlv.selfId, ctxs := smapAll {} s.mlv.ctxs fun _ c => ctx c }
      recov := s.recov.warm s.selfId s.herdMember
      pwr := { s.pwr with clip := false, clips := 0, budget := 0, limitSupply := 0, limitCool := 0 }
      life := s.life.restarted, out := s.out, freeCtr := s.freeCtr, pending := s.pending }
  let s' := s'.forAll (List.range 64) State.rebindField
  let s' := s'.forAll ((List.range 8).filter fun p => (s'.part p).formed && (s'.part p).plan.isSome) fun s p =>
    (s.installStations p).installRegs p
  s'.takeAlternates.forAll (List.range 64) State.offWhenIdle

/-- R514: a reset of the module begins. -/
def State.beginReset (s : State) (kind : ResetKind) (cause : Nat) : State :=
  match kind with
  | .warm => s.warmReset cause
  | k => s.coldReset k cause

/-! ### Bring-up (R504 to R506, R508 to R511) -/

/-- R506: a field is held off, with the record of the cause. -/
def State.holdField (s : State) (f cause : Nat) : State :=
  if (s.field f).state ≠ .inService then s
  else
    let s := (s.logFault f cause 5 0 0 0).modField f fun x => { x with state := .lost }
    let s := s.modBoot fun b => { b with fieldsHeld := b.fieldsHeld + 1 }
    match s.fieldPart f with
    | none => s
    | some p => ((s.leaveLayout f p).loseLayout f p).chooseRoutes p

/-- R248, R413, R506: a station whose core, router or bank at a site has failed self-test is bound as start-up binds it; with no
spare for it the field is held off. -/
def State.rebindFrom (s : State) (f prow pcol : Nat) : State :=
  let at' (s : State) (st : Nat) : Bool :=
    ((s.remapOf st).prow == prow && (s.remapOf st).pcol == pcol) || ((s.bankBind st).bprow == prow && (s.bankBind st).bpcol == pcol)
  match (fieldStations f).find? (at' s) with
  | none => s
  | some st =>
    let s := s.rebindStation st
    if at' s st then s.holdField f 0xE else s

/-- R413, R506: a core, a router or a store site fails self-test, numbered 600 × field + 25 × prow + pcol: the core is fenced in
the runtime map, the router dead, the site bad. -/
def State.failCore (s : State) (i : Nat) : State :=
  let s := s.modField (i / 600) fun x => { x with fencedCores := sset 0 x.fencedCores (i % 600) 1 }
  (s.modWear (i / 600) fun w => { w with fenced := satAdd 16 w.fenced 1 }).rebindFrom (i / 600) (i % 600 / 25) (i % 25)

def State.failRouter (s : State) (i : Nat) : State :=
  let f := i / 600
  let prow := i % 600 / 25
  let pcol := i % 25
  if s.deadSite (25 * (f % 8) + pcol) (24 * (f / 8) + prow) then s
  else if s.deadNear (25 * (f % 8) + pcol) (24 * (f / 8) + prow) then s.holdField f 6
  else
    let s := (s.modField f fun x => { x with dead := x.dead ++ [(prow, pcol)] }).markHome (stOf f prow pcol)
    (if [f, f - 8, f + 8].all s.legsOk then s else s.holdField f 6).rebindFrom f prow pcol

def State.failSite (s : State) (i : Nat) : State :=
  (s.modField (i / 600) fun x => { x with badSites := insertOnce (i % 600) x.badSites }).rebindFrom (i / 600) (i % 600 / 25) (i % 25)

/-- R506: a unit fails at bring-up: field 0 to 63, Keeper 64 to 71, stack 128 to 159; core 1,024 + i, router 39,424 + i and store
site 77,824 + i, where i is 600 × field + 25 × prow + pcol. -/
def State.failUnit (s : State) (u : Nat) : State :=
  if u < 64 then s.holdField u 0xC
  else if u < 72 then s.modBoot fun b => { b with faulted := true }
  else if 128 ≤ u ∧ u < 160 then (if s.stackPresent (u - 128) then s.modStack (u - 128) fun x => { x with fault := true } else s)
  else if 1024 ≤ u ∧ u < 1024 + 38400 then s.failCore (u - 1024)
  else if 39424 ≤ u ∧ u < 39424 + 38400 then s.failRouter (u - 39424)
  else if 77824 ≤ u ∧ u < 77824 + 38400 then s.failSite (u - 77824)
  else s

/-- R508, R510, R521: REASON of the start: three watchdog resets, the intent record, an uncorrectable read, the image.
(DEDUCED, log entry 106) -/
def State.bootReason (s : State) (flashOk : Bool) : Nat :=
  if 3 ≤ s.boot.wdStreak then 8
  else if s.boot.intent then 7
  else if !flashOk then 6
  else if s.boot.flash.reason ≠ 0 then s.boot.flash.reason
  else if s.boot.flash.secVersion < s.fuses.secFloor then 4
  else 0

/-- R534, R535: the start's lifetime record and count. -/
def State.recordStart (s : State) : State :=
  (s.modLife fun l => { l with starts := smod 0 l.starts s.boot.cause fun n => satAdd 16 n 1 }).lifeRecord 0x12 0
    (leBytes 8 s.bootStatus ++ leBytes 8 s.boot.info)

/-- R510: ready in recovery mode. -/
def State.readyRecovery (s : State) (reason ms : Nat) : State :=
  (s.modBoot fun b =>
    { b with
      stage := .ready, mode := 2, reason := reason, secVersion := 0, build := 0, imageDigest := 0, readyMs := min 65535 ms, wdStreak := 0
      recoveryFromWarm := b.kind == .warm }).recordStart

/-- R364, R393, R567: ports train from T1; a module that is no herd member reopens its contexts and completes rollbacks. -/
def State.relink (s : State) : State :=
  let s := s.forAll ((List.range 64).filter s.portPresent) fun s p => s.startTraining p
  if s.boot.kind ≠ .warm ∨ s.recov.awaitRejoin = true then s
  else
    let s := s.forAll ((List.range 8).filter fun p => (s.part p).formed) fun s p => s.openPartners p
    let s := match s.recov.role, s.recov.spare with
      | .standby, some c => s.openStandby c
      | _, _ => s
    s.resumeRollbacks

/-- R551: P5 finds coolant flow below 30 L/min, or found it so before a warm reset. -/
def State.lowFlow (s : State) : Bool := s.boot.dry || (s.boot.kind != .warm && decide (s.pwr.flow < 30))

/-- R505, R509: ready in normal mode, or FAULTED, with the versions of the image; a good start raises SEC_FLOOR. -/
def State.ready (s : State) (ms : Nat) : State :=
  let img := s.boot.flash
  let s := s.modBoot fun b =>
    { b with
      stage := .ready, mode := if b.faulted then 3 else 1, reason := 0, readyMs := min 65535 ms, wdStreak := 0
      secVersion := img.secVersion, build := img.build, imageDigest := img.digest }
  let s := s.recordStart
  if img.raise ∧ s.fuses.secFloor < img.secVersion then { s with fuses := { s.fuses with secFloor := img.secVersion } } else s

/-- R506, R515: ready with the units that P5 to P7 brought up; fields without a free intact spare are held off. -/
def State.readyNormal (s : State) (ms : Nat) (failed : List Nat) : State :=
  let s := s.forAll failed State.failUnit
  let s := s.forAll ((List.range 64).filter fun f => (s.field f).freeSpares = 0) fun s f => s.holdField f 0xE
  (s.ready ms).relink

/-- R551: ready without Keepers, HBM and wafer: MODE reads FAULTED until a cold reset with coolant flowing. -/
def State.readyDry (s : State) (ms : Nat) : State := (s.modBoot fun b => { b with faulted := true, dry := true }).ready ms

/-- R453, R473: CXL-H has trained, to a width and a rate that are free values among those it supports (DESIGN CHOICE, log entry 137). -/
def State.linkTrained (s : State) : State :=
  let (v, s) := s.draw
  s.modHost fun h => { h with width := BitVec.ofNat 2 (1 + v.toNat % 3), speed := BitVec.ofNat 2 (1 + v.toNat / 4 % 3) }

/-- R505, R510, R551: bring-up ends. -/
def State.bringupReady (s : State) (flashOk : Bool) (ms : Nat) (failed : List Nat) : State :=
  match s.boot.stage with
  | .off | .ready => s
  | .carrier =>
    let reason := s.bootReason flashOk
    (if reason ≠ 0 then s.readyRecovery reason ms else if s.lowFlow then s.readyDry ms else s.readyNormal ms failed).linkTrained
  | _ => s.readyNormal ms failed

/-- R504, R506: a stage overruns its limit: its unit has failed and bring-up goes on with the next. -/
def State.stageTimeout (s : State) (u : Nat) : State :=
  let image := s.bootReason true = 0 ∧ s.lowFlow = false
  let next (g : Stage) : State := (s.failUnit u).modBoot fun b => { b with stage := g }
  let wave : Nat := u % 8
  let ahead : Bool := match s.boot.stage with
    | .carrier => image
    | .keepers => true
    | .wave c => c ≤ wave
    | _ => false
  if u < 64 then
    if s.boot.stage = .links then next .links
    else if ahead then next (if wave = 7 then .links else .wave (wave + 1))
    else s
  else if (u < 72 ∨ (128 ≤ u ∧ u < 160)) ∧ ((s.boot.stage = .carrier ∧ image) ∨ s.boot.stage = .keepers) then next (.wave 0)
  else s

/-! ### Switching off and on (R479, R483, R550) -/

/-- R479, R483: the module fences itself and switches off; all but flash and fuses is lost. -/
def State.switchOff (s : State) : State :=
  if s.boot.stage = .off then s
  else (s.fatalFault.coldReset .powerUp s.boot.cause).modBoot fun b => { b with stage := .off }

/-- R504: the supply and the enable pin start the boot ROM. -/
def State.powerUp (s : State) (cause : Nat) : State :=
  ((s.coldReset .powerUp cause).modBoot fun b => { b with wdStreak := 0 }).modLife fun l => { l with mark := s.clk.rootTime }

/-! ### Firmware images (R507, R508) -/

def imageBits (img : List Byte) (hi lo : Nat) : Nat := bits (leNat (img.take 4096)) hi lo

/-- R508: the first check of an image that fails, as its REASON and the byte offset of the fault. -/
def imageFault (f : Fuses) (img : List Byte) : Option (Nat × Nat) :=
  let at' := imageBits img
  let len := at' 95 64
  let part := if f.part = 0x14 then 48 else if f.part = 0x10 then 49 else 50
  let step := if f.stepping = 0xA0 then 56 else 57
  if at' 31 0 ≠ 0x4D585345 then some (1, 0)
  else if at' 39 32 ≠ 1 then some (2, 4)
  else if at' 47 47 ≠ 0 then some (2, 5)
  else if at' 55 51 ≠ 0 then some (2, 6)
  else if at' 63 58 ≠ 0 then some (2, 7)
  else if len < 12288 ∨ 67108864 < len ∨ img.length < len then some (2, 8)
  else if at' 32767 128 ≠ 0 then some (2, 16)
  else if at' part part = 0 then some (3, 6)
  else if at' step step = 0 then some (3, 7)
  else if at' 45 40 < f.secFloor then some (4, 5)
  else if !Config.imageVerifies (img.take len) then some (5, len - 2820)
  else none

/-- What the flash then holds. -/
def flashOf (img : List Byte) : FlashImage :=
  { reason := 0, secVersion := imageBits img 45 40, raise := imageBits img 46 46 == 1
    build := BitVec.ofNat 32 (imageBits img 127 96)
    digest := BitVec.ofNat 256 (leNat (shake256 32 (img.take (imageBits img 95 64)))) }

/-- R512 steps 1 to 3: LENGTH bytes are held, from host memory or the data-in buffer (R524); the class 1 completion goes out; a copy that fails its checks ends the update. -/
def State.imageHeld (s : State) (img : List Byte) : State :=
  match s.boot.update with
  | some u =>
    if u.stage ≠ .reading then s
    else
      let img := match s.flight u.csn with
        | some fl =>
          let n := bits fl.cmd.packet.params.toNat 95 64
          let bs := if fl.cmd.packet.src = .mgmt then fl.cmd.packet.data else img
          (bs ++ List.replicate (n - bs.length) 0).take n
        | none => img
      let s := match s.flight u.csn with
        | some fl => if fl.muted then s else s.reply true fl.dest fl.cmd u.csn { status := 0x1000 }
        | none => s
      match imageFault s.fuses img with
      | some (reason, offset) =>
        let r : Res := if reason ≤ 3 then ⟨0x2004, offset⟩ else ⟨0x7003, 0⟩
        (s.modBoot fun b => { b with update := none }).final u.csn r
      | none => s.modBoot fun b =>
          { b with update := some { u with stage := .programming false, held := img }, intent := true, updateRunning := true }
  | none => s

/-- R513: a reset held for the end of the update begins; R511: in recovery mode the module resets itself. -/
def State.afterUpdate (s : State) (good : Bool) : State :=
  match s.boot.heldReset with
  | some k => s.beginReset k (if k = .warm then 1 else 2)
  | none =>
    if good ∧ s.boot.mode = 2 then s.beginReset (if s.boot.recoveryFromWarm then .warm else .cold) 7 else s

/-- R512, R513: programming and read-back end. -/
def State.programDone (s : State) (success : Bool) : State :=
  match s.boot.update with
  | some u =>
    match u.stage with
    | .programming retried =>
      if success then
        let s := s.modBoot fun b =>
          { b with
            intent := false, updateRunning := false, updatePending := true, update := none
            flash := flashOf u.held, pendingBuild := BitVec.ofNat 32 (imageBits u.held 127 96) }
        let s := s.modLife fun l => { l with fwUpdates := satAdd 16 l.fwUpdates 1 }
        (s.final u.csn {}).afterUpdate true
      else if !retried then s.modBoot fun b => { b with update := some { u with stage := .programming true } }
      else
        let s := s.modBoot fun b => { b with updateRunning := false, update := none }
        (s.final u.csn { status := 0x6002 }).afterUpdate false
    | _ => s
  | none => s

/-! ### eFuses (R485, R486) -/

/-- R485: a trip of field 0 to 63, Keeper 64 to 71, HBM group 72 to 79, or the carrier, 80. (DEDUCED, log entry 101) -/
def State.efuseTrip (s : State) (i : Nat) : State :=
  if i < 64 then s.fieldTrip i
  else if i < 72 then
    if (s.region i).tripped then s
    else
      let s := (s.modRegion i fun r => { r with tripped := true }).regionRecord i
      let s := s.kprLife (i - 64) fun l => { l with trips := satAdd 16 l.trips 1 }
      (s.modBoot fun b => { b with faulted := true }).fatalFault
  else if i < 80 then
    let k := i - 72
    if s.pwr.hbmTripped.contains k then s
    else
    let s := s.modPwr fun p => { p with hbmTripped := k :: p.hbmTripped }
    let s := (s.lifeRecord 0x14 k (leBytes 8 i)).kprLife k fun l => { l with trips := satAdd 16 l.trips 1 }
    let s := s.forAll ((List.range 4).filter fun j => s.stackPresent (4 * k + j)) fun s j =>
      s.modStack (4 * k + j) fun x => { x with fault := true }
    (s.modBoot fun b => { b with faulted := true }).fatalFault
  else if i = 80 then (s.lifeRecord 0x14 0 (leBytes 8 i)).switchOff
  else s

/-! ### Meanings -/

def execEfuseTrip (region : Nat) (s : State) : Host.Outcome State Fault Refusal := .next (s.efuseTrip region)

/-- R483: below 50 V on both pairs. -/
def execSupplyUndervoltage (a b : Nat) (s : State) : Host.Outcome State Fault Refusal :=
  .next (
    if 500 ≤ max a b then s
    else s.switchOff.modPwr fun p => { p with vinA := a, vinB := b, supply := if p.latched then p.supply else .lockout })

/-- R483: above 70 V: the shutdown is latched. -/
def execSupplyOvervoltage (a b : Nat) (s : State) : Host.Outcome State Fault Refusal :=
  .next (
    if max a b ≤ 700 then s
    else s.switchOff.modPwr fun p => { p with vinA := a, vinB := b, supply := .overvoltage, latched := true })

/-- R483: after lockout the input has stayed above 52 V for 100 ms. -/
def execUvloRestart (a b : Nat) (s : State) : Host.Outcome State Fault Refusal :=
  .next (
    if s.boot.stage = .off ∧ s.pwr.supply = .lockout ∧ s.pwr.enable = true ∧ s.clk.lock = true ∧ 520 < max a b ∧ max a b ≤ 700 then
      (s.setVin a b).powerUp 4
    else s)

/-- R483, R550: the enable pin is deasserted: a loss of supply; a latched shutdown is released. -/
def execEnableDeassert (s : State) : Host.Outcome State Fault Refusal :=
  .next (s.switchOff.modPwr fun p => { p with enable := false, latched := false })

/-- R504: the supply meets the restart condition and the enable pin is asserted. -/
def execPowerUp (a b : Nat) (s : State) : Host.Outcome State Fault Refusal :=
  .next (
    if s.boot.stage = .off ∧ s.pwr.latched = false ∧ s.clk.lock = true ∧ 500 ≤ max a b ∧ max a b ≤ 700
        ∧ (s.pwr.supply ≠ .lockout ∨ 520 < max a b) then
      let cause := if s.pwr.supply = .overvoltage then 5 else 0
      ((s.setVin a b).modPwr fun p => { p with enable := true }).powerUp cause
    else s)

/-- R479: the reference or the lock of the root PLL is lost: the module fences itself and removes wafer power. -/
def State.clockLoss (s : State) : State :=
  let s := s.switchOff
  { s with clk := { s.clk with lock := false, refLost := true } }

def execRefLoss (s : State) : Host.Outcome State Fault Refusal := .next s.clockLoss

def execPllLockLoss (s : State) : Host.Outcome State Fault Refusal := .next s.clockLoss

/-- R479: reference and lock are back; the restart follows the power-up sequence. REF_LOST stays, as the record of the
cause. -/
def execRefRestored (s : State) : Host.Outcome State Fault Refusal :=
  .next (
    if s.clk.lock then s
    else
      let s := { s with clk := { s.clk with lock := true } }
      if s.boot.stage = .off ∧ s.pwr.enable = true ∧ (s.pwr.supply = .operating ∨ s.pwr.supply = .marginal) then
        let s := s.powerUp 6
        { s with clk := { s.clk with refLost := true } }
      else s)

def execBringupStageTimeout (unit : Nat) (s : State) : Host.Outcome State Fault Refusal := .next (s.stageTimeout unit)

def execBringupReady (flashOk : Bool) (ms : Nat) (failed : List Nat) (s : State) : Host.Outcome State Fault Refusal :=
  .next (s.bringupReady flashOk ms failed)

/-- R514: a control processor has missed its heartbeat for 1 s. -/
def execCpWatchdog (s : State) : Host.Outcome State Fault Refusal :=
  .next (
    if s.boot.stage = .off then s
    else (s.watchdogFence.warmReset 3).modBoot fun b => { b with wdStreak := min 3 (b.wdStreak + 1) })

def execFwImageHeld (image : List Byte) (s : State) : Host.Outcome State Fault Refusal := .next (s.imageHeld image)

def execFwProgramDone (success : Bool) (s : State) : Host.Outcome State Fault Refusal := .next (s.programDone success)

/-- R554: PERST# on a slow-tier port takes its link down and lets it train again. -/
def execSlowTierPerst (t : Nat) (s : State) : Host.Outcome State Fault Refusal :=
  .next (if s.tierPresent t then s.modTier t fun x => { x with linkUp := false } else s)

end Sys2Proof.Machine
end

