-- ==== Sys2Proof/Machine/Mgmt.lean ====
section
/-! DEFINITION. Management, lifetime records and identity (spec/18): the management port's resets and data-in buffer (R523
to R526), telemetry (R527 to R529), sensor calibration (R531), wear (R532), lifetime records (R534 to R538), and the
device identity (R539 to R542). -/

namespace Sys2Proof.Machine

/-! ### Telemetry (R527 to R529) -/

/-- Eight-byte items, padded with zero bytes to a record's size. -/
def record (size : Nat) (items : List Nat) : List Byte :=
  items.flatMap (leBytes 8) ++ List.replicate (size - 8 * items.length) 0

/-- R527: the telemetry record of a place: field 0 to 63, Keeper 64 to 71, stack 72 to 103, port 104 to 167; none for an
absent unit, or a field that is lost, off or restarting. -/
def State.telemetryRecord (s : State) (place : Nat) : Option (List Byte) :=
  if place < 64 then
    let f := place
    let x := s.field f
    if x.state ≠ .inService then none
    else some (record 128
      [s.fieldCounter f, s.regionReg f, s.netStatus f, s.storeStatus f, x.spareStatus, x.faultStatus, s.wearReg f
      , x.productTotal, x.exchangeTotal, x.storeCounts])
  else if place < 72 then
    let k := place - 64
    some (record 256 ([s.kprCounter k, s.bucketStatus k, s.regionReg (64 + k), s.regionReg (72 + k)]
      ++ ((List.range 8).map fun p => (s.kpart k p).commitStatus) ++ (List.range 8).map fun p => s.commitPages k p))
  else if place < 104 then
    let stk := place - 72
    if s.stackPresent stk then
      some (record 32 [s.kprCounter (stk / 4), (s.stack stk).status, ((s.stack stk).regs.map fun r => r.2.granted).sum])
    else none
  else if place < 168 then
    let p := place - 104
    if s.portPresent p then some (record 32 [s.kprCounter (p / 8), (s.port p).status s.clk.rootTime, (sget {} s.life.ports p).corrected])
    else none
  else none

/-- R527: a place samples its record. -/
def State.sample (s : State) (place : Nat) : State :=
  match s.telemetryRecord place with
  | none => s
  | some bs => s.modLife fun l => { l with samples := sset ⟨0, []⟩ l.samples place ⟨s.clk.rootTime, bs⟩ }

/-- R534, R538: MARK reads all ones while it is not valid. -/
def Clk.markValue (c : Clk) : Nat := if c.markValid then c.epochMark.toNat else 2 ^ 64 - 1

/-- R527: the 16,384 bytes of a snapshot. (DEDUCED, log entry 111) -/
def State.snapshot (s : State) (seq : Nat) (forced : Bool) : List Byte :=
  let get (place size : Nat) : List Byte :=
    match (sget ⟨0, []⟩ s.life.samples place).bytes with
    | [] => List.replicate size 0
    | bs => bs
  let stale := s.life.samples.any fun q => q.2.time + 14400000 < s.clk.rootTime
  let lost := s.host.lostEvents || s.mgmt.eventsLost ≠ 0
  record 64 [seq, s.cpCounter, s.clk.epoch.toNat, s.clk.markValue, b2n forced + 2 * b2n stale + 4 * b2n lost]
    ++ ((List.range 64).flatMap fun f => get f 128)
    ++ ((List.range 8).flatMap fun k => get (64 + k) 256)
    ++ ((List.range 32).flatMap fun i => get (72 + i) 32)
    ++ ((List.range 64).flatMap fun p => get (104 + p) 32)
    ++ record 3008 ([s.powerReg.value, s.pwr.budgetReg, s.pwr.coolantReg, s.clkReg.value]
        ++ (List.range 8).map fun p => s.stepStatus p)

def State.telem (s : State) : Source → Telem
  | .mgmt => s.mgmt.mgmtTelem
  | _ => s.mgmt.hostTelem

def State.setTelem (s : State) (src : Source) (t : Telem) : State :=
  s.modMgmt fun m => match src with
    | .mgmt => { m with mgmtTelem := t }
    | _ => { m with hostTelem := t }

/-- R528: the next snapshot of a master goes into its slot, or out as KIND 0x04 under a TAG. -/
def State.sendSnapshot (s : State) (src : Source) (tag : BitVec 8) (forced : Bool) : State :=
  let t := s.telem src
  let seq := t.seq + 1
  let bs := s.snapshot seq forced
  let s := s.setTelem src { t with seq := seq }
  match src with
  | .mgmt => s.emit (.mgmtMsg 4 tag bs)
  | _ => s.emit (.hostWrite (t.addr.toNat + 16384 * (seq % t.slots)) bs)

/-- R528: a snapshot comes due for a master: skipped and counted while the last write or the port is busy; the management
port takes one every SLOTS. -/
def State.snapshotDue (s : State) (src : Source) (busy : Bool) : State :=
  let t := s.telem src
  if !t.enable then s
  else
    let t := { t with due := t.due + 1 }
    let s := s.setTelem src t
    if src = .mgmt ∧ t.due % t.slots ≠ 0 then s
    else if busy then s.setTelem src { t with skipped := satAdd 8 t.skipped 1 }
    else s.sendSnapshot src 0 false

/-! ### Lifetime records (R534 to R538) -/

/-- R534: the 256 bytes of a record. -/
def LifeRec.encode (r : LifeRec) : List Byte :=
  let head := leBytes 1 r.type ++ leBytes 1 r.subject ++ leBytes 6 r.seq ++ leBytes 8 r.counter.toNat ++ leBytes 8 r.epoch.toNat
    ++ leBytes 8 r.mark.toNat
  let bs := head ++ (r.body ++ List.replicate (220 - r.body.length) 0)
  bs ++ leBytes 4 (crc32c bs)

/-- The terminator of a LIFE_READ output. -/
def lifeEnd : List Byte :=
  let bs := List.replicate 252 (0 : Byte)
  bs ++ leBytes 4 (crc32c bs)

/-- R532: 2 to the power r/10, in 2^-40, rounded down, for r from 0 to 9. -/
def tenthPowers : List Nat :=
  [1099511627776, 1178427384400, 1263007198126, 1353657597944, 1450814290837, 1554944255987, 1666547989290, 1786161908965
  , 1914360933822, 2051761246586]

/-- R532: the EM units of one second at a current of `c` times 0.01 A and a temperature of `t` °C, in 1/(3600 × 2^40)
EM-hours, rounded down. (DESIGN CHOICE, log entry 107) -/
def emUnits (c t : Nat) : Nat :=
  let e := t + 1000 - 85
  c * c * tenthPowers.getD (e % 10) 0 * 2 ^ (e / 10) / (1000000 * 2 ^ 100)

/-- R535: the powered time of the module and its Keepers is counted up to now, in whole seconds. -/
def State.countPowered (s : State) : State :=
  let n := (s.clk.rootTime - s.life.mark) / 7200000000
  if n = 0 then s
  else
    let s := s.modLife fun l =>
      { l with
        mark := l.mark + n * 7200000000, poweredSeconds := satAdd 32 l.poweredSeconds n
        marginalSeconds := if s.pwr.marginal then satAdd 32 l.marginalSeconds n else l.marginalSeconds }
    s.forAll (if s.unpowered then [] else List.range 8) fun s k =>
      s.kprLife k fun l =>
        { l with
          powered := satAdd 32 l.powered n
          double := (List.range 4).foldl (fun m j =>
            if (s.stack (4 * k + j)).refresh2x then smod 0 m j fun v => satAdd 32 v n else m) l.double }

/-- R532, R533, R535: one second of a powered field: hot time, EM units, voltage stress, time in its store band, and the
active time of its bound cores. At 90 % of a budget WEAR_WARN is set, at 100 % DERATED. -/
def State.wearSecond (s : State) (f centiamps : Nat) : State :=
  if (s.field f).isOff || s.unpowered then s
  else
    let t := (s.region f).temp
    let s := s.countPowered
    let s := s.modWear f fun w =>
      let hot := if 85 < t then w.hot + 1 else w.hot
      let em := w.em + emUnits centiamps t
      { w with
        powered := satAdd 32 w.powered 1, band := smod 0 w.band (s.field f).band fun n => satAdd 32 n 1
        hot := hot, em := em, stress := w.stress + (s.pwr.vin - 600)
        warn := w.warn || decide (90 * 20000 * 3600 ≤ 100 * hot) || decide (90 * 100000 * emHour ≤ 100 * em)
        derated := w.derated || decide (20000 * 3600 ≤ hot) || decide (100000 * emHour ≤ em) }
    s.forAll (fieldStations f) fun s st =>
      let r := s.remapOf st
      s.modLife fun l => { l with active := smod 0 l.active (bankIdx f r.prow r.pcol) (· + 1) }

/-- R535: bodies of the counter records. -/
def State.moduleCounters (s : State) : List Byte :=
  let l := s.life
  leBytes 4 l.poweredSeconds ++ leBytes 4 l.marginalSeconds ++ leBytes 4 (capped 32 l.clipsTotal) ++ leBytes 4 l.sigsUsed
    ++ leBytes 2 l.fwUpdates ++ (List.range 8).flatMap fun c => leBytes 2 (sget 0 l.starts c)

/-- The layout of counter and fence records (DESIGN CHOICE, log entry 108). -/
def Wear.counters (w : Wear) : List Byte :=
  leBytes 4 w.powered ++ ((List.range 4).flatMap fun b => leBytes 4 (sget 0 w.band b))
    ++ leBytes 4 (capped 32 (w.stress / 360)) ++ leBytes 4 (capped 32 (w.em * 100 / emHour)) ++ leBytes 2 w.bound
    ++ leBytes 2 w.fenced ++ leBytes 8 w.corrected ++ leBytes 4 w.uncorrectable ++ leBytes 4 w.retired ++ leBytes 4 w.rotations
    ++ leBytes 2 w.trips ++ leBytes 2 w.losses

def KprLife.counters (l : KprLife) : List Byte :=
  leBytes 4 l.powered ++ ((List.range 4).flatMap fun i => leBytes 4 (sget 0 l.double i))
    ++ ((List.range 4).flatMap fun i => leBytes 8 (sget 0 l.corrected i))
    ++ ((List.range 4).flatMap fun i => leBytes 4 (sget 0 l.uncorrectable i)) ++ leBytes 2 l.trips

def PortLife.counters (l : PortLife) : List Byte :=
  leBytes 8 l.corrected ++ leBytes 8 l.uncorrectable ++ leBytes 4 l.downs ++ leBytes 4 l.trainFails ++ leBytes 8 l.resends

/-- R534, R536: a counter set is written; it replaces the older of the two sets that the log keeps. -/
def State.writeCounters (s : State) (ok : Bool) : State :=
  let s := s.countPowered
  let s := if ok then s else s.modLife fun l => { l with writeFail := true }
  let second (r : LifeRec) : Bool := r.type < 0x10 && s.life.records.any fun q => q.type == r.type && q.subject == r.subject && r.seq < q.seq
  let s := s.modLife fun l => { l with records := l.records.filter fun r => !second r }
  let s := s.lifeRecord 1 0 s.moduleCounters
  let s := s.forAll (List.range 64) fun s f => s.lifeRecord 2 f (s.wear f).counters
  let s := s.forAll (List.range 8) fun s k => s.lifeRecord 3 k (sget {} s.life.kprs k).counters
  s.forAll ((List.range 64).filter s.portPresent) fun s p => s.lifeRecord 4 p (sget {} s.life.ports p).counters

/-- The newest record of each type and subject among counter records, and every event record, newest first. -/
def newestSet : List LifeRec → List (Nat × Nat) → List LifeRec
  | [], _ => []
  | r :: rs, seen =>
    if r.type < 0x10 ∧ seen.contains (r.type, r.subject) = true then newestSet rs seen
    else r :: newestSet rs ((r.type, r.subject) :: seen)

/-- R537: the records that a LIFE_READ selects. -/
def State.lifeSelect (s : State) (all : Bool) (f : Nat) : List LifeRec :=
  let l := newestSet s.life.records []
  if all then l
  else l.filter fun r =>
    ((r.type == 2 || r.type == 0x10) && r.subject == f) || (r.type == 0x14 && leNat (r.body.take 8) == f)

/-- R537: the output in LENGTH bytes, and the bytes that the full output would need where it does not fit.
(DEDUCED, log entry 109) -/
def State.lifeOutput (s : State) (all : Bool) (f length : Nat) : List Byte × Nat :=
  let rs := s.lifeSelect all f
  let fit := rs.take (length / 256 - 1)
  ((fit.flatMap LifeRec.encode) ++ lifeEnd, if fit.length < rs.length then 256 * (rs.length + 1) else 0)

/-! ### Identity (R539 to R542) -/

/-- R541: what the runtime map holds, as far as the spec says (R248, R266, R279, R415, R533): fenced cores, dead routers, rested
and bound stations and banks of every field, rows retired, tracks steered out, and active times. -/
def State.mapContents (s : State) : List (List Nat) :=
  ((List.range 64).flatMap fun f =>
      let x := s.field f
      [x.fencedCores.flatMap fun c => [c.1, c.2], x.dead.flatMap fun d => [d.1, d.2], x.rested
      , x.remap.flatMap fun r => [r.1, r.2.prow, r.2.pcol, b2n r.2.moved + 2 * b2n r.2.fenced + 4 * b2n r.2.homeDead]
      , x.banks.flatMap fun b => [b.1, b.2.bprow, b.2.bpcol]])
    ++ (s.banks.map fun b => b.1 :: b.2.retired.flatMap fun r => [r.1, r.2]) ++ (s.net.links.map fun l => l.1 :: l.2.steered)
    ++ [s.life.active.flatMap fun a => [a.1, a.2]]

/-- Bytes 0 to 159 of a report (R541). (DEDUCED, log entry 113) -/
def State.reportHead (s : State) (nonce : List Byte) (index : Nat) : List Byte :=
  nonce ++ (Config.identityBlock.drop 72).take 16 ++ [s.fuses.part, s.fuses.stepping] ++ leBytes 1 s.boot.secVersion
    ++ leBytes 1 s.fuses.secFloor ++ leBytes 4 s.boot.build.toNat ++ leBytes 32 s.boot.imageDigest.toNat
    ++ leBytes 32 (Config.mapDigest s.mapContents).toNat ++ leBytes 4 s.mlv.selfId.toNat ++ leBytes 4 index ++ leBytes 8 s.cpCounter
    ++ leBytes 8 (if s.clk.epochSinceStart then s.clk.epoch.toNat else 0) ++ leBytes 8 s.clk.markValue
    ++ leBytes 4 (s.life.poweredSeconds / 3600) ++ leBytes 4 0

/-- R540: takes the next index, reserving the next block of 16 first where the last is used up; none at exhaustion. -/
def State.takeIndex (s : State) : Option (Nat × State) :=
  let i := s.life.nextIndex
  if 65536 ≤ i then none
  else
    let s := if i < s.life.sigsUsed then s
      else (s.modLife fun l => { l with sigsUsed := i + 16 }).lifeRecord 0x13 0 (leBytes 4 (i + 16))
    some (i, s.modLife fun l => { l with nextIndex := i + 1 })

/-- R541: a signed report for a nonce. -/
def State.attest (s : State) (nonce : List Byte) : Option (List Byte × State) :=
  let s := s.countPowered
  s.takeIndex.map fun q =>
    let head := q.2.reportHead nonce q.1
    (head ++ Config.identitySign q.1 head, q.2)

/-- R381, R542: an ATT_REQ's cell is taken; it is answered while ATT_EN is set, once per 10 s; others are discarded and counted.
(DEDUCED, log entry 112) -/
def State.attRequest (s : State) (i head : Nat) : State :=
  let s := s.took i 4 1
  if s.life.attEn = false ∨ (s.life.lastAtt.any fun t => decide (s.clk.rootTime < t + 72000000000)) = true then
    s.modLife fun l => { l with attDropped := satAdd 16 l.attDropped 1 }
  else match s.attest (leBytes 32 head) with
    | none => s
    | some (report, s) =>
      let rest := report.drop 512
      let s := s.modLife fun l => { l with lastAtt := some s.clk.rootTime }
      s.send i 4 0x51 (report.take 512) true (rest ++ List.replicate (2560 - rest.length) 0)

/-! ### Sensor calibration (R530, R531) -/

/-- R531: a sensor, 64 × place + sensor with the places of SENSOR_READ and 168 for the supply, is calibrated: not while held
or paused, unless 600 s have gone without; never on a field in stage 3 or above, or a stack above 95 °C. -/
def State.calibrate (s : State) (sensor : Nat) : State :=
  let place := sensor / 64
  let barred : Bool :=
    if place < 64 then 3 ≤ (s.region place).stage
    else if place < 128 then 3 ≤ (s.region (place - 64)).stage
    else if place < 160 then 95 < (s.stack (place - 128)).temp
    else 168 < place
  let due := s.clk.rootTime - sget 0 s.life.calibrated sensor
  if barred ∨ ((s.life.calHold = true ∨ s.paused = true) ∧ due < 600 * 7200000000) then s
  else s.modLife fun l => { l with calibrated := sset 0 l.calibrated sensor s.clk.rootTime }

/-! ### The port (R523 to R526) -/

/-- The port is served from ready on. -/
def State.mgmtServed (s : State) : Bool := s.boot.stage == .ready

/-- R524: the most recent KIND 0x08 message fills the data-in buffer. -/
def State.mgmtDataIn (s : State) (tag : BitVec 8) (data : List Byte) : State :=
  if s.mgmtServed = false ∨ data = [] ∨ 67108864 < data.length then s
  else s.modMgmt fun m => { m with linked := true, dataIn := some (tag, data) }

/-- R526: a target reset or the loss of the dynamic address resets the port alone. (DEDUCED, log entry 136) -/
def State.portReset (s : State) : State :=
  if s.mgmtServed = false then s
  else
    let s := s.modArb fun a =>
      { a with inflight := a.inflight.map fun f => if f.cmd.packet.src = .mgmt then { f with muted := true } else f }
    s.modMgmt fun m =>
      { m with
        linked := false, portResets := satAdd 16 m.portResets 1, dataIn := none, queue := [], events := {}
        mgmtTelem := { seq := m.mgmtTelem.seq, skipped := m.mgmtTelem.skipped } }

/-! ### Meanings -/

def execTelemetrySample (place : Nat) (s : State) : Host.Outcome State Fault Refusal := .next (s.sample place)

def execSnapshotAssembly (hostBusy mgmtBusy : Bool) (s : State) : Host.Outcome State Fault Refusal :=
  .next ((s.snapshotDue .host hostBusy).snapshotDue .mgmt mgmtBusy)

def execSensorCalibration (sensor : Nat) (s : State) : Host.Outcome State Fault Refusal := .next (s.calibrate sensor)

def execWearAccumulate (f centiamps : Nat) (s : State) : Host.Outcome State Fault Refusal :=
  .next (if f < 64 then s.wearSecond f centiamps else s)

def execCounterSetWrite (ok : Bool) (s : State) : Host.Outcome State Fault Refusal := .next (s.writeCounters ok)

def execAttReq (ctx head : Nat) (s : State) : Host.Outcome State Fault Refusal :=
  .next (if (s.ctx ctx).state = .opened then s.attRequest ctx head else s)

def execMgmtDataIn (tag : BitVec 8) (data : List Byte) (s : State) : Host.Outcome State Fault Refusal :=
  .next (s.mgmtDataIn tag data)

def execMgmtPortReset (s : State) : Host.Outcome State Fault Refusal := .next s.portReset

end Sys2Proof.Machine
end

