-- ==== Sys2Proof/Machine/Commands.lean ====
section
/-! DEFINITION. The command catalogue (R461 to R468): for each command its PARAMS, lease, ranges, units and preconditions,
its touch set (R471) and its effect; and the checks of R463 in their order. -/

namespace Sys2Proof

/-- PARAMS as a number. -/
def Packet.n (c : Packet) : Nat := c.params.toNat

/-- The first `n` bytes that a command reads; host memory always answers (DESIGN CHOICE, log entry 12). -/
def Packet.bytes (c : Packet) (n : Nat) : List Byte := (c.data ++ List.replicate (n - c.data.length) 0).take n

/-- The context on which a peer's command arrived. -/
def Packet.came (c : Packet) : Option Nat := if c.src = .peer then some c.ctx else none

end Sys2Proof

namespace Sys2Proof.Machine

/-! ### The form of a catalogue row -/

/-- A row of the catalogue. PARAMS is passed as a number. -/
structure CatRow where
  opcode : Nat
  /-- The command is marked "host". -/
  hostOnly : Bool := false
  /-- Named PARAMS fields: lowest bit and width. -/
  fields : List (Nat × Nat) := []
  /-- Lowest bits of the fields that hold host memory addresses. -/
  addrs : List Nat := []
  /-- Bytes that the command reads at its address. -/
  reads : Nat → Nat := fun _ => 0
  /-- Check 5: the lease. -/
  lease : State → Source → Nat → Bool := fun _ _ _ => true
  /-- R471: lease resources as coded, fields from 0x100, logical IDs from 0x1000. -/
  touch : State → Nat → List Nat := fun _ _ => []
  /-- Check 6 beyond addresses and data. -/
  range : State → Source → Nat → Bool := fun _ _ _ => true
  /-- Check 7. -/
  present : State → Nat → Bool := fun _ _ => true
  /-- Checks 9 and 10; status 0 passes. -/
  pre : State → Packet → Res := fun _ _ => {}
  /-- The effect, with the completion, under a CSN. -/
  eff : Nat → Cmd → State → State

/-- The first failing check of a list, with its status. -/
def firstFail : List (Bool × Nat) → Res
  | [] => {}
  | (ok, status) :: rest => if ok then firstFail rest else { status := status }

/-- P of the catalogue. -/
def parP (n : Nat) : Nat := bits n 2 0

/-- A short command without more to say: performed and completed with class 0. -/
def done (f : Nat → State → State) (csn : Nat) (c : Cmd) (s : State) : State := (f c.packet.n s).finish c csn {}

/-- Completed with class 0 before its effect. -/
def doneFirst (f : Nat → State → State) (csn : Nat) (c : Cmd) (s : State) : State := f c.packet.n (s.finish c csn {})

/-- Data for the master of a command for which R523 has no KIND: the management port's KIND is a free value. -/
def State.hostData (s : State) (c : Packet) (addr : Nat) (data : List Byte) : State :=
  match c.src with
  | .mgmt => let (v, s) := s.draw; s.emit (.mgmtMsg (v.toNat % 256) c.tag data)
  | _ => s.emit (.hostWrite addr data)

/-! ### Leases of the catalogue -/

def leaseP (s : State) (src : Source) (n : Nat) : Bool := s.holds src (parP n)
def leaseAnyP (s : State) (src : Source) (_ : Nat) : Bool := (List.range 8).any fun p => s.holds src p
def leaseEveryP (s : State) (src : Source) (_ : Nat) : Bool := s.holdsEvery src (List.range 8)
def touchP (_ : State) (n : Nat) : List Nat := [parP n]

/-- R466 RESET field: the field's partition, or for a field in none the Keeper of its row. -/
def State.fieldLease (s : State) (f : Nat) : Nat := (s.fieldPart f).getD (8 + fieldRow f)

/-- A station's partition, as a lease list. -/
def State.stationLease (s : State) (st : Nat) : List Nat := if stationOk st then (s.stPart st).toList else []

/-! ### Preconditions -/

/-- A formed partition with a plan. -/
def Part.planned (x : Part) : Bool := x.formed && x.plan.isSome && !x.planBad

/-- R466, R468: a partition holds a plan, readable or not. -/
def State.anyPlan (s : State) : Bool := (List.range 8).any fun p => (s.part p).formed && (s.part p).plan.isSome

/-- PHASE IDLE and no eval window. -/
def Part.free (x : Part) : Bool := x.phase == .idle && x.eval.isNone

/-- The step fence of the running step has been reached. -/
def Part.afterFence (x : Part) : Bool :=
  x.phase == .reduce || x.phase == .gate || x.phase == .commit || x.phase == .flipWait

/-- R21: the number that STEP_BEGIN must carry; none where no STEP_BEGIN is accepted. During a replay PHASE reads RECOVERY
(R449). -/
def Part.nextStep (x : Part) : Option Nat :=
  if x.replayKey.isSome then none
  else if x.phase = .idle then some x.version
  else if x.afterFence ∧ x.held = none ∧ x.resumeDue = false then some (x.step + 1)
  else none

/-- Every page of a Keeper command is owned here. -/
def State.ownsPages (s : State) (n : Nat) : Bool := (cmdPages n).all fun g => (s.ownerKpr (parP n) g).isSome

/-- R76, R191: the plan's tensor table has a scale-table entry of an index, and a Keeper of this module keeps it. -/
def State.hasScale (s : State) (p t : Nat) : Bool :=
  let x := s.part p
  x.planned && t < (x.sec 0x07).length && x.hasEntry t
def State.scaleHere (s : State) (p t : Nat) : Bool := (s.scaleKpr (s.part p) t).isSome

/-- R197: a loaded plan, in any of its SETs, names a loaded pair. -/
def State.pairInUse (s : State) (pair : Nat) : Bool :=
  (List.range 8).any fun p =>
    let x := s.part p
    match x.plan with
    | none => false
    | some pl => ((pl.sections.map (·.set)).eraseDups).any fun set =>
      let y := x.under set
      y.planStations.any fun st => (y.pairsOf st).contains pair

/-! ### System family (R466) -/

def catNop : CatRow := { opcode := 0x00, eff := done fun _ s => s }

def catAttach : CatRow :=
  { opcode := 0x01, hostOnly := true, fields := [(0, 64)]
    eff := done fun n s =>
      { s with
        host := { s.host with attached := true }
        clk :=
          { s.clk with
            epoch := BitVec.ofNat 64 (bits n 63 0), epochSinceStart := true
            epochMark := BitVec.ofNat 64 s.cpCounter, markValid := true } } }

def catSetId : CatRow :=
  { opcode := 0x02, hostOnly := true, fields := [(0, 12)]
    pre := fun s _ => firstFail [(!s.anyPlan, 0x3001)]
    eff := done fun n s => s.modMlv fun m => { m with selfId := BitVec.ofNat 12 (bits n 11 0) } }

/-- R459: the codes of SIZE. -/
def ringSizeOk (n : Nat) : Bool := 4 ≤ n && n ≤ 12

def catRingCreate : CatRow :=
  { opcode := 0x03, hostOnly := true, fields := [(0, 6), (6, 4), (10, 6), (64, 64), (128, 64)], addrs := [64, 128]
    range := fun _ _ n => bits n 5 0 ≠ 0 && ringSizeOk (bits n 9 6)
    pre := fun s c => firstFail [(!(s.ring (bits c.n 5 0)).enable, 0x3001)]
    eff := done fun n s => s.modRing (bits n 5 0) fun r =>
      { enable := true, size := bits n 9 6, vector := bits n 15 10, sqb := BitVec.ofNat 64 (bits n 127 64)
        cqb := BitVec.ofNat 64 (bits n 191 128), err := r.err } }

/-- R466: fetching of a ring stops; final completions of its commands, those that wait for a slot among them, go to
ring 0. (DEDUCED, log entry 118) -/
def State.ringDelete (s : State) (q : Nat) : State :=
  let waiting := (s.ring q).finals
  let s := s.modRing q fun r => { r with enable := false, reserved := 0, finals := [] }
  let s := s.modArb fun a =>
    { a with inflight := a.inflight.map fun f => if f.cmd.packet.src = .host ∧ f.dest = q then { f with dest := 0 } else f }
  s.forAll waiting fun s c => s.postRing0 c

def catRingDelete : CatRow :=
  { opcode := 0x04, hostOnly := true, fields := [(0, 6)]
    range := fun _ _ n => bits n 5 0 ≠ 0
    pre := fun s c => firstFail [((s.ring (bits c.n 5 0)).enable, 0x3001)]
    eff := doneFirst fun n s => s.ringDelete (bits n 5 0) }

def leaseOk (n : Nat) : Bool := bits n 4 0 ≤ 0x11

/-- The lease of a partition that is not formed (DEDUCED, log entry 114). -/
def catLeaseTake : CatRow :=
  { opcode := 0x05, fields := [(0, 5)], touch := fun _ n => [bits n 4 0], range := fun _ _ n => leaseOk n
    pre := fun s c => firstFail [(s.holdsEvery c.src [bits c.n 4 0], 0x3001)]
    eff := fun csn c s => (s.finish c csn {}).giveLease (bits c.packet.n 4 0) (srcHolder c.packet.src) }

def catLeaseRelease : CatRow :=
  { opcode := 0x06, fields := [(0, 5)], touch := fun _ n => [bits n 4 0], range := fun _ _ n => leaseOk n
    lease := fun s src n => s.holds src (bits n 4 0)
    eff := doneFirst fun n s => s.giveLease (bits n 4 0) 0 }

/-- R466, R513: RESET completes, then resets; a warm or cold reset waits for step 3 of a firmware update. -/
def State.resetCommand (s : State) (n : Nat) : State :=
  let whole (k : ResetKind) (cause : Nat) : State :=
    if s.boot.updateRunning then s.modBoot fun b => { b with heldReset := some k } else s.beginReset k cause
  match bits n 1 0 with
  | 0 => whole .warm 1
  | 1 => whole .cold 2
  | _ => s.fieldRestart (bits n 7 2)

def catReset : CatRow :=
  { opcode := 0x07, fields := [(0, 2), (2, 6)]
    range := fun _ _ n => bits n 1 0 ≠ 3
    lease := fun s src n =>
      if bits n 1 0 = 2 then s.holds src (s.fieldLease (bits n 7 2)) else src == .mgmt || s.holdsEvery src (List.range 16)
    touch := fun s n =>
      if bits n 1 0 = 2 then [s.fieldLease (bits n 7 2), 0x100 + bits n 7 2] else List.range 16
    pre := fun s c => firstFail [(bits c.n 1 0 ≠ 2 || !(s.field (bits c.n 7 2)).isOff, 0x3001)]
    eff := doneFirst fun n s => s.resetCommand n }

def catEventConfig : CatRow :=
  { opcode := 0x08, fields := [(0, 6), (6, 1), (7, 7)]
    range := fun _ src n => src != .mgmt || bits n 5 0 == 0
    pre := fun s c => firstFail [(c.src == .mgmt || (s.ring (bits c.n 5 0)).enable, 0x3001)]
    eff := fun csn c s =>
      let n := c.packet.n
      let e : EventCfg := ⟨bits n 5 0, bit n 6, BitVec.ofNat 7 (bits n 13 7)⟩
      let s := if c.packet.src = .mgmt then s.modMgmt fun m => { m with events := e } else s.modHost fun h => { h with events := e }
      s.finish c csn {} }

/-! ### Plan family (R467) -/

/-- The contexts that the partner tables of partitions other than `p` name. -/
def State.otherCtxs (s : State) (p : Nat) : List Nat :=
  (List.range 8).flatMap fun q => if q = p then [] else ((s.part q).sec 0x18).map fun e => bits e 11 0

/-- R467: the contexts of a partition's plan are closed, but for those that another partition's plan names. -/
def State.closePlanCtxs (s : State) (p : Nat) : State :=
  let others := s.otherCtxs p
  s.forAll ((((s.part p).sec 0x18).map fun e => bits e 11 0).filter fun i => !others.contains i) fun s i => s.closeCtx i

/-- Everything that a partition holds at Keepers, at stations and in the networks is gone; CORE_FLOCK_STATUS and CORE_ARRAY_CYCLES read 0 with
the stations (R133, R135, R136; DESIGN CHOICE, log entry 199). -/
def State.clearPart (s : State) (p : Nat) : State :=
  let x := s.part p
  let s := s.forAll (List.range 8) fun s k => s.modKpr k fun y => y.setPart p {}
  let s := s.clearNet p
  { s with
    stations := s.stations.filter fun q => !(x.fields.contains (stField q.1))
    net := { s.net with nonfinite := s.net.nonfinite.filter fun q => !x.hasNode (q / 32) } }

/-- R467, R44: the partition is removed with its plan, contexts and data queues; its lease is freed (R465). -/
def State.dissolve (s : State) (p : Nat) : State :=
  let s := ((s.closePlanCtxs p).clearPart p).clearRegs p
  let s := s.modHost fun h => { h with queues := h.queues.filter fun q => q.1 / 64 ≠ p }
  let fs := (s.part p).fields
  ((s.setPart p {}).changeLease p 0).forAll fs State.offWhenIdle

/-- A partition is formed of its rows; one that its holder forms again is what a new one is (DEDUCED, log entry 116). Its lease changes with
event 0x106 (DEDUCED, log entry 115). -/
def catPartCreate : CatRow :=
  { opcode := 0x10, fields := [(0, 3), (8, 8)], touch := touchP
    lease := fun s src n => s.holdsEvery src [parP n]
    range := fun _ _ n => bits n 15 8 ≠ 0
    pre := fun s c =>
      let p := parP c.n
      let rows := BitVec.ofNat 8 (bits c.n 15 8)
      let meets := (List.range 8).any fun q => q ≠ p && (s.part q).formed && ((s.part q).rows &&& rows) ≠ 0
      let lost := (List.range 64).any fun f => rows.getLsbD (fieldRow f) && (s.field f).state == .lost
      firstFail [(!meets && !lost, 0x3001)]
    eff := fun csn c s =>
      let p := parP c.packet.n
      let s := if (s.part p).formed then (s.releaseHold p).dissolve p else (s.clearPart p).clearRegs p
      let s := s.setPart p { formed := true, rows := BitVec.ofNat 8 (bits c.packet.n 15 8) }
      (s.changeLease p (srcHolder c.packet.src)).finish c csn {} }

def catPartDissolve : CatRow :=
  { opcode := 0x11, fields := [(0, 3)], lease := leaseP, touch := touchP
    pre := fun s c => firstFail [((s.part (parP c.n)).formed && (s.part (parP c.n)).free, 0x3001)]
    eff := done fun n s => s.dissolve (parP n) }

/-- A long command: accepted, with its class 1 completion (R458). -/
def accepted (f : Nat → State → State) (csn : Nat) (c : Cmd) (s : State) : State := f c.packet.n (s.accept c csn)

def catPlanLoad : CatRow :=
  { opcode := 0x12, fields := [(0, 3), (64, 64), (128, 32), (160, 40)], addrs := [64], reads := fun n => bits n 159 128
    lease := leaseP, touch := touchP
    pre := fun s c => firstFail [((s.part (parP c.n)).formed && (s.part (parP c.n)).free, 0x3001)]
    eff := accepted fun _ s => s }

def catTableLoad : CatRow :=
  { opcode := 0x14, fields := [(0, 6), (64, 64)], addrs := [64], reads := fun _ => 8256
    lease := leaseAnyP, touch := fun _ _ => List.range 8
    range := fun _ _ n => 8 ≤ bits n 5 0
    pre := fun s c => firstFail [(!s.pairInUse (bits c.n 5 0), 0x3005)]
    eff := fun csn c s =>
      let img := c.packet.bytes 8256
      match pairFault img with
      | some o => s.finish c csn { status := 0x2004, result := o }
      | none => ({ s with hbm := { s.hbm with tables := sset [] s.hbm.tables (bits c.packet.n 5 0) img } }).finish c csn {} }

/-- R444: a module that awaits its rejoin opens no context (DESIGN CHOICE, log entry 219). -/
def catCtxOpen : CatRow :=
  { opcode := 0x15, fields := [(0, 12), (12, 3), (15, 12), (27, 3), (30, 1), (31, 1)]
    lease := fun s src n => s.holds src (8 + bits n 14 12), touch := fun _ n => [8 + bits n 14 12]
    range := fun _ _ n => bits n 26 15 ≠ 0xFFF
    pre := fun s c =>
      let n := c.n
      let joined := s.liveCtxs.any fun q =>
        q.2.kpr == bits n 14 12 && q.2.partner == bits n 26 15 && q.2.partnerKpr == bits n 29 27
      firstFail [(s.idAssigned && !s.recov.awaitRejoin && (s.ctx (bits n 11 0)).state == .closed && !joined, 0x3001)]
    eff := done fun n s =>
      let i := bits n 11 0
      let s := s.modCtx i fun c =>
        { incarnation := c.incarnation, kpr := bits n 14 12, partner := bits n 26 15, partnerKpr := bits n 29 27
          watch := bit n 30, snoop := bit n 31 }
      s.openCtx i }

def catCtxClose : CatRow :=
  { opcode := 0x16, fields := [(0, 12), (12, 1)]
    lease := fun s src n => s.holds src (8 + (s.ctx (bits n 11 0)).kpr)
    touch := fun s n => [8 + (s.ctx (bits n 11 0)).kpr]
    pre := fun s c =>
      firstFail [((s.ctx (bits c.n 11 0)).state != .closed && !(bit c.n 12 && s.recov.awaitRejoin), 0x3001)]
    eff := done fun n s =>
      let i := bits n 11 0
      if bit n 12 ∧ ((s.ctx i).state = .lost ∨ (s.ctx i).state = .fenced) then s.openCtx i else s.closeCtx i }

/-! ### Data movement (R467) -/

/-- A warm reset leaves no data queue, so one may be created again (R518). -/
def catDqCreate : CatRow :=
  { opcode := 0x20, fields := [(0, 3), (8, 6), (14, 1), (64, 64), (128, 64), (192, 16)], addrs := [64, 128]
    lease := leaseP, touch := touchP
    range := fun _ _ n => bits n 207 192 ≠ 0
    pre := fun s c =>
      let p := parP c.n
      let q := bits c.n 13 8
      firstFail [((s.part p).planned && (s.part p).hostQueues.contains q && !(s.dq (64 * p + q)).present, 0x3001)]
    eff := done fun n s => s.modDq (64 * parP n + bits n 13 8) fun _ =>
      { present := true, output := bit n 14, base := BitVec.ofNat 64 (bits n 127 64), index := BitVec.ofNat 64 (bits n 191 128)
        slots := bits n 207 192 } }

def catDqDelete : CatRow :=
  { opcode := 0x21, fields := [(0, 3), (8, 6)], lease := leaseP, touch := touchP
    pre := fun s c => firstFail [((s.part (parP c.n)).phase == .idle, 0x3001)]
    eff := done fun n s => s.modDq (64 * parP n + bits n 13 8) fun _ => {} }

/-- STORE_WRITE and STORE_READ: the range of the bank, the lease, and the phase. -/
def storeRow (opcode : Nat) (reads : Nat → Nat) : CatRow :=
  { opcode := opcode, fields := [(0, 16), (16, 24), (40, 24), (64, 64)], addrs := [64], reads := reads
    lease := fun s src n =>
      !stationOk (bits n 15 0) || (s.stationLease (bits n 15 0)).any fun r => s.holds src r
    touch := fun s n => s.stationLease (bits n 15 0)
    range := fun _ _ n =>
      stationOk (bits n 15 0) && bits n 63 40 ≠ 0 && bits n 63 40 % 256 == 0 && bits n 39 16 + bits n 63 40 ≤ 2 ^ 24
    pre := fun s c =>
      let x := ((s.stPart (bits c.n 15 0)).map s.part).getD {}
      firstFail [((x.phase == .idle || x.phase == .halted) && bits c.n 39 16 + bits c.n 63 40 ≤ 0xE00000, 0x3001)]
    eff := accepted fun _ s => s }

def catStoreWrite : CatRow := storeRow 0x22 fun n => bits n 63 40
def catStoreRead : CatRow := storeRow 0x23 fun _ => 0

/-! ### Steps (R467) -/

/-- R21, R39, R46: the step begins, or is held behind the running one. (DEDUCED, log entry 121) -/
def State.stepBegin (s : State) (csn : Nat) (c : Cmd) : State :=
  let n := c.packet.n
  let p := parP n
  let step := bits n 47 8
  let micro := bits n 63 48
  if (s.part p).phase = .idle then (s.beginStep p step micro).finish c csn {}
  else
    let s := s.accept c csn
    (s.modPart p fun x => { x with held := some (micro, csn) }).gather p false step

def catStepBegin : CatRow :=
  { opcode := 0x30, fields := [(0, 3), (8, 40), (48, 16)], lease := leaseP, touch := touchP
    range := fun s _ n => bits n 63 48 ≠ 0 && ((s.part (parP n)).plan.all fun pl => decide (bits n 63 48 ≤ pl.maxMicro))
    pre := fun s c =>
      let x := s.part (parP c.n)
      firstFail
        [(x.planned && x.nextStep.isSome, 0x3001), (x.nextStep == some (bits c.n 47 8), 0x3002), (!x.layoutLost, 0x5003)
        , (!x.unrecoverable, 0x6003)]
    eff := fun csn c s => s.stepBegin csn c }

def catEvalOpen : CatRow :=
  { opcode := 0x31, fields := [(0, 3), (8, 40)], lease := leaseP, touch := touchP
    pre := fun s c =>
      let x := s.part (parP c.n)
      firstFail
        [(x.planned && x.eval.isNone && x.replayKey.isNone && (x.phase == .idle || x.afterFence), 0x3001), (x.named s.past (bits c.n 47 8), 0x3004)
        , (!x.layoutLost, 0x5003)]
    eff := accepted fun n s =>
      let v := bits n 47 8
      (s.modPart (parP n) fun x => { x with eval := some { version := v }, evalStaged := [] }).gather (parP n) true v }

/-- R147: the close takes effect at once at each station that runs no pass. -/
def State.evalClose (s : State) (p : Nat) : State :=
  match (s.part p).eval with
  | none => s
  | some w =>
    let s := s.modPart p fun x => { x with eval := some { w with closing := true } }
    if w.staged then s.forAll ((s.part p).planStations) fun s st => s.closePass p st else s

def catEvalClose : CatRow :=
  { opcode := 0x32, fields := [(0, 3)], lease := leaseP, touch := touchP
    pre := fun s c => firstFail [((s.part (parP c.n)).eval.isSome, 0x3001)]
    eff := accepted fun n s => s.evalClose (parP n) }

/-- R354: the choice goes into a round of the herd, in place of one that has not gone up yet. (DEDUCED, log entry 122) -/
def State.choose (s : State) (p choice : Nat) : State :=
  let s := s.modPart p fun x => { x with choice := choice }
  State.post applyChoice s p 3 (some ⟨s.selfRank p, false, choice, 0⟩)

def choiceRow (opcode choice : Nat) : CatRow :=
  { opcode := opcode, fields := [(0, 3)], lease := leaseP, touch := touchP
    pre := fun s c => firstFail [((s.part (parP c.n)).phase == .halted, 0x3001)]
    eff := accepted fun n s => s.choose (parP n) choice }

def catSkipStep : CatRow := choiceRow 0x33 1
def catReplay : CatRow := choiceRow 0x34 2

/-! ### COMMIT_RESUME (R348 to R351) -/

def CState.isHeld (c : CState) : Bool := c == .heldSpill || c == .heldResume

/-- Keepers that the mask names and that hold the partition's commit. -/
def State.heldNamed (s : State) (n : Nat) : List Nat :=
  let mask := bits n 10 3
  ((s.part (parP n)).keepers).filter fun k => (mask == 0 || bit mask k) && (s.kpart k (parP n)).cstate.isHeld

/-- R348: the held slot's area has the records that the held page needs. -/
def State.spillEnough (s : State) (k p : Nat) : Bool :=
  if (s.kpart k p).cstate ≠ .heldSpill then true
  else match ((s.part p).ownedBy s.selfId k).find? fun g => (s.opage k p g).cstate == .preimage with
    | none => true
    | some g =>
      let b := (s.nextBody k p g ((s.opage k p g).pre.getD (s.opage k p g).body)).body
      decide ((sget {} b.deltas b.head).spill.length ≤ s.spillFree k p b.head)

/-- R348: the extension joins the slot's area at the Keeper in whose stacks it lies. (DEDUCED, log entry 123) -/
def State.extendSpill (s : State) (n : Nat) : State :=
  let size := bits n 159 128
  if size = 0 then s
  else s.modKpart (bits n 127 64 / 2 ^ 39) (parP n) fun y =>
    { y with spillExt := smod 0 y.spillExt (bits n 161 160) (· + size * 1024 / 72) }

/-- R350: a held Keeper commits again. Its STAMPED pages are compared again, by the buddy's record where it is held (R330),
else by the one that the buddy forms anew from the gradient, once the module has rejoined (R444); PREIMAGE pages go on from their
pre-image. -/
def State.resumeKpr (s : State) (p k : Nat) : State :=
  let x := s.part p
  let again := (s.kpart k p).cstate == .heldResume
  let s := s.modKpart k p fun y => { y with cstate := .running, spillFull := false }
  if !again then s
  else
    let s := if s.ownedStamped k p then s.huskServe k p else s
    s.forAll ((x.ownedBy s.selfId k).filter fun g => (s.opage k p g).cstate == .stamped) fun s g =>
    let s := s.toBuddy k 0x47 (cmpHead (x.step + 1) x.herdId g (s.opage k p g).body.digest) []
    let pg := s.opage k p g
    if (!s.buddyUp k && !s.recov.awaitRejoin) || (s.kpart k p).remirrorLeft.contains g then s.pageClean k p g
    else if pg.buddyRec.isSome then s.compareRecord k p g
    else s.sendStepAgain k p g

/-- R350: the named Keepers resume; where every page was CLEAN already the share is sent again. -/
def State.commitResume (s : State) (csn : Nat) (c : Cmd) : State :=
  let n := c.packet.n
  let p := parP n
  let s := s.extendSpill n
  let ks := s.heldNamed n
  if (ks.all fun k => s.spillEnough k p) = false then s.finish c csn { status := 0x5004 }
  else
    let s := s.accept c csn
    let waits := (s.part p).phase == .flipWait
    let s := s.modPart p fun x => { x with phase := .commit, huskPending := true }
    let s := (s.forAll ks fun s k => s.resumeKpr p k).shares p
    if waits && (s.part p).phase == .commit then s.modPart p fun x => { x with phase := .flipWait } else s

def catCommitResume : CatRow :=
  { opcode := 0x35, fields := [(0, 3), (3, 8), (64, 64), (128, 32), (160, 2)], lease := leaseP, touch := touchP
    range := fun s _ n => bits n 161 160 < s.past && bits n 127 64 + 1024 * bits n 159 128 ≤ 2 ^ 42
    present := fun s n =>
      bits n 159 128 == 0 || (List.range 32).all fun i =>
        i < bits n 127 64 / 2 ^ 37 || (bits n 127 64 + 1024 * bits n 159 128 - 1) / 2 ^ 37 < i || s.stackPresent i
    pre := fun s c =>
      let x := s.part (parP c.n)
      firstFail
        [(x.planned && x.phase != .recovery, 0x3001), (x.rollback.isNone, 0x4002), (s.heldNamed c.n != [], 0x3001)]
    eff := fun csn c s => s.commitResume csn c }

/-! ### Keeper family (R468) -/

def pageFields : List (Nat × Nat) := [(0, 3), (3, 28), (31, 28), (59, 4)]

/-- FIRST to FIRST + COUNT are page numbers. -/
def pagesOk (n : Nat) : Bool := bits n 30 3 + bits n 58 31 < 2 ^ 28

/-- R568: bytes of a page of a PAGE_LOAD: weights, then the moments that the page has. -/
def Part.loadBytes (x : Part) (n : Nat) (frozen : Bool) (opt : Nat) : Nat :=
  let w := if bit n 63 then 2 ^ 20 else 2 ^ 21
  let m2 := match opt with
    | 1 => w
    | 3 => 6144
    | _ => 0
  w + (if bit n 60 && !frozen then w + m2 else 0)

/-- FROZEN and the optimiser of a page of the plan. -/
def Part.pageKind (x : Part) (g : Nat) : Bool × Nat :=
  match x.range g with
  | some e => (prFrozen e, goOpt (x.group (prGroup e)))
  | none => (true, 0)

def State.loadLength (s : State) (n : Nat) : Nat :=
  let x := s.part (parP n)
  ((cmdPages n).map fun g => let q := x.pageKind g; x.loadBytes n q.1 q.2).sum

def catPageLoad : CatRow :=
  { opcode := 0x40, fields := pageFields ++ [(63, 1), (64, 64)], addrs := [64], lease := leaseP, touch := touchP
    range := fun _ _ n => pagesOk n && (bits n 62 59 == 1 || bits n 62 59 == 3)
    pre := fun s c =>
      let x := s.part (parP c.n)
      firstFail
        [(x.planned && x.phase == .idle && s.ownsPages c.n, 0x3001)
        , (c.src != .mgmt || decide (s.loadLength c.n ≤ c.data.length), 0x2003)]
    eff := accepted fun _ s => s }

/-- R304: a PAGE_READ needs the components that it names, and D for a version that is rebuilt. -/
def readComps (n : Nat) (pg : OwnedPage) (v : Nat) : List Nat := (servedComps pg v ++ cmdComps n).eraseDups

def catPageRead : CatRow :=
  { opcode := 0x41, fields := pageFields ++ [(63, 1), (64, 64), (128, 40)], addrs := [64], lease := leaseP, touch := touchP
    range := fun s _ n =>
      pagesOk n && (bits n 167 128 == (s.part (parP n)).version || bits n 62 59 == 1 || bits n 62 59 == 0)
    pre := fun s c =>
      let x := s.part (parP c.n)
      firstFail [(x.named s.past (bits c.n 167 128), 0x3004)]
    eff := accepted fun n s =>
      s.forAll (cmdPages n) fun s g =>
        match s.ownerKpr (parP n) g with
        | some k => (s.needAll k (parP n) g (readComps n (s.opage k (parP n) g) (bits n 167 128))).1
        | none => s }

/-- The bytes of a scale entry; of one that another module keeps they are free values (DESIGN CHOICE, log entry 126). -/
def State.scaleBytes (s : State) (p t : Nat) : List Byte × State :=
  if s.scaleHere p t then ((sget {} (s.part p).scales t).encode, s)
  else (List.range 16).foldl (fun (r : List Byte × State) _ => let (v, s) := r.2.draw; (r.1 ++ leBytes 8 v.toNat, s)) ([], s)

/-- SCALE commands (DESIGN CHOICE, log entry 126). -/
def catScaleRead : CatRow :=
  { opcode := 0x42, fields := [(0, 3), (3, 10), (64, 64)], addrs := [64], lease := leaseP, touch := touchP
    pre := fun s c => firstFail [(s.hasScale (parP c.n) (bits c.n 12 3), 0x3001)]
    eff := fun csn c s =>
      let n := c.packet.n
      let (bs, s) := s.scaleBytes (parP n) (bits n 12 3)
      (s.hostData c.packet (bits n 127 64) bs).finish c csn {} }

def catScaleWrite : CatRow :=
  { opcode := 0x43, fields := [(0, 3), (3, 10), (13, 4), (17, 2), (19, 1)], lease := leaseP, touch := touchP
    range := fun _ _ n => bits n 16 13 == 3 || bits n 16 13 == 4
    pre := fun s c =>
      let x := s.part (parP c.n)
      firstFail [(s.hasScale (parP c.n) (bits c.n 12 3) && x.phase != .commit && x.phase != .flipWait, 0x3001)]
    eff := done fun n s => if s.scaleHere (parP n) (bits n 12 3) = false then s else s.modPart (parP n) fun x =>
      { x with
        scales := smod {} x.scales (bits n 12 3) fun e =>
          { e with format := BitVec.ofNat 4 (bits n 16 13), margin := BitVec.ofNat 2 (bits n 18 17), policy := bit n 19 } } }

/-- A component of a TIER command: W, M or D, and at least one. -/
def tierOk (n : Nat) : Bool := pagesOk n && !bit n 62 && bits n 61 59 ≠ 0

def tierPresent (s : State) (_ : Nat) : Bool := s.fuses.tierMask ≠ 0

def catTierEvict : CatRow :=
  { opcode := 0x44, fields := pageFields, lease := leaseP, touch := touchP, range := fun _ _ n => tierOk n, present := tierPresent
    pre := fun s c =>
      let p := parP c.n
      let x := s.part p
      firstFail
        [(x.planned && ((cmdPages c.n).all fun g => match s.ownerKpr p g with
            | some k => s.mayRest k p g (cmdComps c.n)
            | none => false), 0x3001)]
    eff := accepted fun n s =>
      let p := parP n
      (s.forAll (cmdPages n) fun s g => match s.ownerKpr p g with
        | some k => s.forAll (cmdComps n) fun s c => s.startEvict k p g c
        | none => s).tierDone p }

/-- Pages that are not owned here are passed over (DESIGN CHOICE, log entry 222). -/
def catTierFetch : CatRow :=
  { opcode := 0x45, fields := pageFields, lease := leaseP, touch := touchP, range := fun _ _ n => tierOk n, present := tierPresent
    eff := accepted fun n s =>
      let p := parP n
      (s.forAll (cmdPages n) fun s g => match s.ownerKpr p g with
        | some k => (s.needAll k p g (cmdComps n)).1
        | none => s).tierDone p }

/-! ### Faults and spares (R468) -/

def catModuleFence : CatRow :=
  { opcode := 0x50, fields := [(0, 12), (12, 16)], touch := fun _ n => [0x1000 + bits n 11 0]
    range := fun _ _ n => bits n 11 0 ≠ 0xFFF
    pre := fun s c =>
      let held := s.gen (bits c.n 11 0)
      if held < bits c.n 27 12 then {} else { status := 0x4003, result := held }
    eff := fun csn c s =>
      let n := c.packet.n
      (s.finish c csn {}).moduleFence (bits n 11 0) (bits n 27 12) c.packet.came }

def catSpareAdmit : CatRow :=
  { opcode := 0x51, fields := [(0, 12), (12, 16), (28, 12)], touch := fun _ n => [0x1000 + bits n 11 0]
    range := fun _ _ n => bits n 11 0 ≠ 0xFFF && bits n 39 28 ≠ 0xFFF
    pre := fun s c =>
      let a := sget (0, 0, 0) s.recov.admitted (bits c.n 11 0)
      if a.1 < bits c.n 27 12 then {} else { status := 0x4003, result := a.2.1 }
    eff := fun csn c s =>
      let n := c.packet.n
      ((s.finish c csn {}).spareAdmit (bits n 11 0) (bits n 27 12) (bits n 39 28) csn c.packet.came).takeoverProgress }

def catSpareConfig : CatRow :=
  { opcode := 0x52, hostOnly := true, fields := [(0, 12), (12, 4), (16, 2), (18, 8), (64, 64)], addrs := [64]
    lease := leaseEveryP, touch := fun _ _ => List.range 8
    range := fun _ _ n => bits n 11 0 ≠ 0xFFF && 10 ≤ bits n 25 18
    pre := fun s _ => firstFail [(!s.anyPlan, 0x3001)]
    eff := accepted fun _ s => s }

def State.spareRelease (s : State) : State :=
  s.closeStandby.modRecov fun r => { r with role := .member, spare := none }

def catSpareRelease : CatRow :=
  { opcode := 0x53, hostOnly := true, lease := leaseEveryP, touch := fun _ _ => List.range 8
    pre := fun s _ => firstFail [(s.recov.role != .taking, 0x3001)]
    eff := done fun _ s => s.spareRelease }

/-- R447: the replay is refused with class 5 where the rows differ, or m lies below HVER − P, with HVER on a
spare that of the pages it has snooped. The detail is a free
value. The parts are not compared. Else its plan is checked as PLAN_LOAD's, and the replay starts. (DESIGN CHOICE, log entries 127 and 224) -/
def State.diagReplay (s : State) (csn : Nat) (c : Cmd) : State :=
  let n := c.packet.n
  let p := parP n
  let x := s.part p
  let length := bits n 159 128
  let mask := if bits n 223 160 = 0 then [] else (c.packet.data.drop length).take 8192
  let img := c.packet.bytes length
  let plan := Plan.ofImage img
  let step := bits n 54 15
  if bits plan.header 55 48 ≠ x.rows.toNat ∨ step + s.past < max x.hver s.snoopedVersion then
    let (v, s) := s.draw
    s.finish c csn { status := 0x5000 + v.toNat % 4096 }
  else
    let s := s.accept c csn
    match s.planFault p x.rows.toNat img length with
    | some (status, offset) => s.final csn { status := status, result := offset }
    | none => s.startReplay p csn (bits n 14 3) step plan mask

def catDiagReplay : CatRow :=
  { opcode := 0x54, fields := [(0, 3), (3, 12), (15, 40), (64, 64), (128, 32), (160, 64)], addrs := [64, 160]
    reads := fun n => bits n 159 128, lease := leaseP, touch := touchP
    range := fun _ _ n => bits n 14 3 ≠ 0xFFF
    pre := fun s c => firstFail [((s.part (parP c.n)).formed && (s.part (parP c.n)).phase == .idle, 0x3001)]
    eff := fun csn c s => s.diagReplay csn c }

/-! ### Power (R468, R478, R486, R488, R494) -/

def leasePower (s : State) (src : Source) (_ : Nat) : Bool := s.holds src 0x10
def touchPower (_ : State) (_ : Nat) : List Nat := [0x10]

/-- A table whose first fault is refused with its offset. -/
def tableRes (fault : Option Nat) : Res :=
  match fault with
  | some o => { status := 0x2004, result := o }
  | none => {}

def catPowerGrants : CatRow :=
  { opcode := 0x60, fields := [(64, 64)], addrs := [64], reads := fun _ => 704, lease := leasePower, touch := touchPower
    pre := fun _ c => tableRes (grantFault (c.bytes 704))
    eff := fun csn c s =>
      (s.modPwr fun p => { p with newGrants := some (grantTable (c.packet.bytes 704)) }).finish c csn {} }

def catHalfClock : CatRow :=
  { opcode := 0x61, fields := [(0, 1), (1, 2)], lease := leasePower, touch := touchPower
    eff := done fun n s => s.halfClock (bit n 0) (BitVec.ofNat 2 (bits n 2 1)) }

/-- R32, R408, R410: the action on a field. (DEDUCED, log entry 99) -/
def State.fieldPower (s : State) (f action : Nat) : State :=
  match action with
  | 0 => s.fieldOn f
  | 1 => (s.modField f fun x => { x with offAtFence := true }).offWhenIdle f
  | _ => s.fieldLoss f 0 0 0 0

def catFieldPower : CatRow :=
  { opcode := 0x62, fields := [(0, 6), (6, 2)], lease := leasePower, touch := fun _ n => [0x10, 0x100 + bits n 5 0]
    range := fun _ _ n => bits n 7 6 ≠ 3
    pre := fun s c =>
      let f := bits c.n 5 0
      let ok := if bits c.n 7 6 = 0 then (s.field f).isOff && !(s.region f).lockout else !(s.field f).isOff
      firstFail [(ok, 0x3001)]
    eff := doneFirst fun n s => s.fieldPower (bits n 5 0) (bits n 7 6) }

def catThermalLimits : CatRow :=
  { opcode := 0x63, fields := [(64, 64)], addrs := [64], reads := fun _ => 16, lease := leasePower, touch := touchPower
    pre := fun _ c => tableRes (limitFault (c.bytes 16))
    eff := fun csn c s =>
      (s.modPwr fun p => { p with newLimits := some (limitTable (c.packet.bytes 16)) }).finish c csn {} }

/-! ### Telemetry (R468, R528, R537) -/

def catTelemetryConfig : CatRow :=
  { opcode := 0x70, fields := [(64, 64), (128, 16), (144, 1)], addrs := [64]
    range := fun _ src n =>
      match src with
      | .mgmt => 100 ≤ bits n 143 128
      | _ => 2 ≤ bits n 143 128 && bits n 127 64 % 4096 == 0
    eff := fun csn c s =>
      let n := c.packet.n
      let t := s.telem c.packet.src
      let u : Telem := { t with enable := bit n 144, addr := BitVec.ofNat 64 (bits n 127 64), slots := bits n 143 128, due := 0, configured := true }
      (s.setTelem c.packet.src u).finish c csn {} }

def catSnapshot : CatRow :=
  { opcode := 0x71
    pre := fun s c => firstFail [((s.telem c.src).configured, 0x3001)]
    eff := fun csn c s => (s.sendSnapshot c.packet.src c.packet.tag true).finish c csn {} }

def catLifeRead : CatRow :=
  { opcode := 0x72, fields := [(64, 64), (128, 32), (160, 6), (166, 1)], addrs := [64]
    range := fun _ _ n => 512 ≤ bits n 159 128
    eff := fun csn c s =>
      let n := c.packet.n
      let (bs, need) := s.lifeOutput (bit n 166) (bits n 165 160) (bits n 159 128)
      (s.deliver c.packet (bits n 127 64) 7 bs).finish c csn { result := need % 2 ^ 32 } }

/-! ### Security (R468, R512, R539 to R541) -/

def catAttest : CatRow :=
  { opcode := 0x80, fields := [(0, 256), (256, 64)], addrs := [256]
    eff := fun csn c s =>
      let n := c.packet.n
      match s.attest (leBytes 32 (bits n 255 0)) with
      | none => s.finish c csn { status := 0x5005 }
      | some (report, s) => (s.deliver c.packet (bits n 319 256) 5 report).finish c csn {} }

/-- R512: the update begins by reading the image; its class 1 completion waits until the image is held.
(DEDUCED, log entry 131) -/
def State.fwUpdate (s : State) (csn : Nat) (c : Cmd) : State :=
  let s := s.modArb fun a => { a with inflight := a.inflight ++ [{ csn := csn, cmd := c, dest := c.packet.ring }] }
  s.modBoot fun b => { b with update := some { stage := .reading, csn := csn } }

def catFwUpdate : CatRow :=
  { opcode := 0x81, fields := [(0, 64), (64, 32)], addrs := [0], reads := fun n => bits n 95 64
    lease := fun s src _ => s.boot.mode == 2 || s.holds src 0x11, touch := fun _ _ => [0x11]
    range := fun _ _ n => bits n 95 64 ≤ 2 ^ 26
    pre := fun s _ => firstFail [(s.boot.update.isNone, 0x3001)]
    eff := fun csn c s => s.fwUpdate csn c }

def catIdRead : CatRow :=
  { opcode := 0x82, fields := [(0, 64)], addrs := [0]
    eff := fun csn c s =>
      (s.deliver c.packet (bits c.packet.n 63 0) 6 (Config.identityBlock.take 4164)).finish c csn {} }

/-- The catalogue, by opcode. (DEDUCED, log entry 117) -/
def catalogue : List CatRow :=
  [catNop, catAttach, catSetId, catRingCreate, catRingDelete, catLeaseTake, catLeaseRelease, catReset, catEventConfig
  , catPartCreate, catPartDissolve, catPlanLoad, catTableLoad, catCtxOpen, catCtxClose, catDqCreate, catDqDelete
  , catStoreWrite, catStoreRead, catStepBegin, catEvalOpen, catEvalClose, catSkipStep, catReplay, catCommitResume
  , catPageLoad, catPageRead, catScaleRead, catScaleWrite, catTierEvict, catTierFetch, catModuleFence, catSpareAdmit
  , catSpareConfig, catSpareRelease, catDiagReplay, catPowerGrants, catHalfClock, catFieldPower, catThermalLimits
  , catTelemetryConfig, catSnapshot, catLifeRead, catAttest, catFwUpdate, catIdRead]

def catRow (opcode : Nat) : Option CatRow := catalogue.find? fun r => r.opcode == opcode

/-! ### The checks of R463 -/

/-- The bits of PARAMS that the catalogue names. -/
def CatRow.mask (r : CatRow) : Nat := r.fields.foldl (fun m q => m ||| ((2 ^ q.2 - 1) <<< q.1)) 0

/-- R510, R506: what recovery mode and MODE FAULTED turn away before the checks. -/
def State.modeStatus (s : State) (c : Cmd) : Nat :=
  let reset := c.opcode == 0x07 && bits c.packet.n 1 0 ≠ 2
  if s.boot.mode = 2 then (if c.opcode == 0x00 || c.opcode == 0x01 || reset || c.opcode == 0x81 then 0 else 0x3001)
  else if s.boot.mode = 3 ∨ s.boot.faulted = true then
    (if c.opcode / 16 == 0 || c.opcode / 16 == 7 || c.opcode / 16 == 8 then 0 else 0x6002)
  else 0

/-- R461, R524: host addresses are aligned to 64 B; from the management port they are zero, and the data-in buffer holds
what the command reads. -/
def CatRow.sourceOk (r : CatRow) (c : Packet) : Bool :=
  (r.addrs.all fun lo => bits c.n (lo + 5) lo == 0)
    && (c.src != .mgmt || ((r.addrs.all fun lo => bits c.n (lo + 63) lo == 0) && decide (r.reads c.n ≤ c.data.length)))

/-- Checks 1 to 7 of R463: the status of the first failure, or 0. (DEDUCED, log entry 120) -/
def State.precheck (s : State) (c : Cmd) : Nat :=
  let m := s.modeStatus c
  if m ≠ 0 then m
  else match catRow c.opcode with
    | none => 0x2002
    | some r =>
      let q := c.packet
      (firstFail
        [ (if q.src = .peer then c.opcode / 16 == 5 && !r.hostOnly else !r.hostOnly || q.src == .host, 0x7002)
        , (q.reserved == 0 && q.n ||| r.mask == r.mask, 0x2001)
        , (q.src != .host || s.host.attached || c.opcode == 0x00 || c.opcode == 0x01, 0x3003)
        , (r.lease s q.src q.n, 0x7001)
        , (r.sourceOk q && r.range s q.src q.n, 0x2003)
        , (r.present s q.n, 0x5001)]).status

/-- R470: the next CSN. -/
def State.nextCsn (s : State) : Nat := if s.arb.lastCsn = 2 ^ 32 - 1 then 1 else s.arb.lastCsn + 1

/-- A command has its CSN: checks 9 and 10, then its effect. -/
def State.execute (s : State) (c : Cmd) (csn : Nat) : State :=
  match catRow c.opcode with
  | none => s
  | some r =>
    let v := r.pre s c.packet
    if v.status ≠ 0 then s.finish c csn v else r.eff csn c s

/-- R457, R470: a command is applied under the next CSN. -/
def State.apply (s : State) (c : Cmd) : State :=
  let csn := s.nextCsn
  (s.modArb fun a => { a with lastCsn := csn }).execute c csn

/-- The source can bring a command: the module is ready (R504), and an enabled ring has a slot to reserve (R458), the
context is OPEN, or the port is served. -/
def State.canBring (s : State) (c : Packet) : Bool :=
  s.boot.stage == .ready
    && match c.src with
      | .host => c.ring < 64 && (s.ring c.ring).enable && decide (0 < (s.ring c.ring).free)
          && decide ((s.ring c.ring).finals.length < 256)
      | .mgmt => true
      | .peer => (s.ctx c.ctx).state == .opened

/-- The command takes its slot, or its place among the port's 8 (R525). -/
def State.enter (s : State) (c : Packet) : State :=
  match c.src with
  | .host => s.modRing c.ring fun r => { r with reserved := r.reserved + 1 }
  | .mgmt => s.modMgmt fun m => { m with linked := true, outstanding := m.outstanding + 1 }
  | .peer => s

/-- A command refused before arbitration: CSN 0. A refusal by check 5 counts (R473). -/
def State.refuse (s : State) (c : Cmd) (status : Nat) : State :=
  let s := if status = 0x7001 then s.refuseLease else s
  (s.reply true c.packet.ring c 0 { status := status }).mgmtDone c

/-- R525: a ninth command of the port. -/
def State.refuseBusy (s : State) (c : Cmd) : State :=
  (s.modMgmt fun m => { m with linked := true, busyRefusals := satAdd 8 m.busyRefusals 1 }).reply true 0 c 0 { status := 0x5002 }

/-- R472: the completion with which a repeated peer command is answered. (DEDUCED, log entry 134) -/
def State.repeated (s : State) (c : Packet) : Option Nat :=
  if c.src = .peer then
    (s.arb.peerDone.find? fun q => q.1 == c.ctx && q.2.1 == c.seq).map (·.2.2)
  else none

/-- Checks 1 to 7, then `go` for a command that passes. -/
def State.admitCommand (s : State) (c : Cmd) (go : State → State) : State :=
  if s.canBring c.packet = false then s
  else match s.repeated c.packet with
    | some e => s.sendCpl c.packet.ctx e
    | none =>
      if c.packet.src = .mgmt ∧ 8 ≤ s.mgmt.outstanding then s.refuseBusy c
      else
        let s := s.enter c.packet
        let st := s.precheck c
        if st ≠ 0 then s.refuse c st else go s

/-- A command of the table: it comes from its source, is checked, and is the only one of its arbitration cycle.
(DESIGN CHOICE, log entry 15) -/
def runCommand (opcode : Nat) (c : Packet) (s : State) : State :=
  s.admitCommand ⟨opcode, c⟩ fun s => s.apply ⟨opcode, c⟩

/-! ### Meanings -/

def execNop (c : Packet) (s : State) : Host.Outcome State Fault Refusal := .next (runCommand 0x00 c s)

def execAttach (c : Packet) (s : State) : Host.Outcome State Fault Refusal := .next (runCommand 0x01 c s)

def execSetId (c : Packet) (s : State) : Host.Outcome State Fault Refusal := .next (runCommand 0x02 c s)

def execRingCreate (c : Packet) (s : State) : Host.Outcome State Fault Refusal := .next (runCommand 0x03 c s)

def execRingDelete (c : Packet) (s : State) : Host.Outcome State Fault Refusal := .next (runCommand 0x04 c s)

def execLeaseTake (c : Packet) (s : State) : Host.Outcome State Fault Refusal := .next (runCommand 0x05 c s)

def execLeaseRelease (c : Packet) (s : State) : Host.Outcome State Fault Refusal := .next (runCommand 0x06 c s)

def execReset (c : Packet) (s : State) : Host.Outcome State Fault Refusal := .next (runCommand 0x07 c s)

def execEventConfig (c : Packet) (s : State) : Host.Outcome State Fault Refusal := .next (runCommand 0x08 c s)

def execPartCreate (c : Packet) (s : State) : Host.Outcome State Fault Refusal := .next (runCommand 0x10 c s)

def execPartDissolve (c : Packet) (s : State) : Host.Outcome State Fault Refusal := .next (runCommand 0x11 c s)

def execPlanLoad (c : Packet) (s : State) : Host.Outcome State Fault Refusal := .next (runCommand 0x12 c s)

def execTableLoad (c : Packet) (s : State) : Host.Outcome State Fault Refusal := .next (runCommand 0x14 c s)

def execCtxOpen (c : Packet) (s : State) : Host.Outcome State Fault Refusal := .next (runCommand 0x15 c s)

def execCtxClose (c : Packet) (s : State) : Host.Outcome State Fault Refusal := .next (runCommand 0x16 c s)

def execDqCreate (c : Packet) (s : State) : Host.Outcome State Fault Refusal := .next (runCommand 0x20 c s)

def execDqDelete (c : Packet) (s : State) : Host.Outcome State Fault Refusal := .next (runCommand 0x21 c s)

def execStoreWrite (c : Packet) (s : State) : Host.Outcome State Fault Refusal := .next (runCommand 0x22 c s)

def execStoreRead (c : Packet) (s : State) : Host.Outcome State Fault Refusal := .next (runCommand 0x23 c s)

def execStepBegin (c : Packet) (s : State) : Host.Outcome State Fault Refusal := .next (runCommand 0x30 c s)

def execEvalOpen (c : Packet) (s : State) : Host.Outcome State Fault Refusal := .next (runCommand 0x31 c s)

def execEvalClose (c : Packet) (s : State) : Host.Outcome State Fault Refusal := .next (runCommand 0x32 c s)

def execSkipStep (c : Packet) (s : State) : Host.Outcome State Fault Refusal := .next (runCommand 0x33 c s)

def execReplay (c : Packet) (s : State) : Host.Outcome State Fault Refusal := .next (runCommand 0x34 c s)

def execCommitResume (c : Packet) (s : State) : Host.Outcome State Fault Refusal := .next (runCommand 0x35 c s)

def execPageLoad (c : Packet) (s : State) : Host.Outcome State Fault Refusal := .next (runCommand 0x40 c s)

def execPageRead (c : Packet) (s : State) : Host.Outcome State Fault Refusal := .next (runCommand 0x41 c s)

def execScaleRead (c : Packet) (s : State) : Host.Outcome State Fault Refusal := .next (runCommand 0x42 c s)

def execScaleWrite (c : Packet) (s : State) : Host.Outcome State Fault Refusal := .next (runCommand 0x43 c s)

def execTierEvict (c : Packet) (s : State) : Host.Outcome State Fault Refusal := .next (runCommand 0x44 c s)

def execTierFetch (c : Packet) (s : State) : Host.Outcome State Fault Refusal := .next (runCommand 0x45 c s)

def execModuleFence (c : Packet) (s : State) : Host.Outcome State Fault Refusal := .next (runCommand 0x50 c s)

def execSpareAdmit (c : Packet) (s : State) : Host.Outcome State Fault Refusal := .next (runCommand 0x51 c s)

def execSpareConfig (c : Packet) (s : State) : Host.Outcome State Fault Refusal := .next (runCommand 0x52 c s)

def execSpareRelease (c : Packet) (s : State) : Host.Outcome State Fault Refusal := .next (runCommand 0x53 c s)

/-- A replay of a whole herd (DEDUCED, log entry 89). -/
def execDiagReplay (c : Packet) (s : State) : Host.Outcome State Fault Refusal := .next (runCommand 0x54 c s)

def execPowerGrants (c : Packet) (s : State) : Host.Outcome State Fault Refusal := .next (runCommand 0x60 c s)

def execHalfClock (c : Packet) (s : State) : Host.Outcome State Fault Refusal := .next (runCommand 0x61 c s)

def execFieldPower (c : Packet) (s : State) : Host.Outcome State Fault Refusal := .next (runCommand 0x62 c s)

def execThermalLimits (c : Packet) (s : State) : Host.Outcome State Fault Refusal := .next (runCommand 0x63 c s)

def execTelemetryConfig (c : Packet) (s : State) : Host.Outcome State Fault Refusal := .next (runCommand 0x70 c s)

def execSnapshot (c : Packet) (s : State) : Host.Outcome State Fault Refusal := .next (runCommand 0x71 c s)

def execLifeRead (c : Packet) (s : State) : Host.Outcome State Fault Refusal := .next (runCommand 0x72 c s)

def execAttest (c : Packet) (s : State) : Host.Outcome State Fault Refusal := .next (runCommand 0x80 c s)

def execFwUpdate (c : Packet) (s : State) : Host.Outcome State Fault Refusal := .next (runCommand 0x81 c s)

def execIdRead (c : Packet) (s : State) : Host.Outcome State Fault Refusal := .next (runCommand 0x82 c s)

end Sys2Proof.Machine
end

