-- ==== Sys2Proof/Machine/Complete.lean ====
section
/-! DEFINITION. The ends of the long commands that move data: PLAN_LOAD (R143, R194), PAGE_LOAD and PAGE_READ (R568),
STORE_WRITE and STORE_READ (R276, R467), and SPARE_CONFIG (R429, R430). -/

namespace Sys2Proof.Machine

/-- The in-flight command of an opcode under a CSN. -/
def State.flightOf (s : State) (opcode csn : Nat) : Option InFlight := (s.flight csn).filter fun f => f.cmd.opcode == opcode

/-- Data that a running command writes for its master; a reset of the management port discards the port's (R526). -/
def State.flightData (s : State) (f : InFlight) (addr : Nat) (data : List Byte) : State :=
  if f.muted = true ∧ f.cmd.packet.src = .mgmt then s else s.hostData f.cmd.packet addr data

/-- The `n` bytes that the command has read: `data` from host memory, or the data-in buffer it was given (R524). -/
def InFlight.read (f : InFlight) (data : List Byte) (n : Nat) : List Byte :=
  let bs := if f.cmd.packet.src = .mgmt then f.cmd.packet.data else data
  (bs ++ List.replicate (n - bs.length) 0).take n

/-! ### PLAN_LOAD (R186, R190, R194, R332, R378) -/

/-- R80: scale entries as at plan load. The plan gives FORMAT; it has no field for MARGIN and POLICY (DESIGN CHOICE, log entry 46). -/
def State.planScales (s : State) (x : Part) : Sparse ScaleEntry :=
  (List.range (x.sec 0x07).length).foldl (fun m t =>
    if x.hasEntry t = true ∧ (s.scaleKpr x t).isSome = true then
      sset {} m t { format := BitVec.ofNat 4 (bits (x.tensor t) 3 0) }
    else m) []

/-- R332, R568: a page at plan load, zero and stamped with the pointer, with its digest record. HEAD is STAMP modulo the number of
slots, as it is of every page from then on (DESIGN CHOICE, log entry 215). -/
def Part.newPage (x : Part) (P g start : Nat) : OwnedPage :=
  let q := x.pageKind g
  let body : PageBody := { stamp := start, head := start % P }
  { body := { body with digest := digestRecord g q.1 q.2 body }, frozen := q.1
    group := match x.range g with | some e => prGroup e | none => 0 }

/-- R143, R194, R254: a plan is installed in its partition, with its alternates for routers that are dead. (DEDUCED, log entry 128) -/
def State.installPlan (s : State) (p : Nat) (plan : Plan) (start : Nat) : State :=
  let old := s.part p
  let off := old.fields.filter fun f => (s.field f).isOff
  let s := (s.closePlanCtxs p).clearPart p
  let x : Part := { formed := true, rows := old.rows, plan := some plan, version := start, hver := start, offFields := off }
  let s := s.setPart p { x with scales := s.planScales x }
  let s := s.forAll x.keepers fun s k => s.forAll (x.ownedBy s.selfId k) fun s g =>
    s.modOpage k p g fun _ => x.newPage s.past g start
  let s := s.forAll (List.range 64) fun s q => s.modDq (64 * p + q) fun d => { d with seq := 0 }
  let s := ((s.installStations p).installRegs p).takeAlternates.releaseHeld
  let s := s.forAll off fun s f => s.loseLayout f p
  let s := if off = [] then s else s.chooseRoutes p
  (s.forAll (x.sec 0x18) fun s e => if (s.ctx (bits e 11 0)).state = .closed then s.openPartner e else s).settle p

/-- R194, R467: the image has been read and checked. -/
def State.planLoaded (s : State) (csn : Nat) (image : List Byte) : State :=
  match s.flightOf 0x12 csn with
  | none => s
  | some f =>
    let n := f.cmd.packet.n
    let p := parP n
    let x := s.part p
    let img := f.read image (bits n 159 128)
    if !(x.formed && x.free) then s.final csn { status := 0x3001 }
    else match s.planFault p x.rows.toNat img (bits n 159 128) with
      | some (status, offset) => s.final csn { status := status, result := offset }
      | none => (s.installPlan p (Plan.ofImage img) (bits n 199 160)).final csn {}

/-! ### PAGE_LOAD (R57, R68, R468, R568) -/

/-- Values of host data: BF16 where `short`, else FP32. -/
def hostValues (short : Bool) (bs : List Byte) : List Num :=
  if short then (unpack 16 (bs.length / 2) (leNat bs)).map Fmt.bf16.decode
  else (unpack 32 (bs.length / 4) (leNat bs)).map f32

/-- Weights of a page: significands and exponents, and the blocks that keep their previous values. -/
def loadWeights (short : Bool) (old : PageBody) (data : List Byte) : Sparse Byte × Sparse Byte × Nat :=
  let blocks := (chunks (if short then 64 else 128) pageBlocks data).mapIdx fun i bs =>
    match writeMw16 (fun _ => .nearest) (hostValues short bs) with
    | some q => (q.sigs.flatMap fun (v : Int) => leBytes 2 (v % 65536).toNat, BitVec.ofNat 8 q.exp, 0)
    | none => (readBytes old.weights (64 * i) 64, sget 0 old.exps i, 1)
  (writeBytes [] 0 (blocks.flatMap (·.1)), writeBytes [] 0 (blocks.map (·.2.1)), (blocks.map (·.2.2)).sum)

/-- R57, R68: a significand of a page's weights saturates. -/
def loadSaturates (short : Bool) (data : List Byte) : Bool :=
  (chunks (if short then 64 else 128) pageBlocks data).any fun bs =>
    (writeMw16 (fun _ => .nearest) (hostValues short bs)).any (·.saturate)

/-- Elements of a moment in blocks of 32: BF16 as given, FP32 rounded to BF16, or (`factors`) FP32 as given. -/
def loadMoment (short factors : Bool) (old : Sparse Byte) (data : List Byte) : Sparse Byte × Nat :=
  let size := if short && !factors then 64 else 128
  let out := if factors then 128 else 64
  let blocks := (chunks size (data.length / size) data).mapIdx fun i bs =>
    let xs := hostValues (short && !factors) bs
    if xs.any Num.special then (readBytes old (out * i) out, 1)
    else if short || factors then (bs, 0)
    else (xs.flatMap fun v => leBytes 2 (Fmt.bf16.convert .nearest v).bits, 0)
  (writeBytes [] 0 (blocks.flatMap (·.1)), (blocks.map (·.2)).sum)

/-- One page of a PAGE_LOAD, and the blocks that kept their values. -/
def Part.loadPage (x : Part) (n g : Nat) (old : OwnedPage) (data : List Byte) : OwnedPage × Nat :=
  let short := bit n 63
  let size := if short then 2 ^ 20 else 2 ^ 21
  let opt := x.optOf old
  let (w, e, kept) := loadWeights short old.body (data.take size)
  let rest := data.drop size
  let given := bit n 60 && !old.frozen
  let (m1, k1) := if given then loadMoment short false old.body.m1 (rest.take size) else ([], 0)
  let rest := rest.drop size
  let (m2, k2) := if !given then ([], 0)
    else match opt with
      | 1 => loadMoment short false old.body.m2 (rest.take size)
      | 3 => loadMoment short true old.body.m2 (rest.take 6144)
      | _ => ([], 0)
  let body : PageBody := { stamp := x.version, head := old.body.head, weights := w, exps := e, m1 := m1, m2 := m2 }
  ({ body := { body with digest := digestRecord g old.frozen opt body }, frozen := old.frozen, group := old.group
     waiting := old.waiting }, kept + k1 + k2)

/-- Pages one after another: the data left, the first page affected, and the blocks kept. (DEDUCED, log entry 129) -/
def State.loadPages (p n : Nat) : List Nat → State × List Byte × Option Nat × Nat → State × List Byte × Option Nat × Nat
  | [], r => r
  | g :: gs, (s, data, first, kept) =>
    let x := s.part p
    match s.ownerKpr p g with
    | none => State.loadPages p n gs (s, data, first, kept)
    | some k =>
      let (page, more) := x.loadPage n g (s.opage k p g) data
      let short := bit n 63
      let s := if loadSaturates short (data.take (if short then 2 ^ 20 else 2 ^ 21)) then
          s.modKpart k p fun y => { y with saturate := true }
        else s
      let s := (s.modOpage k p g fun _ => page).modPart p fun x =>
        { x with
          staged := x.staged.filter fun y => y.1 ≠ g
          evalStaged := x.evalStaged.filter fun y => y.1 ≠ g }
      let s := (s.mirrorPage k p g).serveWaiting k p g
      let q := x.pageKind g
      State.loadPages p n gs
        (s, data.drop (x.loadBytes n q.1 q.2), if more ≠ 0 ∧ first = none then some g else first, kept + more)

/-- R568: the last page is stamped, digested and mirrored. -/
def State.pagesLoaded (s : State) (csn : Nat) (data : List Byte) : State :=
  match s.flightOf 0x40 csn with
  | none => s
  | some f =>
    let n := f.cmd.packet.n
    let p := parP n
    if !((s.part p).planned && s.ownsPages n) then s.final csn { status := 0x3001 }
    else
      let (s, _, first, kept) := State.loadPages p n (cmdPages n) (s, f.read data (s.loadLength n), none, 0)
      match first with
      | none => s.final csn {}
      | some g => s.final csn { status := 0x6005, result := g + min kept (2 ^ 20 - 1) * 2 ^ 28 }

/-! ### PAGE_READ (R332, R335, R568) -/

/-- R568: the bytes of one page of a PAGE_READ; none where its version is not held. -/
def State.readPage (s : State) (k p n g : Nat) : Option (List Byte) :=
  let x := s.part p
  let pg := s.opage k p g
  let b := pg.body
  (b.version s.past (bits n 167 128)).map fun (w, e) =>
    let weights := if bit n 63 then
        (List.range pageParams).flatMap fun i =>
          leBytes 4 (fp32.convert .nearest (mw16Value (expAt e (i / 32)) (sigAt w i))).bits
      else readBytes w 0 (2 ^ 20) ++ readBytes e 0 16384
    let slots := (List.range s.past).map fun j => sget {} b.deltas j
    (if bit n 62 then pg.header s.past else [])
      ++ (if bit n 59 then weights else [])
      ++ (if bit n 60 then x.compBytes s.past pg 1 else [])
      ++ (if bit n 61 then (slots.flatMap fun d => readBytes d.bytes 0 540672) ++ slots.flatMap fun d => d.spill.flatMap (spillRecord g)
          else [])

/-- R58: a read as FP32 meets a block of exponent 0xFF. -/
def State.readMeetsNan (s : State) (k p n g : Nat) : Bool :=
  bit n 59 && bit n 63 && match (s.opage k p g).body.version s.past (bits n 167 128) with
    | some (_, e) => (List.range pageBlocks).any fun i => sget 0 e i == 255
    | none => false

/-- R58: the Keeper that meets such a block sets KPR_NONFINITE while a step runs (DEDUCED, log entry 157). -/
def State.nanRead (s : State) (p n : Nat) : State :=
  if (s.part p).running = false then s
  else s.forAll (cmdPages n) fun s g => match s.ownerKpr p g with
    | some k => if s.readMeetsNan k p n g then s.modKpart k p fun y => { y with nonfinite := true } else s
    | none => s

/-- R304, R468: every named page has its components in HBM; needed ones are fetched. -/
def State.readReady (s : State) (p n : Nat) : State × Bool :=
  (cmdPages n).foldl (fun (sb : State × Bool) g =>
    match sb.1.ownerKpr p g with
    | none => sb
    | some k =>
      let pg := sb.1.opage k p g
      let (t, ok) := sb.1.needAll k p g (readComps n pg (bits n 167 128))
      (t, sb.2 && ok && !pg.awaitingHusk)) (s, true)

/-- R568: the components of every page have been read; a page that is not owned here has none (DESIGN CHOICE, log entry 222). -/
def State.pagesRead (s : State) (csn : Nat) : State :=
  match s.flightOf 0x41 csn with
  | none => s
  | some f =>
    let n := f.cmd.packet.n
    let p := parP n
      let (s, ready) := s.readReady p n
      if !ready then s
      else
        let pages := (cmdPages n).filterMap fun g => (s.ownerKpr p g).map fun k => s.readPage k p n g
        if pages.any (·.isNone) then s.final csn { status := 0x3004 }
        else
          let data := pages.flatMap fun d => d.getD []
          ((s.nanRead p n).flightData f (bits n 127 64) data).final csn { result := data.length }

/-! ### STORE_WRITE and STORE_READ (R274, R276, R467) -/

/-- R276: a bank range is written, which clears its poison. A bank of a field that is off answers nothing. -/
def State.storeWritten (s : State) (csn : Nat) (data : List Byte) : State :=
  match s.flightOf 0x22 csn with
  | none => s
  | some f =>
    let n := f.cmd.packet.n
    let st := bits n 15 0
    if (s.field (stField st)).isOff then s.final csn { status := 0x6002 }
    else (s.writeBank st (bits n 39 16) (f.read data (bits n 63 40))).final csn {}

/-- R467: a bank range is copied to the master, up to the first word that cannot be read. (DEDUCED, log entry 130) -/
def State.storeRead (s : State) (csn : Nat) : State :=
  match s.flightOf 0x23 csn with
  | none => s
  | some f =>
    let n := f.cmd.packet.n
    let st := bits n 15 0
    let off := bits n 39 16
    let addr := bits n 127 64
    let words := bits n 63 40 / 8
    if (s.field (stField st)).isOff then s.final csn { status := 0x6002 }
    else match (List.range words).find? fun i => s.bankBad st (off + 8 * i) 8 with
      | some i => (s.flightData f addr (s.readBank st off (8 * i))).final csn { status := 0x6004 }
      | none => (s.flightData f addr (s.readBank st off (8 * words))).final csn {}

/-! ### SPARE_CONFIG (R429, R430) -/

/-- The member IDs of the list at ADDR, 16 bits each, of which the upper 4 are ignored (DEDUCED, log entry 47). -/
def spareMembers (c : Packet) : List Nat :=
  (chunks 2 (bits c.n 15 12 + 1) (c.bytes (2 * (bits c.n 15 12 + 1)))).map fun b => leNat b % 4096

/-- R194, R429: the first fault of a standby plan, checked as a member that its herd list names. (DEDUCED, log entry 132) -/
def State.standbyFault (s : State) (members : List Nat) (img : List Byte) : Option (Nat × Nat) :=
  let h := planHeader img
  let x : Part := { plan := some (Plan.ofImage img) }
  let self := (members.find? fun m => (x.rankOf m).isSome).getD s.selfId
  (s.modMlv fun m => { m with selfId := BitVec.ofNat 12 self }).planFault (bits h 42 40) (bits h 55 48) img img.length

/-- R429, R430: the configuration and its standby plans are loaded. -/
def State.spareConfigured (s : State) (csn : Nat) (images : List (List Byte)) : State :=
  match s.flightOf 0x52 csn with
  | none => s
  | some f =>
    let n := f.cmd.packet.n
    let members := spareMembers f.cmd.packet
    let images := (images ++ List.replicate (bits n 17 16 + 1 - images.length) []).take (bits n 17 16 + 1)
    if members.contains 0xFFF then s.final csn { status := 0x2003 }
    else match images.findSome? (s.standbyFault members) with
      | some (status, offset) => s.final csn { status := status, result := offset }
      | none =>
        let s := s.closeStandby
        let c : SpareCfg := { standbyId := bits n 11 0, members := members, plans := images.map Plan.ofImage, admitWait := bits n 25 18, staged := [] }
        let s := s.modRecov fun r => { r with spare := some c, role := if c.armed then .armed else .standby }
        let s := s.modMlv fun m => { m with selfId := BitVec.ofNat 12 c.standbyId }
        (s.openStandby c).final csn {}

/-! ### Meanings -/

def execPlanLoadDone (csn : Nat) (image : List Byte) (s : State) : Host.Outcome State Fault Refusal :=
  .next (s.planLoaded csn image)

def execPageLoadDone (csn : Nat) (data : List Byte) (s : State) : Host.Outcome State Fault Refusal :=
  .next (s.pagesLoaded csn data)

def execPageReadDone (csn : Nat) (s : State) : Host.Outcome State Fault Refusal := .next (s.pagesRead csn)

def execStoreWriteDone (csn : Nat) (data : List Byte) (s : State) : Host.Outcome State Fault Refusal :=
  .next (s.storeWritten csn data)

def execStoreReadDone (csn : Nat) (s : State) : Host.Outcome State Fault Refusal := .next (s.storeRead csn)

def execSpareConfigDone (csn : Nat) (images : List (List Byte)) (s : State) : Host.Outcome State Fault Refusal :=
  .next (s.spareConfigured csn images)

end Sys2Proof.Machine
end

