-- ==== Sys2Proof/Machine/HostIface.lean ====
section
/-! DEFINITION. CXL-H and the arbiter as events: doorbells and rings (R457 to R459), data queues (R460), the link reset
(R455), fetch, arbitration and time-outs of commands (R463, R469 to R472), and the packets of the management port and of
peers (R389, R524). -/

namespace Sys2Proof.Machine

/-- CXL-H takes register accesses from ready on (R504, W7, P8). -/
def State.cxlServed (s : State) : Bool := s.boot.stage == .ready

/-! ### Rings (R457 to R459) -/

/-- R459: a doorbell of ring q: ignored while the ring is disabled, refused with ERR where not below the ring size. -/
def State.doorbell (s : State) (q v : Nat) (f : Ring → Ring) : State :=
  if s.cxlServed = false ∨ 64 ≤ q ∨ (s.ring q).enable = false then s
  else if (s.ring q).entries ≤ v then s.modRing q fun r => { r with err := true }
  else s.modRing q f

def State.sqTail (s : State) (q v : Nat) : State := s.doorbell q v fun r => { r with sqTail := v }

/-- R458: slots are free once the head has moved past them. A head does not pass CQ_TAIL (DESIGN CHOICE, log entry 48). -/
def State.cqHead (s : State) (q v : Nat) : State :=
  s.doorbell q v fun r =>
    { r with cqHead := (r.cqHead + min ((v + r.entries - r.cqHead) % r.entries) r.used) % r.entries }

/-- R459: ring 0's control register. While ENABLE reads 1 the write changes ENABLE only; a SIZE outside 4 to 12 leaves
ENABLE at 0 and sets ERR. A ring starts empty, but for the completions
that wait for ring 0 (R466). -/
def State.ringCtl0 (s : State) (v : Nat) : State :=
  if s.cxlServed = false then s
  else s.modRing 0 fun r =>
    if r.enable then { r with enable := bit v 0 }
    else
      let r : Ring := { r with size := bits v 4 1, vector := bits v 10 5 }
      if bit v 0 = false then r
      else if ringSizeOk r.size = false then { r with err := true }
      else { enable := true, size := r.size, vector := r.vector, sqb := r.sqb, cqb := r.cqb, err := r.err, finals := r.finals }

/-- R458: the oldest waiting final completion of a ring is written once a slot is free. -/
def State.postFinal (s : State) (q : Nat) : State :=
  match (s.ring q).finals with
  | [] => s
  | c :: rest =>
    if (s.ring q).enable = true ∧ 0 < (s.ring q).free then (s.modRing q fun r => { r with finals := rest }).writeSlot q c else s

/-! ### The link reset (R455) -/

/-- Commands of the host that await arbitration are gone with their rings (DEDUCED, log entry 49). -/
def State.linkReset (s : State) : State :=
  let s := s.modArb fun a =>
    { a with
      presented := a.presented.filter fun c => c.packet.src ≠ .host
      inflight := a.inflight.map fun f => if f.cmd.packet.src = .host then { f with muted := true } else f }
  let s := s.modHost fun h =>
    { h with rings := [], turn := 63, attached := false, reads := [], linkResets := satAdd 16 h.linkResets 1 }
  if s.cxlServed then s.linkTrained else s

/-! ### Data queues (R460) -/

/-- The stream that a host queue feeds, and the stream that ends at it. -/
def Part.inputStream (x : Part) (q : Nat) : Option Nat := (x.sec 0x06).find? fun e => sdSrcKind e == 5 && sdSrc e == q
def Part.outputStream (x : Part) (q : Nat) : Option Nat := (x.sec 0x06).find? fun e => sdDstKind e == 5 && sdDst e == q

/-- The doorbell: the host's producer index of an input queue, or its consumer index of an output queue, which frees
slots for the sending station. An index not below the slot count sets ERR of ring 0. -/
def State.dqDoorbell (s : State) (p q v : Nat) : State :=
  let d := s.dq (64 * p + q)
  if s.cxlServed = false ∨ 8 ≤ p ∨ 64 ≤ q ∨ d.present = false then s
  else if d.slots ≤ v then s.modRing 0 fun r => { r with err := true }
  else if d.output = false then s.modDq (64 * p + q) fun d => { d with prod := v }
  else
    let s := s.modDq (64 * p + q) fun d => { d with cons := v }
    match (s.part p).outputStream q with
    | some e => s.creditReturn (sdSrc e) (bits e 15 0) (0x30000 + q) 0
    | none => s

/-- R156: a destination of an input queue's stream holds a credit for its next tile: tiles under way, held in the receive
buffer, or whose credits are held, count as spent. (DEDUCED, log entry 141) -/
def State.inputCredit (s : State) (p e seq dest : Nat) : Bool :=
  if dest < 0x10000 then
    let i := sget {} (s.station dest).core.inb (bits e 15 0)
    decide (seqAhead 48 i.seq seq + i.buffer.length + i.heldReturns < sdCredits e)
  else decide (0 < s.freeAt p 0x10000 e dest)

/-- The bytes of a tile as the queue's slot holds it. -/
def tileOf (e : Nat) (tile : List Byte) : List Byte :=
  let n := (streamSpace e).bytes
  (tile ++ List.replicate (n - tile.length) 0).take n

/-- R460, R157: the tile in the next slot of an input queue is handed to the mesh; the consumer index goes to the index
word (4 bytes, DESIGN CHOICE, log entry 50). The first input of a step that a spare takes over starts its recompute (R439). -/
def State.inputTile (s : State) (p q : Nat) (tile : List Byte) : State :=
  let d := s.dq (64 * p + q)
  match (s.part p).inputStream q with
  | none => s
  | some e =>
    if d.present = false ∨ d.output = true ∨ d.prod = d.cons ∨ 8 ≤ p ∨ 64 ≤ q
        ∨ ((s.part p).dests e).all (s.inputCredit p e d.seq) = false ∨ s.recordHolds p e = true then s
    else
      let next := (d.cons + 1) % d.slots
      let s := s.emit (.rdCurr (d.base.toNat + d.cons * (streamSpace e).bytes) (streamSpace e).bytes)
      let s := s.emit (.tile (0x30000 + 64 * p + q) (bits e 15 0) d.seq (tileOf e tile)
        ((s.part p).tileHeader e 0 d.seq (tileOf e tile).length))
      let s := s.recordTile p (bits e 15 0) d.seq (tileOf e tile)
      let s := s.modDq (64 * p + q) fun d => { d with cons := next, seq := (d.seq + 1) % 2 ^ 48 }
      (s.emit (.hostWrite d.index.toNat (leBytes 4 next))).recompute p

/-- R449: the oldest recorded tile is written into the next free slot of the queue that takes them; its stream's tiles that were held go out. -/
def State.recordOut (s : State) (p q e : Nat) : State :=
  let d := s.dq (64 * p + q)
  match s.recov.record with
  | [] => s
  | (id, seq, tile) :: rest =>
    let next := (d.prod + 1) % d.slots
    let s := { s with recov := { s.recov with record := rest } }
    let s := (s.emit (.recorded p id seq tile)).emit (.hostWrite (d.base.toNat + d.prod * (streamSpace e).bytes) tile)
    let s := s.modDq (64 * p + q) fun d => { d with prod := next }
    let s := s.emit (.hostWrite d.index.toNat (leBytes 4 next))
    match (s.part p).stream id with
    | some f => if sdSrcKind f = 0 then s.creditReturn (sdSrc f) id 0 0 else s
    | none => s

/-- R449, R460: a recorded tile, or one that a station has sent to an output queue, is written into the next free slot, and the producer index to
the index word. -/
def State.outputTile (s : State) (p q : Nat) (tile : List Byte) : State :=
  let d := s.dq (64 * p + q)
  match (s.part p).outputStream q with
  | none => s
  | some e =>
    let id := bits e 15 0
    let sent := sget 0 (sget {} (s.station (sdSrc e)).core.outb id).used (0x30000 + q)
    if d.present = true ∧ d.output = true ∧ d.freeSlots ≠ 0 ∧ p < 8 ∧ q < 64 ∧ s.recov.record ≠ [] ∧ s.recordQueue p = some q
        ∧ (s.part p).replayKey.isSome = true then s.recordOut p q e
    else if d.present = false ∨ d.output = false ∨ sent = 0 ∨ d.freeSlots = 0 ∨ 8 ≤ p ∨ 64 ≤ q then s
    else
      let bytes := tileOf e tile
      let next := (d.prod + 1) % d.slots
      let s := s.emit (.hostWrite (d.base.toNat + d.prod * bytes.length) bytes)
      let s := s.modDq (64 * p + q) fun d => { d with prod := next, seq := (d.seq + 1) % 2 ^ 48 }
      (s.emit (.hostWrite d.index.toNat (leBytes 4 next))).creditReturn (sdSrc e) id (0x30000 + q) 1

/-! ### Packets (R461) -/

/-- A command of a 64-byte packet. -/
def cmdOf (entry : BitVec 512) (src : Source) (ring ctx seq : Nat) (tag : BitVec 8) (data : List Byte) : Cmd :=
  { opcode := bits entry.toNat 7 0
    packet :=
      { src := src, ring := ring, ctx := ctx, seq := seq, tag := tag, cmdId := entry.extractLsb' 16 16
        reserved := entry.extractLsb' 32 32 ++ entry.extractLsb' 8 8, params := entry.extractLsb' 64 448, data := data } }

/-- A command that has passed checks 1 to 7 awaits an arbitration cycle. -/
def State.present (s : State) (c : Cmd) : State := s.modArb fun a => { a with presented := a.presented ++ [c] }

/-- R457, R458: the ring whose turn it is: after the one that was fetched from last, the next enabled one that has an entry and room for
its completion. -/
def State.nextRing (s : State) : Option Nat :=
  ((List.range 64).map fun i => (s.host.turn + 1 + i) % 64).find? fun q =>
    let r := s.ring q
    r.enable && r.sqHead ≠ r.sqTail && decide (0 < r.free) && decide (r.finals.length < 256)

/-- R454: what a host command's data is read with: RdCurr, at the first of its addresses. -/
def State.readBuffer (s : State) (c : Cmd) : State :=
  match catRow c.opcode with
  | some row => match row.addrs, row.reads c.packet.n with
    | a :: _, n + 1 => s.emit (.rdCurr (bits c.packet.n (a + 63) a) (n + 1))
    | _, _ => s
  | none => s

/-- R454, R457, R458, R463: the entry at SQ_HEAD of the enabled ring whose turn it is is fetched. -/
def State.fetchCommand (s : State) (q : Nat) (entry : BitVec 512) (data : List Byte) : State :=
  let c := cmdOf entry .host q 0 0 0 data
  let r := s.ring q
  if s.nextRing ≠ some q ∨ s.canBring c.packet = false then s
  else
    let s := s.emit (.rdCurr (r.sqb.toNat + 64 * r.sqHead) 64)
    let s := (s.modRing q fun r => { r with sqHead := (r.sqHead + 1) % r.entries }).modHost fun h => { h with turn := q }
    s.admitCommand c fun s => (s.readBuffer c).present c

/-- R389: a PEER_CMD reaches its context; it is checked, and presented unless it repeats one already accepted. -/
def State.peerCommand (s : State) (i seq : Nat) (entry : BitVec 512) : State :=
  let c := cmdOf entry .peer 0 i seq 0 []
  if s.canBring c.packet = false then s
  else if s.arb.presented.any fun d => d.packet.src == .peer && d.packet.ctx == i && d.packet.seq == seq then s.took i 1 1
  else (s.took i 1 1).admitCommand c fun s => s.present c

/-- R524, R525: a packet of the enclosure manager. Its data is what the data-in buffer holds under its TAG. -/
def State.mgmtCommand (s : State) (tag : BitVec 8) (entry : BitVec 512) : State :=
  let data := match s.mgmt.dataIn with
    | some (t, d) => if t = tag then d else []
    | none => []
  let c := cmdOf entry .mgmt 0 0 0 tag data
  s.admitCommand c fun s => s.present c

/-! ### The arbitration cycle (R470, R471) -/

/-- The place of a command in the order of application: the enclosure manager, host rings, contexts. -/
def Cmd.lane (c : Cmd) : Nat :=
  match c.packet.src with
  | .mgmt => 0
  | .host => 1 + c.packet.ring
  | .peer => 65 + c.packet.ctx

/-- A command into its place of a batch. -/
def insertLane (c : Cmd) : List Cmd → List Cmd
  | [] => [c]
  | d :: rest => if c.lane < d.lane then c :: d :: rest else d :: insertLane c rest

/-- R470: the oldest command of each lane, in order, and the commands left. -/
def takeLanes : List Cmd → List Cmd → List Cmd × List Cmd
  | [], batch => (batch, [])
  | c :: rest, batch =>
    if batch.any fun d => d.lane == c.lane then
      let (b, left) := takeLanes rest batch
      (b, c :: left)
    else takeLanes rest (insertLane c batch)

/-- Opcodes that never contradict: NOP, SNAPSHOT, the READ commands, SCALE_READ and ATTEST. -/
def neverContradict : List Nat := [0x00, 0x71, 0x23, 0x41, 0x42, 0x72, 0x82, 0x80]

/-- The sender of a command: the host, the enclosure manager, or the peer module. -/
def State.sender (s : State) (c : Cmd) : Nat :=
  match c.packet.src with
  | .host => 4096
  | .mgmt => 4097
  | .peer => (s.ctx c.packet.ctx).partner

def State.touchSet (s : State) (c : Cmd) : List Nat := ((catRow c.opcode).map fun r => r.touch s c.packet.n).getD []

/-- R471: two commands of one cycle contradict. -/
def State.contradict (s : State) (a b : Cmd) : Bool :=
  s.sender a != s.sender b && !neverContradict.contains a.opcode && !neverContradict.contains b.opcode
    && (s.touchSet a).any fun r => (s.touchSet b).contains r

/-- Family 0x6_, or RESET warm or cold. -/
def Cmd.managerWins (c : Cmd) : Bool := c.opcode / 16 == 6 || (c.opcode == 0x07 && bits c.packet.n 1 0 ≤ 1)

/-- R471, R438: of two contradicting commands, `a` wins over `b`. -/
def State.beats (s : State) (a b : Cmd) : Bool :=
  let rank (c : Cmd) : Nat :=
    match c.packet.src with
    | .mgmt => if a.managerWins || b.managerWins then 0 else 2
    | .host => 1
    | .peer => 3
  if rank a ≠ rank b then rank a < rank b
  else if a.opcode = 0x51 ∧ b.opcode = 0x51 ∧ bits a.packet.n 39 28 ≠ bits b.packet.n 39 28 then
    bits a.packet.n 39 28 < bits b.packet.n 39 28
  else s.sender a < s.sender b

/-- Commands of a cycle with their CSNs. -/
def withCsns : List Cmd → Nat → List (Cmd × Nat)
  | [], _ => []
  | c :: rest, n => (c, n) :: withCsns rest (if n = 2 ^ 32 - 1 then 1 else n + 1)

/-- The CSN of the first command of the cycle that wins over this one. -/
def State.winner (s : State) (batch : List (Cmd × Nat)) (c : Cmd) : Option Nat :=
  (batch.find? fun d => s.contradict d.1 c && s.beats d.1 c).map (·.2)

/-- One cycle: contradictions are settled on the state at its start, and what is left is applied in order. A reset that
begins abandons the rest. (DEDUCED, log entry 135) -/
def State.arbitrate (s : State) : State :=
  if s.boot.stage ≠ .ready then s
  else
    let (cmds, left) := takeLanes s.arb.presented []
    let batch := withCsns cmds s.nextCsn
    let fates := batch.map fun q => (q, s.winner batch q.1)
    let s := s.modArb fun a => { a with presented := left }
    s.forAll fates fun s f =>
      if s.boot.stage ≠ .ready then s
      else
        let s := s.modArb fun a => { a with lastCsn := f.1.2 }
        match f.2 with
        | some w => (s.modArb fun a => { a with superseded := satAdd 12 a.superseded 1 }).finish f.1.1 f.1.2 { status := 0x4001, result := w }
        | none => s.execute f.1.1 f.1.2

/-! ### Time-outs (R469) -/

/-- A TIER command stops between pages: pages none of whose transfers has begun stay where they are, but for one that a request waits for. -/
def State.stopTier (s : State) (p g : Nat) (cs : List Nat) (write : Bool) : State :=
  match s.ownerKpr p g with
  | none => s
  | some k =>
    let port := (s.part p).slowPort g
    let mine (q : UioTransfer × Nat) : Bool := q.1.part == p && q.1.page == g && q.1.write == write && cs.contains q.1.comp
    let y := s.tierPort (port - 1)
    let s := if write then s.modOpage k p g fun o => { o with evictLater := o.evictLater.filter fun c => !cs.contains c } else s
    if y.transfers.any mine || !y.waiting.any mine || (!write && (s.opage k p g).waiting ≠ []) then s
    else
      let s := s.modTier (port - 1) fun t => { t with waiting := t.waiting.filter fun q => !mine q }
      s.forAll cs fun s c => s.modOpage k p g fun o =>
        match o.resid c with
        | .evict => if write then o.setResid c .hbm else o
        | .fetch => if write then o else o.setResid c .slow
        | _ => o

/-- R469: where the command's work stops: TIER commands between pages; EVAL_OPEN between the pages of its gather, and its window is given
up; a window that EVAL_CLOSE had begun to close stays open. -/
def State.stopWork (s : State) (c : Cmd) : State :=
  let n := c.packet.n
  let p := parP n
  match c.opcode with
  | 0x44 => s.forAll (cmdPages n) fun s g => s.stopTier p g (cmdComps n) true
  | 0x45 => s.forAll (cmdPages n) fun s g => s.stopTier p g (cmdComps n) false
  | 0x31 =>
    if (s.part p).eval.any (fun w => !w.staged) then
      let s := s.forAll (s.part p).keepers fun s k => s.modKpart k p fun y =>
        { y with pages := (y.pages.map (·.1)).foldl (fun m g =>
            smod {} m g fun o => { o with waiting := o.waiting.filter fun r => r.1 ≠ 0x1001 }) y.pages }
      (s.modPart p fun x => { x with eval := none, evalStaged := [] }).settle p
    else s
  | 0x32 => s.modPart p fun x => { x with eval := x.eval.map fun w => { w with closing := false } }
  | _ => s

/-- The command completes with 0x6001 and nothing more is posted for it. A held STEP_BEGIN is exempt. FW_UPDATE ends where it
still reads its image; a replay stops, and so does the work of `stopWork`. (DEDUCED, log entry 143) -/
def State.timeout (s : State) (csn : Nat) : State :=
  match s.flight csn with
  | none => s
  | some f =>
    if f.cmd.opcode = 0x30 then s
    else if f.cmd.opcode = 0x81 ∧ (s.boot.update.any fun u => u.stage == .reading) = true then
      let s := s.modArb fun a => { a with inflight := a.inflight.filter fun g => g.csn ≠ csn }
      let s := if f.muted then s else s.reply true f.dest f.cmd csn { status := 0x6001 }
      (s.modBoot fun b => { b with update := none }).mgmtDone f.cmd
    else if f.cmd.opcode = 0x54 then (s.stopReplay csn).final csn { status := 0x6001 }
    else (s.stopWork f.cmd).final csn { status := 0x6001 }

/-! ### Meanings -/

def execCommandFetch (q : Nat) (entry : BitVec 512) (data : List Byte) (s : State) : Host.Outcome State Fault Refusal :=
  .next (s.fetchCommand q entry data)

def execArbitrationCycle (s : State) : Host.Outcome State Fault Refusal := .next s.arbitrate

def execFinalCompletionPost (q : Nat) (s : State) : Host.Outcome State Fault Refusal := .next (s.postFinal q)

def execCommandTimeout (csn : Nat) (s : State) : Host.Outcome State Fault Refusal := .next (s.timeout csn)

def execCxlSqTail (q : Nat) (value : BitVec 32) (s : State) : Host.Outcome State Fault Refusal :=
  .next (s.sqTail q (bits value.toNat 11 0))

def execCxlCqHead (q : Nat) (value : BitVec 32) (s : State) : Host.Outcome State Fault Refusal :=
  .next (s.cqHead q (bits value.toNat 11 0))

def execCxlRingCtl0Write (value : BitVec 32) (s : State) : Host.Outcome State Fault Refusal := .next (s.ringCtl0 value.toNat)

def execCxlDqDb (p q : Nat) (value : BitVec 32) (s : State) : Host.Outcome State Fault Refusal :=
  .next (s.dqDoorbell p q (bits value.toNat 15 0))

def execDqInputTile (p q : Nat) (tile : List Byte) (s : State) : Host.Outcome State Fault Refusal :=
  .next (s.inputTile p q tile)

def execDqOutputTile (p q : Nat) (tile : List Byte) (s : State) : Host.Outcome State Fault Refusal :=
  .next (s.outputTile p q tile)

def execCxlLinkReset (s : State) : Host.Outcome State Fault Refusal := .next s.linkReset

def execPeerCmd (ctx seq : Nat) (entry : BitVec 512) (s : State) : Host.Outcome State Fault Refusal :=
  .next (s.peerCommand ctx seq entry)

def execMgmtCommand (tag : BitVec 8) (entry : BitVec 512) (s : State) : Host.Outcome State Fault Refusal :=
  .next (s.mgmtCommand tag entry)

end Sys2Proof.Machine
end

