-- ==== Sys2Proof/Machine/Regs.lean ====
section
/-! DEFINITION. Accesses to BAR0 (R456): reads with their RC fields, reads of station windows that wait for a fill
(R138), writes by access code and lease (R15, R473), and the ports' control bits (R364, R392); and the idle tick. -/

namespace Sys2Proof.Machine

/-! ### Reads -/

/-- The station whose window an offset lies in. -/
def windowStation (o : Nat) : Option Nat :=
  if 0x2000000 ≤ o ∧ o < 0x3000000 then some ((o - 0x2000000) / 256) else none

/-- The station is being filled, or waits for its fill (R396, R405). (DEDUCED, log entry 140) -/
def State.beingFilled (s : State) (st : Nat) : Bool :=
  let x := s.field (stField st)
  x.fill.any (fun l => l.station == st) || x.queued.any fun l => l.station == st

/-- R456: an access that is served: 4 or 8 aligned bytes. -/
def accessOk (o size : Nat) : Bool := decide ((size = 4 ∨ size = 8) ∧ o % size = 0 ∧ o < 0x4000000)

/-- R138, R241: a served access of a station's window, or its answer, as a control packet of TYPE `type`. -/
def State.overMesh (s : State) (o size type : Nat) : State :=
  match windowStation o with
  | some st => if stationOk st && accessOk o size then s.emit (.access st (accessHeader st type)) else s
  | none => s

def State.answerRead (s : State) (o size : Nat) : State :=
  let (v, s) := (s.overMesh o size 2).readBar0 o size
  s.emit (.readData v false)

/-- R138, R456: a read is answered, or waits for the end of its station's fill. (DEDUCED, log entry 102)
(DEDUCED, log entry 103) -/
def State.readRegister (s : State) (o size : Nat) : State :=
  if s.cxlServed = false then s
  else
    let s := s.overMesh o size 0
    if (windowStation o).any s.beingFilled then s.modHost fun h => { h with reads := h.reads ++ [(o, size)] }
    else s.answerRead o size

/-- Reads whose station's fill has ended are answered, in order. -/
def State.serveReads (s : State) : State :=
  let due := s.host.reads.filter fun r => !(windowStation r.1).any s.beingFilled
  if due = [] then s
  else
    let s := s.modHost fun h => { h with reads := h.reads.filter fun r => !due.contains r }
    s.forAll due fun s r => s.answerRead r.1 r.2

/-! ### Ports (R364, R365, R392) -/

/-- ENABLE 0 makes the port DISABLED; ENABLE 1 trains a disabled port. -/
def State.portEnable (s : State) (p : Nat) (on : Bool) : State :=
  if on then
    let s := s.modPort p fun x => { x with enable := true }
    if (s.port p).state = .disabled then s.startTraining p else s
  else
    let s := if (s.port p).state = .up then (s.modPort p fun x => { x with state := .disabled }).requeue p else s
    s.modPort p fun x => { x.cleared with enable := false, retrain := false, state := .disabled, phase := 0 }

/-- RETRAIN starts training at T1, and reads 1 until it ends; a port that is not enabled stays DISABLED (DEDUCED, log entry 51). -/
def State.portRetrain (s : State) (p : Nat) : State :=
  if (s.port p).enable then (s.startTraining p).modPort p fun x => { x with retrain := true } else s

/-- R392: a write of MLV_PORT_CTRL from the holder of the owning Keeper's lease. -/
def State.portCtrl (s : State) (src : Source) (p : Nat) (f : State → State) : State :=
  if s.cxlServed = false ∨ s.portPresent p = false ∨ (s.boot.mode = 2) then s
  else if s.holds src (8 + p / 8) then f s
  else s.refuseLease

/-! ### Writes (R15, R456, R473) -/

/-- A field of an RW register: the written bits replace the old ones (`m` masks the bytes written). -/
def merge (old m v : Nat) : Nat := (old &&& (m ^^^ (2 ^ 64 - 1))) ||| v

/-- A write that a lease guards: ignored, and counted, from another master. -/
def State.guarded (s : State) (ok : Bool) (f : State → State) : State := if ok then f s else s.refuseLease

/-- W1C: a bit stays unless a one is written to it. -/
def keepBit (old : Bool) (v i : Nat) : Bool := old && !bit v i

/-- Places below 0x0002_0000. (DEDUCED, log entry 138) -/
def State.writeModule (s : State) (src : Source) (o m v : Nat) : State :=
  if o = 0x2000 then
    s.guarded (s.holdsEvery src (List.range 16)) fun s => s.modRecov fun r =>
      { r with unrecoverable := keepBit r.unrecoverable v 5, takeoverBlocked := keepBit r.takeoverBlocked v 6 }
  else if o = 0x2200 then
    s.guarded (s.holds src s.recov.replayPart) fun s => s.modRecov fun r => { r with replayMismatch := keepBit r.replayMismatch v 42 }
  else if o = 0x3010 then s.modHost fun h => { h with lostEvents := keepBit h.lostEvents v 5 }
  else if 0x10000 ≤ o ∧ o < 0x10400 then
    if bit m 0 = false then s
    else if o % 16 = 0 then s.sqTail ((o - 0x10000) / 16) (bits v 11 0)
    else s.cqHead ((o - 0x10000) / 16) (bits v 11 0)
  else if 0x14000 ≤ o ∧ o < 0x15000 then
    if bit m 0 then s.dqDoorbell ((o - 0x14000) / 512) ((o - 0x14000) / 8 % 64) (bits v 15 0) else s
  else if 0x12000 ≤ o ∧ o < 0x12800 then
    let q := (o - 0x12000) / 32
    let base (old : BitVec 64) : BitVec 64 := BitVec.ofNat 64 (merge old.toNat m v / 64 * 64)
    match (o % 32) / 8 with
    | 0 => if q = 0 ∧ (s.ring 0).enable = false then s.modRing 0 fun r => { r with sqb := base r.sqb } else s
    | 1 => if q = 0 ∧ (s.ring 0).enable = false then s.modRing 0 fun r => { r with cqb := base r.cqb } else s
    | 2 => if q = 0 ∧ bit m 0 = true then s.ringCtl0 v else s
    | _ => s.modRing q fun r => { r with err := keepBit r.err v 26 }
  else s

/-- Places of a field's window (R260, R279, R416). -/
def State.writeField (s : State) (src : Source) (f o m v : Nat) : State :=
  if o = 0x100 then s.modField f fun x => { x with treeHalt := keepBit x.treeHalt v 25 }
  else if o = 0x200 then s.modField f fun x => { x with unrecoverable := keepBit x.unrecoverable v 17 }
  else if o = 0x210 then
    s.guarded (s.holds src (s.fieldLease f)) fun s => s.modField f fun x =>
      let n := merge x.storeCtrl m v
      { x with scrubEn := bit n 0, scrubPeriod := BitVec.ofNat 3 (bits n 3 1) }
  else if o = 0x300 then
    s.modField f fun x =>
      { x with
        rollback := keepBit x.rollback v 22, overrun := keepBit x.overrun v 23, exhausted := keepBit x.exhausted v 24
        logOverflow := keepBit x.logOverflow v 25 }
  else s

/-- Places of a station's window (R70, R107, R133, R159). A bit of CORE_FLOCK_STATUS that a fault of the same cycle has set stays set
(R132). -/
def State.writeStation (s : State) (st o m v : Nat) : State :=
  if stationOk st = false then s
  else if o = 0x40 then s.modStation st fun y => { y with core := { y.core with flags := y.core.flags.clearConv v } }
  else if o = 0x48 then s.modStation st fun y => { y with core := { y.core with flags := y.core.flags.clearAcc v } }
  else if o = 0x50 then
    s.modStation st fun y =>
      let now : BitVec 16 := if s.sameCycle st y.lambFaultAt then y.lambFaultNow else 0
      { y with
        lambFault := (y.lambFault &&& ~~~(BitVec.ofNat 16 (bits v 47 32))) ||| now
        flockAbort := keepBit y.flockAbort v 48 || (y.flockAbort && s.sameCycle st y.wholeFaultAt) }
  else if o = 0x60 then
    s.modStation st fun y =>
      let n := merge (y.streamSel.toNat + 65536 * b2n y.streamDir) m v
      { y with streamSel := BitVec.ofNat 16 (bits n 15 0), streamDir := bit n 16 }
  else if o = 0x68 then
    if bit (s.streamStatus st) 58 = false then s
    else s.modStation st fun y =>
      let clear (m : Sparse StreamEnd) : Sparse StreamEnd := smod {} m y.streamSel.toNat fun e => { e with dup := keepBit e.dup v 59 }
      { y with core := if y.streamDir then { y.core with outb := clear y.core.outb } else { y.core with inb := clear y.core.inb } }
  else s

/-- Places of a stack's window (R298). A control write with a reserved bit set is refused as a regulator's is (R297).
(DEDUCED, log entry 139) -/
def State.writeStack (s : State) (src : Source) (stk o m v : Nat) : State :=
  if s.stackPresent stk = false then s
  else if o = 0 then s.modStack stk fun x => { x with regReject := keepBit x.regReject v 12 }
  else if o = 8 then
    s.guarded (s.holds src (8 + stk / 4)) fun s => (s.refill stk).modStack stk fun x =>
      let n := merge x.ctrl m v
      if 2 ^ 12 ≤ n then { x with regReject := true }
      else { x with scrubEn := bit n 0, scrubPeriod := BitVec.ofNat 3 (bits n 3 1), hostCeiling := BitVec.ofNat 8 (bits n 11 4) }
  else if 0x100 ≤ o ∧ o < 0x180 ∧ o % 16 = 0 then
    let p := (o - 0x100) / 16
    s.regCfg src stk p (merge ((s.stack stk).reg p).cfg m v)
  else s

/-- Places of a Keeper's window (R309). -/
def State.writeKpr (s : State) (src : Source) (k o v : Nat) : State :=
  if o = 0x200 then s.guarded (s.holds src (8 + k)) fun s => s.modKpr k fun y => { y with seqErr := keepBit y.seqErr v 6 }
  else if 0x400 ≤ o ∧ o < 0x500 ∧ o % 32 = 0 then
    s.guarded (s.holds src (8 + k)) fun s => s.modKpart k ((o - 0x400) / 32) fun y =>
      { y with wbNonfinite := keepBit y.wbNonfinite v 44, rolledBack := keepBit y.rolledBack v 45 }
  else s

/-- Clock, lifetime and identity places (R502, R543). -/
def State.writeSystem (s : State) (src : Source) (o m v : Nat) : State :=
  let power := s.holds src 16
  if o = 0x3380000 then s.guarded power fun s => { s with clk := { s.clk with refLost := keepBit s.clk.refLost v 1 } }
  else if o = 0x3410000 then
    s.guarded power fun s => s.modLife fun l =>
      let n := merge (b2n l.autoQuiet + 2 * b2n l.calHold + 4 * b2n l.rotateEn) m v
      { l with autoQuiet := bit n 0, calHold := bit n 1, rotateEn := bit n 2 }
  else if o = 0x3410008 then s.guarded power fun s => s.modLife fun l => { l with writeFail := keepBit l.writeFail v 48 }
  else if o = 0x35F0010 then
    s.guarded (s.holds src 17) fun s => s.modLife fun l => { l with attEn := bit (merge (b2n l.attEn * 2 ^ 17) m v) 17 }
  else s

/-- A write of the bytes that `m` masks, of the place at `o`, a multiple of 8. -/
def State.writePlace (s : State) (src : Source) (o m v : Nat) : State :=
  if s.boot.mode = 2 ∧ recoveryServes o = false then s
  else if o < 0x20000 then s.writeModule src o m v
  else if 0x1000000 ≤ o ∧ o < 0x1400000 then s.writeField src ((o - 0x1000000) / 0x10000) (o % 0x10000) m v
  else if 0x2000000 ≤ o ∧ o < 0x3000000 then s.writeStation ((o - 0x2000000) / 256) (o % 256) m v
  else if 0x3000000 ≤ o ∧ o < 0x3020000 then s.writeStack src ((o - 0x3000000) / 0x1000) (o % 0x1000) m v
  else if o = 0x3020000 then (if bit v 43 then s.clearAbsent else s)
  else if 0x3100000 ≤ o ∧ o < 0x3180000 then s.writeKpr src ((o - 0x3100000) / 0x10000) (o % 0x10000) v
  else if 0x3200000 ≤ o ∧ o < 0x3204000 ∧ o % 256 = 16 then
    if bit m 0 = false then s
    else
      let p := (o - 0x3200000) / 256
      s.portCtrl src p fun s =>
        let s := if bit v 0 = (s.port p).enable then s else s.portEnable p (bit v 0)
        if bit v 1 then s.portRetrain p else s
  else if o = 0x3240008 then
    s.modMlv fun x =>
      let n := merge (x.ctxSel.toNat + 4096 * x.classSel.toNat) m v
      { x with ctxSel := BitVec.ofNat 12 (bits n 11 0), classSel := BitVec.ofNat 3 (bits n 14 12) }
  else s.writeSystem src o m v

/-- R456: a write of 4 or 8 aligned bytes; any other is discarded and counts in BAD_ACCESS. -/
def State.writeRegister (s : State) (src : Source) (offset size : Nat) (v : Nat) : State :=
  if s.cxlServed = false then s
  else if accessOk offset size then
    let lo := 8 * (offset % 8)
    ((s.overMesh offset size 1).writePlace src (offset - offset % 8) ((2 ^ (8 * size) - 1) <<< lo)
      ((v % 2 ^ (8 * size)) <<< lo)).overMesh offset size 3
  else s.modArb fun a => { a with badAccess := satAdd 8 a.badAccess 1 }

/-! ### The idle tick -/

/-- What a step does on an empty queue (DESIGN CHOICE, log entry 9): 120 periods of the 7.2 GHz root clock pass, reads whose fill has ended
are answered, and the management port announces the oldest event queued for it (R523, R525). -/
def idleTick (s : State) : State :=
  let s := { s with clk := { s.clk with rootTime := s.clk.rootTime + 120 } }.serveReads
  match s.mgmt.queue with
  | [] => s
  | c :: rest => (s.emit (.mgmtCompletion 0 c)).modMgmt fun m => { m with queue := rest }

/-! ### Meanings -/

def execRegisterWrite (src : Source) (offset size : Nat) (value : BitVec 64) (s : State) : Host.Outcome State Fault Refusal :=
  .next (s.writeRegister src offset size value.toNat)

def execRegisterReadClear (_src : Source) (offset size : Nat) (s : State) : Host.Outcome State Fault Refusal :=
  .next (s.readRegister offset size)

def execStationWindowRead (st offset : Nat) (s : State) : Host.Outcome State Fault Refusal :=
  .next (if st < 65536 ∧ offset < 256 then s.readRegister (0x2000000 + 256 * st + offset / 8 * 8) 8 else s)

def execMlvPortEnable (src : Source) (port : Nat) (enable : Bool) (s : State) : Host.Outcome State Fault Refusal :=
  .next (s.portCtrl src port fun s => s.portEnable port enable)

def execRetrain (src : Source) (port : Nat) (s : State) : Host.Outcome State Fault Refusal :=
  .next (s.portCtrl src port fun s => s.portRetrain port)

/-- A fill ends, and with it the wait of a read of its station (R138). -/
def execFillComplete (f : Nat) (s : State) : Host.Outcome State Fault Refusal := .next (s.fillComplete f).serveReads

end Sys2Proof.Machine
end

