-- ==== Sys2Proof/Machine/Dispatch.lean ====
section
/-! DEFINITION. The meaning of every command: one arm per row of the opcode table, each one direct call. -/

namespace Sys2Proof.Machine

def exec (i : Instr) (s : State) : Host.Outcome State Fault Refusal :=
  match i with
  | .nop c => Sys2Proof.Machine.execNop c s
  | .attach c => Sys2Proof.Machine.execAttach c s
  | .setId c => Sys2Proof.Machine.execSetId c s
  | .ringCreate c => Sys2Proof.Machine.execRingCreate c s
  | .ringDelete c => Sys2Proof.Machine.execRingDelete c s
  | .leaseTake c => Sys2Proof.Machine.execLeaseTake c s
  | .leaseRelease c => Sys2Proof.Machine.execLeaseRelease c s
  | .reset c => Sys2Proof.Machine.execReset c s
  | .eventConfig c => Sys2Proof.Machine.execEventConfig c s
  | .partCreate c => Sys2Proof.Machine.execPartCreate c s
  | .partDissolve c => Sys2Proof.Machine.execPartDissolve c s
  | .planLoad c => Sys2Proof.Machine.execPlanLoad c s
  | .tableLoad c => Sys2Proof.Machine.execTableLoad c s
  | .ctxOpen c => Sys2Proof.Machine.execCtxOpen c s
  | .ctxClose c => Sys2Proof.Machine.execCtxClose c s
  | .dqCreate c => Sys2Proof.Machine.execDqCreate c s
  | .dqDelete c => Sys2Proof.Machine.execDqDelete c s
  | .storeWrite c => Sys2Proof.Machine.execStoreWrite c s
  | .storeRead c => Sys2Proof.Machine.execStoreRead c s
  | .stepBegin c => Sys2Proof.Machine.execStepBegin c s
  | .evalOpen c => Sys2Proof.Machine.execEvalOpen c s
  | .evalClose c => Sys2Proof.Machine.execEvalClose c s
  | .skipStep c => Sys2Proof.Machine.execSkipStep c s
  | .replay c => Sys2Proof.Machine.execReplay c s
  | .commitResume c => Sys2Proof.Machine.execCommitResume c s
  | .pageLoad c => Sys2Proof.Machine.execPageLoad c s
  | .pageRead c => Sys2Proof.Machine.execPageRead c s
  | .scaleRead c => Sys2Proof.Machine.execScaleRead c s
  | .scaleWrite c => Sys2Proof.Machine.execScaleWrite c s
  | .tierEvict c => Sys2Proof.Machine.execTierEvict c s
  | .tierFetch c => Sys2Proof.Machine.execTierFetch c s
  | .moduleFence c => Sys2Proof.Machine.execModuleFence c s
  | .spareAdmit c => Sys2Proof.Machine.execSpareAdmit c s
  | .spareConfig c => Sys2Proof.Machine.execSpareConfig c s
  | .spareRelease c => Sys2Proof.Machine.execSpareRelease c s
  | .diagReplay c => Sys2Proof.Machine.execDiagReplay c s
  | .powerGrants c => Sys2Proof.Machine.execPowerGrants c s
  | .halfClock c => Sys2Proof.Machine.execHalfClock c s
  | .fieldPower c => Sys2Proof.Machine.execFieldPower c s
  | .thermalLimits c => Sys2Proof.Machine.execThermalLimits c s
  | .telemetryConfig c => Sys2Proof.Machine.execTelemetryConfig c s
  | .snapshot c => Sys2Proof.Machine.execSnapshot c s
  | .lifeRead c => Sys2Proof.Machine.execLifeRead c s
  | .attest c => Sys2Proof.Machine.execAttest c s
  | .fwUpdate c => Sys2Proof.Machine.execFwUpdate c s
  | .idRead c => Sys2Proof.Machine.execIdRead c s
  | .commandFetch q entry data => Sys2Proof.Machine.execCommandFetch q entry data s
  | .arbitrationCycle => Sys2Proof.Machine.execArbitrationCycle s
  | .finalCompletionPost q => Sys2Proof.Machine.execFinalCompletionPost q s
  | .commandTimeout csn => Sys2Proof.Machine.execCommandTimeout csn s
  | .cxlSqTail q value => Sys2Proof.Machine.execCxlSqTail q value s
  | .cxlCqHead q value => Sys2Proof.Machine.execCxlCqHead q value s
  | .cxlRingCtl0Write value => Sys2Proof.Machine.execCxlRingCtl0Write value s
  | .cxlDqDb p q value => Sys2Proof.Machine.execCxlDqDb p q value s
  | .dqInputTile p q tile => Sys2Proof.Machine.execDqInputTile p q tile s
  | .dqOutputTile p q tile => Sys2Proof.Machine.execDqOutputTile p q tile s
  | .cxlLinkReset => Sys2Proof.Machine.execCxlLinkReset s
  | .hostMemRead addr len => Sys2Proof.Machine.execHostMemRead addr len s
  | .hostMemWrite addr data => Sys2Proof.Machine.execHostMemWrite addr data s
  | .registerWrite src offset size value => Sys2Proof.Machine.execRegisterWrite src offset size value s
  | .registerReadClear src offset size => Sys2Proof.Machine.execRegisterReadClear src offset size s
  | .hbmRegCfgWrite src stk p value => Sys2Proof.Machine.execHbmRegCfgWrite src stk p value s
  | .fldFaultLogRead f => Sys2Proof.Machine.execFldFaultLogRead f s
  | .stationWindowRead st offset => Sys2Proof.Machine.execStationWindowRead st offset s
  | .mlvPortEnable src port enable => Sys2Proof.Machine.execMlvPortEnable src port enable s
  | .retrain src port => Sys2Proof.Machine.execRetrain src port s
  | .computeStart p => Sys2Proof.Machine.execComputeStart p s
  | .evalStaged p => Sys2Proof.Machine.execEvalStaged p s
  | .evalCloseDone p => Sys2Proof.Machine.execEvalCloseDone p s
  | .stepFence p => Sys2Proof.Machine.execStepFence p s
  | .opFetch st => Sys2Proof.Machine.execOpFetch st s
  | .tmul st id => Sys2Proof.Machine.execTmul st id s
  | .tmulYield st id block => Sys2Proof.Machine.execTmulYield st id block s
  | .tmulResume st id => Sys2Proof.Machine.execTmulResume st id s
  | .promotion st id => Sys2Proof.Machine.execPromotion st id s
  | .tepi st id => Sys2Proof.Machine.execTepi st id s
  | .tload st id => Sys2Proof.Machine.execTload st id s
  | .tstore st id => Sys2Proof.Machine.execTstore st id s
  | .tsend st id => Sys2Proof.Machine.execTsend st id s
  | .trecv st id => Sys2Proof.Machine.execTrecv st id s
  | .tvec st id => Sys2Proof.Machine.execTvec st id s
  | .tfun st id => Sys2Proof.Machine.execTfun st id s
  | .tacc st id => Sys2Proof.Machine.execTacc st id s
  | .tscale st id => Sys2Proof.Machine.execTscale st id s
  | .tfence st id => Sys2Proof.Machine.execTfence st id s
  | .tpip st id => Sys2Proof.Machine.execTpip st id s
  | .opRetire st id => Sys2Proof.Machine.execOpRetire st id s
  | .interimShadow st => Sys2Proof.Machine.execInterimShadow st s
  | .shadowComplete st => Sys2Proof.Machine.execShadowComplete st s
  | .watchdog st id => Sys2Proof.Machine.execWatchdog st id s
  | .streamTile st stream seq data => Sys2Proof.Machine.execStreamTile st stream seq data s
  | .creditReturn st stream dest n => Sys2Proof.Machine.execCreditReturn st stream dest n s
  | .bankReadRequest owner requester region tiles => Sys2Proof.Machine.execBankReadRequest owner requester region tiles s
  | .mergeWindowClose owner region tile => Sys2Proof.Machine.execMergeWindowClose owner region tile s
  | .bankReadResponse st owner region tile data => Sys2Proof.Machine.execBankReadResponse st owner region tile data s
  | .arrayFaultLamb st lamb => Sys2Proof.Machine.execArrayFaultLamb st lamb s
  | .arrayFaultWhole st => Sys2Proof.Machine.execArrayFaultWhole st s
  | .syncPost node member head value => Sys2Proof.Machine.execSyncPost node member head value s
  | .syncResult node head value => Sys2Proof.Machine.execSyncResult node head value s
  | .heartbeatPost st => Sys2Proof.Machine.execHeartbeatPost st s
  | .heartbeatMissing st => Sys2Proof.Machine.execHeartbeatMissing st s
  | .routerPacket bulk gx gy port header escape flits bad => Sys2Proof.Machine.execRouterPacket bulk gx gy port header escape flits bad s
  | .linkSteerResume bulk gx gy port => Sys2Proof.Machine.execLinkSteerResume bulk gx gy port s
  | .checkFlit bulk gx gy port ok => Sys2Proof.Machine.execCheckFlit bulk gx gy port ok s
  | .truncationFlit gx gy port => Sys2Proof.Machine.execTruncationFlit gx gy port s
  | .reductionContribution p tree site input seq micro offset data => Sys2Proof.Machine.execReductionContribution p tree site input seq micro offset data s
  | .remapUpdate st value => Sys2Proof.Machine.execRemapUpdate st value s
  | .fillTransfer st offset data => Sys2Proof.Machine.execFillTransfer st offset data s
  | .stationErrorReport st report => Sys2Proof.Machine.execStationErrorReport st report s
  | .fillComplete f => Sys2Proof.Machine.execFillComplete f s
  | .routerFaultReport st => Sys2Proof.Machine.execRouterFaultReport st s
  | .fieldReady f => Sys2Proof.Machine.execFieldReady f s
  | .refreshBurst f prow pcol => Sys2Proof.Machine.execRefreshBurst f prow pcol s
  | .storeBandFall f => Sys2Proof.Machine.execStoreBandFall f s
  | .storeCorrectWriteback f prow pcol word => Sys2Proof.Machine.execStoreCorrectWriteback f prow pcol word s
  | .scrubBlock f prow pcol fixed bad => Sys2Proof.Machine.execScrubBlock f prow pcol fixed bad s
  | .scrubOverdue f prow pcol fixed bad => Sys2Proof.Machine.execScrubOverdue f prow pcol fixed bad s
  | .wordRecovery f prow pcol word => Sys2Proof.Machine.execWordRecovery f prow pcol word s
  | .migrationCopyDone f copy => Sys2Proof.Machine.execMigrationCopyDone f copy s
  | .bankControllerFault f b => Sys2Proof.Machine.execBankControllerFault f b s
  | .sensorRead readings => Sys2Proof.Machine.execSensorRead readings s
  | .hbmRefreshModeFall stk => Sys2Proof.Machine.execHbmRefreshModeFall stk s
  | .hbmIssueSlot slot requests fixed bad => Sys2Proof.Machine.execHbmIssueSlot slot requests fixed bad s
  | .hbmScrubBurst stk fixed bad => Sys2Proof.Machine.execHbmScrubBurst stk fixed bad s
  | .slowFetchComplete k p page comp data => Sys2Proof.Machine.execSlowFetchComplete k p page comp data s
  | .evictComplete k p page comp => Sys2Proof.Machine.execEvictComplete k p page comp s
  | .uioTimeout t request => Sys2Proof.Machine.execUioTimeout t request s
  | .bucketTile k p bucket stream seq data => Sys2Proof.Machine.execBucketTile k p bucket stream seq data s
  | .bucketAdmit k p => Sys2Proof.Machine.execBucketAdmit k p s
  | .sliceAcknowledged k p bucket page => Sys2Proof.Machine.execSliceAcknowledged k p bucket page s
  | .parkWriteDone k p bucket => Sys2Proof.Machine.execParkWriteDone k p bucket s
  | .pageReduced k p page => Sys2Proof.Machine.execPageReduced k p page s
  | .pageCommit k p page => Sys2Proof.Machine.execPageCommit k p page s
  | .rollbackDone p => Sys2Proof.Machine.execRollbackDone p s
  | .trainingPhaseDone port => Sys2Proof.Machine.execTrainingPhaseDone port s
  | .trainingTimeout port => Sys2Proof.Machine.execTrainingTimeout port s
  | .downRetrain port => Sys2Proof.Machine.execDownRetrain port s
  | .live port word => Sys2Proof.Machine.execLive port word s
  | .lack port word => Sys2Proof.Machine.execLack port word s
  | .lnak port word => Sys2Proof.Machine.execLnak port word s
  | .lcredit port word => Sys2Proof.Machine.execLcredit port word s
  | .liveSend port => Sys2Proof.Machine.execLiveSend port s
  | .lackSend port => Sys2Proof.Machine.execLackSend port s
  | .cellReceive port symbols correctable frame => Sys2Proof.Machine.execCellReceive port symbols correctable frame s
  | .portDown port => Sys2Proof.Machine.execPortDown port s
  | .portStall port => Sys2Proof.Machine.execPortStall port s
  | .stallRetrain port => Sys2Proof.Machine.execStallRetrain port s
  | .hello ctx incarnation partnerCtx => Sys2Proof.Machine.execHello ctx incarnation partnerCtx s
  | .helloSend ctx => Sys2Proof.Machine.execHelloSend ctx s
  | .ackSend ctx cls => Sys2Proof.Machine.execAckSend ctx cls s
  | .cellResend ctx cls seq port => Sys2Proof.Machine.execCellResend ctx cls seq port s
  | .contextLost ctx cls => Sys2Proof.Machine.execContextLost ctx cls s
  | .watchNull ctx => Sys2Proof.Machine.execWatchNull ctx s
  | .watchLost ctx => Sys2Proof.Machine.execWatchLost ctx s
  | .sliceHead ctx head data => Sys2Proof.Machine.execSliceHead ctx head data s
  | .pageHead ctx head data => Sys2Proof.Machine.execPageHead ctx head data s
  | .amax ctx head => Sys2Proof.Machine.execAmax ctx head s
  | .amaxReport st k tensor value => Sys2Proof.Machine.execAmaxReport st k tensor value s
  | .pageReq ctx head => Sys2Proof.Machine.execPageReq ctx head s
  | .sliceReq ctx head => Sys2Proof.Machine.execSliceReq ctx head s
  | .peerCmd ctx seq entry => Sys2Proof.Machine.execPeerCmd ctx seq entry s
  | .peerCpl ctx head => Sys2Proof.Machine.execPeerCpl ctx head s
  | .sumUp ctx head data => Sys2Proof.Machine.execSumUp ctx head data s
  | .sumDown ctx head => Sys2Proof.Machine.execSumDown ctx head s
  | .huskGrad ctx head data => Sys2Proof.Machine.execHuskGrad ctx head data s
  | .huskNull ctx head => Sys2Proof.Machine.execHuskNull ctx head s
  | .huskSched ctx head data => Sys2Proof.Machine.execHuskSched ctx head data s
  | .huskProg ctx head => Sys2Proof.Machine.execHuskProg ctx head s
  | .huskPull ctx head => Sys2Proof.Machine.execHuskPull ctx head s
  | .huskPage ctx head data => Sys2Proof.Machine.execHuskPage ctx head data s
  | .huskCmp ctx head => Sys2Proof.Machine.execHuskCmp ctx head s
  | .huskEnd ctx head => Sys2Proof.Machine.execHuskEnd ctx head s
  | .admitWaitExpiry id => Sys2Proof.Machine.execAdmitWaitExpiry id s
  | .takeoverBlocked => Sys2Proof.Machine.execTakeoverBlocked s
  | .attReq ctx head => Sys2Proof.Machine.execAttReq ctx head s
  | .mgmtCommand tag entry => Sys2Proof.Machine.execMgmtCommand tag entry s
  | .mgmtDataIn tag data => Sys2Proof.Machine.execMgmtDataIn tag data s
  | .mgmtPortReset => Sys2Proof.Machine.execMgmtPortReset s
  | .refLoss => Sys2Proof.Machine.execRefLoss s
  | .pllLockLoss => Sys2Proof.Machine.execPllLockLoss s
  | .supplyUndervoltage a b => Sys2Proof.Machine.execSupplyUndervoltage a b s
  | .supplyOvervoltage a b => Sys2Proof.Machine.execSupplyOvervoltage a b s
  | .uvloRestart a b => Sys2Proof.Machine.execUvloRestart a b s
  | .pairLost pair volts => Sys2Proof.Machine.execPairLost pair volts s
  | .clipAssert amps => Sys2Proof.Machine.execClipAssert amps s
  | .clipRelease amps => Sys2Proof.Machine.execClipRelease amps s
  | .efuseTrip region => Sys2Proof.Machine.execEfuseTrip region s
  | .powerEvaluation measures powers => Sys2Proof.Machine.execPowerEvaluation measures powers s
  | .issueGateSample region power => Sys2Proof.Machine.execIssueGateSample region power s
  | .thermalCapStep region => Sys2Proof.Machine.execThermalCapStep region s
  | .thermalStageExit region => Sys2Proof.Machine.execThermalStageExit region s
  | .thermalDividerStep east => Sys2Proof.Machine.execThermalDividerStep east s
  | .coolantFault flow outWafer outCarrier => Sys2Proof.Machine.execCoolantFault flow outWafer outCarrier s
  | .powerUp a b => Sys2Proof.Machine.execPowerUp a b s
  | .bringupStageTimeout unit => Sys2Proof.Machine.execBringupStageTimeout unit s
  | .bringupReady flashOk ms failed => Sys2Proof.Machine.execBringupReady flashOk ms failed s
  | .cpWatchdog => Sys2Proof.Machine.execCpWatchdog s
  | .fwProgramDone success => Sys2Proof.Machine.execFwProgramDone success s
  | .enableDeassert => Sys2Proof.Machine.execEnableDeassert s
  | .telemetrySample place => Sys2Proof.Machine.execTelemetrySample place s
  | .snapshotAssembly hostBusy mgmtBusy => Sys2Proof.Machine.execSnapshotAssembly hostBusy mgmtBusy s
  | .sensorCalibration sensor => Sys2Proof.Machine.execSensorCalibration sensor s
  | .wearAccumulate f centiamps => Sys2Proof.Machine.execWearAccumulate f centiamps s
  | .counterSetWrite ok => Sys2Proof.Machine.execCounterSetWrite ok s
  | .slowTierPerst t => Sys2Proof.Machine.execSlowTierPerst t s
  | .planLoadDone csn image => Sys2Proof.Machine.execPlanLoadDone csn image s
  | .pageLoadDone csn data => Sys2Proof.Machine.execPageLoadDone csn data s
  | .pageReadDone csn => Sys2Proof.Machine.execPageReadDone csn s
  | .storeWriteDone csn data => Sys2Proof.Machine.execStoreWriteDone csn data s
  | .storeReadDone csn => Sys2Proof.Machine.execStoreReadDone csn s
  | .spareConfigDone csn images => Sys2Proof.Machine.execSpareConfigDone csn images s
  | .diagReplayEnd csn => Sys2Proof.Machine.execDiagReplayEnd csn s
  | .fwImageHeld image => Sys2Proof.Machine.execFwImageHeld image s
  | .refRestored => Sys2Proof.Machine.execRefRestored s
  | .pairRestored pair volts => Sys2Proof.Machine.execPairRestored pair volts s
  | .marginalBandChange a b => Sys2Proof.Machine.execMarginalBandChange a b s
  | .keeperFailure k => Sys2Proof.Machine.execKeeperFailure k s
  | .fieldControllerFailure f banksIntact => Sys2Proof.Machine.execFieldControllerFailure f banksIntact s
  | .hbmRefresh stk => Sys2Proof.Machine.execHbmRefresh stk s
  | .slowTierLinkUp t width speed => Sys2Proof.Machine.execSlowTierLinkUp t width speed s
  | .reopenTimeout ctx => Sys2Proof.Machine.execReopenTimeout ctx s

end Sys2Proof.Machine
end

