-- ==== Sys2Proof/Safety.lean ====
section
/-! DEFINITION. The terms in which claims about the block are stated: that a command is carried out and what holds then,
that a command passes the checks of R463, and the invariants of a run. -/

namespace Sys2Proof.Machine

/-- The command is carried out in `s`, and `P` holds of the state after it. -/
def Answers (i : Instr) (s : State) (P : State → Prop) : Prop := ∃ t, exec i s = .next t ∧ P t

/-- R463: a packet reaches the arbiter: its source brings it, it repeats no accepted command, the port has a place for it, and
checks 1 to 7 pass. -/
def Admitted (op : Nat) (c : Packet) (s : State) : Prop :=
  s.canBring c = true ∧ s.repeated c = none ∧ (c.src = .mgmt → s.mgmt.outstanding < 8)
    ∧ (s.enter c).precheck ⟨op, c⟩ = 0

/-- The state in which an admitted command is carried out: its slot is taken, and its CSN is the last assigned (R470). -/
def State.began (s : State) (c : Packet) : State := (s.enter c).modArb fun a => { a with lastCsn := (s.enter c).nextCsn }

/-- A command of a row of the catalogue is admitted, and its preconditions (checks 9 and 10) hold. -/
def Passes (r : CatRow) (c : Packet) (s : State) : Prop := Admitted r.opcode c s ∧ (r.pre (s.began c) c).status = 0

/-- The CSN of the next command carried out. -/
def State.csnOf (s : State) (c : Packet) : Nat := (s.enter c).nextCsn

/-- R172 to R174, R408: entry `id` of a station of partition `p` is operation `e` of code `code`, and may issue; its step is not
being rolled back. -/
def Issues (s : State) (st id code p : Nat) (e : OpEntry) : Prop :=
  s.stPart st = some p ∧ (s.station st).core.entry id = some e ∧ opCode e.op.toNat = code ∧ s.mayIssue p st e = true
    ∧ (s.part p).stopping = false

/-- The operation runs when it issues: R146 does not skip it, no own-bank word that it reads is bad, and every tile of a
remote bank has arrived. -/
def Runs (s : State) (st id code p : Nat) (e : OpEntry) : Prop :=
  let probe := (s.station st).core.probe
  Issues s st id code p e ∧ (s.part p).skips st probe e = false ∧ s.readsBad p st probe e = false
    ∧ (s.station st).arrived e ((s.part p).remoteTiles st probe e) = true

/-- The station with the operation marked issued, the flags of a new step cleared (R69). -/
def State.issuing (s : State) (st id : Nat) (e : OpEntry) : State :=
  (s.beginOp st e).modCore st fun c => c.modEntry id fun e => { e with issued := true }

/-- The memories of the module are in canonical form: store words and HBM bytes. -/
def State.memoryWf (s : State) : Bool := sparseWf 0 s.store && sparseWf 0 s.hbm.mem

end Sys2Proof.Machine
end

