-- ==== Sys2Proof/Certificates/Slice0/Obligations.lean ====
section
/-! DEFINITION. The statements about the block, for the provers: what each command does, by family, and the invariants of a
run. A statement gives the state that `exec` answers; what it does not name is unchanged. -/

open Sys2Proof Sys2Proof.Machine

/-- A step carries out the command at the front of the queue with the queue's rest, and on an empty queue one idle tick
passes. A step on a nonempty queue carries out its front with the queue's rest; on an empty one the block idles for one tick.
The queue and the idle tick are the model's (log entries 9 and 14). -/
def Obligations.StepRunsFront : Prop :=
  (∀ (c : Instr) (s : State), step { s with pending := c :: s.pending } = exec c s)
    ∧ ∀ s : State, s.pending = [] → step s = .next (idleTick s)

/-- Doorbells and the control register of the rings. R457 to R459: CXL_SQ_TAIL and CXL_CQ_HEAD complete on a ready module: on
an enabled ring an index below the ring size becomes SQ_TAIL or CQ_HEAD, one not below it sets ERR; on a disabled ring they
have no effect. R459: CXL_RING_CTL0_WRITE completes on a ready module: ring 0 is enabled by one write with its SIZE and
VECTOR and starts empty, but for the completions that wait for it (R466); a SIZE outside 4 to 12 sets ERR; while ENABLE reads
1 a write changes ENABLE alone. That a head past CQ_TAIL is ignored is the model's choice (log entry 48). -/
def Obligations.RingRegisters : Prop :=
  (∀ (s : State) (q : Nat) (v : BitVec 32), s.boot.stage = .ready → q < 64 →
     let n := bits v.toNat 11 0
     let r := s.ring q
     (r.enable = true → n < 2 ^ r.size → exec (.cxlSqTail q v) s = .next (s.modRing q fun r => { r with sqTail := n }))
       ∧ (r.enable = true → r.cqHead < 2 ^ r.size → n < 2 ^ r.size → (n + 2 ^ r.size - r.cqHead) % 2 ^ r.size ≤ r.used →
           exec (.cxlCqHead q v) s = .next (s.modRing q fun r => { r with cqHead := n }))
       ∧ (r.enable = true → 2 ^ r.size ≤ n →
           exec (.cxlSqTail q v) s = .next (s.modRing q fun r => { r with err := true })
             ∧ exec (.cxlCqHead q v) s = .next (s.modRing q fun r => { r with err := true }))
       ∧ (r.enable = false → exec (.cxlSqTail q v) s = .next s ∧ exec (.cxlCqHead q v) s = .next s))
  ∧ (∀ (s : State) (v : BitVec 32), s.boot.stage = .ready →
     let r := s.ring 0
     let size := bits v.toNat 4 1
     (r.enable = false → v.toNat.testBit 0 = true → 4 ≤ size → size ≤ 12 →
         exec (.cxlRingCtl0Write v) s = .next (s.modRing 0 fun r =>
           { enable := true, size := size, vector := bits v.toNat 10 5, sqb := r.sqb, cqb := r.cqb, err := r.err,
             finals := r.finals }))
       ∧ (r.enable = false → v.toNat.testBit 0 = true → (size < 4 ∨ 12 < size) →
           exec (.cxlRingCtl0Write v) s = .next (s.modRing 0 fun r =>
             { r with size := size, vector := bits v.toNat 10 5, err := true }))
       ∧ (r.enable = true →
           exec (.cxlRingCtl0Write v) s = .next (s.modRing 0 fun r => { r with enable := v.toNat.testBit 0 })))

/-- Commands are fetched or received, checked, presented, and arbitrated. R454, R457, R458, R463: the entry at SQ_HEAD is
fetched with RdCurr from the ring whose turn it is, the next enabled one that has an entry and room for its completion; it is
presented, its data read, where checks 1 to 7 pass, and else refused with their status in its reserved slot; out of its turn
no ring is fetched from. R470, R471: a command alone in its cycle takes the next CSN and is carried out; one that a later
command of another sender beats completes with 0x4001 and the winner's CSN, and has no other effect. R389, R472, R524, R525:
packets of peers and of the enclosure manager are presented where they pass checks 1 to 7; the port's ninth command completes
with 0x5002; a repeated peer command returns its original completion. The order and the settling of a cycle are those of log
entries 15 and 135. -/
def Obligations.Arbitration : Prop :=
  ((∀ (s : State) (q : Nat) (entry : BitVec 512) (data : List Byte),
     let c := cmdOf entry .host q 0 0 0 data
     let r := s.ring q
     let f := ((s.emit (.rdCurr (r.sqb.toNat + 64 * r.sqHead) 64)).modRing q fun r => { r with sqHead := (r.sqHead + 1) % 2 ^ r.size }).modHost
       fun h => { h with turn := q }
     let b := f.enter c.packet
     s.canBring c.packet = true → s.nextRing = some q →
       (b.precheck c = 0 →
           exec (.commandFetch q entry data) s
             = .next ((b.readBuffer c).modArb fun a => { a with presented := a.presented ++ [c] }))
         ∧ (b.precheck c ≠ 0 → exec (.commandFetch q entry data) s = .next (b.refuse c (b.precheck c))))
     ∧ ∀ (s : State) (q : Nat) (entry : BitVec 512) (data : List Byte), s.nextRing ≠ some q →
         exec (.commandFetch q entry data) s = .next s)
  ∧ ((∀ (s : State) (c : Cmd), s.boot.stage = .ready → s.arb.presented = [c] →
       exec .arbitrationCycle s
         = .next ((s.modArb fun a => { a with presented := [], lastCsn := s.nextCsn }).execute c s.nextCsn))
     ∧ ∀ (s : State) (m h : Cmd), s.boot.stage = .ready → s.arb.presented = [m, h] → m.packet.src = .mgmt →
         h.packet.src = .host → s.contradict m h = true → s.contradict h m = true → s.arb.lastCsn < 2 ^ 32 - 2 →
         let n := s.arb.lastCsn + 1
         let b := s.modArb fun a => { a with presented := [], lastCsn := n }
         let lose (s : State) (c : Cmd) (k w : Nat) : State :=
           (s.modArb fun a => { a with superseded := satAdd 12 a.superseded 1 }).finish c k { status := 0x4001, result := w }
         (m.managerWins = false → h.managerWins = false →
             (lose b m n (n + 1)).boot.stage = .ready →
             exec .arbitrationCycle s
               = .next (((lose b m n (n + 1)).modArb fun a => { a with lastCsn := n + 1 }).execute h (n + 1)))
           ∧ ((m.managerWins = true ∨ h.managerWins = true) → (b.execute m n).boot.stage = .ready →
               exec .arbitrationCycle s
                 = .next (lose ((b.execute m n).modArb fun a => { a with lastCsn := n + 1 }) h (n + 1) n)))
  ∧ ((∀ (s : State) (i seq : Nat) (entry : BitVec 512),
       let c := cmdOf entry .peer 0 i seq 0 []
       s.boot.stage = .ready → (s.ctx i).state = .opened → (∀ d ∈ s.arb.presented, d.packet.src ≠ .peer) →
       s.arb.peerDone = [] → (s.took i 1 1).precheck c = 0 →
       exec (.peerCmd i seq entry) s = .next ((s.took i 1 1).modArb fun a => { a with presented := a.presented ++ [c] }))
     ∧ (∀ (s : State) (tag : BitVec 8) (entry : BitVec 512) (data : List Byte),
         let c := cmdOf entry .mgmt 0 0 0 tag data
         let b := s.enter c.packet
         s.boot.stage = .ready → s.mgmt.dataIn = some (tag, data) → s.mgmt.outstanding < 8 → b.precheck c = 0 →
         exec (.mgmtCommand tag entry) s = .next (b.modArb fun a => { a with presented := a.presented ++ [c] }))
     ∧ ∀ (s : State) (tag : BitVec 8) (entry : BitVec 512), s.boot.stage = .ready → 8 ≤ s.mgmt.outstanding →
         Answers (.mgmtCommand tag entry) s fun t =>
           t.mgmt.busyRefusals = satAdd 8 s.mgmt.busyRefusals 1 ∧ t.mgmt.outstanding = s.mgmt.outstanding
             ∧ ∃ e, t.out = .mgmtCompletion tag e :: s.out ∧ e.status = 0x5002 ∧ e.csn = 0)

/-- Waiting completions, command timeouts, and what a host link reset leaves. R458, R469: the oldest waiting final completion
takes the free slot at CQ_TAIL; a command that times out completes with 0x6001 and is in flight no more; an EVAL_CLOSE that
does so leaves its window open; a held STEP_BEGIN is exempt. R453, R455: a link reset disables every ring, asks for ATTACH
again and mutes the host's commands in flight; with the link served it trains again, to a width of x16, x8 or x4 and one of
the three rates. What a link reset drops and a timeout stops is the model's choice (log entries 49, 118, 137 and 143). -/
def Obligations.CompletionsAndLinkReset : Prop :=
  ((∀ (s : State) (q : Nat) (c : Completion) (rest : List Completion), (s.ring q).finals = c :: rest →
       (s.ring q).enable = true → 0 < (s.ring q).free →
       exec (.finalCompletionPost q) s = .next ((s.modRing q fun r => { r with finals := rest }).writeSlot q c))
     ∧ ∀ (s : State) (csn : Nat) (f : InFlight), s.flight csn = some f →
         (f.cmd.opcode = 0x30 → exec (.commandTimeout csn) s = .next s)
           ∧ (f.cmd.opcode ∉ [0x30, 0x31, 0x32, 0x44, 0x45, 0x54, 0x81] → f.muted = false →
               Answers (.commandTimeout csn) s fun t =>
                 t = ((s.modArb fun a => { a with inflight := a.inflight.filter fun g => g.csn ≠ csn }).reply false f.dest f.cmd csn
                     { status := 0x6001 }).mgmtDone f.cmd)
           ∧ (f.cmd.opcode = 0x32 → f.muted = false →
               let b := s.modPart (parP f.cmd.packet.n) fun x => { x with eval := x.eval.map fun w => { w with closing := false } }
               exec (.commandTimeout csn) s = .next (((b.modArb fun a =>
                 { a with inflight := a.inflight.filter fun g => g.csn ≠ csn }).reply false f.dest f.cmd csn
                     { status := 0x6001 }).mgmtDone f.cmd)))
  ∧ (∀ s : State, Answers .cxlLinkReset s fun t =>
     (∀ q, t.ring q = {}) ∧ t.host.attached = false ∧ t.host.linkResets = satAdd 16 s.host.linkResets 1 ∧ t.host.turn = 63
       ∧ (s.boot.stage = .ready → t.host.width.toNat ∈ [1, 2, 3] ∧ t.host.speed.toNat ∈ [1, 2, 3])
       ∧ (∀ f ∈ t.arb.inflight, f.cmd.packet.src = .host → f.muted = true)
       ∧ t.arb.inflight.length = s.arb.inflight.length
       ∧ t.parts = s.parts ∧ t.kprs = s.kprs ∧ t.stations = s.stations ∧ t.fields = s.fields ∧ t.mlv = s.mlv ∧ t.store = s.store
       ∧ t.hbm = s.hbm ∧ t.pwr = s.pwr ∧ t.mgmt = s.mgmt ∧ t.out = s.out)

/-- A peer command sent again is not carried out again and returns its original completion. R472: a PEER_CMD that repeats an
accepted {context, SEQ} is not carried out again; its original completion goes back. -/
def Obligations.PeerRepeat : Prop :=
  ∀ (s : State) (i seq bytes : Nat) (entry : BitVec 512), s.boot.stage = .ready → (s.ctx i).state = .opened →
    (∀ d ∈ s.arb.presented, ¬ (d.packet.src = .peer ∧ d.packet.ctx = i ∧ d.packet.seq = seq)) →
    s.arb.peerDone.find? (fun q => q.1 == i && q.2.1 == seq) = some (i, seq, bytes) →
    exec (.peerCmd i seq entry) s = .next ((s.took i 1 1).send i 1 0x23 (leBytes 16 bytes) true [])

/-- The first failing check decides a command's status, and a refused command has no other effect. R463, R473: the first
failing check gives the status of a command: 0x7002, 0x2001, 0x3003, 0x7001, 0x2003, 0x5001, with CSN 0 and no other effect;
a refusal by the lease check counts; a failing precondition ends it with its CSN. Refusals by mode come first (log entry
120). -/
def Obligations.CommandChecks : Prop :=
  ∀ (s : State) (c : Packet) (r : CatRow), catRow r.opcode = some r → s.boot.mode = 1 → s.boot.faulted = false →
    let b := s.enter c
    let v := b.precheck ⟨r.opcode, c⟩
    let may := if c.src = .peer then r.opcode / 16 = 5 ∧ r.hostOnly = false else r.hostOnly = false ∨ c.src = .host
    let attached := c.src ≠ .host ∨ s.host.attached = true ∨ r.opcode ≤ 1
    (¬ may → v = 0x7002)
      ∧ (may → (c.reserved ≠ 0 ∨ c.n ||| r.mask ≠ r.mask) → v = 0x2001)
      ∧ (may → c.reserved = 0 → c.n ||| r.mask = r.mask →
          (¬ attached → v = 0x3003)
            ∧ (attached → r.lease b c.src c.n = false → v = 0x7001)
            ∧ (attached → r.lease b c.src c.n = true → (r.sourceOk c && r.range b c.src c.n) = false → v = 0x2003)
            ∧ (attached → r.lease b c.src c.n = true → (r.sourceOk c && r.range b c.src c.n) = true →
                v = if r.present b c.n then 0 else 0x5001))
      ∧ (s.canBring c = true → c.src = .host → v ≠ 0 → r.opcode = 0x11 →
          exec (.partDissolve c) s
            = .next ((if v = 0x7001 then b.refuseLease else b).postReserved c.ring
                ⟨BitVec.ofNat 16 v, c.cmdId, c.ring, false, 0x11, 0, 0⟩))
      ∧ (Admitted r.opcode c s → r.opcode = 0x11 → (r.pre (s.began c) c).status ≠ 0 →
          exec (.partDissolve c) s = .next ((s.began c).finish ⟨0x11, c⟩ (s.csnOf c) (r.pre (s.began c) c)))

/-- NOP, ATTACH, SET_ID, RING_CREATE, RING_DELETE and EVENT_CONFIG complete with their effects. R458, R462, R463, R470: an
admitted command is completed under the next CSN: a host's in its reserved slot at CQ_TAIL with the ring's PHASE and vector,
the enclosure manager's under its TAG with its place freed. NOP does nothing more. R466, R481: ATTACH lets the host in, sets
the epoch and marks the CP counter; SET_ID sets the logical ID; RING_CREATE enables a ring with its size, vector and bases,
both queues empty; EVENT_CONFIG sets ring, enable and mask for its sender. Each then completes. R466: RING_DELETE completes,
stops its ring, and sends the final completions of the ring's commands to ring 0. -/
def Obligations.SystemCommands : Prop :=
  (∀ (s : State) (c : Packet), Passes catNop c s →
     (c.src = .host → Answers (.nop c) s fun t =>
         let r := s.ring c.ring
         let e : Completion := ⟨0, c.cmdId, c.ring, false, 0, BitVec.ofNat 32 (s.csnOf c), 0⟩
         t.ring c.ring = { r with cqTail := (r.cqTail + 1) % 2 ^ r.size, phase := r.phase != (r.cqTail + 1 == 2 ^ r.size) }
           ∧ t.out = .msix r.vector :: .completion c.ring r.cqTail r.phase e :: s.out
           ∧ t.arb = { s.arb with lastCsn := s.csnOf c }
           ∧ t.mgmt = s.mgmt ∧ t.parts = s.parts ∧ t.kprs = s.kprs ∧ t.stations = s.stations ∧ t.store = s.store ∧ t.hbm = s.hbm
           ∧ t.mlv = s.mlv ∧ t.pwr = s.pwr ∧ t.clk = s.clk ∧ t.fields = s.fields ∧ t.banks = s.banks ∧ t.net = s.net)
       ∧ (c.src = .mgmt → Answers (.nop c) s fun t =>
         t.out = .mgmtCompletion c.tag ⟨0, c.cmdId, c.ring, false, 0, BitVec.ofNat 32 (s.csnOf c), 0⟩ :: s.out
           ∧ t.mgmt = { s.mgmt with linked := true } ∧ t.arb = { s.arb with lastCsn := s.csnOf c } ∧ t.host = s.host
           ∧ t.parts = s.parts ∧ t.kprs = s.kprs ∧ t.stations = s.stations ∧ t.store = s.store ∧ t.hbm = s.hbm))
  ∧ (∀ (s : State) (c : Packet),
     let b := s.began c
     let k := s.csnOf c
     (Passes catAttach c s → exec (.attach c) s = .next
         ({ b with host := { b.host with attached := true }
                   clk := { b.clk with
                     epoch := BitVec.ofNat 64 (bits c.n 63 0), epochSinceStart := true
                     epochMark := BitVec.ofNat 64 s.cpCounter, markValid := true } }.finish ⟨0x01, c⟩ k {}))
       ∧ (Passes catSetId c s → exec (.setId c) s
           = .next ({ b with mlv := { b.mlv with selfId := BitVec.ofNat 12 (bits c.n 11 0) } }.finish ⟨0x02, c⟩ k {}))
       ∧ (Passes catRingCreate c s → exec (.ringCreate c) s = .next
           ((b.modRing (bits c.n 5 0) fun r =>
             { enable := true, size := bits c.n 9 6, vector := bits c.n 15 10, sqb := BitVec.ofNat 64 (bits c.n 127 64)
               cqb := BitVec.ofNat 64 (bits c.n 191 128), sqHead := 0, sqTail := 0, cqTail := 0, cqHead := 0, err := r.err
               }).finish ⟨0x03, c⟩ k {}))
       ∧ (Passes catEventConfig c s → c.src = .host → exec (.eventConfig c) s = .next
           ({ b with host := { b.host with events := ⟨bits c.n 5 0, bit c.n 6, BitVec.ofNat 7 (bits c.n 13 7)⟩ } }.finish ⟨0x08, c⟩ k {}))
       ∧ (Passes catEventConfig c s → c.src = .mgmt → exec (.eventConfig c) s = .next
           ({ b with mgmt := { b.mgmt with events := ⟨bits c.n 5 0, bit c.n 6, BitVec.ofNat 7 (bits c.n 13 7)⟩ } }.finish ⟨0x08, c⟩ k {})))
  ∧ (∀ (s : State) (c : Packet), Passes catRingDelete c s → c.src = .host → Answers (.ringDelete c) s fun t =>
     let q := bits c.n 5 0
     (t.ring q).enable = false ∧ (t.ring q).finals = []
       ∧ (∀ f ∈ t.arb.inflight, f.cmd.packet.src = .host → f.dest ≠ q)
       ∧ (t.arb.inflight.map (·.csn)) = s.arb.inflight.map (·.csn)
       ∧ t.parts = s.parts ∧ t.kprs = s.kprs ∧ t.stations = s.stations ∧ t.mgmt = s.mgmt ∧ t.mlv = s.mlv)

/-- Leases are taken and released, and RESET begins its reset after its completion. R466, R473, R465: LEASE_TAKE makes its
sender the holder and LEASE_RELEASE leaves none; every other lease is unchanged. A take of a lease that the other master
holds completes with 0x3001. R466, R513, R514: RESET completes first; then a field's stations are restarted, or the module is
reset warm or cold with RESET_CAUSE 1 or 2; a running firmware update holds the reset back until its step 3. -/
def Obligations.LeasesAndReset : Prop :=
  (∀ (s : State) (c : Packet),
     let r := bits c.n 4 0
     (Passes catLeaseTake c s → Answers (.leaseTake c) s fun t =>
         t.holder r = srcHolder c.src ∧ ∀ j, j ≠ r → t.holder j = s.holder j)
       ∧ (Passes catLeaseRelease c s → Answers (.leaseRelease c) s fun t => t.holder r = 0 ∧ ∀ j, j ≠ r → t.holder j = s.holder j)
       ∧ (Admitted 0x05 c s → s.holder r ≠ 0 → s.holder r ≠ srcHolder c.src →
           exec (.leaseTake c) s = .next ((s.began c).finish ⟨0x05, c⟩ (s.csnOf c) { status := 0x3001 })))
  ∧ (∀ (s : State) (c : Packet), Passes catReset c s → c.src ≠ .peer →
     let b := (s.began c).finish ⟨0x07, c⟩ (s.csnOf c) {}
     (bits c.n 1 0 = 2 → exec (.reset c) s = .next (b.fieldRestart (bits c.n 7 2)))
       ∧ (bits c.n 1 0 = 0 → s.boot.updateRunning = false → exec (.reset c) s = .next (b.warmReset 1))
       ∧ (bits c.n 1 0 = 1 → s.boot.updateRunning = false → exec (.reset c) s = .next (b.coldReset .cold 2))
       ∧ (bits c.n 1 0 = 0 → s.boot.updateRunning = true →
           exec (.reset c) s = .next { b with boot := { b.boot with heldReset := some .warm } }))

/-- Partitions, tables, data queues and contexts are made and removed by their commands. R467, R497: PART_CREATE forms a
partition of its rows, IDLE at version 0 without a plan, and gives its lease to the sender; PART_DISSOLVE leaves it unformed,
its data queues gone and its lease free, and then the fields that wait for their switch-off go off; a formed partition that
is formed again is dissolved first. R467, R460, R380: TABLE_LOAD stores its pair; DQ_CREATE makes a queue present with its
addresses, slots and direction, DQ_DELETE makes it absent; CTX_OPEN enters OPENING under the next incarnation, CTX_CLOSE
closes. Re-forming, events and contexts follow log entries 115, 116 and 128. -/
def Obligations.PartitionCommands : Prop :=
  (∀ (s : State) (c : Packet), c.src ≠ .peer →
     let p := bits c.n 2 0
     let k := s.csnOf c
     let gone (u : State) : Prop :=
       u.part p = {} ∧ u.holder p = 0 ∧ (∀ q, q ≠ p → u.part q = s.part q) ∧ (∀ e ∈ u.host.queues, e.1 / 64 ≠ p)
         ∧ (∀ k, k < 8 → u.kpart k p = {}) ∧ u.fields = s.fields ∧ u.store = s.store ∧ u.hbm.mem = s.hbm.mem
     let off (u : State) : State := (s.part p).fields.foldl (fun s f => s.offWhenIdle f) u
     (Passes catPartCreate c s → (s.part p).formed = false → Answers (.partCreate c) s fun t =>
         t.part p = { formed := true, rows := BitVec.ofNat 8 (bits c.n 15 8) } ∧ t.holder p = srcHolder c.src
           ∧ (∀ q, q ≠ p → t.part q = s.part q) ∧ (∀ k, k < 8 → t.kpart k p = {})
           ∧ t.fields = s.fields ∧ t.store = s.store ∧ t.hbm.mem = s.hbm.mem ∧ t.mlv = s.mlv)
       ∧ (Passes catPartCreate c s → (s.part p).formed = true → Answers (.partCreate c) s fun t =>
         ∃ u, gone u ∧ t = (((off u).setPart p { formed := true, rows := BitVec.ofNat 8 (bits c.n 15 8) }).changeLease p
           (srcHolder c.src)).finish ⟨0x10, c⟩ k {})
       ∧ (Passes catPartDissolve c s → Answers (.partDissolve c) s fun t => ∃ u, gone u ∧ t = (off u).finish ⟨0x11, c⟩ k {}))
  ∧ (∀ (s : State) (c : Packet), c.src ≠ .peer →
     let b := s.began c
     let k := s.csnOf c
     let n := c.n
     let i := bits n 11 0
     (Passes catTableLoad c s → pairFault (c.bytes 8256) = none → exec (.tableLoad c) s = .next
         ({ b with hbm := { b.hbm with tables := sset [] b.hbm.tables (bits n 5 0) (c.bytes 8256) } }.finish ⟨0x14, c⟩ k {}))
       ∧ (∀ off, Passes catTableLoad c s → pairFault (c.bytes 8256) = some off → exec (.tableLoad c) s
           = .next (b.finish ⟨0x14, c⟩ k { status := 0x2004, result := off }))
       ∧ (Passes catDqCreate c s → exec (.dqCreate c) s = .next
           ((b.modDq (64 * bits n 2 0 + bits n 13 8) fun _ =>
             { present := true, output := n.testBit 14, base := BitVec.ofNat 64 (bits n 127 64)
               index := BitVec.ofNat 64 (bits n 191 128), slots := bits n 207 192 }).finish ⟨0x20, c⟩ k {}))
       ∧ (Passes catDqDelete c s → exec (.dqDelete c) s
           = .next ((b.modDq (64 * bits n 2 0 + bits n 13 8) fun _ => {}).finish ⟨0x21, c⟩ k {}))
       ∧ (Passes catCtxOpen c s → Answers (.ctxOpen c) s fun t =>
           ((t.ctx i).state = .opening ∧ (t.ctx i).incarnation = ((s.ctx i).incarnation + 1) % 65536
             ∧ (t.ctx i).kpr = bits n 14 12 ∧ (t.ctx i).partner = bits n 26 15 ∧ (t.ctx i).partnerKpr = bits n 29 27
             ∧ (t.ctx i).watch = n.testBit 30 ∧ (t.ctx i).snoop = n.testBit 31 ∧ ∀ j, j ≠ i → t.ctx j = s.ctx j))
       ∧ (Passes catCtxClose c s → n.testBit 12 = false → Answers (.ctxClose c) s fun t =>
           (t.ctx i = { incarnation := (s.ctx i).incarnation } ∧ ∀ j, j ≠ i → t.ctx j = s.ctx j)))

/-- Commands that take long are accepted with class 1 and stay in flight under their CSN. R458, R467, R468: PLAN_LOAD,
STORE_WRITE, STORE_READ, PAGE_LOAD and SPARE_CONFIG are accepted with class 1 and are in flight under their CSN; FW_UPDATE
begins to read and posts no completion yet. -/
def Obligations.LongCommandsAccepted : Prop :=
  ∀ (s : State) (c : Packet),
    let b := s.began c
    let k := s.csnOf c
    let acc (op : Nat) : State :=
      let t := b.reply true c.ring ⟨op, c⟩ k { status := 0x1000 }
      { t with arb := { t.arb with inflight := t.arb.inflight ++ [⟨k, ⟨op, c⟩, c.ring, false⟩] } }
    (Passes catPlanLoad c s → exec (.planLoad c) s = .next (acc 0x12))
      ∧ (Passes catStoreWrite c s → exec (.storeWrite c) s = .next (acc 0x22))
      ∧ (Passes catStoreRead c s → exec (.storeRead c) s = .next (acc 0x23))
      ∧ (Passes catPageLoad c s → exec (.pageLoad c) s = .next (acc 0x40))
      ∧ (Passes catSpareConfig c s → exec (.spareConfig c) s = .next (acc 0x52))
      ∧ (Passes catFwUpdate c s → exec (.fwUpdate c) s = .next
          { b with
            arb := { b.arb with inflight := b.arb.inflight ++ [⟨k, ⟨0x81, c⟩, c.ring, false⟩] }
            boot := { b.boot with update := some { stage := .reading, csn := k } } })

/-- What the ends of PLAN_LOAD, PAGE_LOAD, PAGE_READ, STORE_WRITE, STORE_READ and SPARE_CONFIG do. R186, R194, R276, R429,
R467, R568: what the ends of the long commands do: a plan that passes its checks is installed and one that fails completes
with its fault; pages are loaded, or those owned here read (the model's choice for others, log entry 222); a bank range is
written or read; a spare configuration is loaded in the place of an earlier one. Details follow log entries 128, 129, 130,
132, 215 and 222. -/
def Obligations.LongCommandsEnd : Prop :=
  ∀ (s : State) (csn : Nat) (data : List Byte) (f : InFlight), s.flight csn = some f →
    let n := f.cmd.packet.n
    let p := bits n 2 0
    let st := bits n 15 0
    (f.cmd.opcode = 0x12 → (s.part p).formed = true → (s.part p).free = true →
        let img := f.read data (bits n 159 128)
        (∀ status offset, s.planFault p (s.part p).rows.toNat img (bits n 159 128) = some (status, offset) →
            exec (.planLoadDone csn data) s = .next (s.final csn { status := status, result := offset }))
          ∧ (s.planFault p (s.part p).rows.toNat img (bits n 159 128) = none →
            exec (.planLoadDone csn data) s = .next ((s.installPlan p (Plan.ofImage img) (bits n 199 160)).final csn {})))
      ∧ (f.cmd.opcode = 0x40 → (s.part p).planned = true → s.ownsPages n = true → ∀ t rest kept,
          (State.loadPages p n (cmdPages n) (s, f.read data (s.loadLength n), none, 0) = (t, rest, none, kept) →
            exec (.pageLoadDone csn data) s = .next (t.final csn {}))
          ∧ ∀ g, State.loadPages p n (cmdPages n) (s, f.read data (s.loadLength n), none, 0) = (t, rest, some g, kept) →
            exec (.pageLoadDone csn data) s
              = .next (t.final csn { status := 0x6005, result := g + min kept (2 ^ 20 - 1) * 2 ^ 28 }))
      ∧ (f.cmd.opcode = 0x41 → ∀ t,
          (s.readReady p n = (t, false) → exec (.pageReadDone csn) s = .next t)
          ∧ (s.readReady p n = (t, true) →
            let pages := (cmdPages n).filterMap fun g => (t.ownerKpr p g).map fun k => t.readPage k p n g
            let out := pages.flatMap fun d => d.getD []
            (pages.any (·.isNone) = true → exec (.pageReadDone csn) s = .next (t.final csn { status := 0x3004 }))
              ∧ (pages.any (·.isNone) = false → exec (.pageReadDone csn) s
                = .next (((t.nanRead p n).flightData f (bits n 127 64) out).final csn { result := out.length }))))
      ∧ (f.cmd.opcode = 0x22 →
          ((s.field (stField st)).isOff = false → exec (.storeWriteDone csn data) s
              = .next ((s.writeBank st (bits n 39 16) (f.read data (bits n 63 40))).final csn {}))
            ∧ ((s.field (stField st)).isOff = true → exec (.storeWriteDone csn data) s = .next (s.final csn { status := 0x6002 })))
      ∧ (f.cmd.opcode = 0x23 → (s.field (stField st)).isOff = false →
          (∀ i, i < bits n 63 40 / 8 → s.bankBad st (bits n 39 16 + 8 * i) 8 = false) →
          exec (.storeReadDone csn) s = .next ((s.flightData f (bits n 127 64)
            (s.readBank st (bits n 39 16) (8 * (bits n 63 40 / 8)))).final csn {}))
      ∧ (f.cmd.opcode = 0x52 → ∀ images : List (List Byte),
          ((spareMembers f.cmd.packet).contains 0xFFF = true →
            exec (.spareConfigDone csn images) s = .next (s.final csn { status := 0x2003 }))
          ∧ ((spareMembers f.cmd.packet).contains 0xFFF = false → images.length = bits n 17 16 + 1 →
            (∀ img ∈ images, s.standbyFault (spareMembers f.cmd.packet) img = none) →
            let b := s.closeStandby
            let c : SpareCfg :=
              { standbyId := bits n 11 0, members := spareMembers f.cmd.packet, plans := images.map Plan.ofImage
                admitWait := bits n 25 18, staged := [] }
            exec (.spareConfigDone csn images) s = .next (({ b with
              recov := { b.recov with spare := some c, role := if c.armed then .armed else .standby }
              mlv := { b.mlv with selfId := BitVec.ofNat 12 (bits n 11 0) } }.openStandby c).final csn {})))

/-- STEP_BEGIN, eval windows, choices of a halted herd and COMMIT_RESUME. R21, R467: STEP_BEGIN on an idle partition sets
STEP and the microbatch count and gathers, completing with class 0; behind a running step it is accepted and held. R141,
R147, R354: EVAL_OPEN opens a window on its version; EVAL_CLOSE closes it, at once where it is not staged; SKIP_STEP and
REPLAY post their choice in a round of the herd. Each is accepted. R348 to R350: COMMIT_RESUME without enough spill records
completes with 0x5004; else it is accepted, and each held Keeper that it names runs its commit again. -/
def Obligations.StepCommands : Prop :=
  (∀ (s : State) (c : Packet), Passes catStepBegin c s → c.src ≠ .peer →
     let p := bits c.n 2 0
     ((s.part p).phase = .idle →
         exec (.stepBegin c) s = .next (((s.began c).beginStep p (bits c.n 47 8) (bits c.n 63 48)).finish ⟨0x30, c⟩ (s.csnOf c) {}))
       ∧ ((s.part p).phase ≠ .idle →
         let b := (s.began c).accept ⟨0x30, c⟩ (s.csnOf c)
         exec (.stepBegin c) s
           = .next ((b.modPart p fun x => { x with held := some (bits c.n 63 48, s.csnOf c) }).gather p false (bits c.n 47 8))))
  ∧ (∀ (s : State) (c : Packet), c.src ≠ .peer →
     let p := bits c.n 2 0
     let k := s.csnOf c
     (Passes catEvalOpen c s → exec (.evalOpen c) s = .next
         ((((s.began c).accept ⟨0x31, c⟩ k).modPart p fun x =>
           { x with eval := some { version := bits c.n 47 8 }, evalStaged := [] }).gather p true (bits c.n 47 8)))
       ∧ (∀ w, Passes catEvalClose c s → (s.part p).eval = some w → w.staged = false → exec (.evalClose c) s = .next
           (((s.began c).accept ⟨0x32, c⟩ k).modPart p fun x => { x with eval := some { w with closing := true } }))
       ∧ (∀ w, Passes catEvalClose c s → (s.part p).eval = some w → w.staged = true →
           let b := ((s.began c).accept ⟨0x32, c⟩ k).modPart p fun x => { x with eval := some { w with closing := true } }
           exec (.evalClose c) s = .next ((b.part p).planStations.foldl (fun s st => s.closePass p st) b))
       ∧ (Passes catSkipStep c s → exec (.skipStep c) s = .next
           (State.post applyChoice (((s.began c).accept ⟨0x33, c⟩ k).modPart p fun x => { x with choice := 1 }) p 3
             (some ⟨s.selfRank p, false, 1, 0⟩)))
       ∧ (Passes catReplay c s → exec (.replay c) s = .next
           (State.post applyChoice (((s.began c).accept ⟨0x34, c⟩ k).modPart p fun x => { x with choice := 2 }) p 3
             (some ⟨s.selfRank p, false, 2, 0⟩))))
  ∧ (∀ (s : State) (c : Packet), Passes catCommitResume c s → c.src ≠ .peer → bits c.n 159 128 = 0 →
     let p := bits c.n 2 0
     let ks := s.heldNamed c.n
     ((ks.all fun k => (s.began c).spillEnough k p) = false →
         exec (.commitResume c) s = .next ((s.began c).finish ⟨0x35, c⟩ (s.csnOf c) { status := 0x5004 }))
       ∧ ((ks.all fun k => (s.began c).spillEnough k p) = true → (s.part p).phase = .commit →
         let b := ((s.began c).accept ⟨0x35, c⟩ (s.csnOf c)).modPart p fun x => { x with phase := .commit, huskPending := true }
         exec (.commitResume c) s = .next ((ks.foldl (fun s k => s.resumeKpr p k) b).shares p)))

/-- PAGE_READ, TIER_FETCH, TIER_EVICT, SCALE_READ and SCALE_WRITE. R468, R303 to R305: PAGE_READ, TIER_FETCH and TIER_EVICT
are accepted; each then brings in, or sends out, the components of its pages. A page whose named components rest in HBM is
brought in by no request. R80, R468: SCALE_WRITE sets FORMAT, MARGIN and POLICY of one entry and keeps its scale and history;
SCALE_READ writes the entry to the host's address. An entry that another module keeps is not written, and reads as free
values. The owner of an entry and KIND follow log entries 119, 125, 126 and 222, NaN reads entry 157. -/
def Obligations.PageAndScaleCommands : Prop :=
  (∀ (s : State) (c : Packet), c.src ≠ .peer →
     let p := bits c.n 2 0
     let k := s.csnOf c
     let pages (b : State) (f : State → Nat → Nat → State) : State :=
       (cmdPages c.n).foldl (fun s g => match s.ownerKpr p g with | some k => f s k g | none => s) b
     (Passes catPageRead c s → exec (.pageRead c) s = .next
         (pages ((s.began c).accept ⟨0x41, c⟩ k) fun s k g => (s.needAll k p g (readComps c.n (s.opage k p g) (bits c.n 167 128))).1))
       ∧ (Passes catTierFetch c s → exec (.tierFetch c) s = .next
           ((pages ((s.began c).accept ⟨0x45, c⟩ k) fun s k g => (s.needAll k p g (cmdComps c.n)).1).tierDone p))
       ∧ (Passes catTierEvict c s → exec (.tierEvict c) s = .next
           ((pages ((s.began c).accept ⟨0x44, c⟩ k) fun s k g =>
             (cmdComps c.n).foldl (fun s d => s.startEvict k p g d) s).tierDone p)))
  ∧ (∀ (s : State) (c : Packet), c.src ≠ .peer →
     let p := bits c.n 2 0
     let t := bits c.n 12 3
     let k := s.csnOf c
     (Passes catScaleWrite c s → s.scaleHere p t = true → Answers (.scaleWrite c) s fun u =>
         sget {} (u.part p).scales t = { sget {} (s.part p).scales t with
             format := BitVec.ofNat 4 (bits c.n 16 13), margin := BitVec.ofNat 2 (bits c.n 18 17), policy := c.n.testBit 19 }
           ∧ (∀ j, j ≠ t → sget {} (u.part p).scales j = sget {} (s.part p).scales j)
           ∧ (∀ q, q ≠ p → u.part q = s.part q) ∧ u.kprs = s.kprs ∧ u.stations = s.stations ∧ u.store = s.store ∧ u.hbm = s.hbm)
       ∧ (Passes catScaleWrite c s → s.scaleHere p t = false →
           exec (.scaleWrite c) s = .next ((s.began c).finish ⟨0x43, c⟩ k {}))
       ∧ (Passes catScaleRead c s → s.scaleHere p t = true → c.src = .host → exec (.scaleRead c) s = .next
           (((s.began c).emit (.hostWrite (bits c.n 127 64) (sget {} (s.part p).scales t).encode)).finish ⟨0x42, c⟩ k {}))
       ∧ (Passes catScaleRead c s → s.scaleHere p t = true → c.src = .mgmt → exec (.scaleRead c) s = .next
           (({ s.began c with freeCtr := s.freeCtr + 1 }.emit (.mgmtMsg ((Config.freeValue s.freeCtr).toNat % 256) c.tag
             (sget ({} : ScaleEntry) (s.part p).scales t).encode)).finish ⟨0x42, c⟩ k {}))
       ∧ (Passes catScaleRead c s → s.scaleHere p t = false → c.src = .host → exec (.scaleRead c) s = .next
           (({ s.began c with freeCtr := s.freeCtr + 16 }.emit (.hostWrite (bits c.n 127 64)
             ((List.range 16).flatMap fun i => leBytes 8 (Config.freeValue (s.freeCtr + i)).toNat))).finish ⟨0x42, c⟩ k {})))

/-- MODULE_FENCE, SPARE_ADMIT, SPARE_RELEASE and DIAG_REPLAY. R434, R435, R437, R438, R429: MODULE_FENCE raises a module's
generation and loses its contexts; SPARE_ADMIT records the admission, for which a takeover may wait; SPARE_RELEASE completes:
it closes the contexts that the module's SPARE_CONFIG opened and makes it a member again. A generation not above the one held
is refused with it. R447, R448: DIAG_REPLAY on a plan of other rows, or below the versions kept (on a spare, of the pages it
has snooped), ends with class 5; one whose plan does not check ends with the check's status and offset; else the replay of
the step starts. The detail of a refused replay is a free value (log entry 127); its variant and the replay of a herd follow
entries 214 and 170. -/
def Obligations.FenceAndReplayCommands : Prop :=
  (∀ (s : State) (c : Packet),
     let f := bits c.n 11 0
     let g := bits c.n 27 12
     let k := s.csnOf c
     (Passes catModuleFence c s → exec (.moduleFence c) s
         = .next (((s.began c).finish ⟨0x50, c⟩ k {}).moduleFence f g c.came))
       ∧ (Admitted 0x50 c s → g ≤ s.gen f →
           exec (.moduleFence c) s = .next ((s.began c).finish ⟨0x50, c⟩ k { status := 0x4003, result := s.gen f }))
       ∧ (Passes catSpareAdmit c s → exec (.spareAdmit c) s
           = .next ((((s.began c).finish ⟨0x51, c⟩ k {}).spareAdmit f g (bits c.n 39 28) k c.came).takeoverProgress))
       ∧ (Admitted 0x51 c s → g ≤ (sget (0, 0, 0) s.recov.admitted f).1 →
           exec (.spareAdmit c) s = .next ((s.began c).finish ⟨0x51, c⟩ k
             { status := 0x4003, result := (sget (0, 0, 0) s.recov.admitted f).2.1 }))
       ∧ (Passes catSpareRelease c s →
           let b := s.recov.standbyCtxs.foldl (fun s i => (s.purge i).modCtx i fun x => { incarnation := x.incarnation }) (s.began c)
           exec (.spareRelease c) s = .next
             ({ b with recov := { b.recov with role := .member, spare := none, standbyCtxs := [] } }.finish ⟨0x53, c⟩ k {})))
  ∧ (∀ (s : State) (c : Packet), Passes catDiagReplay c s → c.src ≠ .peer →
     let p := bits c.n 2 0
     let length := bits c.n 159 128
     let img := c.bytes length
     let plan := Plan.ofImage img
     let x := s.part p
     let hv := max x.hver s.snoopedVersion
     let step := bits c.n 54 15
     let mask := if bits c.n 223 160 = 0 then [] else (c.data.drop length).take 8192
     ((bits plan.header 55 48 ≠ x.rows.toNat ∨ step + s.past < hv) → exec (.diagReplay c) s = .next
         ({ s.began c with freeCtr := s.freeCtr + 1 }.finish ⟨0x54, c⟩ (s.csnOf c)
           { status := 0x5000 + (Config.freeValue s.freeCtr).toNat % 4096 }))
       ∧ (bits plan.header 55 48 = x.rows.toNat → hv ≤ step + s.past →
         let b := (s.began c).accept ⟨0x54, c⟩ (s.csnOf c)
         (∀ st off, b.planFault p x.rows.toNat img length = some (st, off) →
             exec (.diagReplay c) s = .next (b.final (s.csnOf c) { status := st, result := off }))
           ∧ (b.planFault p x.rows.toNat img length = none →
             exec (.diagReplay c) s = .next (b.startReplay p (s.csnOf c) (bits c.n 14 3) step plan mask))))

/-- POWER_GRANTS, THERMAL_LIMITS, HALF_CLOCK and FIELD_POWER. R468, R478, R488, R494: POWER_GRANTS and THERMAL_LIMITS take
their tables for the next sample; HALF_CLOCK commands the divider of one half; a table that breaks its rules is refused with
0x2004 and the offset. R408, R410, R495, R497: FIELD_POWER completes first; ON re-arms the region's eFuse where it has
tripped and starts the field; OFF at the fence switches it off once its partition runs nothing; OFF now loses it. The effect
on stage and cap follows log entry 99. -/
def Obligations.PowerCommands : Prop :=
  (∀ (s : State) (c : Packet),
     let b := s.began c
     let k := s.csnOf c
     (Passes catPowerGrants c s → exec (.powerGrants c) s
         = .next ({ b with pwr := { b.pwr with newGrants := some (grantTable (c.bytes 704)) } }.finish ⟨0x60, c⟩ k {}))
       ∧ (∀ off, Admitted 0x60 c s → grantFault (c.bytes 704) = some off →
           exec (.powerGrants c) s = .next (b.finish ⟨0x60, c⟩ k { status := 0x2004, result := off }))
       ∧ (Passes catThermalLimits c s → exec (.thermalLimits c) s
           = .next ({ b with pwr := { b.pwr with newLimits := some (limitTable (c.bytes 16)) } }.finish ⟨0x63, c⟩ k {}))
       ∧ (Passes catHalfClock c s → c.src ≠ .peer → Answers (.halfClock c) s fun t =>
           t.clk.westCmd = (if c.n.testBit 0 then s.clk.westCmd else BitVec.ofNat 2 (bits c.n 2 1))
             ∧ t.clk.eastCmd = (if c.n.testBit 0 then BitVec.ofNat 2 (bits c.n 2 1) else s.clk.eastCmd)
             ∧ t.clk.westTherm = s.clk.westTherm ∧ t.clk.eastTherm = s.clk.eastTherm ∧ t.clk.rootTime = s.clk.rootTime
             ∧ t.parts = s.parts ∧ t.pwr = s.pwr ∧ t.fields = s.fields))
  ∧ (∀ (s : State) (c : Packet), Passes catFieldPower c s →
     let f := bits c.n 5 0
     let b := (s.began c).finish ⟨0x62, c⟩ (s.csnOf c) {}
     (bits c.n 7 6 = 0 → exec (.fieldPower c) s = .next
         ((b.modRegion f fun r =>
             { r with
               tripped := false, rearmed := if r.tripped then some b.clk.rootTime else r.rearmed, stage := 0, cap := none, lowSamples := 0 }).modField f fun x =>
           { x with starting := true }))
       ∧ (bits c.n 7 6 = 1 → exec (.fieldPower c) s
           = .next ((b.modField f fun x => { x with offAtFence := true }).offWhenIdle f))
       ∧ (bits c.n 7 6 = 2 → exec (.fieldPower c) s = .next (b.fieldLoss f 0 0 0 0)))

/-- TELEMETRY_CONFIG, SNAPSHOT, LIFE_READ, ATTEST and ID_READ. R524, R528, R537, R540, R541: TELEMETRY_CONFIG sets the
sender's stream; SNAPSHOT sends the next one; LIFE_READ delivers the selected log and says how many bytes it needs; ATTEST
delivers a signed report, or ends with 0x5005 where the identity key is spent; ID_READ delivers the identity block. The
length over the port follows log entry 109. -/
def Obligations.ReportCommands : Prop :=
  ∀ (s : State) (c : Packet), c.src ≠ .peer →
    let b := s.began c
    let k := s.csnOf c
    let n := c.n
    let own : Telem := if c.src = .mgmt then s.mgmt.mgmtTelem else s.mgmt.hostTelem
    let keep (t : Telem) : State :=
      { b with mgmt := if c.src = .mgmt then { b.mgmt with mgmtTelem := t } else { b.mgmt with hostTelem := t } }
    let put (u : State) (addr kind : Nat) (bs : List Byte) : State :=
      u.emit (if c.src = .mgmt then .mgmtMsg kind c.tag bs else .hostWrite addr bs)
    (Passes catTelemetryConfig c s → exec (.telemetryConfig c) s = .next ((keep { own with
          enable := n.testBit 144, addr := BitVec.ofNat 64 (bits n 127 64), slots := bits n 143 128, due := 0, configured := true }).finish ⟨0x70, c⟩ k {}))
      ∧ (Passes catSnapshot c s →
          let seq := own.seq + 1
          exec (.snapshot c) s = .next
            ((put (keep { own with seq := seq }) (own.addr.toNat + 16384 * (seq % own.slots)) 4 (b.snapshot seq true)).finish
              ⟨0x71, c⟩ k {}))
      ∧ (Passes catLifeRead c s →
          let r := b.lifeOutput (n.testBit 166) (bits n 165 160) (bits n 159 128)
          exec (.lifeRead c) s
            = .next ((put b (bits n 127 64) 7 r.1).finish ⟨0x72, c⟩ k { result := r.2 % 2 ^ 32 }))
      ∧ (∀ report t, Passes catAttest c s → b.attest (leBytes 32 (bits n 255 0)) = some (report, t) →
          exec (.attest c) s = .next ((put t (bits n 319 256) 5 report).finish ⟨0x80, c⟩ k {}))
      ∧ (Passes catAttest c s → b.attest (leBytes 32 (bits n 255 0)) = none →
          exec (.attest c) s = .next (b.finish ⟨0x80, c⟩ k { status := 0x5005 }))
      ∧ (Passes catIdRead c s → exec (.idRead c) s
          = .next ((put b (bits n 63 0) 6 (Config.identityBlock.take 4164)).finish ⟨0x82, c⟩ k {}))

/-- Compute starts, and eval windows are staged and closed. R39, R82, R148, R258, R448: compute starts in a gathering
partition without an eval window, a replay's once its schedule records have come: the routes that its lost fields leave are
taken, every plan station fetches MICRO, in a measuring pass where a tensor has no valid entry, before which what a station
that takes part holds is kept, and PHASE reads COMPUTE. R37, R38, R147: a window whose version is gathered is staged:
EVAL_OPEN completes and the stations run EVAL; where the close came meanwhile, both commands complete and the window is gone.
A staged window closes once every pass has retired. Fields that wait for it are then switched off where nothing runs (R497).
What COMPUTE_START waits for is the model's reading (log entry 38), what a probe leaves its choice (entry 208). -/
def Obligations.ComputeAndEval : Prop :=
  (∀ (s0 : State) (p : Nat),
     let s := s0.offRoutes p
     let x := s.part p
     let probe := s.needsProbe p
     (s0.part p).phase = .gather → (s0.part p).eval = none → ((s0.part p).replayKey = none ∨ s0.recov.replayWait = []) →
      ((s0.part p).stagePages = [] ∨ ((s0.part p).stagePages.any fun g => (s0.part p).current false (s0.part p).step g) = true) →
     let b := x.planStations.foldl (fun s st =>
       let u := if probe && !(x.script st .micro).isEmpty then s.keepProbe st else s
       (u.modStation st fun y => { y with fencePosted := false }).modCore st fun c => x.startMicro st probe c) s
     exec (.computeStart p) s0 = .next ((b.modPart p fun x => { x with phase := .compute, probing := probe }).progress p))
  ∧ (∀ (s : State) (p : Nat) (w : EvalWindow), (s.part p).eval = some w →
     let x := s.part p
     (w.staged = false → x.gathered true w.version = true → w.closing = false →
         let b := ((s.finalAll 0x31 p {}).offRoutes p).modPart p fun x => { x with eval := some { w with staged := true } }
         let x := b.part p
         exec (.evalStaged p) s = .next (x.planStations.foldl (fun s st =>
           (s.modStation st fun y => { y with evalClosed := (x.script st .eval).isEmpty }).modCore st fun c => x.startEval st c) b))
       ∧ (w.staged = false → x.gathered true w.version = true → w.closing = true →
         exec (.evalStaged p) s = .next ((((s.finalAll 0x31 p {}).modPart p fun x =>
           { x with eval := none, evalStaged := [] }).finalAll 0x32 p {}).settle p))
       ∧ (w.staged = true → w.closing = true → (x.planStations.all fun st => (s.station st).evalClosed) = true →
         let b := x.planStations.foldl (fun s st => s.modStation st fun y => { y with evalClosed := false }) s
         exec (.evalCloseDone p) s
           = .next (((b.modPart p fun x => { x with eval := none, evalStaged := [] }).finalAll 0x32 p {}).settle p))
       ∧ (w.staged = true → w.closing = false → exec (.evalCloseDone p) s = .next s))

/-- The step fence, and the end of a rollback. R31, R32, R245, R258, R304, R426: at the step fence, with the result of
channel 0 at the Keepers, PHASE reads REDUCE with MICRO_DONE at the step's count and the wafer's NONFINITE sampled; schedule
records go to the buddies, waiting fields go off, routes are chosen, rotations and scheduled fetches start, and Keepers
without buckets send their maxima. R352, R497, R567: when no page awaits its copy a rollback is done: after a failed
write-back the partition is HALTED with its event, else it is IDLE at its version; the rounds of the step are forgotten, and
of its results the verdict, which the step's next run forms anew (log entry 177). Heat-off with no step running and the cause
of a notice follow log entries 37 and 98. -/
def Obligations.FenceAndRollback : Prop :=
  (∀ (s : State) (p : Nat), (s.part p).phase = .drain →
     ((s.part p).planStations.all fun st => (s.station st).fencePosted) = true →
     ((s.part p).fenceWaits.all fun r => (s.part p).fenceRows.contains r) = true →
     let bad := s.waferLevel p || s.rootLevel p
     let b := (s.sendSched p).modPart p fun x => { x with phase := .reduce, waferNonfinite := bad, microDone := x.micro, fenceRows := [] }
     let b := (b.offAtFence p).chooseRoutes p
     let b := ((b.part p).fields).foldl (fun s f => s.rotateField f) b
     let b := b.scheduledFetch p
     let b := ((b.part p).keepers).foldl (fun s k => if (s.part p).bucketsOf k = [] then s.sendAmax k p else s) b
     exec (.stepFence p) s = .next ((b.checkReduced p).gate p))
  ∧ (∀ (s : State) (p : Nat) (cause : RollbackCause),
     let x := s.part p
     x.phase = .recovery → x.rollback = some cause →
     (x.keepers.any fun k => (x.ownedBy s.selfId k).any fun g => (s.opage k p g).awaitingHusk) = false →
     (x.keepers.all fun k => (s.kpart k p).cstate == .rollback) = true →
     let b := x.keepers.foldl (fun s k => s.modKpart k p fun y => { y with cstate := .idle }) s
     (cause = .writeBack → exec (.rollbackDone p) s
         = .next (((b.modPart p fun x => { x with phase := .halted, rollback := none }).event 3 (p + x.step * 2 ^ 8)).settle p))
       ∧ (cause ≠ .writeBack → exec (.rollbackDone p) s = .next ((b.modPart p fun x =>
           { x with
             phase := .idle, rollback := none, rounds := []
             results := x.results.filter fun r => r.step ≠ x.step || r.kind ≠ 0 }).settle p)))

/-- Sums of a round travel up and down the herd tree. R387, R388: a SUM of a child or of the parent on an OPENED context
takes part in the round of the partition of its herd; one whose fields name no such partition is an MSG_ERR. The result of a
rollback reaches a node that has not begun its step too. -/
def Obligations.HerdSums : Prop :=
  ∀ (s : State) (i head : Nat) (data : List Byte), (s.ctx i).state = .opened →
    let step := bits head 39 0
    let kind := bits head 51 48
    let n := bits head 64 52
    let up := s.took i 2 (1 + (data.length + 511) / 512)
    let bytes := (leBytes 512 head).drop 16 ++ data
    let recs := (List.range n).map fun j => SumRec.decode (leNat ((bytes.drop (16 * j)).take 16))
    let upOk (p : Nat) (x : Part) : Bool :=
      kind ≤ 3 && (data.length + 511) / 512 == (n - 31 + 31) / 32 && 16 * (n - 31) ≤ data.length
        && (n == 0 || kind == 0 || kind == 3) && (step == x.step || step + 1 == x.step || (x.phase == .idle && step == x.version)) && n ≤ 4096
        && (match x.rankOf (up.ctx i).partner with
            | some r => (x.childRanks (up.selfRank p)).contains r
            | none => false)
        && recs.all fun r => r.rank < x.ranks
    let down := s.took i 2 1
    let r : RoundResult :=
      ⟨step, kind, head.testBit 52, bits head 55 53, BitVec.ofNat 64 (bits head 127 64), bits head 159 128⟩
    let downOk (p : Nat) (x : Part) : Bool :=
      kind ≤ 3 && (step == x.step || (kind == 2 && x.phase == .idle && step == x.version))
        && (match x.rankOf (down.ctx i).partner with
            | some q => down.selfRank p ≠ 0 && q == (down.selfRank p - 1) / x.herdF
            | none => false)
    (∀ p, up.herdPart (bits head 47 40) upOk = some p → exec (.sumUp i head data) s
        = .next (State.childPost (roundApply kind) up p step kind (((up.part p).rankOf (up.ctx i).partner).getD 0) recs))
      ∧ (up.herdPart (bits head 47 40) upOk = none → exec (.sumUp i head data) s = .next (up.msgError i))
      ∧ (∀ p, down.herdPart (bits head 47 40) downOk = some p →
          exec (.sumDown i head) s = .next (State.takeResult (roundApply kind) down p r))
      ∧ (down.herdPart (bits head 47 40) downOk = none → exec (.sumDown i head) s = .next (down.msgError i))

/-- Operations are fetched, and leave the queue by skipping or retiring; bad or absent data holds them. R172, R147, R180,
R400: a station that is not stopped, fenced or in error fetches one operation of its script into its queue, after the tiles
that its replay rings hold have come in; a pass of EVAL begins again when it has retired, unless a field waits then to be
switched off (R497). A station of any other kind, and one whose step is being rolled back, fetches nothing. A replay that has
come to its fault position ends. R146, R180, R231, R241: an operation that is skipped leaves the queue unissued; one that
reads an uncorrectable word of its own bank stops its station with error 5; one that lacks a remote tile asks for it and does
not issue. R177, R147, R273, R396, R497: an issued operation whose outputs are gone retires: the tiles that it read are
consumed and their credits returned, its entry and its bank reads are gone, and the partition's progress follows. In a fenced
core none retires. Rows whose words have been rewritten are then retired, and fields that wait for it go off where nothing
runs. The next pass of EVAL and remote tiles follow log entries 28 and 29. -/
def Obligations.OperationQueue : Prop :=
  (∀ (s : State) (st p : Nat), s.stPart st = some p →
     let b := s.takeReplay st
     let x := b.part p
     let y := b.station st
     let ready := y.stopped = false ∧ y.fenced = false ∧ y.error = 0 ∧ x.stopping = false
     (ready → (x.phase ≠ .idle ∧ x.phase ≠ .halted ∨ x.fields.any b.offWaits = false) →
         exec (.opFetch st) s = .next (((b.modCore st fun c => x.fetchOp st (x.nextPass st c)).endHalt st).progress p))
       ∧ (ready → (x.phase = .idle ∨ x.phase = .halted) → x.fields.any b.offWaits = true →
         exec (.opFetch st) s = .next (((b.modCore st fun c => x.fetchOp st c).endHalt st).progress p))
       ∧ ((y.stopped = true ∨ y.fenced = true ∨ y.error ≠ 0 ∨ x.stopping = true) →
         exec (.opFetch st) s = .next ((b.endHalt st).progress p)))
  ∧ (∀ (s0 : State) (st id p : Nat) (e : OpEntry),
     let s := s0.takeReplay st
     Issues s st id 0x07 p e →
     let probe := (s.station st).core.probe
     ((s.part p).skips st probe e = true →
         exec (.tvec st id) s0 = .next (((((s.beginOp st e).modCore st fun c =>
           { c with queue := c.queue.filter fun e => e.id ≠ id })).closePass p st).progress p))
       ∧ ((s.part p).skips st probe e = false → s.readsBad p st probe e = true →
         exec (.tvec st id) s0 = .next ((s.modStation st fun x =>
           { x with
             error := if x.error = 0 then 5 else x.error, stopped := true
             errorAt := if x.error = 0 then s.clk.rootTime else x.errorAt }).emit (.report st 5 (errorHeader st))))
       ∧ (∀ t, (s.part p).skips st probe e = false → s.readsBad p st probe e = false →
         (s.part p).remoteTiles st probe e = [t] → (s.station st).bankReads = [] →
         exec (.tvec st id) s0 = .next ((s.modStation st fun x =>
           { x with bankReads := [⟨t.1, t.2.1, t.2.2, e.id, none⟩] }).emit (.bankRequest st t.1 t.2.1 t.2.2 1 (e.id % 1024)
             ((s.part p).requestHeader st t.1 t.2.1 (e.id % 1024))))))
  ∧ (∀ (s : State) (st id p : Nat) (e : OpEntry), s.stPart st = some p → (s.station st).core.entry id = some e →
     e.issued = true → e.yielded = false → s.outputsGone p st e = true → opCode e.op.toNat ≠ 0x01 →
     opCode e.op.toNat ≠ 0x0B → opCode e.op.toNat ≠ 0x0C →
     let b := (s.consume p st e).modCore st fun c => { c with queue := c.queue.filter fun e => e.id ≠ id }
     let b := b.modStation st fun x => { x with bankReads := x.bankReads.filter fun r => r.op ≠ id }
     ((s.station st).fenced = false →
         exec (.opRetire st id) s = .next (((((b.closePass p st).progress p).endHalt st).retireRecovered st).settle p))
       ∧ ((s.station st).fenced = true → exec (.opRetire st id) s = .next (((s.endHalt st).retireRecovered st).settle p)))

/-- Each of the twelve tile operations, once it runs, is issued and has its code's effect; TMUL yields, resumes and is
promoted. R164 to R169, R172 to R174, R181, R184: an operation that runs is marked issued and has its code's effect, once the
tiles of replay rings have come in (R400). R119, R121, R135, R174 to R176: a deferred TMUL leaves the array at a virtual
block once a scoreboard TMUL is ready, counted; the array then holds no block, its cycles up to there count, and those that
remain are kept. It resumes when the array is free and it is the operation that the array would issue, another tile's block
written out and its remaining cycles ahead; while another goes first it does not. A deferred operation is promoted once,
counted. When a product is formed and counted follows log entries 56, 57, 152, 154 and 198; operands of one stream entry 151.
-/
def Obligations.TileOperations : Prop :=
  (∀ (s0 : State) (st id p : Nat) (e : OpEntry),
     let s := s0.takeReplay st
     let b := s.issuing st id e
     let op := e.op.toNat
     (Runs s st id 0x01 p e → exec (.tmul st id) s0 = .next (if tmFlock op then runFlock b p st e else runTmul b p st e))
       ∧ (Runs s st id 0x02 p e → exec (.tepi st id) s0 = .next (effTepi b p st e))
       ∧ (Runs s st id 0x03 p e → exec (.tload st id) s0 = .next (effMove b p st e))
       ∧ (Runs s st id 0x04 p e → exec (.tstore st id) s0 = .next (effMove b p st e))
       ∧ (Runs s st id 0x05 p e → exec (.tsend st id) s0 = .next (effMove b p st e))
       ∧ (Runs s st id 0x06 p e → exec (.trecv st id) s0 = .next (effMove b p st e))
       ∧ (Runs s st id 0x07 p e → exec (.tvec st id) s0 = .next (effVec b p st e))
       ∧ (Runs s st id 0x08 p e →
           let (r, c) := (b.part p).opShape st op
           let a := b.readOperand p st e (opSrc1 op) (r * c) true
           let sat := b.operandSaturates p st e (opSrc1 op) (r * c)
           let u := b.modCore st fun k => { k with flags := k.flags.ofInput e.script (badStreams [(opSrc1 op, a)]) sat }
           exec (.tfun st id) s0
             = .next (u.writeResult p st e 1 (opDst op) none (a.map (evalPair ((b.station st).pair (bits op 13 8) (op.testBit 14))))))
       ∧ (Runs s st id 0x09 p e → exec (.tacc st id) s0 = .next (effAcc b p st e))
       ∧ (Runs s st id 0x0A p e → exec (.tscale st id) s0 = .next (effScale b p st e))
       ∧ (Runs s st id 0x0B p e → exec (.tfence st id) s0 = .next (b.modStation st fun x =>
           { x with writing := some { interim := false, fence := some e.id } }))
       ∧ (Runs s st id 0x0C p e → op.testBit 8 = false → (s.station st).posted.getLsbD (bits op 12 9) = false →
           exec (.tpip st id) s0 = .next ((b.modStation st fun x =>
             { x with
               posted := x.posted ||| BitVec.ofNat 16 (2 ^ bits op 12 9)
               joinedEver := x.joinedEver ||| BitVec.ofNat 16 (2 ^ bits op 12 9) }).emit
             (.pip st (pipBytes (bits op 12 9) (b.leafParity st (bits op 12 9)) 0 (bits op 111 104))))))
  ∧ (∀ (s : State) (st id p : Nat) (e : OpEntry), s.stPart st = some p → (s.station st).core.entry id = some e →
     let c := (s.station st).core
     let rival := c.queue.any fun g =>
       opCode g.op.toNat == 1 && c.ranksScoreboard g && !g.issued && s.readyButUnit p st g
     let first := c.queue.any fun g =>
       opUnit g.op.toNat == .array && g.id != e.id && (g.yielded || (!g.issued && s.readyButUnit p st g))
         && (if c.ranksScoreboard e then c.ranksScoreboard g && decide (g.id < e.id)
             else c.ranksScoreboard g || decide (g.id < e.id))
     let gang := (s.part p).tmulGang st e.op.toNat
     let m := tmM e.op.toNat
     let n := tmN e.op.toNat
     let acc := tmAcc e.op.toNat
     let nb := numBlocks gang m n (chooseFold gang m n (tmFold e.op.toNat))
     let w0 := otherResident c acc
     let now := s.clk.rootTime
     let from' := now + w0 * s.corePeriod st
     let old := e.rest.foldl (fun m b => min m b.from') ((e.rest.map (·.from')).headD 0)
     (∀ block, opCode e.op.toNat = 1 → tmFlock e.op.toNat = false → e.issued = true → e.yielded = false → e.deferred = true →
         c.ranksScoreboard e = false → 1 < nb → block < nb → (e.block < block ∨ (e.block = block ∧ e.wroteOut = true)) →
         rival = true →
         let b := (s.modCore st fun c => { c with busy := c.busy.filter fun b => b.part ≤ block }).countAllBusy st
         exec (.tmulYield st id block) s = .next ((b.modStation st fun y => { y with yields := satAdd 16 y.yields 1 }).modCore st
           fun k => { k.modEntry id fun e => { e with yielded := true, block := block, rest := c.busy.filter fun b => block < b.part } with
             resident := none, busy := [] }))
       ∧ (e.yielded = true → c.unitBusy .array = false → (s.station st).issues .array = true → first = false →
           exec (.tmulResume st id) s = .next ((s.writeOutResident p st (acc, e.block)).modCore st fun c =>
             { c.modEntry id fun e => { e with yielded := false, wroteOut := decide (w0 ≠ 0), rest := [] } with
               resident := some (acc, nb - 1)
               busy := ⟨0, now, from', true⟩ :: e.rest.map fun b =>
                 { b with from' := b.from' - old + from', to' := b.to' - old + from' } }))
       ∧ ((e.yielded = false ∨ first = true) → exec (.tmulResume st id) s = .next s)
       ∧ (e.deferred = true → e.issued = false → e.promoted = false →
           exec (.promotion st id) s = .next ((s.modStation st fun y => { y with promoted := satAdd 16 y.promoted 1 }).modCore st
             fun c => c.modEntry id fun e => { e with promoted := true }))
       ∧ (e.deferred = false → exec (.promotion st id) s = .next s))

/-- Interim and complete shadows of a station. R108, R130, R131, R181, R182, R185: an interim shadow starts where none is
written, the core is neither fenced nor in error and no lamb's fault awaits its flock's end; a complete shadow counts, goes
to the other copy than the last, and ends the writing; one that may not be complete yet leaves the copies. The copy of a core
follows log entries 61 and 206. -/
def Obligations.Shadows : Prop :=
  ∀ (s : State) (st p : Nat), s.stPart st = some p →
    let ready := (s.station st).writing = none ∧ (s.station st).retryFault = false ∧ (s.station st).fenced = false
      ∧ (s.station st).error = 0
    (ready → exec (.interimShadow st) s
        = .next (s.modStation st fun x => { x with writing := some { interim := true, fence := none } }))
      ∧ (¬ ready → exec (.interimShadow st) s = .next (s.modStation st fun x => x))
      ∧ (∀ w, ((s.takeReplay st).station st).writing = some w → ((s.takeReplay st).station st).mayComplete w = false →
          exec (.shadowComplete st) s = .next ((s.takeReplay st).modStation st fun y =>
            { y with writing := if y.retryFault && w.interim then none else y.writing }))
      ∧ (∀ w, ((s.takeReplay st).station st).writing = some w → ((s.takeReplay st).station st).mayComplete w = true →
        Answers (.shadowComplete st) s fun t =>
          let y := s.station st
          let z := t.station st
          let copy := if y.shadows = 0 then false else !y.copy
          z.writing = none ∧ z.shadows = (y.shadows + 1) % 2 ^ 48 ∧ z.lastInterim = w.interim ∧ z.copy = copy
            ∧ (copy = true → z.shadowA = y.shadowA ∧ z.shadowB.isSome = true)
            ∧ (copy = false → z.shadowB = y.shadowB ∧ z.shadowA.isSome = true)
            ∧ (w.interim = false → ∀ i ∈ y.core.lambsLeft, sget 0 y.core.lambEnd i ≠ 0)
            ∧ ((s.part p).probing = false → ∀ j, j ≠ st → t.station j = s.station j))

/-- Tiles, credits and bank-read responses that reach a station, and its watchdog. R26, R157, R158, R183: a tile with the
expected number is accepted into the buffer, the replay ring and its bank region, and a ring that reaches RING − CREDITS
holds credits and starts an interim shadow; an older one is dropped with DUP set and its credit returned, unless the core is
fenced; a newer one stops the station with error 1, and one of another size, or of a stream that does not end there, with
error 2. A mule's tile does not come before the pages that it needs. The tiles of replay rings come in first (R400). R156,
R231, R180, R235, R274: returned credits lower the used count of their destination and waiting tiles go out, those of a
tree's destination at its root node, which combines on; a bank-read response fills the space reserved for it; an issued
operation without progress stops its station with error 3, unless the station is suspended. -/
def Obligations.StreamArrivals : Prop :=
  (∀ (s0 : State) (st p id seq : Nat) (data : List Byte), s0.stPart st = some p →
     let s := s0.takeReplay st
     let find := ((s.part p).sec 0x06).find? fun e => bits e 15 0 == id && (s.part p).inbound st e
     let stop (code : Nat) : State :=
       ((s.modStation st fun x =>
         { x with
           error := if x.error = 0 then code else x.error, stopped := true
           errorAt := if x.error = 0 then s.clk.rootTime else x.errorAt }).emit
         (.report st code (errorHeader st))).modStation st fun y => { y with errStream := id }
     let cur := sget {} (s.station st).core.inb id
     (find = none → exec (.streamTile st id seq data) s0 = .next (stop 2))
       ∧ (∀ e, find = some e → data.length ≠ (streamSpace e).bytes → exec (.streamTile st id seq data) s0 = .next (stop 2))
       ∧ (∀ e, find = some e → data.length = (streamSpace e).bytes → sdSrcKind e = 2 → s.muleTile p st e seq = none →
           exec (.streamTile st id seq data) s0 = .next s)
       ∧ ∀ e, find = some e → sdSrcKind e ≠ 2 → data.length = (streamSpace e).bytes → cur.seq < 2 ^ 48 → seq < 2 ^ 48 →
         let t := (s.writeRing p st e seq data).modCore st fun c => c.modIn id fun i =>
           { i with seq := (i.seq + 1) % 2 ^ 48, buffer := i.buffer ++ [data], ring := i.ring ++ [data] }
         let dup := s.modCore st fun c => c.modIn id fun i => { i with dup := true }
         (seq = cur.seq → (cur.ring.length + 1 < sdRing e - sdCredits e ∨ (s.station st).fenced = true) →
             exec (.streamTile st id seq data) s0 = .next (t.startLambs p st))
           ∧ (seq = cur.seq → sdRing e - sdCredits e ≤ cur.ring.length + 1 → (s.station st).fenced = false →
             exec (.streamTile st id seq data) s0 = .next
               ((t.modCore st fun c => c.modIn id fun i => { i with ringHold := true }).modStation st fun x =>
                 if x.writing.isSome || x.retryFault || x.fenced || x.error ≠ 0 then x else { x with writing := some { interim := true } }))
           ∧ (seq < cur.seq → cur.seq - seq ≤ 2 ^ 47 →
             exec (.streamTile st id seq data) s0 = .next (if (s.station st).fenced then dup else dup.emitCredit st id 1))
           ∧ (cur.seq < seq → seq - cur.seq < 2 ^ 47 → exec (.streamTile st id seq data) s0 = .next (stop 1)))
  ∧ (∀ (s : State) (st p : Nat), s.stPart st = some p →
     (∀ id dest n e, (s.part p).stream id = some e → (sdDstKind e ≠ 3 ∨ dest = 0x20000) →
         let b := s.modCore st fun c => c.modOut id fun o => { o with used := sset 0 o.used dest (sget 0 o.used dest - n) }
         exec (.creditReturn st id dest n) s
           = .next (State.sendTiles p st e ((sget {} (b.station st).core.outb id).unsent.length) b))
       ∧ (∀ id dest n e q, (s.part p).stream id = some e → sdDstKind e = 3 → dest ≠ 0x20000 →
         ((s.part p).treeNodes (sdTree e)).find? (fun q => q.testBit 28) = some q →
         exec (.creditReturn st id dest n) s
           = .next ((s.modNode (nodeIdx p (sdTree e) (bits q 23 8)) fun t => { t with used := t.used - n }).combineFrom
               p (sdTree e) e (bits q 23 8)))
       ∧ (∀ owner region tile data, exec (.bankReadResponse st owner region tile data) s = .next (s.modStation st fun y =>
           { y with bankReads := y.bankReads.map fun b =>
               if b.owner = owner ∧ b.region = region ∧ b.tile = tile ∧ b.data.isNone = true then { b with data := some data }
               else b }))
       ∧ (∀ id e, (s.station st).core.entry id = some e → e.issued = true → e.yielded = false →
           ((s.station st).watchdogOff = false → exec (.watchdog st id) s = .next ((s.modStation st fun x =>
               { x with
                 error := if x.error = 0 then 3 else x.error, stopped := true
                 errorAt := if x.error = 0 then s.clk.rootTime else x.errorAt }).emit (.report st 3 (errorHeader st))))
             ∧ ((s.station st).watchdogOff = true → exec (.watchdog st id) s = .next s)))

/-- Faults of one lamb and of the whole array. R129 to R132, R135: a check that fails in a running lamb of a flock faults
that lamb alone, sets its cells to NaN and cuts its cycles off; so does one in a lamb that a whole-array fault of the same
cycle has aborted. In a block of no running lamb it is only reported; outside a flock it is a whole-array fault. That counts
the cycles so far, stops the station with error 6, and aborts the lambs that run. Lambs that are over by then are complete.
Error codes and ends of lambs follow log entries 62, 152, 155 and 195. -/
def Obligations.ArrayFaults : Prop :=
  ∀ (s : State) (st p : Nat), s.stPart st = some p →
    let stop (t : State) : State :=
      ((t.modCore st fun c => { c with lambsLeft := [], busy := [] }).modStation st fun x =>
        { x with
          error := if x.error = 0 then 6 else x.error, stopped := true
          errorAt := if x.error = 0 then s.clk.rootTime else x.errorAt }).emit (.report st 6 (errorHeader st))
    let b := (s.settleLambs st).countBusy st s.clk.rootTime
    let whole := b.modStation st fun y =>
      { y with
        lambState := mapLambs (fun i c => if y.core.lambsLeft.contains i then 3 else c) y.lambState
        flockAbort := true, wholeFaultAt := s.clk.rootTime + 1 }
    (∀ e lamb, (s.station st).core.runningTmul = some e → tmFlock e.op.toNat = true →
        let fl := (s.part p).flockOf e
        let t := (s.settleLambs st).emit (.report st 0x10 (errorHeader st))
        let y := t.station st
        let code := lambCode y.lambState lamb
        let faults := y.core.lambsLeft.contains lamb = true
          ∨ (lambPresent fl lamb = true ∧ code = 3 ∧ t.sameCycle st y.wholeFaultAt = true)
        (faults → exec (.arrayFaultLamb st lamb) s = .next ((t.modStation st fun y =>
              { y with
                lambState := mapLambs (fun i c => if i = lamb then 2 else c) y.lambState
                lambFault := y.lambFault ||| BitVec.ofNat 16 (2 ^ lamb)
                lastLamb := if t.sameCycle st y.lambFaultAt then min y.lastLamb lamb else lamb
                lambFaultNow := (if t.sameCycle st y.lambFaultAt then y.lambFaultNow else 0) ||| BitVec.ofNat 16 (2 ^ lamb)
                lambFaultAt := s.clk.rootTime + 1
                retryFault := y.retryFault || flockRetry fl }).modCore st fun c =>
              { (s.part p).killLamb fl lamb c (tmAcc e.op.toNat) with
                lambsLeft := c.lambsLeft.filter fun i => i ≠ lamb
                busy := c.busy.map fun b => if b.part = lamb + 1 then { b with to' := min b.to' s.clk.rootTime } else b }))
          ∧ (¬ faults → exec (.arrayFaultLamb st lamb) s = .next t)
          ∧ exec (.arrayFaultWhole st) s = .next (stop whole))
      ∧ (∀ lamb, (s.station st).core.runningTmul = none →
          exec (.arrayFaultLamb st lamb) s = .next (s.emit (.report st 0x10 (errorHeader st))))
      ∧ (∀ e lamb, (s.station st).core.runningTmul = some e → tmFlock e.op.toNat = false →
          exec (.arrayFaultLamb st lamb) s = .next (stop b) ∧ exec (.arrayFaultWhole st) s = .next (stop b))
      ∧ ((s.station st).core.runningTmul = none → exec (.arrayFaultWhole st) s = .next (stop b))

/-- Requests for bank tiles, merge windows, and rounds of the synchronisation network. R231, R232, R241, R274: a request for
a tile of a region without merging is answered with the tile, or held at its bank with the requester's watchdog suspended
where a word is uncorrectable; of a merged region the first request opens a window, another reader of its group joins it, and
the window's close answers its members. A request for several tiles asks for one after another. R243 to R246: a first post of
a member is kept until every member has posted; a second post of it in one round is ignored, and one of the other parity
counts for the next round. A node that has sent passes the result downward and flips its parity; from a field-row node the
result of channel 0 reaches the row's Keeper. A pip of another KIND has no effect. Early posts, the tree of rows and header
fields follow log entries 71, 164 and 165. -/
def Obligations.BankReadsAndSync : Prop :=
  (∀ (s : State) (owner requester region tile space p d : Nat), s.stPart owner = some p →
     ((s.part p).regionsOf owner)[region]? = some d → tile ≤ bits d 60 48 →
     let x := s.part p
     let ws := sget [] s.net.windows owner
     let setWs (l : List MergeWin) : State := { s with net := { s.net with windows := sset [] s.net.windows owner l } }
     let joins := match x.readerGroup owner region with
       | some g => (x.groupMembers g).contains requester
       | none => false
     let ask := exec (.bankReadRequest owner requester region ⟨tile, 1, space, []⟩) s
     (d.testBit 26 = false → ∀ data, s.readTile owner d tile = some data →
         ask = .next (s.emit (.bankResponse owner region tile [(requester, space)] data
           (x.responseHeader owner region d tile false [requester] data.length))))
       ∧ (d.testBit 26 = false → s.readTile owner d tile = none →
         ask = .next ((s.modBank (s.stBank owner) fun b =>
               { b with heldReads := b.heldReads ++ [(requester, space, 2 ^ 13 * region + tile)] }).modStation requester fun y =>
               { y with watchdogOff := true }))
       ∧ (d.testBit 26 = true → joins = true → ws = [] →
         ask = .next (setWs [⟨region, tile, [(requester, space)], [], s.readTile owner d tile⟩]))
       ∧ (∀ w, d.testBit 26 = true → joins = true → ws = [w] → w.region = region → w.tile = tile →
         (∀ q ∈ w.members, q.1 ≠ requester) →
         ask = .next ((setWs [{ w with members := w.members ++ [(requester, space)] }]).modField (stField owner) fun f =>
               { f with merged := satAdd 16 f.merged 1 }))
       ∧ (∀ w data, ws = [w] → w.region = region → w.tile = tile → w.again = [] → w.data = some data →
         exec (.mergeWindowClose owner region tile) s
           = .next ((setWs []).emit (.bankResponse owner region tile w.members data
               (x.responseHeader owner region d tile true (w.members.map (·.1)) data.length))))
       ∧ ∀ (count : Nat) (bad : List Nat), exec (.bankReadRequest owner requester region ⟨tile, count, space, bad⟩) s
           = .next ((List.range count).foldl (fun s i => s.tileRequest owner (requester, space) region (tile + i))
               (s.readFinds owner bad)))
  ∧ (∀ (s : State) (node member p : Nat) (head value : Byte), s.nodePart node = some p → 1536 ≤ node →
     let ch := bits head.toNat 3 0
     let n := s.syncNode node ch
     let ms := s.nodeMembers p node ch
     (ch = 0 ∨ 4 ≤ ch) → ms.contains member = true →
     (bits head.toNat 7 5 = 0 → n.parity = head.toNat.testBit 4 → (n.posted.any fun q => q.1 == member) = false →
         (∃ m ∈ ms, m ≠ member ∧ (n.posted.any fun q => q.1 == m) = false) →
         exec (.syncPost node member head value) s
           = .next (s.modSync node ch fun n => { n with posted := n.posted ++ [(member, value.toNat)] }))
       ∧ (bits head.toNat 7 5 = 0 → n.parity = head.toNat.testBit 4 → (n.posted.any fun q => q.1 == member) = true →
         exec (.syncPost node member head value) s = .next s)
       ∧ (bits head.toNat 7 5 = 0 → n.parity ≠ head.toNat.testBit 4 → (n.early.any fun q => q.1 == member) = false →
         exec (.syncPost node member head value) s
           = .next (s.modSync node ch fun n => { n with early := n.early ++ [(member, value.toNat)] }))
       ∧ (bits head.toNat 7 5 = 1 → n.parity = head.toNat.testBit 4 → n.sent = true → n.early = [] →
         let b := (s.emit (.pip node (pipBytes ch n.parity 1 value.toNat))).modSync node ch fun n => { parity := !n.parity }
         exec (.syncResult node head value) s = .next (
           if ch = 0 ∧ 1600 ≤ node then b.modPart p fun x => { x with fenceRows := insertOnce (node - 1600) x.fenceRows }
           else b))
       ∧ (bits head.toNat 7 5 ≠ 0 → exec (.syncPost node member head value) s = .next s)
       ∧ (bits head.toNat 7 5 ≠ 1 → exec (.syncResult node head value) s = .next s))

/-- Packets and check flits on the wafer networks, and combining in reduction trees. R218 to R221, R223, R227, R249, R251: a
dead router takes no packet and a paused link holds them. A packet whose flit is uncorrectable is asked for again and
counted. A malformed header is discarded, counted and reported; what a fenced core emits is discarded and counted, but what
its bank sends goes on. A packet of a core that finds the router empty and goes to the core or the tap there leaves at once,
with its header; in general it enters the router's buffers and leaves in turn. A truncation flit ends the packet that its
link carries, with a truncation flit on every output that this has taken. R218, R219: a steered link resumes, and what it has
held is received; a good check flit counts a flit and ends the retries of its link, a bad one is an uncorrectable error: a
retry, and at the third the router at its far end is reported. R235, R236: a contribution in sequence waits in its input's
buffer while another input has none, or while the parent has no place; with a place and a tile of each input the node sends
the combined tile, takes one tile from each input and returns a credit for it; one out of sequence halts the tree and reports
a router error. Legs, turns, buffers and anchors follow log entries 70, 72, 73, 165 to 167, 210 and 211. -/
def Obligations.WaferNetworks : Prop :=
  (∀ (s : State) (gx gy length : Nat) (header : BitVec 512) (ended : Bool), gx < 200 → gy < 192 →
     let f := routerField gx gy
     let h := header.toNat
     let send (port : Nat) (bad : Bool) := Instr.routerPacket true gx gy port header false ⟨length, [], ended⟩ bad
     let a : Arrival := ⟨h, length, [], false, false, ended⟩
     (∀ port bad, s.deadSite gx gy = true → exec (send port bad) s = .next s)
       ∧ (∀ port, port < 4 → s.deadSite gx gy = false → (s.link (linkIdx true gx gy port)).paused = true →
         exec (send port false) s
           = .next (s.modLink (linkIdx true gx gy port) fun l => { l with arrived := l.arrived ++ [a] }))
       ∧ (∀ port, port < 4 → s.deadSite gx gy = false → (s.link (linkIdx true gx gy port)).paused = false →
         (s.link (linkIdx true gx gy port)).retries < 2 →
         exec (send port true) s
           = .next ((s.modLink (linkIdx true gx gy port) fun l => { l with retries := l.retries + 1 }).modField f fun x =>
             { x with retries := satAdd 16 x.retries 1 }))
       ∧ (s.deadSite gx gy = false → s.portIsolated gx gy = true → fromBank true h = false →
         exec (send 4 false) s = .next (s.modField f fun x => { x with routerErrors := satAdd 16 x.routerErrors 1 }))
       ∧ (s.deadSite gx gy = false → s.portIsolated gx gy = true → fromBank true h = true → (∀ w ∈ s.net.heads, w.whole = true) →
         ∀ outs, s.outputs true gx gy 4 h false length ended = some outs → outs ≠ [] → (∀ c ∈ outs, c.port ≠ 4) →
           exec (send 4 false) s = .next (s.intake true gx gy 4 h a outs))
       ∧ (s.deadSite gx gy = false → s.portIsolated gx gy = false → (∀ w ∈ s.net.heads, w.whole = true) →
         (s.outputs true gx gy 4 h false length ended = none →
             exec (send 4 false) s = .next ((s.modField f fun x => { x with routerErrors := satAdd 16 x.routerErrors 1 }).emit
               (.report (0x50000 + f) h)))
           ∧ (∀ outs, s.outputs true gx gy 4 h false length ended = some outs → outs ≠ [] →
             exec (send 4 false) s = .next (s.intake true gx gy 4 h a outs))
           ∧ (∀ c, s.outputs true gx gy 4 h false length ended = some [c] → 4 ≤ c.port → c.port < 6 → ended = true →
             s.net.heads = [] → Answers (send 4 false) s fun t =>
               t.out = .packet gx gy c.port true c.header c.escape :: s.out ∧ t.net.heads = []
                 ∧ t.parts = s.parts ∧ t.stations = s.stations ∧ t.fields = s.fields ∧ t.store = s.store))
       ∧ (∀ (port : Nat) (w : Head), s.net.heads = [w] → w.bulk = true → w.gx = gx → w.gy = gy → w.port = port →
         w.whole = false → Answers (.truncationFlit gx gy port) s fun t =>
           t.out = (w.taken.reverse.map fun q => .truncation gx gy q) ++ s.out ∧ t.net.heads = []
             ∧ t.parts = s.parts ∧ t.stations = s.stations ∧ t.fields = s.fields ∧ t.store = s.store)
       ∧ ∀ port, s.net.heads = [] → exec (.truncationFlit gx gy port) s = .next s)
  ∧ (∀ (s : State) (bulk : Bool) (gx gy : Nat),
     let i := linkIdx bulk gx gy 3
     (let b := (s.link i).arrived.foldl (fun s a => s.routerPacket bulk gx gy 3 a)
         (s.modLink i fun l => { l with paused := false, arrived := [] })
      exec (.linkSteerResume bulk gx gy 3) s
         = .next (b.flow ((b.nextRouter gx gy 3).toList.map fun n => (bulk, n.1, n.2))))
       ∧ exec (.checkFlit bulk gx gy 3 true) s = .next (s.modLink i fun l => { l with flits := l.flits + 1, retries := 0 })
       ∧ ((s.link i).retries < 2 → exec (.checkFlit bulk gx gy 3 false) s
           = .next ((s.modLink i fun l => { l with retries := l.retries + 1 }).modField (8 * (gy / 24) + gx / 25) fun x =>
               { x with retries := satAdd 16 x.retries 1 }))
       ∧ (2 ≤ (s.link i).retries → exec (.checkFlit bulk gx gy 3 false) s
           = .next ((s.modLink i fun l => { l with retries := 0 }).emit
               (.report (stOf (8 * (gy / 24) + gx / 25) (gy % 24) (gx % 25)) 0x20))))
  ∧ (∀ (s : State) (p tree site input seq micro off n e : Nat) (data : List Byte),
     ((s.part p).sec 0x0C).find? (fun n => bits n 5 0 == tree && bits n 23 8 == site) = some n →
     ((s.part p).sec 0x06).find? (fun e => sdDstKind e == 3 && sdTree e == tree) = some e →
     let i := 2 ^ 24 * p + 2 ^ 16 * tree + site
     let t := sget {} s.net.nodes i
     let waiting := sget [] t.inputs input
     let room := (s.part p).parentRoom e n
     t.halted = false → input ≤ bits n 26 24 → data.length = (streamSpace e).bytes →
     let go := exec (.reductionContribution p tree site input seq micro off data) s
     (seqAhead 48 (t.expect + waiting.length) seq ≠ 0 → go = .next
         (((s.modNode i fun t => { t with halted := true }).modField (stField site) fun f => { f with treeHalt := true }).emit
           (.report site 0x21)))
       ∧ (seqAhead 48 (t.expect + waiting.length) seq = 0 → bits n 199 192 ≤ waiting.length → go = .next s)
       ∧ (seqAhead 48 (t.expect + waiting.length) seq = 0 → waiting.length < bits n 199 192 →
         ((∃ j ≤ bits n 26 24, j ≠ input ∧ sget [] t.inputs j = []) ∨ room ≤ t.used) →
         go = .next (s.modNode i fun t => { t with
           inputs := sset [] t.inputs input (waiting ++ [data])
           keys := if t.keys.length ≤ waiting.length then t.keys ++ [(micro, off)] else t.keys }))
       ∧ (seqAhead 48 t.expect seq = 0 → bits n 26 24 = 0 → waiting = [] → t.keys = [] → 0 < bits n 199 192 → t.used < room →
         isChild ((s.part p).treeNodes tree) n ((nodeInputs n).getD 0 0) = false →
         let d := Desc.decode (sdFmt e)
         let draw (j : Nat) : Nat := ((s.part p).convKey (bits n 63 48) 2 (bits e 15 0)).draw (elemIndex micro (off + j))
         let out := if d.fmt = .l192 then combineExact (sdElems e) draw [data] else combineTile d (sdElems e) draw [data]
         Answers (.reductionContribution p tree site input seq micro off data) s fun u =>
           (sget {} u.net.nodes i).expect = (t.expect + 1) % 2 ^ 48 ∧ sget [] (sget {} u.net.nodes i).inputs input = []
             ∧ (sget {} u.net.nodes i).used = t.used + 1
             ∧ u.out = .nodeCredit p tree site 0 :: .contribution p tree site t.expect out ((s.part p).nodeHeader e n t.expect out.length) :: s.out
             ∧ u.parts = s.parts ∧ u.stations = s.stations ∧ u.store = s.store ∧ u.kprs = s.kprs))

/-- Heartbeats and error reports make core faults, and a core fault starts, queues or replaces a fill. R180, R275, R314,
R395, R397, R403, R404: a heartbeat of an unfenced core is noted; one missing for 4,096 cycles, counted from its binding and
from the field's reset too, or an error that stopped a station, is a core fault of it; a sequence error, found by a station
or by a Keeper, is one of its stream's sender. An own-bank error counts the words found and stops the station. A fenced
core's report has no effect but for a fill. R396 to R398, R401, R405, R414: a core fault fences the core and chooses the row
spare or the nearest free one. With no fill running in the field its fill starts, logged with outcome 0; with one running
that it does not meet it is queued, logged with outcome 6; where it meets the running fill, or four are queued, the station
is bound without a fill and the step rolled back. With no spare left the field is lost. A sequence error without a sending
station and fault times follow log entries 40 and 178. -/
def Obligations.CoreFaults : Prop :=
  (∀ (s : State) (st : Nat),
     let y := s.station st
     let heard := max y.lastBeat (sget 0 s.clk.fieldMark (stField st))
     (y.fenced = false → exec (.heartbeatPost st) s = .next (s.modStation st fun y => { y with lastBeat := s.clk.rootTime }))
       ∧ (y.fenced = true → exec (.heartbeatPost st) s = .next s)
       ∧ (y.fenced = false → heard + 4096 * s.clk.divider (westHalf (stField st)) ≤ s.clk.rootTime →
           exec (.heartbeatMissing st) s = .next (s.coreFault st 5 true none))
       ∧ (s.clk.rootTime < heard + 4096 * s.clk.divider (westHalf (stField st)) →
           exec (.heartbeatMissing st) s = .next s)
       ∧ (y.fenced = false → y.error = 3 → exec (.stationErrorReport st ⟨3, []⟩) s = .next (s.coreFault st 4 true none))
       ∧ (y.fenced = false → (y.error = 0 ∨ y.error = 4) → exec (.stationErrorReport st ⟨4, []⟩) s
           = .next (((s.modStation st fun x =>
               { x with
                 error := if x.error = 0 then 4 else x.error, stopped := true
                 errorAt := if x.error = 0 then s.clk.rootTime else x.errorAt }).emit
               (.report st 4 (errorHeader st))).coreFault st 2 false none))
       ∧ (y.fenced = false → y.error = 6 → exec (.stationErrorReport st ⟨6, []⟩) s = .next (s.coreFault st 1 false none))
       ∧ (∀ p e code, (code = 1 ∨ code = 2) → y.fenced = false → y.error = code → s.stPart st = some p →
           (s.part p).stream y.errStream = some e → sdSrcKind e = 0 →
           exec (.stationErrorReport st ⟨code, []⟩) s = .next (s.coreFault (sdSrc e) 7 false (some (st, y.errStream))))
       ∧ (∀ r code, (code = 1 ∨ code = 2) → y.fenced = false → y.error ≠ code →
           (s.net.reports.find? fun r => r.1 == st) = some r →
           exec (.stationErrorReport st ⟨code, []⟩) s = .next (s.coreFault st 7 false (some (65536 + r.2.1, r.2.2))))
       ∧ (∀ bad, y.fenced = false → bad ≠ [] →
           exec (.stationErrorReport st ⟨5, bad⟩) s = .next ((s.readFinds st bad).stationError st 5))
       ∧ (∀ report, y.fenced = true → (∀ l, (s.field (stField st)).fill = some l → l.station ≠ st) →
           exec (.stationErrorReport st report) s = .next s))
  ∧ (∀ (s : State) (st i : Nat), (s.field (stField st)).state = .inService →
     (s.station st).fenced = false → (s.station st).error = 6 →
     let f := stField st
     let r := s.remapOf st
     let before := (s.field f).freeSpares
     let b := s.fenceCore st false
     let l : Fill :=
       { station := st, prow := i, pcol := 24, cause := 1, start := (s.station st).errorAt
         failRow := r.prow, failCol := r.pcol, time := b.faultClock f }
     let go := exec (.stationErrorReport st ⟨6, []⟩) s
     (b.chooseSpare f (stRow st) (b.remapOf st).homeDead = some i →
         ((s.field f).fill = none →
             go = .next (((b.logFault f 1 0 st r.prow r.pcol).modField f fun x => { x with fill := some l }).spareTaken f before))
           ∧ (∀ k, (s.field f).fill = some k → s.meetsFill st = false → (s.field f).queued.length < 4 →
             go = .next (((b.logFault f 1 6 st r.prow r.pcol).modField f fun x =>
               { x with queued := x.queued ++ [l] }).spareTaken f before))
           ∧ (∀ k, (s.field f).fill = some k → (s.meetsFill st = true ∨ 4 ≤ (s.field f).queued.length) →
             go = .next ((((((b.logFault f 1 2 st r.prow r.pcol).dropFills f (some st)).letFillGo l).bindFresh st i 24).fieldRollback
               f).spareTaken f before)))
       ∧ (b.chooseSpare f (stRow st) (b.remapOf st).homeDead = none →
           go = .next (((b.modField f fun x => { x with exhausted := true }).event 0 f).fieldLoss f 0xE st r.prow r.pcol)))

/-- A fill reaches its spare in order and ends with the station bound and restored. R398 to R401, R404, R405: bytes of a fill
arrive in order, in fill transfers of ORDER 0 and AGE 63, at the core being filled; the fill is complete once the shadow has
arrived: the station is bound and restored, a receiver that missed a tile stays halted until its replay is done, and the next
queued fill starts. Where the missed tile lies before the shadow, the step is rolled back. The receiver and the payload
follow log entries 76 and 178. -/
def Obligations.Fills : Prop :=
  ∀ (s : State) (st p : Nat) (l : Fill), (s.field (stField st)).fill = some l → l.station = st → s.stPart st = some p →
    let f := stField st
    let need := match (s.station st).lastShadow with | some sh => sh.bytes | none => 0
    (∀ data, exec (.fillTransfer st l.bytes data) s
        = .next ((s.emit (.fill st l.bytes (fillHeader st (s.station st).copy l.bytes data.length))).modField f fun x =>
            { x with fill := some { l with bytes := l.bytes + data.length } }))
      ∧ (∀ copy offset n, bits (fillHeader st copy offset n) 6 6 = 0 ∧ bits (fillHeader st copy offset n) 3 0 = 3
          ∧ bits (fillHeader st copy offset n) 175 170 = 63)
      ∧ (∀ offset data, offset ≠ l.bytes → exec (.fillTransfer st offset data) s = .next s)
      ∧ (l.bytes < need → exec (.fillComplete f) s = .next s.serveReads)
      ∧ (need ≤ l.bytes → s.lostTile l = true → exec (.fillComplete f) s
          = .next ((((s.logFaultAt l.time f l.cause 2 st l.failRow l.failCol).dropFills f none).fieldRollback f).serveReads))
      ∧ (need ≤ l.bytes → s.lostTile l = false → l.own = false → l.reset = false → s.clk.rootTime ≤ l.start + 180000 →
          exec (.fillComplete f) s = .next ((((((s.setMoved st l.prow l.pcol).restoreStation p st).modStation st fun y =>
            { y with holds := y.holds ++ (l.receiver.toList.map (·.1)).filter fun r => r < 65536 }).endHalt st).nextFill
              f).serveReads))

/-- Dead routers, failed and restarted fields, the fault log and the remap entries. R254, R406, R408: a dead router binds the
station whose bank lies there to a spare with a new bank and rolls the step back; where no station is concerned it is only
marked. Another dead router within two sites, or a remap leg that would turn at the site, loses the field. A report of a
router already dead has no effect. R407, R408, R410, R413, R416, R419, R249: a failed field controller restarts its field
where the banks are intact and loses it otherwise; a starting field that is ready is in service again with erased banks,
cores and store sites that failed its self-test out of use, and its partition takes it back; a read of the fault log removes
the oldest record; the controller writes remap entries. Alternates, restarts, losses and what a ready field clears follow log
entries 74, 75, 77, 78, 168, 169, 179, 209 and 213. -/
def Obligations.RouterAndFieldFaults : Prop :=
  (∀ (s : State) (st : Nat), (s.field (stField st)).state = .inService →
     let f := stField st
     let row := stRow st
     let col := stCol st
     let before := (s.field f).freeSpares
     let b := (s.modField f fun x => { x with dead := x.dead ++ [(row, col)] }).markHome st
     let c := ((List.range 8).filter fun p => (b.part p).formed).foldl (fun s p => s.useAlternates p st) b
     let hit := (fieldStations f).filter fun t =>
       t == st || ((s.remapOf t).prow == row && (s.remapOf t).pcol == col)
         || ((s.bankBind t).bprow == row && (s.bankBind t).bpcol == col)
     ((s.field f).dead.contains (row, col) = true → exec (.routerFaultReport st) s = .next s)
       ∧ ((s.field f).dead.contains (row, col) = false → s.deadNear (25 * (f % 8) + col) (24 * (f / 8) + row) = true →
           exec (.routerFaultReport st) s = .next (s.fieldLoss f 6 st row col))
       ∧ ((s.field f).dead.contains (row, col) = false → s.deadNear (25 * (f % 8) + col) (24 * (f / 8) + row) = false →
         ((∃ g, (g = f ∨ g = f - 8 ∨ g = f + 8) ∧ c.legsOk g = false) →
             exec (.routerFaultReport st) s = .next (c.fieldLoss f 6 st row col))
           ∧ (c.legsOk f = true → c.legsOk (f - 8) = true → c.legsOk (f + 8) = true → (s.field f).fill = none →
             (hit = [] → exec (.routerFaultReport st) s
               = .next (((c.logFault f 6 2 st row col).retarget f).spareTaken f before))
             ∧ ∀ i, hit = [st] → (s.bankBind st).bprow = row → (s.bankBind st).bpcol = col →
               let d := c.setRemap st { c.remapOf st with homeDead := true }
               d.chooseSpare f row true = some i →
               let e := (d.logFault f 6 2 st row col).dropFills f (some st)
               let e := e.rebind st { e.remapOf st with prow := i, pcol := 24, moved := true, homeDead := true }
               let e := (e.modBankBind st fun _ => { bprow := i, bpcol := 24, moved := true }).initBank (25 * (24 * f + i) + 24)
               let e := (e.startFresh st).modWear f fun w => { w with bound := satAdd 16 w.bound 1 }
               exec (.routerFaultReport st) s = .next (((e.fieldRollback f).retarget f).spareTaken f before))))
  ∧ (∀ (s : State) (f : Nat),
     ((s.field f).state = .inService →
         exec (.fieldControllerFailure f true) s = .next ((s.logFault f 0xC 4 0 0 0).fieldRestart f)
           ∧ exec (.fieldControllerFailure f false) s = .next (s.fieldLoss f 0xC 0 0 0))
       ∧ (∀ failed sites, (s.field f).starting = true → s.stations = [] → (s.field f).exhausted = false →
           (s.field f).remap = [] → (s.field f).fencedCores = [] → (s.field f).dead = [] → (s.field f).badSites = [] →
           (∀ i ∈ failed ++ sites, i % 25 = 24) →
           let b := (s.eraseField f).modField f fun x =>
             { x with
               state := .inService, starting := false, unrecoverable := false
               fencedCores := failed.foldl (fun m i => sset 0 m i 1) []
               badSites := sites.foldl (fun l i => insertOnce i l) [] }
           let b := { b with clk := { b.clk with fieldMark := sset 0 b.clk.fieldMark f b.clk.rootTime } }
           exec (.fieldReady ⟨f, failed, [], sites⟩) s = .next (((List.range 8).filter fun p => (s.part p).offFields.contains f).foldl
             (fun s p => s.modPart p fun x => { x with offFields := x.offFields.filter (· ≠ f) }) b))
       ∧ (∀ failed routers sites, (s.field f).starting = false → exec (.fieldReady ⟨f, failed, routers, sites⟩) s = .next s)
       ∧ ((s.field f).log = [] → exec (.fldFaultLogRead f) s = .next (s.emit (.readData 0 false)))
       ∧ (∀ r rest, (s.field f).log = r :: rest → exec (.fldFaultLogRead f) s
           = .next ((s.emit (.readData r.encode false)).modField f fun x => { x with log := rest }))
       ∧ ∀ (st : Nat) (v : BitVec 32), Answers (.remapUpdate st v) s fun t =>
           t.remapOf st = ⟨bits v.toNat 4 0, bits v.toNat 9 5, v.toNat.testBit 10, v.toNat.testBit 11, v.toNat.testBit 12⟩
             ∧ (∀ j, stField j ≠ stField st → t.remapOf j = s.remapOf j) ∧ t.stations = s.stations ∧ t.parts = s.parts)

/-- Refresh, correction and scrub of the store wafer's banks. R267 to R269: a burst refreshes the next rows of its bank, and
the field's band rises to that of the latest reading; as it enters band 3 a field in stage 0 is throttled. The band falls by
one where the reading is 2 K below its lower threshold. R271, R273: a word that scrub found corrected is written back; a word
that a read corrected counts in its row, and the third such event within 2^24 store cycles retires the row to a spare row of
its sub-bank. R272: SCRUB_BLOCK and SCRUB_OVERDUE: a scrub of a clean block moves to the next block of its bank and changes
nothing else; after the last block the bank's pass ends. Scrub does not run where it is off or its bank is busy. Falls of the
band, counts of scrub and corrections of one read follow log entries 84, 85 and 163. -/
def Obligations.StoreUpkeep : Prop :=
  (∀ (s : State) (f prow pcol : Nat),
     (f < 64 → prow < 24 → pcol < 25 →
       let x := s.field f
       let b := s.modField f fun x => { x with band := max x.band x.nextBand }
       let burst (s : State) : State := s.modBank (25 * (24 * f + prow) + pcol) fun b => { b with burst := (b.burst + 1) % 16 }
       ((3 ≤ x.band ∨ x.nextBand ≠ 3 ∨ (s.region f).stage ≠ 0) → exec (.refreshBurst f prow pcol) s = .next (burst b))
         ∧ (x.band < 3 → x.nextBand = 3 → (s.region f).stage = 0 →
           exec (.refreshBurst f prow pcol) s = .next (burst (b.throttle f))))
       ∧ (let x := s.field f
          0 < x.band → x.storeTemp + 2 ≤ (if x.band = 1 then 55 else if x.band = 2 then 70 else 85) →
           exec (.storeBandFall f) s = .next (s.modField f fun x =>
             { x with band := x.band - 1, nextBand := min x.nextBand (x.band - 1) }))
       ∧ ((s.field f).band = 0 → exec (.storeBandFall f) s = .next s))
  ∧ (∀ (s : State) (f prow pcol word : Nat), f < 64 → prow < 24 → pcol < 25 →
     let i := 25 * (24 * f + prow) + pcol
     let sub := bits word 9 6
     let row := bits word 20 10
     (word ∈ (s.bank i).writeBack → exec (.storeCorrectWriteback f prow pcol word) s
         = .next (s.modBank i fun b => { b with writeBack := b.writeBack.filter (· ≠ word) }))
       ∧ (word ∉ (s.bank i).writeBack →
         let times := (insertOnce s.clk.rootTime (sget [] (s.bank i).corrections (16 * row + sub))).filter
           fun t => decide (s.clk.rootTime ≤ t + 2 ^ 24 * 8)
         let b := ((s.modField f fun x => { x with storeCorrected := satAdd 16 x.storeCorrected 1 }).modWear f fun w =>
           { w with corrected := satAdd 64 w.corrected 1 }).modBank i fun b =>
             { b with corrections := sset [] b.corrections (16 * row + sub) times }
         (times.length < 3 → exec (.storeCorrectWriteback f prow pcol word) s = .next b)
           ∧ (3 ≤ times.length → 0 < (s.bank i).spareRows sub → exec (.storeCorrectWriteback f prow pcol word) s
             = .next (((b.modBank i fun b =>
                 { b with retired := b.retired ++ [(sub, row)], corrections := sset [] b.corrections (16 * row + sub) [] }).modField f
               fun x => { x with rowsRetired := satAdd 16 x.rowsRetired 1 }).modWear f fun w =>
                 { w with retired := satAdd 32 w.retired 1 }))))
  ∧ (∀ (s : State) (f prow pcol : Nat) (fixed bad : List Nat), f < 64 → prow < 24 → pcol < 25 →
     let i := 25 * (24 * f + prow) + pcol
     (((s.field f).scrubEn = false ∨ s.bankBusy f prow pcol = true) →
         exec (.scrubBlock f prow pcol fixed bad) s = .next s ∧ exec (.scrubOverdue f prow pcol fixed bad) s = .next s)
       ∧ ((s.field f).scrubEn = true → s.bankBusy f prow pcol = false → (s.bank i).scrubPos + 1 < 16 * 2064 →
           let t := s.modBank i fun b => { b with scrubPos := b.scrubPos + 1 }
           exec (.scrubBlock f prow pcol [] []) s = .next t ∧ exec (.scrubOverdue f prow pcol [] []) s = .next t))

/-- An uncorrectable word outside every region is rewritten as zero bytes, and nothing else of the store changes. R265, R275:
an uncorrectable word outside every region and shadow, at a site that holds no station's bank, is rewritten as eight zero
bytes, every other byte stays, and its row is retired; a word that is not found uncorrectable, or that a replay is about to
rewrite, is left alone; a poisoned one that has been read rolls the step back (R276). The retired row is the model's reading
(log entry 83). -/
def Obligations.WordRecovery : Prop :=
  ∀ (s : State) (f prow pcol word : Nat), f < 64 → prow < 24 → pcol < 25 →
    let i := 25 * (24 * f + prow) + pcol
    let a := 2 ^ 24 * i + 8 * word
    ((s.bank i).poison.contains word = false → ((s.bank i).bad.contains word = false ∨ (s.bank i).replaying.contains word = true) →
        exec (.wordRecovery f prow pcol word) s = .next s)
      ∧ ((s.bank i).poison.contains word = true →
        exec (.wordRecovery f prow pcol word) s = .next (if s.poisonRead f prow pcol then s.fieldRollback f else s))
      ∧ ((s.bank i).poison.contains word = false → (s.bank i).bad.contains word = true → (s.bank i).replaying.contains word = false →
        s.siteStation f prow pcol = none → 0 < (s.bank i).spareRows (bits word 9 6) →
        Answers (.wordRecovery f prow pcol word) s fun t =>
          (∀ j < 8, sget 0 t.store (a + j) = 0) ∧ (∀ j, (j < a ∨ a + 8 ≤ j) → sget 0 t.store j = sget 0 s.store j)
            ∧ (t.bank i).bad.contains word = false
            ∧ (t.bank i).retired = (s.bank i).retired ++ [(bits word 9 6, bits word 20 10)]
            ∧ t.parts = s.parts ∧ t.stations = s.stations ∧ t.kprs = s.kprs)

/-- Bank migration and lost bank controllers; host accesses to present and absent HBM stacks. R274, R277, R278: a complete
copy of a migrating bank is noted, but not while a word that its reads found is not yet recovered; a lost bank controller
empties its bank, whose site is good no more (R413), binds the station to a spare with a new one and rolls the step back.
R283, R284, R295: an access of the host to a present stack waits for an issue slot; to an absent range it is logged, a write
is dropped and a read answers zero, poisoned. While VALID is set only COUNT grows. -/
def Obligations.BanksAndHostMemory : Prop :=
  (∀ (s : State) (f k : Nat),
     let st := 1024 * f + 32 * (k / 24) + k % 24
     let i := s.stBank st
     ((s.bankBind st).migrating = true → (s.bank i).bad = [] → exec (.migrationCopyDone f ⟨k, []⟩) s
         = .next (s.modBankBind st fun b => { b with copied := true }))
       ∧ (∀ bad, (s.bankBind st).migrating = true → (s.bankBind st).copied = false → ((s.readFinds st bad).bank i).bad ≠ [] →
         exec (.migrationCopyDone f ⟨k, bad⟩) s = .next (s.readFinds st bad))
       ∧ (∀ bad, (s.bankBind st).migrating = false → exec (.migrationCopyDone f ⟨k, bad⟩) s = .next s)
       ∧ ((s.field (stField st)).state ≠ .inService → exec (.bankControllerFault f k) s = .next s)
       ∧ ((s.field (stField st)).state = .inService → s.fieldPart (stField st) = none → ∀ j,
         (s.modField (stField st) fun x => { x with badSites := insertOnce (i % 600) x.badSites }).chooseSpare (stField st) (stRow st)
           (s.remapOf st).homeDead = some j →
         (s.field (stField st)).fill = none → (s.field (stField st)).queued = [] →
         Answers (.bankControllerFault f k) s fun t =>
           let new := 25 * (24 * stField st + j) + 24
           (∀ a, (a / 2 ^ 24 = i ∨ a / 2 ^ 24 = new) → sget 0 t.store a = 0)
             ∧ (∀ a, a / 2 ^ 24 ≠ i → a / 2 ^ 24 ≠ new → sget 0 t.store a = sget 0 s.store a)
             ∧ (i ≠ new → (t.bank i).lost = true) ∧ (t.bank i).bad = [] ∧ (t.bank new).bad = [] ∧ (t.bank new).poison = []
             ∧ (t.bank new).epoch = []
             ∧ t.bankBind st = { bprow := j, bpcol := 24, moved := true }
             ∧ (t.remapOf st).moved = true ∧ (t.remapOf st).prow = j ∧ (t.remapOf st).pcol = 24
             ∧ t.parts = s.parts ∧ t.kprs = s.kprs))
  ∧ (∀ (s : State) (addr len : Nat) (data : List Byte),
     let a := addr % 2 ^ 42
     let stk := bits a 41 37
     let log (w : Bool) : State :=
       { s with hbm := if s.hbm.absentValid then { s.hbm with absentCount := satAdd 16 s.hbm.absentCount 1 }
           else { s.hbm with absentAddr := BitVec.ofNat 42 a, absentWrite := w, absentValid := true
                             absentCount := satAdd 16 s.hbm.absentCount 1 } }
     (s.stackPresent stk = true →
         exec (.hostMemRead addr len) s = .next (s.modStack stk fun x =>
             { x with queue := x.queue ++ [{ part := none, bytes := len, addr := a }] })
           ∧ exec (.hostMemWrite addr data) s = .next (s.modStack stk fun x =>
             { x with queue := x.queue ++
               [{ part := none, bytes := data.length, addr := a, data := some data, write := true }] }))
       ∧ (s.stackPresent stk = false →
         exec (.hostMemRead addr len) s = .next ((log false).emit (.readData 0 true))
           ∧ exec (.hostMemWrite addr data) s = .next (log true)))

/-- Regulator settings are taken from the lease holder, or refused whole. R297, R298: a regulator setting of the partition's
holder is taken, from the next cycle on, with its buckets clamped to the new burst; one that breaks a rule sets REG_REJECT
alone; one of another sender counts as a refused lease access. -/
def Obligations.Regulators : Prop :=
  ∀ (s : State) (src : Source) (stk p : Nat) (value : BitVec 64), s.stackPresent stk = true → p < 8 →
    let v := value.toNat
    let g := bits v 7 0
    let c := bits v 15 8
    let en := v.testBit 24
    let bad := c < g ∨ (en = true ∧ (c = 0 ∨ bits v 23 16 = 0 ∨ 216 < (s.stack stk).guarantees p + g)) ∨ bits v 63 25 ≠ 0
    (s.holds src p = false → exec (.hbmRegCfgWrite src stk p value) s = .next s.refuseLease)
      ∧ (s.holds src p = true → bad →
          exec (.hbmRegCfgWrite src stk p value) s = .next (s.modStack stk fun x => { x with regReject := true }))
      ∧ (s.holds src p = true → ¬ bad → exec (.hbmRegCfgWrite src stk p value) s = .next ((s.refill stk).modStack stk fun x =>
          x.modReg p fun r =>
            let cap := bits v 23 16 * 4096 * 96
            { r with
              guarantee := BitVec.ofNat 8 g, ceiling := BitVec.ofNat 8 c, burst := BitVec.ofNat 8 (bits v 23 16), enable := en
              guaranteeTokens := min r.guaranteeTokens cap, ceilingTokens := min r.ceilingTokens cap }))

/-- Issue slots, refresh and scrub of an HBM stack, and the place of each of its bytes. R283, R288, R295: the request that a
slot of a pseudo-channel grants is debited and leaves the queue; a granted write of the host changes its bytes and no other,
and, outside the areas of the plans' placements (R192, R455), nothing that the Keepers keep; a granted read answers them and
changes none. A faulted stack grants nothing. R290, R292, R293: a refresh applies the double mode that a reading called for;
the modes fall 2 K below their thresholds; a scrubbed burst found bad is counted and poisoned, and the position moves on,
ending the pass at the last burst. R286: two bytes of a stack never share a place, and the example's address lies where the
spec says. The host's bucket, the queue's operands, directions and poison follow log entries 44, 45, 86 and 182. -/
def Obligations.HbmService : Prop :=
  (∀ (s : State) (stk ch : Nat) (q : HbmReq) (cls : Nat), s.stackPresent stk = true →
     ((s.stack stk).fault = true → ∀ rs fx bd, exec (.hbmIssueSlot ⟨stk, ch⟩ rs fx bd) s = .next s)
       ∧ ((s.stack stk).fault = false → ((s.refill stk).stack stk).turned.choose ch = some (q, cls) → q.part = none →
         q.writeBack = false →
         (∀ d, q.data = some d → Answers (.hbmIssueSlot ⟨stk, ch⟩ [] [] []) s fun t =>
             (∀ i (h : i < d.length), sget 0 t.hbm.mem (q.addr + i) = d[i])
               ∧ (∀ a, (a < q.addr ∨ q.addr + d.length ≤ a) → sget 0 t.hbm.mem a = sget 0 s.hbm.mem a)
               ∧ (t.stack stk).queue = (s.stack stk).queue.erase q ∧ t.out = s.out ∧ t.store = s.store ∧ t.stations = s.stations
               ∧ ((∀ p < 8, ∀ e ∈ (s.part p).sec 0x10, ∀ r ∈ placeAreas e,
                   q.addr + d.length ≤ r.2.1 ∨ r.2.1 + r.2.2.2 * 2 ^ 20 ≤ q.addr) → t.parts = s.parts ∧ t.kprs = s.kprs))
           ∧ (q.data = none → Answers (.hbmIssueSlot ⟨stk, ch⟩ [] [] []) s fun t =>
             t.hbm.mem = s.hbm.mem ∧ t.out = .readData (leNat (readBytes s.hbm.mem q.addr q.bytes)) (s.hbmBad q.addr q.bytes) :: s.out
               ∧ (t.stack stk).queue = (s.stack stk).queue.erase q ∧ t.parts = s.parts ∧ t.store = s.store)))
  ∧ (∀ (s : State) (stk : Nat), s.stackPresent stk = true →
     exec (.hbmRefresh stk) s = .next (s.modStack stk fun x => { x with refresh2x := x.refresh2x || x.wantDouble, wantDouble := false })
       ∧ exec (.hbmRefreshModeFall stk) s = .next ((s.refill stk).modStack stk fun x =>
           { x with throttled := x.throttled && decide (93 < x.temp), refresh2x := x.refresh2x && decide (83 < x.temp) })
       ∧ ((s.stack stk).scrubEn = true → (s.stack stk).fault = false → s.paused = false →
           ((s.stack stk).scrubPos + 1 < 2 ^ 31 → exec (.hbmScrubBurst stk false none) s
               = .next (s.modStack stk fun x => { x with scrubPos := x.scrubPos + 1, scrubActive := true }))
             ∧ ((s.stack stk).scrubPos + 1 = 2 ^ 31 → exec (.hbmScrubBurst stk false none) s
               = .next (s.modStack stk fun x =>
                   { x with scrubPos := 0, scrubActive := false, scrubPasses := satAdd 16 x.scrubPasses 1 }))
             ∧ ((s.stack stk).scrubPos < 2 ^ 31 → Answers (.hbmScrubBurst stk false (some ⟨none⟩)) s fun t =>
               (t.stack stk).uncorrectable = satAdd 16 (s.stack stk).uncorrectable 1
                 ∧ (2 ^ 37 * stk + 64 * (s.stack stk).scrubPos) / 64 ∈ t.hbm.poison ∧ t.hbm.mem = s.hbm.mem)))
  ∧ ((∀ a b : Nat, a < 2 ^ 37 → b < 2 ^ 37 → hbmDecode a = hbmDecode b → a = b)
     ∧ hbmStack 0x0A001234500 = 5 ∧ hbmDecode 0x01234500 = ⟨23, 14, 18, 0⟩ ∧ (hbmDecode 0x01234600).pc = 20)

/-- Bucket tiles reach their Keeper in sequence, and buckets are admitted, parked and acknowledged. R157, R313, R314: a
bucket tile in sequence of an admitted bucket is converted into the image and its pages sent; an older one is dropped and its
credit returned; one whose bucket or stream the Keeper does not have sets SEQ_ERR and is reported, to the field controller of
the sending station. R315, R316, R322, R422: the oldest held bucket is admitted where the admission conditions hold; an
acknowledged page counts once for its bucket; a park write that completes frees its image and is counted. SLICE_ACKNOWLEDGED
is the event itself (log entry 81). -/
def Obligations.Buckets : Prop :=
  (∀ (s : State) (k p bucket stream seq : Nat) (data : List Byte), (s.part p).beforeFence = true →
     let x := s.part p
     let err := (s.modKpr k fun y => { y with seqErr := true }).emit (.report (0x40000 + k) (0x100 + stream))
     let bad : State := match x.stream stream with
       | some e => if sdSrcKind e = 0 then { err with net := { err.net with reports := insertOnce (sdSrc e, k, stream) err.net.reports } } else err
       | none => err
     ((x.bucketDef k bucket = none ∨ x.stream stream = none) → exec (.bucketTile k p bucket stream seq data) s = .next bad)
       ∧ ∀ b e, x.bucketDef k bucket = some b → x.stream stream = some e →
         ((sdBucket e = false ∨ data.length ≠ (streamSpace e).bytes) →
             exec (.bucketTile k p bucket stream seq data) s = .next bad)
           ∧ (((x.segments b).any fun g => segStream g == stream) = true → sdBucket e = true →
             data.length = (streamSpace e).bytes →
             let d := seqAhead 48 (sget 0 (s.kpart k p).expected stream) seq
             (2 ^ 47 ≤ d → exec (.bucketTile k p bucket stream seq data) s
                 = .next (s.emit (.credit (0x40000 + k) stream 1 (x.creditHeader e (0x40000 + k)))))
               ∧ (0 < d → d < 2 ^ 47 → exec (.bucketTile k p bucket stream seq data) s = .next bad)
               ∧ (d = 0 → ((s.kpart k p).bucket bucket).admitted = true →
                 let u := s.modKpart k p fun z => { z with expected := smod 0 z.expected stream fun q => (q + 1) % 2 ^ 48 }
                 exec (.bucketTile k p bucket stream seq data) s = .next ((u.convertTile k p b stream seq data).sendReady k p))))
  ∧ (∀ (s : State) (k p : Nat),
     ((s.kpart k p).heldBuckets = [] → exec (.bucketAdmit k p) s = .next s)
       ∧ (∀ n y rest b, (s.kpart k p).heldBuckets = (n, y) :: rest → (s.part p).bucketDef k n = some b →
           s.admits k p b = true → exec (.bucketAdmit k p) s = .next (s.takeIn k p b))
       ∧ (∀ bucket g b, (s.part p).bucketDef k bucket = some b → g ∈ ((s.kpart k p).bucket bucket).sent →
           (g ∈ ((s.kpart k p).bucket bucket).acked → exec (.sliceAcknowledged k p bucket g) s = .next s)
             ∧ (g ∉ ((s.kpart k p).bucket bucket).acked → exec (.sliceAcknowledged k p bucket g) s
               = .next ((s.modKpart k p fun z => z.modBucket bucket fun y => { y with acked := y.acked ++ [g] }).bucketDone k p b)))
       ∧ (∀ bucket, ((s.kpart k p).bucket bucket).parking = true → exec (.parkWriteDone k p bucket) s
           = .next (((s.transferEnded (s.part p).parkPort ⟨k, p, bucket, 3, true⟩).modKpart k p fun z => z.modBucket bucket fun y =>
             { y with parking := false, parked := true, image := [] }).modKpr k fun y => { y with parked := satAdd 16 y.parked 1 }))
       ∧ (∀ bucket, ((s.kpart k p).bucket bucket).parking = false → exec (.parkWriteDone k p bucket) s = .next s))

/-- Slices, requests for them, and maxima at a Keeper, and the end of a page's reduction. R317, R318, R381, R390, R440: a
slice of the running step from its rank takes its cells and joins its page's reduction; a repeat is discarded; one whose
fields disagree is discarded whole and counted in MSG_ERR. One before the next rank is held, and its credits are withheld
where more slices are held than the staging SRAM has room for (log entry 55) and no page in a partial slot lacks a slice of
its rank next. R77, R306, R322, R346, R385, R439: a slice asked for again is resent where it had been sent; one of a parked
image is read back, and goes to those that asked once it agrees with its digest: at the first mismatch it is read again, at
the second it is lost. Maxima of a message or of a station's report join those of the step, each tensor with an entry keeping
the greater. R317 to R320, R33: a complete reduction is staged: the page's gradient and its sum of squares are kept, its slot
falls free, and a nonfinite gradient is noted; before the last slice, and a second time, nothing happens. -/
def Obligations.Reduction : Prop :=
  (∀ (s : State) (i head : Nat) (data : List Byte), (s.ctx i).state = .opened →
     let g := bits head 87 60
     let rank := bits head 99 88
     let k := (s.ctx i).kpr
     let b := s.took i 0 2049
     let ok (_ : Nat) (x : Part) : Bool :=
       x.reduceStep (bits head 39 0) && x.rankOf (b.ctx i).partner == some rank && (x.gradPages b.selfId k).contains g
         && ((x.bucketOfPage g).any fun c => bkNum c == bits head 59 48) && data.length == 2 ^ 20
     (b.herdPart (bits head 47 40) ok = none → exec (.sliceHead i head data) s
         = .next ((b.modMlv fun m => { m with msgErr := satAdd 8 m.msgErr 1 }).emit (.report (0x40000 + (b.ctx i).kpr) 3)))
       ∧ ∀ p, b.herdPart (bits head 47 40) ok = some p →
         let r := (b.opage k p g).reduction
         ((rank < r.next ∨ r.complete = true ∨ (r.heldSlices.any fun h => h.1 == rank) = true) →
             exec (.sliceHead i head data) s = .next b)
           ∧ (rank = r.next → r.complete = false → (r.heldSlices.any fun h => h.1 == rank) = false →
             exec (.sliceHead i head data) s = .next ((b.modOpage k p g fun y =>
               { y with reduction := { y.reduction with heldSlices := sset [] y.reduction.heldSlices rank data } }).runReduction k p g))
           ∧ (r.next < rank → r.complete = false → (r.heldSlices.any fun h => h.1 == rank) = false →
             let c := b.takeSlice k p g rank data
             exec (.sliceHead i head data) s = .next (if sliceRoom < (c.kpr k).slicesHeld ∧ c.lackedAt k i = false then
                 c.modCtx i fun z => z.modCls 0 fun y => { y with owed := y.owed - 2049, withheld := y.withheld + 2049 }
               else c)))
  ∧ (∀ (s : State) (i head : Nat), (s.ctx i).state = .opened →
     let g := bits head 87 60
     let k := (s.ctx i).kpr
     let b := s.took i 1 1
     let ok (p : Nat) (x : Part) : Bool :=
       x.reduceStep (bits head 39 0) && bits head 99 88 == b.selfRank p
         && ((x.bucketOfPage g).any fun c => bkNum c == bits head 59 48 && bits c 18 16 == k)
     (∀ p d, b.herdPart (bits head 47 40) ok = some p → (b.part p).bucketOfPage g = some d →
         let y := (b.kpart k p).bucket (bkNum d)
         let n := g - bkFirstPage d
         (y.sent.contains g = true → y.parked = false → exec (.sliceReq i head) s = .next (b.send i 0 0x10
             (sliceHead (b.part p).step (b.part p).herdId (bkNum d) g (b.selfRank p)) true (y.page n)))
           ∧ (y.sent.contains g = true → y.parked = true → exec (.sliceReq i head) s
             = .next (b.readParked k p (bkNum d) g i))
           ∧ (y.sent.contains g = false → exec (.sliceReq i head) s = .next b))
       ∧ (∀ p d data, (s.part p).bucketOfPage g = some d →
         let y := (s.kpart k p).bucket (bkNum d)
         let port := (s.part p).parkPort
         let done (s : State) : State :=
           (s.transferEnded port ⟨k, p, g, 3, false⟩).modKpart k p fun z => z.modBucket (bkNum d) fun y =>
             { y with resend := y.resend.filter fun r => r.2 ≠ g, reread := y.reread.filter (· ≠ g) }
         let fails := s.modKpr k fun z => { z with digestFails := satAdd 16 z.digestFails 1 }
         ((y.resend.filter fun r => r.2 == g) = [] → exec (.slowFetchComplete k p g 3 data) s = .next s)
           ∧ ((y.resend.filter fun r => r.2 == g) = [(i, g)] → i < 0x1000 →
             (y.parkDigest[g - bkFirstPage d]? = some (digest128 data) →
                 exec (.slowFetchComplete k p g 3 data) s = .next ((done s).send i 0 0x10
                   (sliceHead (s.part p).step (s.part p).herdId (bkNum d) g ((done s).selfRank p)) true data))
               ∧ (y.parkDigest[g - bkFirstPage d]? ≠ some (digest128 data) →
                 (y.reread.contains g = false → exec (.slowFetchComplete k p g 3 data) s
                   = .next (((fails.modKpart k p fun z => z.modBucket (bkNum d) fun y => { y with reread := insertOnce g y.reread
                     }).transferEnded port ⟨k, p, g, 3, false⟩).transfer port 4096 ⟨k, p, g, 3, false⟩))
                 ∧ (y.reread.contains g = true → exec (.slowFetchComplete k p g 3 data) s
                   = .next ((done fails).modKpr k fun z => { z with lost := satAdd 16 z.lost 1 })))))
       ∧ (let n := bits head 55 48
          let entries := (List.range n).map fun j => bits head (64 * j + 127) (64 * j + 64)
          let c := s.took i 0 1
          let ok (_ : Nat) (x : Part) : Bool :=
           x.reduceStep (bits head 39 0) && 1 ≤ n && n ≤ 63 && entries.all fun e => (c.scaleTensors x k).contains (bits e 9 0)
          (∀ p, c.herdPart (bits head 47 40) ok = some p → exec (.amax i head) s = .next (c.modPart p fun x =>
               entries.foldl (fun x e => x.addAmax (bits e 9 0) (BitVec.ofNat 32 (bits e 63 32))) x))
           ∧ (c.herdPart (bits head 47 40) ok = none → exec (.amax i head) s = .next (c.msgError i)))
       ∧ (∀ st t v p, s.stPart st = some p → (s.part p).hasEntry t = false →
           exec (.amaxReport st (fieldRow (stField st)) t v) s = .next s)
       ∧ (∀ st t v p, s.stPart st = some p → (s.part p).hasEntry t = true → (s.part p).probing = false →
           exec (.amaxReport st (fieldRow (stField st)) t v) s = .next (s.modPart p fun x =>
             { x with amax := smod none x.amax t fun o => some (match o with
                 | some w => if w.toNat ≤ v.toNat then v else w
                 | none => v) })))
  ∧ (∀ (s : State) (k p g : Nat),
     let x := s.part p
     let r := (s.opage k p g).reduction
     ((x.running = false ∨ r.complete = false ∨ r.staged = true) → exec (.pageReduced k p g) s = .next s)
       ∧ (x.running = true → r.complete = true → r.staged = false → Answers (.pageReduced k p g) s fun t =>
         ∃ b : State, (b.opage k p g).grad = some (stageGrad x.seed x.step (s.keyId p) g r.partialSum).1
           ∧ (b.opage k p g).sumSq = pageSum (stageGrad x.seed x.step (s.keyId p) g r.partialSum).1
           ∧ (b.opage k p g).reduction = { r with slot := false, staged := true, partialSum := [] }
           ∧ (b.kpr k).pagesReduced = satAdd 24 (s.kpr k).pagesReduced 1 ∧ b.part p = x
           ∧ ((stageGrad x.seed x.step (s.keyId p) g r.partialSum).2 = true → (b.kpart k p).nonfinite = true)
           ∧ ∃ c : State, (c = b ∨ ∃ q h, c = b.runReduction k q h) ∧ t = c.checkReduced p))

/-- A page is committed in order, and compared with its buddy's record. R345, R348, R352, C1 to C5: the next page in order of
a running commit gets its pre-image; a nonfinite write-back starts a rollback; too few spill records hold the commit; else
the page is stamped at n + 1 and its record goes to the buddy (a null update is told first): compared with the buddy's, or
CLEAN where no buddy takes part. The update unit then serves the husk (R424). R326, R327: at the owner, a buddy's record
equal to the stamped page's makes the page CLEAN; a different one counts, is kept as disputed and has the page computed again
at the buddy. A record of a spare's copy of a CLEAN page is compared too, and the page sent again where it differs (the
model's choice, log entry 181). -/
def Obligations.Commit : Prop :=
  (∀ (s : State) (k p g : Nat),
     let x := s.part p
     let pg := s.opage k p g
     x.phase = .commit → x.rollback = none → (s.kpart k p).cstate = .running → s.ownerKpr p g = some k → pg.body.stamp = x.step →
     pg.awaitingHusk = false → pg.missing = [] → s.inOrder k p g = true → s.reductionDone k p = true →
     (pg.pre.isSome = true ∨ (s.kpart k p).window < 16) → pg.resW = .hbm → pg.resM = .hbm → pg.resD = .hbm →
     let old := pg.pre.getD pg.body
     let b := s.modOpage k p g fun y => { y with pre := some old, cstate := .preimage }
     let r := b.nextBody k p g old
     let need := (sget {} r.body.deltas r.body.head).spill.length
     (r.nonfinite = true → exec (.pageCommit k p g) s
         = .next ((b.modKpart k p fun y => { y with wbNonfinite := true, cstate := .rollback }).startRollback p .writeBack))
       ∧ (r.nonfinite = false → b.spillFree k p r.body.head < need → exec (.pageCommit k p g) s
         = .next ((b.modKpart k p fun y => { y with cstate := .heldSpill, spillFull := true }).huskServe k p))
       ∧ (r.nonfinite = false → need ≤ b.spillFree k p r.body.head →
         let j := r.body.head
         let first := sget 0 (b.kpart k p).spillUsed j
         let full := b.nextSaturates k p g old
         let c := b.modKpart k p fun y =>
           { y with
             spillUsed := sset 0 y.spillUsed j (first + need), done := y.done + 1, spillFull := false
             saturate := y.saturate || full }
         let c := c.modOpage k p g fun y => { y with body := r.body.spillFrom first, cstate := .stamped, slowValid := [] }
         let c := c.writeScales p g
         let c := if x.isNull pg then c.sendNull k p g else c
         let c := c.toBuddy k 0x47 (cmpHead (x.step + 1) x.herdId g r.body.digest) []
         ((c.buddyUp k = false ∨ (c.kpart k p).remirrorLeft.contains g = true) → exec (.pageCommit k p g) s
             = .next ((c.pageClean k p g).huskServe k p))
           ∧ (c.buddyUp k = true → (c.kpart k p).remirrorLeft.contains g = false →
             exec (.pageCommit k p g) s = .next (((c.serveWaiting k p g).compareRecord k p g).huskServe k p))))
  ∧ (∀ (s : State) (i head p : Nat), (s.ctx i).state = .opened →
     let k := (s.ctx i).kpr
     let b := s.took i 3 1
     let g := bits head 75 48
     let d := BitVec.ofNat 256 (bits head 383 128)
     let ok (q : Nat) (x : Part) : Bool :=
       (x.range g).isSome && ((x.phase == .gate || x.phase == .commit || x.phase == .flipWait) && bits head 39 0 == x.step + 1
         || s.copyRecord k q g (bits head 39 0))
     b.herdPart (bits head 47 40) ok = some p →
     let pg := b.opage k p g
     let c := b.modOpage k p g fun y => { y with buddyRec := some d }
     (b.ownerKpr p g = some k → pg.cstate ≠ .stamped → b.copyRecord k p g (bits head 39 0) = false →
         exec (.huskCmp i head) s = .next c)
       ∧ (b.copyRecord k p g (bits head 39 0) = true →
         (d = pg.body.digest → exec (.huskCmp i head) s = .next b)
           ∧ (d ≠ pg.body.digest → exec (.huskCmp i head) s
             = .next ((b.modKpr k fun y => { y with buddyFails := satAdd 16 y.buddyFails 1 }).mirrorPage k p g)))
       ∧ (b.ownerKpr p g = some k → pg.cstate = .stamped → pg.disputed = none → d = pg.body.digest →
           exec (.huskCmp i head) s = .next (c.pageClean k p g))
       ∧ (b.ownerKpr p g = some k → pg.cstate = .stamped → pg.disputed = none → d ≠ pg.body.digest →
           let e := (c.modKpr k fun y => { y with buddyFails := satAdd 16 y.buddyFails 1 }).modOpage k p g fun y =>
             { y with disputed := some d, buddyRec := none }
           exec (.huskCmp i head) s
             = .next (if (b.part p).isNull pg then e.sendNull k p g else e.sendGrad k p g (pg.grad.getD [])))
       ∧ (b.ownerKpr p g ≠ some k → exec (.huskCmp i head) s = .next (b.modHpage k p g fun h =>
           { h with compared := h.pending.any fun side => side.body.digest == d })))

/-- Pages that are asked for, arrive and are staged, and pulls of husks. R27, R36, R325, R428: a gather of a page that this
Keeper owns is asked for at the owner; a page that arrives whole and with the owner's digest is staged at its version; a pull
is served, and its end is taken. R28, R29, R325: a page that its stage lacks at the running step, whole and with the owner's
digest, is staged; one that fails its digest is counted and gathered again. The image of a page and its one SCALE follow log
entries 35 and 180. -/
def Obligations.PageMessages : Prop :=
  (∀ (s : State) (i head : Nat) (data : List Byte), (s.ctx i).state = .opened →
     let k := (s.ctx i).kpr
     let herd := bits head 47 40
     let g := bits head 75 48
     let v := bits head 39 0
     let b := s.took i 1 1
     let owns (p : Nat) (x : Part) : Bool :=
       (x.range g).any (fun e => prOwner e == b.selfId && prOwnerKpr e == k)
         && (x.named b.past v || v == x.version + 1 || b.beforeK3 p)
     (∀ p, b.herdPart herd owns = some p → exec (.pageReq i head) s = .next (b.requestPage k p g v i))
       ∧ (b.herdPart herd owns = none → exec (.pageReq i head) s = .next (b.msgError i))
       ∧ (s.recov.spare = none → exec (.pageHead i head data) s = .next (s.pageArrives i head data))
       ∧ (let c := s.took i 3 1
          (∀ p, (c.herdPart herd fun _ x => (x.range g).isSome) = some p →
             exec (.huskPull i head) s = .next (c.servePull i k p g (bits head 103 76) (bits head 107 104)))
           ∧ (∀ p, (c.herdPart herd fun _ _ => true) = some p → exec (.huskEnd i head) s = .next c.pullProgress)
           ∧ ((c.herdPart herd fun _ _ => true) = none → exec (.huskEnd i head) s = .next (c.msgError i))))
  ∧ (∀ (s : State) (i head p : Nat) (data : List Byte), (s.ctx i).state = .opened → s.recov.spare = none →
     data.length = 2 ^ 20 + 16384 →
     let v := bits head 39 0
     let g := bits head 75 48
     let b := s.took i 0 2081
     let wants (x : Part) (eval : Bool) : Bool :=
       !x.current eval v g &&
         (if eval then x.eval.any fun w => w.version == v
          else (v == x.step && x.phase ≠ .idle) || x.held.isSome && v == x.step + 1)
     (b.herdPart (bits head 47 40) fun _ x => x.stagePages.contains g && (wants x false || wants x true)) = some p →
     wants (b.part p) false = true → wants (b.part p) true = false →
     let good := digestW g v (writeBytes [] 0 (data.take (2 ^ 20))) (writeBytes [] 0 (data.drop (2 ^ 20)))
       = BitVec.ofNat 128 (bits head 255 128)
     let copy : StagedPage :=
       { version := v, bytes := writeBytes [] 0 data
         scales := if head.testBit 76 then
             (((b.part p).pageTensors g).take 1).map fun t => (t, BitVec.ofNat 32 (bits head 127 96))
           else [] }
     (good → exec (.pageHead i head data) s = .next (b.modPart p fun x => { x with staged := sset {} x.staged g copy }))
       ∧ (¬ good → ∀ e, (b.part p).range g = some e → exec (.pageHead i head data) s
         = .next ((b.modKpr (prStageKpr e) fun y => { y with stagedFails := satAdd 16 y.stagedFails 1 }).gatherPage p false g v)))

/-- Fetches, evictions, timeouts and the link of the slow tier. R300, R304 to R306: data of a fetch with the kept digests is
installed in HBM and counted; other data is fetched once more, and at the second time the component is lost; an eviction
whose writes are done leaves the component SLOW; a request that times out is sent again once, counted. An overtaken eviction
follows log entry 142. -/
def Obligations.SlowTier : Prop :=
  ∀ (s : State) (k p g c : Nat) (data : List Byte), c < 3 →
    let x := s.part p
    let pg := s.opage k p g
    let kept := pg.slowDigest.filter fun d => d.1 / 16 == c
    let fetch : UioTransfer := ⟨k, p, g, c, false⟩
    let write : UioTransfer := ⟨k, p, g, c, true⟩
    let fails := s.modKpr k fun y => { y with digestFails := satAdd 16 y.digestFails 1 }
    (pg.resid c = .fetch → pg.missing.contains c = false → kept = mibDigests c data →
        let b := s.modOpage k p g fun y =>
          { y.setResid c .hbm with
            body := setComp s.past y.frozen y.body c data, refetched := y.refetched.filter (· ≠ c)
            slowDigest := y.slowDigest.filter fun d => d.1 / 16 ≠ c }
        let b := (b.modKpr k fun y => { y with fetches := satAdd 24 y.fetches 1 }).transferEnded (x.slowPort g) fetch
        exec (.slowFetchComplete k p g c data) s = .next ((b.serveWaiting k p g).tierDone p))
      ∧ (pg.resid c = .fetch → pg.missing.contains c = false → kept ≠ mibDigests c data → pg.refetched.contains c = false →
        exec (.slowFetchComplete k p g c data) s
          = .next (((fails.modOpage k p g fun y => { y with refetched := insertOnce c y.refetched }).transferEnded (x.slowPort g)
            fetch).transfer (x.slowPort g) (uioRequests data) fetch))
      ∧ (pg.resid c = .fetch → pg.missing.contains c = false → kept ≠ mibDigests c data → pg.refetched.contains c = true →
        exec (.slowFetchComplete k p g c data) s
          = .next ((fails.transferEnded (x.slowPort g) fetch).loseComp k p g c))
      ∧ (pg.resid c = .evict → exec (.evictComplete k p g c) s
          = .next (((s.transferEnded (x.slowPort g) write).modOpage k p g fun y =>
            { y.setResid c .slow with body := setComp s.past y.frozen y.body c [] }).tierDone p))
      ∧ (pg.resid c = .slow → exec (.slowFetchComplete k p g c data) s = .next s
          ∧ exec (.evictComplete k p g c) s = .next (s.transferEnded (x.slowPort g) write))
      ∧ (∀ t (request : UioRequest), s.tierPresent t = true → (s.tierPort t).retried.contains request = false →
          exec (.uioTimeout t request) s = .next ((s.modTier t fun y =>
            { y with timeouts := satAdd 16 y.timeouts 1, retried := request :: y.retried }).emit
            (.uio (t + 1) request.transfer.page request.transfer.comp request.transfer.write)))
      ∧ (∀ t (request : UioRequest), s.tierPresent t = true → (s.tierPort t).retried.contains request = true →
          (∀ q < 8, (s.part q).keepers = []) → exec (.uioTimeout t request) s = .next (s.modTier t fun y =>
            { y with timeouts := satAdd 16 y.timeouts 1, down := true, transfers := [], waiting := [] }))
      ∧ (∀ t width speed, s.tierPresent t = true → exec (.slowTierLinkUp t width speed) s = .next (s.modTier t fun y =>
          { y with linkUp := true, width := width, speed := speed, down := false, retried := [] }))

/-- Gradients, null updates, pages, schedule records and notes at a buddy. R422 to R427: a gradient of the running step
enters the mirror of its page, and is computed once the verdict is in, after the pages that wait for the update unit; a null
update makes the pending side an alias; a page of which no copy has come yet (R442) takes neither; a page of an owner becomes
the current side; records of the last P + 1 step fences and their notes are kept per owner. When a buddy computes and where
its pages rest follow log entries 66 and 223. -/
def Obligations.HuskMirrors : Prop :=
  ∀ (s : State) (i head p : Nat) (data : List Byte), (s.ctx i).state = .opened →
    let k := (s.ctx i).kpr
    let herd := bits head 47 40
    let g := bits head 75 48
    (let b := s.took i 3 2049
     (b.herdPart herd fun p x => x.phase ≠ .idle && x.step == bits head 39 0 && (s.mirrored k p).contains g
        && data.length == 2 ^ 20) = some p →
      let c := b.modHpage k p g fun h => { h with grad := some (writeBytes [] 0 data) }
      ((b.kpart k p).lacking.contains g = true → exec (.huskGrad i head data) s = .next b)
        ∧ ((b.kpart k p).lacking.contains g = false →
          ((c.part p).phase ≠ .commit → (c.part p).phase ≠ .flipWait → exec (.huskGrad i head data) s = .next c)
            ∧ (((c.part p).phase = .commit ∨ (c.part p).phase = .flipWait) → (c.part p).nullCommit = false →
              ((c.kpart k p).huskDue = [] →
                  exec (.huskGrad i head data) s = .next (c.huskUpdate k p g (c.part p).herdSum))
                ∧ ((c.kpart k p).huskDue ≠ [] → exec (.huskGrad i head data) s = .next (c.modKpart k p fun y =>
                  { y with huskDue := sortedBy (· ≤ ·) (insertOnce g (c.kpart k p).huskDue) })))))
      ∧ (let b := s.took i 3 1
         (b.herdPart herd fun p x => x.phase ≠ .idle && x.step == bits head 39 0 && (s.mirrored k p).contains g) = some p →
          exec (.huskNull i head) s = .next (if (b.kpart k p).lacking.contains g then b else b.huskNull k p g))
      ∧ (let b := s.took i 3 (1 + (data.length + 511) / 512)
         ((b.herdPart herd fun _ x => s.pageFor i g x && x.huskLength s.past (bits head 79 76) (bits head 511 256) data) = some p →
            b.ownerKpr p g ≠ some k → (b.part p).replayKey = none →
            exec (.huskPage i head data) s = .next (b.mirrorArrives k p g (bits head 39 0) (bits head 511 256) data))
          ∧ ((b.herdPart herd fun _ x => data.length == bits head 95 64 && s.recordFor i x && s.recordStep x (bits head 39 0)
                && ((s.ctx i).role ≠ 4 || bits head 50 48 == (s.ctx i).partnerKpr)) = some p → b.recov.role ≠ .taking →
            (b.part p).replayKey = none →
            let owner := 8 * (b.ctx i).partner + (b.ctx i).partnerKpr
            exec (.huskSched i head data) s = .next (b.modKpart k p fun y =>
              let notes := ((y.scheds.find? fun r => r.owner == owner && r.step == bits head 39 0).map (·.notes)).getD []
              let mine := lastFences (b.past + 1)
                (⟨owner, bits head 39 0, data, notes⟩ :: y.scheds.filter fun r => r.owner == owner && r.step ≠ bits head 39 0)
              { y with scheds := mine ++ y.scheds.filter fun r => r.owner ≠ owner })))
      ∧ (let b := s.took i 3 1
         (b.herdPart herd fun _ x => s.recordFor i x && s.recordStep x (bits head 39 0)
            && (x.bucketDef (if (s.ctx i).role = 4 then (s.ctx i).partnerKpr else k) (bits head 59 48)).isSome) = some p →
          exec (.huskProg i head) s = .next (b.noteArrives i k p head))

/-- Training of a Malvotan port, its link control words, its timers and its failures. R364, R365, R374: a training port goes
through its phases and sends LIVE and its credits when T4 begins; a failed training begins again and the third in a row
leaves the port FAILED; a port that is DOWN trains again from T1, not one of a self-fenced module (R435). R369 to R373, R390:
a sound link control word of its type with a clear acknowledgement bit: LIVE names the peer and brings the port UP; LACK does
nothing more; LNAK resends from its LSN; LCREDIT raises the totals. A word that fails a check word has no effect; one with a
wrong field counts in HDR_ERR. R370, R371, R374: what a port sends on its timers, and what stalls and failures do to it: its
cells go to the other ports of its group, it is counted, and it is DOWN, stalled, or trains again. PRECODE is a free value
and RETRAIN follows log entry 51 (log entry 33). -/
def Obligations.Ports : Prop :=
  (∀ (s : State) (port : Nat),
     let x := s.port port
     (x.state = .training → x.phase = 1 →
         exec (.trainingPhaseDone port) s = .next (s.modPort port fun x => { x with phase := 2 }))
       ∧ (x.state = .training → x.phase = 2 → exec (.trainingPhaseDone port) s
         = .next ({ s with freeCtr := s.freeCtr + 1 }.modPort port fun x =>
             { x with phase := 3, precode := (Config.freeValue s.freeCtr).getLsbD 0 }))
       ∧ (x.state = .training → x.phase = 3 → exec (.trainingPhaseDone port) s
         = .next (((s.modPort port fun x => { x with phase := 4 }).sendLive port).grantLink port))
       ∧ (x.state = .training → exec (.trainingTimeout port) s
         = .next ((s.portLife port fun l => { l with trainFails := satAdd 32 l.trainFails 1 }).modPort port fun x =>
             if x.trainFails < 2 then { x with trainFails := x.trainFails + 1, phase := 1 }
             else { x with trainFails := 3, phase := 0, state := .failed, retrain := false }))
       ∧ (x.state ≠ .training → exec (.trainingPhaseDone port) s = .next s ∧ exec (.trainingTimeout port) s = .next s)
       ∧ (x.state = .down → s.recov.selfFenced = false → exec (.downRetrain port) s
         = .next (s.modPort port fun x => { x.cleared with state := .training, phase := 1 }))
       ∧ (x.state = .down → s.recov.selfFenced = true → exec (.downRetrain port) s = .next s))
  ∧ (∀ (s : State) (port : Nat) (word : BitVec 256), (s.port port).state = .up →
     let w := word.toNat
     (wordSound w = false → exec (.live port word) s = .next s ∧ exec (.lack port word) s = .next s
         ∧ exec (.lnak port word) s = .next s ∧ exec (.lcredit port word) s = .next s)
       ∧ (wordSound w = true → wordFields w 1 105 = false → exec (.live port word) s
           = .next { s with mlv := { s.mlv with hdrErr := satAdd 16 s.mlv.hdrErr 1 } })
       ∧ (wordSound w = true → w.testBit 3 = false →
         (wordFields w 1 105 = true → exec (.live port word) s
             = .next (s.modPort port fun x => { x with peerId := bits w 83 72, peerPort := bits w 94 87 }))
           ∧ (wordFields w 2 72 = true → exec (.lack port word) s = .next s)
           ∧ (wordFields w 3 84 = true → exec (.lnak port word) s = .next (s.resendFrom port (bits w 83 72)))
           ∧ (wordFields w 4 112 = true → exec (.lcredit port word) s = .next (s.creditWord port w)))
       ∧ (wordSound w = true → w.testBit 3 = true → wordFields w 2 72 = true →
           exec (.lack port word) s = .next (s.lackCells port (bits w 27 16)))
       ∧ ∀ t : State, (t.port port).state = .training → (t.port port).phase = 4 → wordSound w = true → w.testBit 3 = false →
           wordFields w 1 105 = true → exec (.live port word) t = .next (t.modPort port fun x =>
             { x with
               peerId := bits w 83 72, peerPort := bits w 94 87, state := .up, phase := 0, stalled := false, trainFails := 0
               retrain := false, retry := [], txLsn := 0, rxLsn := 0, lnakAt := none }))
  ∧ (∀ (s : State) (port : Nat),
     let x := s.port port
     (x.state = .up → exec (.liveSend port) s = .next (s.sendLive port)
         ∧ exec (.lackSend port) s = .next (s.emit (.control port (x.controlFrame 2 0)))
         ∧ exec (.portDown port) s
           = .next ((((s.modPort port fun x => { x with state := .down }).countDown port).requeue port).modPort port Port.cleared))
       ∧ (x.state = .disabled → exec (.liveSend port) s = .next s ∧ exec (.lackSend port) s = .next s
         ∧ exec (.portDown port) s = .next s ∧ exec (.portStall port) s = .next s)
       ∧ (x.state = .up → x.stalled = false → x.retry ≠ [] → exec (.portStall port) s
           = .next (((s.modPort port fun x => { x with stalled := true }).countResend port).requeue port))
       ∧ (x.state = .up → x.stalled = true → exec (.stallRetrain port) s = .next ((s.startTraining port).countDown port))
       ∧ (x.stalled = false → exec (.stallRetrain port) s = .next s))

/-- Acknowledgements, resends and HELLOs of a context. R379, R382, R383, R432: an owed acknowledgement goes out in a NULL
cell with up to 63 credits, on the port with the shortest queue; an unacknowledged cell and the later ones of its class are
resent on another port at most three times; a WATCH context without traffic sends a NULL. R380, R437: a HELLO opens an
OPENING context that has sent its own, notes the partner's incarnation, and is dropped with CTX_ERR on a closed context; an
OPENING context sends its HELLO, a cell with its index and incarnation, where a port is UP. Acknowledgements ride in NULL
cells, whose class is log entry 187's (log entry 54). -/
def Obligations.Contexts : Prop :=
  (∀ (s : State) (i cls : Nat), (s.ctx i).state = .opened →
     let c := s.ctx i
     let k := c.cls cls
     let ack (cls : Nat) : State :=
       let k := c.cls cls
       let n := min 63 k.owed
       match s.bestPort c.kpr with
       | none => s
       | some q => (s.dealTo q
           { cls := cls, msg := 0, seq := 0, payload := [], ctx := i, port := q
             head := c.header s.selfId cls 0 0 (k.rxSeq + 2 ^ 48 + cls * 2 ^ 49 + n * 2 ^ 52) false }).modCtx i fun c =>
           c.modCls cls fun k => { k with owed := k.owed - n, spent := k.spent - n, ackDue := false }
     ((k.ackDue = true ∨ 0 < k.owed) → exec (.ackSend i cls) s = .next (ack cls))
       ∧ (k.ackDue = false → k.owed = 0 → exec (.ackSend i cls) s = .next s)
       ∧ (c.watch = true → exec (.watchNull i) s = .next (ack 0))
       ∧ (∀ seq port x later, (k.unacked.dropWhile fun x => x.seq ≠ seq) = x :: later → (s.port port).usable = true →
           (s.portGroup c.kpr).contains port = true →
           (k.resends < 3 → x.port ≠ port → exec (.cellResend i cls seq port) s
               = .next ((x :: later).foldl (fun s x => s.dealAgain port x)
                 ((s.modCtx i fun c => c.modCls cls fun k => { k with resends := k.resends + 1 }).modMlv fun m =>
                   { m with retransmits := satAdd 16 m.retransmits (later.length + 1) })))
             ∧ ((3 ≤ k.resends ∨ x.port = port) → exec (.cellResend i cls seq port) s = .next s)))
  ∧ (∀ (s : State) (i inc pctx : Nat),
     let c := s.ctx i
     (c.state = .opening → c.helloSent = false → (∀ cls, (c.cls cls).waiting = []) → exec (.hello i inc pctx) s
         = .next (s.modCtx i fun c =>
             { c with helloSeen := true, partnerInc := inc, partnerCtx := pctx, state := .opening }).takeoverProgress)
       ∧ (c.state = .opening → c.helloSeen = false → (∀ cls, (c.cls cls).waiting = []) →
           (∀ q, s.bestPort c.kpr = some q → exec (.helloSend i) s = .next ((s.dealTo q
               { cls := 4, msg := 1, seq := i + c.incarnation * 2 ^ 12, payload := [], ctx := i, port := q
                 head := c.header s.selfId 4 1 (i + c.incarnation * 2 ^ 12) 0 false }).modCtx i fun c =>
               { c with helloSent := true, state := .opening }).takeoverProgress)
             ∧ (s.bestPort c.kpr = none → exec (.helloSend i) s = .next s.takeoverProgress))
       ∧ (c.state = .closed → exec (.hello i inc pctx) s
           = .next { s with mlv := { s.mlv with ctxErr := satAdd 16 s.mlv.ctxErr 1 } }.takeoverProgress)
       ∧ (c.state = .opening → c.helloSent = true → Answers (.hello i inc pctx) s fun t =>
           ∃ u : State, (u.ctx i).state = .opened ∧ (u.ctx i).partnerInc = inc ∧ t = (u.ctxOpened i).takeoverProgress))

/-- What a port sends passes its peer's checks, and what it does with a frame: uncorrectable, unsound, old, ahead, and the
expected one. R367 to R371: what a port sends passes the checks of R390 at its receiver: a link control word has sound check
words, its LCTYPE and the LSN expected next; a cell's frame has sound check words, its LSN, that acknowledgement, and the
fields of its header. R372, R379, R390: CELL_RECEIVE on an UP port: an uncorrectable frame is counted and answered with LNAK;
one with a bad check word, or whose LSN lies ahead, is answered with LNAK, at most one in 1,800 root periods; an old one is
dropped; the expected one is accepted at the hop, its hop credit returned, and its fields are checked: a cell of an OPENED
context for this Keeper is placed by its SEQ, and where it is kept its acknowledgement is taken. A module whose WATCH
contexts are all LOST or FENCED by it fences itself (R435). The expected LSN advances before the field checks, and a buffer
is free with that (log entries 32 and 52). -/
def Obligations.CellReceive : Prop :=
  (∀ x : Port, x.rxLsn < 4096 →
     (∀ lctype body, lctype < 256 → body < 2 ^ 168 →
         let w := x.controlFrame lctype body
         wordSound w = true ∧ bits w 2 0 = 0 ∧ w.testBit 3 = true ∧ bits w 27 16 = x.rxLsn ∧ bits w 71 64 = lctype
           ∧ bits w 239 72 = body)
       ∧ ∀ (c : Ctx) (self cls msg seq ack lsn : Nat) (cell : TxCell), lsn < 4096 → self < 4096 → cls < 8 → msg < 256 →
         seq < 2 ^ 48 → ack < 2 ^ 58 → c.partner < 4096 → c.partnerKpr < 8 → c.kpr < 8 → c.partnerCtx < 4096 →
         cell.head = c.header self cls msg seq ack (cell.payload ≠ []) →
         let h := x.cellFrame lsn cell
         let frame := leBytes 32 h ++ cell.payload
         leNat (frame.take 32) = h ∧ crc16 (frame.take 6) = bits h 63 48
           ∧ crc32c ((frame.drop 8).take 20 ++ frame.drop 32) = bits h 255 224
           ∧ bits h 2 0 = 1 ∧ bits h 15 4 = lsn ∧ h.testBit 3 = true ∧ bits h 27 16 = x.rxLsn ∧ bits h 47 28 = 0
           ∧ bits h 66 64 = cls ∧ h.testBit 67 = decide (cell.payload ≠ []) ∧ bits h 75 68 = msg
           ∧ bits h 87 76 = c.partner ∧ bits h 90 88 = c.partnerKpr ∧ bits h 102 91 = self ∧ bits h 105 103 = c.kpr
           ∧ bits h 117 106 = (if msg = 1 then 0 else c.partnerCtx) ∧ bits h 165 118 = seq ∧ bits h 223 166 = ack)
  ∧ (∀ (s : State) (port symbols : Nat) (frame : List Byte), (s.port port).state = .up →
     let h := leNat (frame.take 32)
     let payload := frame.drop 32
     let nak (s : State) : State :=
       if (s.port port).lnakAt.any fun t => decide (s.clk.rootTime < t + 1800) then s
       else (s.emit (.control port ((s.port port).controlFrame 3 (s.port port).rxLsn))).modPort port fun x =>
         { x with lnakAt := some s.clk.rootTime }
     let sound := crc16 (frame.take 6) = bits h 63 48 ∧ (frame.length = 32 ∨ frame.length = 544)
       ∧ crc32c ((frame.drop 8).take 20 ++ payload) = bits h 255 224
     let d := seqAhead 12 (s.port port).rxLsn (bits h 15 4)
     let c : State := if symbols = 0 then s else
       (s.modPort port fun x =>
         { x with
           fecCorrected := satAdd 32 x.fecCorrected 1
           symbols := (s.clk.rootTime, min 15 symbols) :: x.recentSymbols s.clk.rootTime }).portLife port fun l =>
             { l with corrected := satAdd 64 l.corrected 1 }
     let after (s : State) : State := if s.isolated then s.selfFence else s
     exec (.cellReceive port symbols false frame) s
         = .next (after (nak ((s.modPort port fun x => { x with fecUncorrectable := satAdd 16 x.fecUncorrectable 1 }).portLife port fun l =>
           { l with uncorrectable := satAdd 64 l.uncorrectable 1 }))).takeoverProgress
       ∧ (¬ sound → exec (.cellReceive port symbols true frame) s = .next (after (nak c)).takeoverProgress)
       ∧ (sound → 2048 ≤ d → exec (.cellReceive port symbols true frame) s = .next (after c).takeoverProgress)
       ∧ (sound → 0 < d → d < 2048 → exec (.cellReceive port symbols true frame) s = .next (after (nak c)).takeoverProgress)
       ∧ (sound → d = 0 → h.testBit 3 = false →
         let a := c.modPort port fun x => { x with rxLsn := (x.rxLsn + 1) % 4096, lnakAt := none }
         (bits h 2 0 ≠ 1 → exec (.cellReceive port symbols true frame) s
             = .next (after (a.modMlv fun m => { m with hdrErr := satAdd 16 m.hdrErr 1 })).takeoverProgress)
         ∧ (bits h 2 0 = 1 → bits h 66 64 < 5 → bits h 47 28 = 0 → (decide (payload.length = 512) = h.testBit 67) →
           let a := a.returnHop port (bits h 66 64)
           let cls := bits h 66 64
           let msg := bits h 75 68
           let i := bits h 117 106
           ((bits h 87 76 ≠ s.selfId ∨ bits h 90 88 ≠ port / 8) → exec (.cellReceive port symbols true frame) s
               = .next (after (a.modMlv fun m => { m with misrouted := satAdd 16 m.misrouted 1 })).takeoverProgress)
             ∧ (bits h 87 76 = s.selfId → bits h 90 88 = port / 8 → msg ≠ 1 →
               (((s.ctx i).state ≠ .opened ∨ (s.ctx i).partner ≠ bits h 102 91 ∨ (s.ctx i).partnerKpr ≠ bits h 105 103
                   ∨ (s.ctx i).kpr ≠ port / 8) →
                 exec (.cellReceive port symbols true frame) s
                   = .next (after (a.modMlv fun m => { m with ctxErr := satAdd 16 m.ctxErr 1 })).takeoverProgress)
               ∧ ((s.ctx i).state = .opened → (s.ctx i).partner = bits h 102 91 → (s.ctx i).partnerKpr = bits h 105 103 →
                 (s.ctx i).kpr = port / 8 → msgValid cls msg (h.testBit 67) = true → bits h 217 215 < 5 →
                 let acked (s : State) : State :=
                   s.ackCells i (bits h 217 215) (bits h 213 166) (h.testBit 214) (bits h 223 218)
                 (msg = 0 → exec (.cellReceive port symbols true frame) s = .next (s.withContexts fun _ => after (acked a)))
                   ∧ (msg ≠ 0 → ∀ b kept, a.placeCell i cls (bits h 165 118) msg payload = (b, kept) →
                     exec (.cellReceive port symbols true frame) s
                       = .next (s.withContexts fun _ => after (if kept then acked b else b))))))))

/-- Contexts, modules and Keepers that are found lost. R383, R432, R433: a context with a cell that was not acknowledged in
its time, or a WATCH context without cells, is LOST; a failed Keeper, and a reopening that fails, begin a fence. What does
not meet its condition has no effect. -/
def Obligations.LossDetection : Prop :=
  ∀ (s : State) (i cls : Nat),
    let c := s.ctx i
    (c.state = .opened → (c.cls cls).unacked ≠ [] → exec (.contextLost i cls) s = .next (s.ctxLost i))
      ∧ ((c.state ≠ .opened ∨ (c.cls cls).unacked = []) → exec (.contextLost i cls) s = .next s)
      ∧ (c.state = .opened → c.watch = true → exec (.watchLost i) s = .next (s.ctxLost i))
      ∧ (c.watch = false → exec (.watchLost i) s = .next s)
      ∧ (c.state = .lost → c.watch = false → s.recov.selfFenced = false →
          exec (.reopenTimeout i) s = .next (s.moduleFence c.partner (s.gen c.partner + 1) none))
      ∧ (c.state = .opened → exec (.reopenTimeout i) s = .next s)
      ∧ (∀ k, k < 8 → s.idAssigned = true → s.recov.selfFenced = false →
          exec (.keeperFailure k) s = .next (s.moduleFence s.selfId (s.gen s.selfId + 1) none))

/-- A spare's takeover and the end of a replay. R437, R438, R385: an armed spare that has waited takes its ID; a takeover
whose claim is not bound is blocked, with its event; a peer's completion of class 4 for this spare's own SPARE_ADMIT ends the
takeover; a completion for another command, or for a copy that it has forwarded, is taken. R449, R450: a replay of one
partition that has formed every bucket and whose recorded tiles have left for the host leaves its partition idle and
completes, MATCH set where every digest was found equal to a note; a replay of a whole herd does so once the partition has
committed the replayed step and is idle; until then it goes on. Plans and contexts of a standby follow log entries 42 and 43,
the replay of a herd and its records entries 170 and 220. -/
def Obligations.TakeoverAndReplay : Prop :=
  (∀ (s : State) (i head f g : Nat), s.recov.taking = some (f, g) → s.recov.role = .taking →
     (s.selfId ≠ f → exec (.admitWaitExpiry f) s = .next (s.takeId f))
       ∧ (s.selfId = f → exec (.admitWaitExpiry f) s = .next s)
       ∧ (s.selfId = f → s.recov.pull = 0 → exec (.takeoverBlocked) s
           = .next ({ s with recov := { s.recov with takeoverBlocked := true } }.event 5 1))
       ∧ (s.recov.pull ≠ 0 → exec (.takeoverBlocked) s = .next s)
       ∧ ((s.ctx i).state = .opened →
         let b := s.took i 1 1
         let answered : State := { b with recov := { b.recov with admitOn := none } }
         (b.recov.role = .taking → b.recov.admitOn = some i → bits head 47 40 = 0x51 →
             exec (.peerCpl i head) s = .next (if bits head 15 12 = 4 then answered.giveUpTakeover else answered))
           ∧ ((bits head 47 40 ≠ 0x51 ∨ b.recov.admitOn ≠ some i) → exec (.peerCpl i head) s = .next (s.took i 1 1))))
  ∧ (∀ (s : State) (csn p : Nat), s.recov.replayCmd = some (p, csn) →
     let x := s.part p
     let formed := x.keepers.all fun k => (x.bucketsOf k).all fun b => bkPages b ≤ ((s.kpart k p).bucket (bkNum b)).sent.length
     let matched := !s.recov.replayMismatch && !s.recov.replayMissed
     (x.herdReplay = false → formed = true → x.beforeFence = false → s.recov.record = [] →
         exec (.diagReplayEnd csn) s = .next ((s.leaveReplay p matched).final csn {}))
       ∧ (s.recov.record ≠ [] → exec (.diagReplayEnd csn) s = .next s)
       ∧ (x.herdReplay = false → (formed = false ∨ x.beforeFence = true) → exec (.diagReplayEnd csn) s = .next s)
       ∧ (x.herdReplay = true → x.phase = .idle → x.version = s.recov.replayStep + 1 → s.recov.record = [] →
         exec (.diagReplayEnd csn) s = .next ((s.leaveReplay p matched).final csn {}))
       ∧ (x.herdReplay = true → (x.phase ≠ .idle ∨ x.version ≠ s.recov.replayStep + 1) →
         exec (.diagReplayEnd csn) s = .next s)
       ∧ (∀ c, c ≠ csn → exec (.diagReplayEnd c) s = .next s))

/-- Accesses to BAR0 by their codes and leases, and the control bits of a port. R15, R138, R456, R473: a register access of
another size or alignment counts in BAD_ACCESS and does nothing else, a read of it answering 0; a write whose lease another
master holds is ignored and counted; RW fields take the value, W1C bits are cleared by ones; a read of a station that is
being filled waits, any other is answered at once. An access of a station's window and its answer cross the mesh as control
packets (R241). R364, R365, R392: the holder of the Keeper's lease disables a port, enables it into training at T1, or trains
it again; a write of another master is ignored and counted, and one to an absent port is ignored. A port of a self-fenced
module does not train (R435). Half reads and leases follow log entries 51, 102 and 138. -/
def Obligations.RegistersAndPorts : Prop :=
  (∀ (s : State) (src : Source) (o size : Nat) (v : BitVec 64), s.cxlServed = true →
     (¬ ((size = 4 ∨ size = 8) ∧ o % size = 0 ∧ o < 0x4000000) → (windowStation o).any s.beingFilled = false →
         let b := s.modArb fun a => { a with badAccess := satAdd 8 a.badAccess 1 }
         exec (.registerWrite src o size v) s = .next b ∧ exec (.registerReadClear src o size) s = .next (b.emit (.readData 0 false)))
       ∧ (∀ f, f < 64 → s.boot.mode ≠ 2 →
           (s.holds src (s.fieldLease f) = false →
             exec (.registerWrite src (0x1000210 + 0x10000 * f) 8 v) s = .next s.refuseLease)
           ∧ (s.holds src (s.fieldLease f) = true → exec (.registerWrite src (0x1000210 + 0x10000 * f) 8 v) s
             = .next (s.modField f fun x => { x with scrubEn := v.getLsbD 0, scrubPeriod := v.extractLsb' 1 3 }))
           ∧ exec (.registerWrite src (0x1000200 + 0x10000 * f) 8 v) s
             = .next (s.modField f fun x => { x with unrecoverable := x.unrecoverable && !v.getLsbD 17 }))
       ∧ (∀ st, st < 65536 → stationOk st = true → s.boot.mode ≠ 2 →
           let packet (type : Nat) (s : State) : State := s.emit (.access st (accessHeader st type))
           exec (.registerWrite src (0x2000060 + 256 * st) 8 v) s = .next (packet 3 ((packet 1 s).modStation st fun y =>
             { y with streamSel := v.extractLsb' 0 16, streamDir := v.getLsbD 16 }))
           ∧ (∀ offset, offset < 256 →
               (s.beingFilled st = true → exec (.stationWindowRead st offset) s = .next ((packet 0 s).modHost fun h =>
                 { h with reads := h.reads ++ [(0x2000000 + 256 * st + offset / 8 * 8, 8)] }))
               ∧ (s.beingFilled st = false → exec (.stationWindowRead st offset) s
                 = .next (((packet 2 (packet 0 s)).readBar0 (0x2000000 + 256 * st + offset / 8 * 8) 8).2.emit
                   (.readData ((packet 2 (packet 0 s)).readBar0 (0x2000000 + 256 * st + offset / 8 * 8) 8).1 false)))))
       ∧ ((windowStation o).any s.beingFilled = false →
           let a := (s.overMesh o size 0).overMesh o size 2
           exec (.registerReadClear src o size) s = .next ((a.readBar0 o size).2.emit (.readData (a.readBar0 o size).1 false))))
  ∧ (∀ (s : State) (src : Source) (port : Nat), s.cxlServed = true → s.boot.mode ≠ 2 →
     let x := s.port port
     (s.portPresent port = false → (∀ on, exec (.mlvPortEnable src port on) s = .next s) ∧ exec (.retrain src port) s = .next s)
       ∧ (s.portPresent port = true → s.holds src (8 + port / 8) = false →
           (∀ on, exec (.mlvPortEnable src port on) s = .next s.refuseLease) ∧ exec (.retrain src port) s = .next s.refuseLease)
       ∧ (s.portPresent port = true → s.holds src (8 + port / 8) = true →
           (x.state = .disabled → s.recov.selfFenced = false → exec (.mlvPortEnable src port true) s = .next (s.modPort port fun x =>
               { { x with enable := true }.cleared with state := .training, phase := 1 }))
             ∧ ((x.state ≠ .disabled ∨ s.recov.selfFenced = true) →
               exec (.mlvPortEnable src port true) s = .next (s.modPort port fun x => { x with enable := true }))
             ∧ (x.state ≠ .up → exec (.mlvPortEnable src port false) s = .next (s.modPort port fun x =>
               { x.cleared with enable := false, retrain := false, state := .disabled, phase := 0, stalled := false }))
             ∧ (x.enable = false → exec (.retrain src port) s = .next s)
             ∧ (x.enable = true → x.state ≠ .up → s.recov.selfFenced = false → exec (.retrain src port) s
               = .next (s.modPort port fun x => { x.cleared with state := .training, phase := 1, retrain := true }))))

/-- Data queues pass tiles to the mesh and to the host under credits and free slots. R156, R157, R449, R454, R460: a producer
index goes to its queue, one outside its slots sets ERR; an input tile is read from host memory and goes to the mesh under
the next sequence number with a credit, unless recording holds its stream, and the consumer index goes to the host; an output
tile fills a free slot, a recorded one before any other. One slot stays free, and input credits are computed (log entries 26
and 141); recorded tiles and write types follow entries 220 and 221. -/
def Obligations.DataQueues : Prop :=
  ∀ (s : State) (p q : Nat) (v : BitVec 32) (tile : List Byte) (e : Nat), s.cxlServed = true → p < 8 → q < 64 →
    let d := s.dq (64 * p + q)
    let n := bits v.toNat 15 0
    d.present = true →
    (d.slots ≤ n → exec (.cxlDqDb p q v) s = .next (s.modRing 0 fun r => { r with err := true }))
      ∧ (n < d.slots → d.output = false →
          exec (.cxlDqDb p q v) s = .next (s.modDq (64 * p + q) fun d => { d with prod := n }))
      ∧ (d.output = false → (s.part p).inputStream q = some e →
          ((d.prod = d.cons ∨ (((s.part p).dests e).all (s.inputCredit p e d.seq)) = false ∨ s.recordHolds p e = true) →
            exec (.dqInputTile p q tile) s = .next s)
          ∧ (d.prod ≠ d.cons → (((s.part p).dests e).all (s.inputCredit p e d.seq)) = true → s.recordHolds p e = false →
            let next := (d.cons + 1) % d.slots
            let a := s.emit (.rdCurr (d.base.toNat + d.cons * (streamSpace e).bytes) (streamSpace e).bytes)
            exec (.dqInputTile p q tile) s
              = .next (((((a.emit (.tile (0x30000 + 64 * p + q) (bits e 15 0) d.seq (tileOf e tile)
                ((s.part p).tileHeader e 0 d.seq (tileOf e tile).length))).recordTile p (bits e 15 0) d.seq (tileOf e tile)).modDq (64 * p + q) fun d =>
                { d with cons := next, seq := (d.seq + 1) % 2 ^ 48 }).emit
                  (.hostWrite d.index.toNat (leBytes 4 next))).recompute p)))
      ∧ (d.output = true → (s.part p).outputStream q = some e →
          let sent := sget 0 (sget {} (s.station (sdSrc e)).core.outb (bits e 15 0)).used (0x30000 + q)
          let next := (d.prod + 1) % d.slots
          let record : Bool := s.recov.record ≠ [] && s.recordQueue p == some q && (s.part p).replayKey.isSome
          (record = true → d.freeSlots ≠ 0 → exec (.dqOutputTile p q tile) s = .next (s.recordOut p q e))
            ∧ (((record = false ∧ sent = 0) ∨ d.freeSlots = 0) → exec (.dqOutputTile p q tile) s = .next s)
            ∧ (record = false → sent ≠ 0 → d.freeSlots ≠ 0 → exec (.dqOutputTile p q tile) s
              = .next ((((s.emit (.hostWrite (d.base.toNat + d.prod * (tileOf e tile).length) (tileOf e tile))).modDq (64 * p + q)
                fun d => { d with prod := next, seq := (d.seq + 1) % 2 ^ 48 }).emit
                  (.hostWrite d.index.toNat (leBytes 4 next))).creditReturn (sdSrc e) (bits e 15 0) (0x30000 + q) 1)))

/-- A reset of the management port resets the port alone. R526: MGMT_PORT_RESET mutes the accepted commands of the management
port, which run to their end and whose completions and data messages are discarded; it empties the data-in buffer and the
event queue and clears the enclosure manager's configurations; leases and everything outside the port stay. -/
def Obligations.ManagementPortReset : Prop :=
  ∀ s : State, s.mgmtServed = true →
    (exec .mgmtPortReset s = .next { s with
        arb := { s.arb with
          inflight := s.arb.inflight.map fun f => if f.cmd.packet.src = .mgmt then { f with muted := true } else f }
        mgmt := { s.mgmt with
          linked := false, portResets := satAdd 16 s.mgmt.portResets 1, dataIn := none, queue := [], events := {}
          mgmtTelem := { seq := s.mgmt.mgmtTelem.seq, skipped := s.mgmt.mgmtTelem.skipped } } })
      ∧ ∀ f ∈ s.arb.inflight, f.cmd.packet.src = .mgmt →
          (∀ (u : State) (addr : Nat) (data : List Byte), u.flightData { f with muted := true } addr data = u)
            ∧ ∀ (u : State) (r : Res), u.flight f.csn = some { f with muted := true } → u.final f.csn r = { u with
                arb := { u.arb with inflight := u.arb.inflight.filter fun g => g.csn != f.csn }
                mgmt := { u.mgmt with outstanding := u.mgmt.outstanding - 1 } }

/-- Data-in messages, telemetry samples, snapshots that come due, and sensor calibration. R524, R527, R528, R531: the newest
data-in message replaces the buffer; a place samples its record; a snapshot that comes due goes to each master whose
telemetry is on, or is counted as skipped; a sensor is calibrated unless held or barred. Stale samples and SLOTS follow log
entry 111. -/
def Obligations.Telemetry : Prop :=
  (∀ (s : State) (tag : BitVec 8) (data : List Byte), s.boot.stage = .ready → data ≠ [] → data.length ≤ 67108864 →
      exec (.mgmtDataIn tag data) s = .next (s.modMgmt fun m => { m with linked := true, dataIn := some (tag, data) }))
    ∧ (∀ (s : State) (place : Nat) (bs : List Byte), s.telemetryRecord place = some bs →
        exec (.telemetrySample place) s = .next (s.modLife fun l =>
          { l with samples := sset ⟨0, []⟩ l.samples place ⟨s.clk.rootTime, bs⟩ }))
    ∧ (∀ s : State, s.mgmt.mgmtTelem.enable = false →
        let t := s.mgmt.hostTelem
        (t.enable = false → ∀ a b, exec (.snapshotAssembly a b) s = .next s)
          ∧ (t.enable = true → (∀ b, exec (.snapshotAssembly true b) s = .next (s.modMgmt fun m =>
              { m with hostTelem := { t with due := t.due + 1, skipped := satAdd 8 t.skipped 1 } }))
            ∧ ∀ b, Answers (.snapshotAssembly false b) s fun u =>
              u.mgmt.hostTelem.seq = t.seq + 1 ∧ u.mgmt.hostTelem.skipped = t.skipped
                ∧ ∃ bs, u.out = .hostWrite (t.addr.toNat + 16384 * ((t.seq + 1) % t.slots)) bs :: s.out
                  ∧ bs.take 8 = leBytes 8 (t.seq + 1)))
    ∧ ∀ (s : State) (f : Nat), f < 64 →
        (3 ≤ (s.region f).stage → exec (.sensorCalibration (64 * f)) s = .next s)
          ∧ ((s.region f).stage < 3 → s.life.calHold = false → s.paused = false → exec (.sensorCalibration (64 * f)) s
            = .next (s.modLife fun l => { l with calibrated := sset 0 l.calibrated (64 * f) s.clk.rootTime }))

/-- Wear of a field, counter sets, and requests for attestation from peers. R532 to R534, R536, R542: a second of a powered
field above 85 °C is hot time, and 90 % of a budget warns; a field without power gains nothing; a counter set is written, a
failed one setting WRITE_FAIL; an ATT_REQ beyond its limits is dropped and counted, another is answered on the management
class. Wear arithmetic and record layouts follow log entries 107 and 108. -/
def Obligations.Lifetime : Prop :=
  (∀ (s : State) (f amps : Nat), f < 64 →
      (((s.field f).isOff = true ∨ s.unpowered = true) → exec (.wearAccumulate f amps) s = .next s)
        ∧ ((s.field f).isOff = false → s.unpowered = false → Answers (.wearAccumulate f amps) s fun t =>
          let w := s.wear f
          (t.wear f).hot = (if 85 < (s.region f).temp then w.hot + 1 else w.hot)
            ∧ (t.wear f).em = w.em + emUnits amps (s.region f).temp ∧ (t.wear f).stress = w.stress + (s.pwr.vin - 600)
            ∧ (90 * 20000 * 3600 ≤ 100 * (t.wear f).hot → (t.wear f).warn = true)
            ∧ (20000 * 3600 ≤ (t.wear f).hot → (t.wear f).derated = true)
            ∧ (∀ g, g ≠ f → t.wear g = s.wear g) ∧ t.fields = s.fields ∧ t.parts = s.parts))
    ∧ (∀ (s : State) (ok : Bool), Answers (.counterSetWrite ok) s fun t =>
        t.life.writeFail = (s.life.writeFail || !ok) ∧ t.parts = s.parts ∧ t.fields = s.fields ∧ t.out = s.out
          ∧ ∃ r ∈ t.life.records, r.type = 1 ∧ r.subject = 0 ∧ r.seq = s.life.lastSeq + 1)
    ∧ ∀ (s : State) (i head : Nat), (s.ctx i).state = .opened →
        (s.life.attEn = false → exec (.attReq i head) s = .next ((s.took i 4 1).modLife fun l =>
            { l with attDropped := satAdd 16 l.attDropped 1 }))
          ∧ (∀ report t, s.life.attEn = true → s.life.lastAtt = none → (s.took i 4 1).attest (leBytes 32 head) = some (report, t) →
            exec (.attReq i head) s = .next ((t.modLife fun l => { l with lastAtt := some t.clk.rootTime }).send i 4 0x51
              (report.take 512) true (report.drop 512 ++ List.replicate (2560 - (report.drop 512).length) 0)))

/-- Lost and restored supply pairs, the marginal bands, and CLIP. R482, R484: a pair that falls below 50 V is lost and the
limit is that of one pair; it returns at 50 V to 70 V; a change of band is shown; CLIP is set at 98 % of the limit and
counted, and released below 90 %. 54.0 V counts as operating (log entry 94). -/
def Obligations.SupplyEvents : Prop :=
  ∀ s : State,
    (∀ volts, volts < 500 → 500 ≤ s.pwr.vinA → 500 ≤ s.pwr.vinB → ∀ pair, pair < 2 →
        Answers (.pairLost pair volts) s fun t => t.pwr.currentLimit = 400
          ∧ t.pwr.vin = max volts (if pair = 0 then s.pwr.vinB else s.pwr.vinA) ∧ t.boot = s.boot ∧ t.fields = s.fields)
      ∧ (∀ volts, 500 ≤ volts → volts ≤ 700 → s.pwr.vinA < 500 → 500 ≤ s.pwr.vinB →
        Answers (.pairRestored 0 volts) s fun t => t.pwr.currentLimit = 700 ∧ t.pwr.vinA = volts ∧ t.pwr.vinB = s.pwr.vinB)
      ∧ (∀ a b, s.pwr.supply = .operating → 660 < max a b → max a b ≤ 700 → exec (.marginalBandChange a b) s
          = .next (s.modPwr fun p => { p with vinA := a, vinB := b, supply := .marginal }))
      ∧ (∀ a b, s.pwr.supply = .marginal → 540 ≤ max a b → max a b ≤ 660 → exec (.marginalBandChange a b) s
          = .next (s.modPwr fun p => { p with vinA := a, vinB := b, supply := .operating }))
      ∧ (∀ amps, s.pwr.clip = false → 98 * s.pwr.currentLimit ≤ 100 * amps → Answers (.clipAssert amps) s fun t =>
          t.pwr = { s.pwr with iin := amps, clip := true, clips := satAdd 16 s.pwr.clips 1 }
            ∧ t.life = { s.life with clipsTotal := satAdd 32 s.life.clipsTotal 1 } ∧ t.fields = s.fields)
      ∧ (∀ amps, s.pwr.clip = true → 100 * amps < 90 * s.pwr.currentLimit →
          exec (.clipRelease amps) s = .next (s.modPwr fun p => { p with iin := amps, clip := false }))

/-- An evaluation of the power arbiter, and a sample of an issue gate. R487 to R490, R492, R500: an evaluation takes the
measured values, sets the budget to the lowest of its terms, and puts waiting tables in force; a sample above the grant
lowers ISSUE in proportion, to no less than 8, and CLIP holds it at 16. Units and gated regions follow log entries 95, 96 and
212. -/
def Obligations.PowerArbiter : Prop :=
  (∀ (s : State) (measures : List Nat) (powers : List (Nat × Nat)), Answers (.powerEvaluation measures powers) s fun t =>
      let p := s.pwr.measure measures
      let cap := (s.pwr.newGrants.map (·.1)).getD s.pwr.cap
      t.pwr.vinA = p.vinA ∧ t.pwr.vinB = p.vinB ∧ t.pwr.limitSupply = p.currentLimit * p.lowVin / 100
        ∧ t.pwr.limitCool = min 4200 (6 * (p.flow * (50 - p.inlet)))
        ∧ t.pwr.budget = min (min 4200 t.pwr.limitSupply) (min t.pwr.limitCool (if cap = 0 then 4200 else cap))
        ∧ t.pwr.newGrants = none ∧ t.pwr.newLimits = none ∧ t.pwr.limits = s.pwr.newLimits.getD s.pwr.limits
        ∧ t.fields = s.fields ∧ t.parts = s.parts)
    ∧ ∀ (s : State) (i p : Nat), i < 80 →
        let r := s.region i
        (r.effective < p → s.pwr.clip = false → r.stage ≠ 3 → exec (.issueGateSample i p) s
            = .next (s.modRegion i fun r => { r with issue := max 8 (r.issue * r.effective / p), lowSamples := 0 }))
          ∧ (p ≤ r.effective → 10 * p < 9 * r.effective → r.lowSamples = 7 → s.pwr.clip = false → r.stage ≠ 3 →
            exec (.issueGateSample i p) s
              = .next (s.modRegion i fun r => { r with issue := min 64 (r.issue + 4), lowSamples := 8 }))
          ∧ Answers (.issueGateSample i p) s fun t =>
            (s.pwr.clip = true → (t.region i).issue ≤ 16) ∧ (r.stage = 3 → (t.region i).issue ≤ 8)

/-- The thermal ladder of a field, the thermal divider of a half, and coolant faults. R495: a reading at THROTTLE puts a
field in stage 1 with its cap one step below its grant; the cap falls by G0/16 to FLOOR, and rises again after exit until it
is G0; a field 3 K below leaves stage 3 for 1 and stage 1 for 0. R478, R496, R500: the thermal divider of a half slows by one
step while a powered field of it reads HALF or more, to at most MAX_DIV, and speeds up once all stand 5 K below; a coolant
fault fences a module with an ID. Crossings of the ladder follow log entries 97 and 98. -/
def Obligations.Thermal : Prop :=
  (∀ (s : State) (f t : Nat), f < 64 →
     let r := s.region f
     let g := r.effective
     let floor := (s.pwr.entry f).floor
     (s.throttleAt f ≤ t → t < s.pwr.limits.off → t < s.pwr.limits.emerg → r.stage = 0 → (s.field f).isOff = false →
         exec (.sensorRead [(f, t)]) s = .next (s.modRegion f fun r =>
           { r with temp := t, stage := 1, g0 := g, cap := some (max floor (g - g / 16)) }))
       ∧ (t < s.throttleAt f → t < s.pwr.limits.off → t < s.pwr.limits.emerg → (s.field f).band ≠ 3 →
           exec (.sensorRead [(f, t)]) s = .next (s.modRegion f fun r => { r with temp := t }))
       ∧ (∀ c, r.cap = some c → (r.stage = 1 ∨ r.stage = 3) →
           exec (.thermalCapStep f) s = .next (s.modRegion f fun r => { r with cap := some (max floor (c - r.g0 / 16)) }))
       ∧ (∀ c, r.cap = some c → r.stage = 0 → exec (.thermalCapStep f) s
           = .next (s.modRegion f fun r => { r with cap := if r.g0 ≤ c + r.g0 / 16 then none else some (c + r.g0 / 16) }))
       ∧ (r.stage = 3 → r.temp + 3 ≤ s.pwr.limits.off → exec (.thermalStageExit f) s
           = .next (s.modRegion f fun r => { r with stage := 1 }))
       ∧ (r.stage = 1 → r.temp + 3 ≤ s.throttleAt f → (s.field f).band < 3 → exec (.thermalStageExit f) s
           = .next (s.modRegion f fun r => { r with stage := 0 })))
  ∧ (∀ (s : State),
     (∀ (east : Bool) (f : Nat), f ∈ s.halfFields east → s.pwr.limits.half ≤ (s.region f).temp →
         s.clk.therm east < s.pwr.limits.maxDiv →
         exec (.thermalDividerStep east) s = .next (s.setTherm east (s.clk.therm east + 1)))
       ∧ (∀ east : Bool, (∀ f ∈ s.halfFields east, (s.region f).temp + 5 ≤ s.pwr.limits.half ∧ s.atFloor f = false) →
         exec (.thermalDividerStep east) s = .next (s.setTherm east (s.clk.therm east - 1)))
       ∧ (∀ flow a b, 30 ≤ flow → a ≤ 60 → b ≤ 60 → exec (.coolantFault flow a b) s = .next s)
       ∧ (∀ flow a b, (flow < 30 ∨ 60 < a ∨ 60 < b) → s.idAssigned = true → s.recov.selfFenced = false →
           let t := s.modPwr fun p => { p with flow := flow, outWafer := a, outCarrier := b }
           exec (.coolantFault flow a b) s = .next (t.moduleFence t.selfId (t.gen t.selfId + 1) none)))

/-- What switches the module off, and what powers it up or resets it. R479, R483, R485, R550: undervoltage, overvoltage, a
deasserted enable pin, and a lost reference or PLL lock switch the module off; overvoltage latches until the pin is
deasserted; a second trip of a field's eFuse within 1 s of re-arming locks it out. R479, R483, R504, R514, R554: after
lockout, above 52 V, with the enable pin and the lock, the module powers up for cause 4; the enable pin powers it up for
cause 0, or 5 after overvoltage, and the lock's return for cause 6; a control processor's missed heartbeat is a warm reset,
of a module that has fenced itself before (R433); PERST takes a slow tier's link down. What a restart keeps follows log
entries 104 and 105. -/
def Obligations.SwitchingOffAndOn : Prop :=
  (∀ (s : State),
     let off : State := s.switchOff
     (∀ a b, max a b < 500 → Answers (.supplyUndervoltage a b) s fun t => t.boot.stage = .off
         ∧ (s.boot.stage ≠ .off → t.parts = [] ∧ t.hbm.mem = [] ∧ t.store = []) ∧ t.fuses = s.fuses ∧ t.pwr.vinA = a
         ∧ t.pwr.vinB = b ∧ t.boot.flash = s.boot.flash)
       ∧ (∀ a b, 500 ≤ max a b → exec (.supplyUndervoltage a b) s = .next s)
       ∧ (∀ a b, 700 < max a b → exec (.supplyOvervoltage a b) s
           = .next (off.modPwr fun p => { p with vinA := a, vinB := b, supply := .overvoltage, latched := true }))
       ∧ exec .enableDeassert s = .next (off.modPwr fun p => { p with enable := false, latched := false })
       ∧ exec .refLoss s = .next { off with clk := { off.clk with lock := false, refLost := true } }
       ∧ exec .pllLockLoss s = .next { off with clk := { off.clk with lock := false, refLost := true } }
       ∧ (∀ f, f < 64 → (s.region f).tripped = false → (s.field f).isOff = false → (s.region f).rearmed = none →
           Answers (.efuseTrip f) s fun t => (t.region f).tripped = true ∧ (t.region f).lockout = (s.region f).lockout
             ∧ (t.field f).state = .lost))
  ∧ (∀ (s : State),
     (s.boot.stage = .off → s.pwr.supply = .lockout → s.pwr.enable = true → s.clk.lock = true →
         ∀ a b, 520 < max a b → max a b ≤ 700 → exec (.uvloRestart a b) s = .next ((s.setVin a b).powerUp 4))
       ∧ (s.boot.stage ≠ .off → (∀ a b, exec (.uvloRestart a b) s = .next s) ∧ ∀ a b, exec (.powerUp a b) s = .next s)
       ∧ (s.boot.stage = .off → s.pwr.latched = false → s.clk.lock = true → ∀ a b, 520 < max a b → max a b ≤ 700 →
         Answers (.powerUp a b) s fun t => t.boot.stage = .carrier ∧ t.boot.kind = .powerUp
           ∧ t.boot.cause = (if s.pwr.supply = .overvoltage then 5 else 0) ∧ t.pwr.enable = true ∧ t.parts = [] ∧ t.boot.mode = 0)
       ∧ (s.clk.lock = true → exec .refRestored s = .next s)
       ∧ (s.clk.lock = false → s.boot.stage = .off → s.pwr.enable = true → s.pwr.supply = .operating →
         Answers .refRestored s fun t => t.boot.stage = .carrier ∧ t.boot.cause = 6 ∧ t.clk.lock = true)
       ∧ (s.boot.stage = .off → exec .cpWatchdog s = .next s)
       ∧ (s.boot.stage ≠ .off → Answers .cpWatchdog s fun t =>
           let u := s.watchdogFence
           t.boot.stage = .carrier ∧ t.boot.kind = .warm ∧ t.boot.cause = 3
             ∧ t.boot.wdStreak = min 3 (u.boot.wdStreak + 1) ∧ t.fuses = u.fuses ∧ t.pending = u.pending
             ∧ ((s.boot.stage ≠ .ready ∨ s.idAssigned = false ∨ s.recov.selfFenced = true) → u = s)
             ∧ (s.boot.stage = .ready → s.idAssigned = true → s.recov.selfFenced = false →
               u = { s.moduleFence s.selfId (s.gen s.selfId + 1) none with parts := s.parts }))
       ∧ (∀ t, s.tierPresent t = true → exec (.slowTierPerst t) s = .next (s.modTier t fun x => { x with linkUp := false })))

/-- Bring-up completes in normal mode, FAULTED or recovery mode, and goes on past a stage that overruns. R504 to R506, R508,
R510: bring-up ends in recovery mode with REASON where no image can be run, and else in normal mode, or FAULTED once a unit
that every partition needs has failed; a stage that overruns fails its unit and bring-up goes on. R504 to R506, R509, R510,
R551: BRINGUP_READY before ready completes: in recovery mode where the carrier stage finds no image to run, else in normal
mode with the image's versions, or FAULTED where a Keeper has failed or coolant does not flow; the Keepers, the HBM and the
wafer then stay without power. The link then has a width and a rate (the model's choice, log entry 137).
BRINGUP_STAGE_TIMEOUT completes in the stage of its unit: the unit has failed, a field so being held off, and bring-up goes
on with the next wave, or with the links after the last; in another stage it has no effect. Starts and their records follow
log entry 106. -/
def Obligations.BringUp : Prop :=
  (∀ (s : State) (flashOk : Bool) (ms : Nat),
     (s.boot.stage = .ready → ∀ failed, exec (.bringupReady flashOk ms failed) s = .next s)
       ∧ (s.boot.stage = .carrier → s.bootReason flashOk ≠ 0 → ∀ failed,
         Answers (.bringupReady flashOk ms failed) s fun t => t.boot.stage = .ready ∧ t.boot.mode = 2
           ∧ t.boot.reason = s.bootReason flashOk ∧ t.boot.readyMs = min 65535 ms ∧ t.mlv = s.mlv ∧ t.parts = s.parts)
       ∧ (s.boot.stage = .carrier → s.bootReason flashOk = 0 → ∀ failed, Answers (.bringupReady flashOk ms failed) s fun t =>
           t.boot.stage = .ready ∧ (t.boot.mode = 1 ∨ t.boot.mode = 3) ∧ t.boot.secVersion = s.boot.flash.secVersion)
       ∧ (s.boot.stage = .keepers → ∀ k, k < 8 → exec (.bringupStageTimeout (64 + k)) s
           = .next { s with boot := { s.boot with faulted := true, stage := .wave 0 } })
       ∧ (s.boot.stage = .ready → ∀ u, exec (.bringupStageTimeout u) s = .next s))
  ∧ (∀ (s : State) (flashOk : Bool) (ms : Nat) (failed : List Nat),
     let r := s.bootReason flashOk
     (s.boot.stage = .carrier → r ≠ 0 → exec (.bringupReady flashOk ms failed) s = .next (s.readyRecovery r ms).linkTrained)
       ∧ (s.boot.stage ≠ .off → s.boot.stage ≠ .ready → (s.boot.stage = .carrier → r = 0) →
           ∃ t, exec (.bringupReady flashOk ms failed) s = .next t ∧ t.boot.stage = .ready ∧ t.boot.reason = 0
             ∧ (t.boot.mode = 1 ∨ t.boot.mode = 3) ∧ (s.boot.faulted = true → t.boot.mode = 3)
             ∧ ((∃ k ∈ failed, 64 ≤ k ∧ k < 72) → t.boot.mode = 3)
             ∧ (s.boot.stage = .carrier → s.lowFlow = true → t.boot.mode = 3 ∧ t.boot.dry = true ∧ t.mlv = s.mlv) ∧ t.boot.readyMs = min 65535 ms
             ∧ t.boot.secVersion = s.boot.flash.secVersion ∧ t.boot.build = s.boot.flash.build
             ∧ t.boot.imageDigest = s.boot.flash.digest)
       ∧ ((s.boot.stage = .off ∨ s.boot.stage = .ready) → exec (.bringupReady flashOk ms failed) s = .next s)
       ∧ ∀ u : Nat,
         let at' (g : Stage) : State := (s.failUnit u).modBoot fun b => { b with stage := g }
         let early := s.boot.stage = .keepers ∨ (s.boot.stage = .carrier ∧ s.bootReason true = 0 ∧ s.lowFlow = false)
         (u < 64 → s.boot.stage = .links → exec (.bringupStageTimeout u) s = .next (at' .links))
           ∧ (u < 64 → (early ∨ ∃ c, c ≤ u % 8 ∧ s.boot.stage = .wave c) →
             exec (.bringupStageTimeout u) s = .next (at' (if u % 8 = 7 then .links else .wave (u % 8 + 1))))
           ∧ (u < 64 → (∃ c, u % 8 < c ∧ s.boot.stage = .wave c) → exec (.bringupStageTimeout u) s = .next s)
           ∧ ((64 ≤ u ∧ u < 72 ∨ 128 ≤ u ∧ u < 160) → early → exec (.bringupStageTimeout u) s = .next (at' (.wave 0)))
           ∧ (u < 64 → (s.field u).state = .inService → ∀ g, ((at' g).field u).state = .lost ∧ (at' g).boot.stage = g)
           ∧ (64 ≤ u → u < 72 → ∀ g, (at' g).boot.faulted = true ∧ (at' g).boot.stage = g)
           ∧ (128 ≤ u → u < 160 → s.stackPresent (u - 128) = true → ∀ g, ((at' g).stack (u - 128)).fault = true))

/-- A firmware image is checked, programmed and read back. R512, R513: FW_IMAGE_HELD of an update that is reading posts the
class 1 completion and holds LENGTH bytes, of host memory or the data-in buffer; an image that passes its checks is
programmed, one that fails ends the update with its reason. FW_PROGRAM_DONE of an update that is programming: a read-back
that succeeds puts the image into flash and completes, and a first failure is tried once more, a second completing with
0x6002; a reset held for the update's end then begins. In another stage, or with no update, neither has an effect. The slot
of the update follows log entry 131. -/
def Obligations.FirmwareUpdate : Prop :=
  ∀ (s : State) (u : FwUpdate), s.boot.update = some u →
    (∀ image, u.stage = .reading → s.flight u.csn = none → imageFault s.fuses image = none →
        exec (.fwImageHeld image) s = .next { s with boot :=
          { s.boot with
            update := some { u with stage := .programming false, held := image }, intent := true, updateRunning := true } })
      ∧ (∀ image fl, u.stage = .reading → s.flight u.csn = some fl →
        let n := bits fl.cmd.packet.params.toNat 95 64
        let bs := if fl.cmd.packet.src = .mgmt then fl.cmd.packet.data else image
        let img := (bs ++ List.replicate (n - bs.length) 0).take n
        let a := if fl.muted then s else s.reply true fl.dest fl.cmd u.csn { status := 0x1000 }
        (imageFault a.fuses img = none → exec (.fwImageHeld image) s = .next { a with boot :=
          { a.boot with
            update := some { u with stage := .programming false, held := img }, intent := true, updateRunning := true } })
          ∧ ∀ reason offset, imageFault a.fuses img = some (reason, offset) → exec (.fwImageHeld image) s
            = .next ({ a with boot := { a.boot with update := none } }.final u.csn
              (if reason ≤ 3 then { status := 0x2004, result := offset } else { status := 0x7003 })))
      ∧ (u.stage ≠ .reading → ∀ image, exec (.fwImageHeld image) s = .next s)
      ∧ (u.stage = .reading → ∀ success, exec (.fwProgramDone success) s = .next s)
      ∧ (∀ v : State, v.boot.update = none → ∀ image success,
          exec (.fwImageHeld image) v = .next v ∧ exec (.fwProgramDone success) v = .next v)
      ∧ (∀ r, u.stage = .programming r →
          exec (.fwProgramDone true) s = .next (({ s with
              boot :=
                { s.boot with
                  intent := false, updateRunning := false, updatePending := true, update := none, flash := flashOf u.held
                  pendingBuild := BitVec.ofNat 32 (imageBits u.held 127 96) }
              life := { s.life with fwUpdates := satAdd 16 s.life.fwUpdates 1 } }.final u.csn {}).afterUpdate true)
          ∧ (r = true → exec (.fwProgramDone false) s = .next (({ s with
              boot := { s.boot with updateRunning := false, update := none } }.final u.csn { status := 0x6002 }).afterUpdate false)))
      ∧ (u.stage = .programming false → exec (.fwProgramDone false) s
          = .next { s with boot := { s.boot with update := some { u with stage := .programming true } } })
      ∧ (u.stage = .programming true → s.boot.heldReset = none → exec (.fwProgramDone false) s
          = .next ({ s with boot := { s.boot with updateRunning := false, update := none } }.final u.csn { status := 0x6002 }))
      ∧ (∀ r, u.stage = .programming r → s.boot.heldReset = none → s.boot.mode ≠ 2 → exec (.fwProgramDone true) s
          = .next ({ s with
              boot :=
                { s.boot with
                  intent := false, updateRunning := false, updatePending := true, update := none, flash := flashOf u.held
                  pendingBuild := BitVec.ofNat 32 (imageBits u.held 127 96) }
              life := { s.life with fwUpdates := satAdd 16 s.life.fwUpdates 1 } }.final u.csn {}))

/-- The state after reset: the values that the spec's reset columns give, and memories in canonical form. What the rules'
reset tables give for a module that has just become ready after power-up. The moment of reset and the fused values are those
of log entries 1 to 6. -/
def Obligations.ResetValues : Prop :=
  State.reset.boot.stage = .ready ∧ State.reset.boot.mode = 1 ∧ State.reset.pending = [] ∧ State.reset.mlv.selfId = 0xFFF
    ∧ State.reset.parts = [] ∧ State.reset.kprs = [] ∧ State.reset.arb.lastCsn = 0 ∧ State.reset.arb.inflight = []
    ∧ (∀ r, r < 18 → State.reset.holder r = if r < 8 then 0 else if r < 16 then 1 else 2) ∧ (∀ q, (State.reset.ring q).enable = false)
    ∧ State.reset.host.attached = false ∧ State.reset.mgmt.dataIn = none ∧ State.reset.mgmt.queue = []
    ∧ (∀ st, stationOk st = true → State.reset.station st = {}) ∧ State.reset.recov.role = .member
    ∧ State.reset.recov.selfFenced = false ∧ State.reset.life.attEn = false ∧ State.reset.clk.lock = true
    ∧ State.reset.memoryWf = true

/-- Every command in every state, and every step, answers a next state. Every command on every state, and every step, answers
a next state: no command of the block faults or is refused. A row whose condition fails leaves the state (log entry 10). -/
def Obligations.EveryCommandCompletes : Prop :=
  (∀ (c : Instr) (s : State), ∃ t, exec c s = .next t) ∧ ∀ s : State, ∃ t, step s = .next t

/-- Every step keeps the store and HBM in canonical form. Every step keeps the canonical form of the store's words and of
HBM's bytes. What an unlisted byte of HBM reads is the model's choice (log entry 7). -/
def Obligations.StepKeepsMemory : Prop :=
  ∀ s t : State, s.memoryWf = true → step s = .next t → t.memoryWf = true

/-- Whatever the command, a step leaves exactly the rest of the queue. A command leaves the queue as it is: a step takes
exactly its front. -/
def Obligations.StepTakesFront : Prop :=
  ∀ (c : Instr) (rest : List Instr) (s t : State), s.pending = c :: rest → step s = .next t → t.pending = rest
end

