-- ==== Sys2Proof/Laws/Sparse.lean ====
section
/-! SUPPORT. Laws of sparse tables and byte memories: reading after writing, and that every operation keeps the canonical
form. -/

namespace Sys2Proof.Machine

@[simp] theorem sget_nil {α : Type} (d : α) (i : Nat) : sget d [] i = d := rfl

/-- An index that is not listed reads as the default. -/
theorem sget_of_not_mem {α : Type} (d : α) (m : Sparse α) (i : Nat) (h : ∀ e ∈ m, e.1 ≠ i) : sget d m i = d := by
  induction m with
  | nil => rfl
  | cons a t ih =>
    rw [sget, if_neg (h a (by simp)).symm]
    exact ih fun e he => h e (List.mem_cons_of_mem _ he)

variable {α : Type} [DecidableEq α]

/-- Canonical form as a property of the list: indexes rise strictly, and no entry is the default. -/
theorem sparseWf_iff (d : α) (m : Sparse α) :
    sparseWf d m = true ↔ m.Pairwise (fun a b => a.1 < b.1) ∧ ∀ e ∈ m, e.2 ≠ d := by
  induction m with
  | nil => simp [sparseWf]
  | cons a t ih =>
    cases t with
    | nil => simp [sparseWf]
    | cons b t =>
      rw [sparseWf, Bool.and_eq_true, Bool.and_eq_true, decide_eq_true_eq, decide_eq_true_eq, ih]
      constructor
      · rintro ⟨⟨hab, ha⟩, hp, hv⟩
        refine ⟨List.pairwise_cons.2 ⟨?_, hp⟩, ?_⟩
        · intro c hc
          rcases List.mem_cons.1 hc with rfl | hc
          · exact hab
          · exact lt_trans hab ((List.pairwise_cons.1 hp).1 c hc)
        · intro e he
          rcases List.mem_cons.1 he with rfl | he
          · exact ha
          · exact hv e he
      · rintro ⟨hp, hv⟩
        have h := List.pairwise_cons.1 hp
        exact ⟨⟨h.1 b (by simp), hv a (by simp)⟩, h.2, fun e he => hv e (List.mem_cons_of_mem _ he)⟩

/-- A listed entry reads as it is listed. -/
theorem sget_of_mem (d : α) (m : Sparse α) (i : Nat) (v : α) (h : sparseWf d m = true) (hm : (i, v) ∈ m) : sget d m i = v := by
  rw [sparseWf_iff] at h
  induction m with
  | nil => simp at hm
  | cons a t ih =>
    have hp := List.pairwise_cons.1 h.1
    rw [sget]
    rcases List.mem_cons.1 hm with rfl | hm
    · simp
    · rw [if_neg (by have := hp.1 _ hm; simp at this; omega)]
      exact ih ⟨hp.2, fun e he => h.2 e (List.mem_cons_of_mem _ he)⟩ hm

omit [DecidableEq α] in
/-- Reading a joined table: the first table that lists the index answers. -/
theorem sget_append (d : α) (m n : Sparse α) (i : Nat) :
    sget d (m ++ n) i = if (∃ e ∈ m, e.1 = i) then sget d m i else sget d n i := by
  induction m with
  | nil => simp
  | cons a t ih =>
    rw [List.cons_append, sget, sget, ih]
    by_cases h : i = a.1
    · simp [h]
    · simp only [if_neg h, List.exists_mem_cons_iff, show ¬ a.1 = i from fun e => h e.symm, false_or]

omit [DecidableEq α] in
/-- Reading a filtered table at an index that the filter keeps. -/
theorem sget_filter_kept (d : α) (m : Sparse α) (p : Nat × α → Bool) (i : Nat) (h : ∀ v, p (i, v) = true) :
    sget d (m.filter p) i = sget d m i := by
  induction m with
  | nil => rfl
  | cons a t ih =>
    by_cases hi : i = a.1
    · have : p a = true := by have := h a.2; rw [hi] at this; exact this
      rw [List.filter_cons_of_pos this, sget, sget, if_pos hi, if_pos hi]
    · rw [sget, if_neg hi, ← ih, List.filter_cons]
      split
      · rw [sget, if_neg hi]
      · rfl

/-- Reading the index that was written gives the value written. -/
@[simp] theorem sget_sset_same (d : α) (m : Sparse α) (i : Nat) (v : α) : sget d (sset d m i v) i = v := by
  have low : ¬ ∃ e ∈ m.filter (fun e => decide (e.1 < i)), e.1 = i := by
    rintro ⟨e, he, rfl⟩; simpa using (List.mem_filter.1 he).2
  rw [sset, List.append_assoc, sget_append, if_neg low, sget_append]
  by_cases hv : v = d
  · rw [if_pos hv, if_neg (by simp), hv]
    exact sget_of_not_mem d _ i fun e he => by have := (List.mem_filter.1 he).2; simp at this; omega
  · rw [if_neg hv, if_pos (by simp)]; simp [sget]

/-- Writing one index leaves every other as it was. -/
@[simp] theorem sget_sset_other (d : α) (m : Sparse α) (i j : Nat) (v : α) (hij : j ≠ i) :
    sget d (sset d m i v) j = sget d m j := by
  have mid : ¬ ∃ e ∈ (if v = d then [] else [(i, v)]), e.1 = j := by split <;> simp [Ne.symm hij]
  rw [sset, List.append_assoc, sget_append, sget_append, if_neg mid]
  by_cases hj : j < i
  · split
    · exact sget_filter_kept d m _ j fun v => by simpa using hj
    · rename_i h
      have hm : ∀ e ∈ m, e.1 ≠ j := fun e he hk => h ⟨e, List.mem_filter.2 ⟨he, by simpa [hk] using hj⟩, hk⟩
      rw [sget_of_not_mem d _ j fun e he => hm e (List.mem_of_mem_filter he), sget_of_not_mem d m j hm]
  · rw [if_neg (by rintro ⟨e, he, rfl⟩; have := (List.mem_filter.1 he).2; simp at this; omega)]
    exact sget_filter_kept d m _ j fun v => by simp; omega

/-- Of two writes to one index the second stands. -/
@[simp] theorem sset_sset (d : α) (m : Sparse α) (i : Nat) (v w : α) : sset d (sset d m i v) i w = sset d m i w := by
  have low : (m.filter fun e => decide (i < e.1)).filter (fun e => decide (e.1 < i)) = [] := by
    rw [List.filter_filter, List.filter_eq_nil_iff]; intro e _; simp; omega
  have high : (m.filter fun e => decide (e.1 < i)).filter (fun e => decide (i < e.1)) = [] := by
    rw [List.filter_filter, List.filter_eq_nil_iff]; intro e _; simp; omega
  unfold sset
  simp only [List.filter_append, low, high, List.filter_filter, Bool.and_self]
  split <;> simp

/-- A write keeps the canonical form. -/
theorem sparseWf_sset (d : α) (m : Sparse α) (i : Nat) (v : α) (h : sparseWf d m = true) :
    sparseWf d (sset d m i v) = true := by
  rw [sparseWf_iff] at h ⊢
  refine ⟨?_, ?_⟩
  · rw [sset, List.pairwise_append, List.pairwise_append]
    refine ⟨⟨h.1.filter _, by split <;> simp, ?_⟩, h.1.filter _, ?_⟩
    · intro x hx y hy
      have := (List.mem_filter.1 hx).2
      split at hy <;> simp_all
    · intro x hx y hy
      have hy := (List.mem_filter.1 hy).2
      rcases List.mem_append.1 hx with hx | hx
      · have := (List.mem_filter.1 hx).2
        simp_all; omega
      · split at hx <;> simp_all
  · intro e he
    rw [sset] at he
    rcases List.mem_append.1 he with he | he
    · rcases List.mem_append.1 he with he | he
      · exact h.2 e (List.mem_of_mem_filter he)
      · split at he <;> simp_all
    · exact h.2 e (List.mem_of_mem_filter he)

/-- Changing one entry keeps the canonical form. -/
theorem sparseWf_smod (d : α) (m : Sparse α) (i : Nat) (f : α → α) (h : sparseWf d m = true) :
    sparseWf d (smod d m i f) = true := sparseWf_sset d m i _ h

/-- Dropping entries keeps the canonical form. -/
theorem sparseWf_filter (d : α) (m : Sparse α) (f : Nat × α → Bool) (h : sparseWf d m = true) :
    sparseWf d (m.filter f) = true := by
  rw [sparseWf_iff] at h ⊢
  exact ⟨h.1.filter f, fun e he => h.2 e (List.mem_of_mem_filter he)⟩

/-- The bytes that writeBytes lists lie at the addresses written, and none is zero. -/
theorem mem_written (a : Nat) (bs : List Byte) (e : Nat × Byte)
    (he : e ∈ (bs.mapIdx fun i b => (a + i, b)).filter fun e => e.2 ≠ 0) : a ≤ e.1 ∧ e.1 < a + bs.length ∧ e.2 ≠ 0 := by
  obtain ⟨h1, h2⟩ := List.mem_filter.1 he
  obtain ⟨i, hi, rfl⟩ := List.mem_mapIdx.1 h1
  exact ⟨by simp, by simpa using hi, by simpa using h2⟩

/-- Writing bytes keeps the canonical form of a memory. -/
theorem sparseWf_writeBytes (m : Sparse Byte) (a : Nat) (bs : List Byte) (h : sparseWf 0 m = true) :
    sparseWf 0 (writeBytes m a bs) = true := by
  rw [sparseWf_iff] at h ⊢
  have mid : (((bs.mapIdx fun i b => (a + i, b)).filter fun e => e.2 ≠ 0)).Pairwise fun x y => x.1 < y.1 := by
    apply List.Pairwise.filter
    rw [List.pairwise_iff_getElem]
    intro i j hi hj hij
    simpa using hij
  refine ⟨?_, ?_⟩
  · unfold writeBytes
    rw [List.pairwise_append, List.pairwise_append]
    refine ⟨⟨h.1.filter _, mid, ?_⟩, h.1.filter _, ?_⟩
    · intro x hx y hy
      have := (List.mem_filter.1 hx).2
      have := mem_written a bs y hy
      simp_all; omega
    · intro x hx y hy
      have hy := (List.mem_filter.1 hy).2
      rcases List.mem_append.1 hx with hx | hx
      · have := (List.mem_filter.1 hx).2
        simp_all; omega
      · have := mem_written a bs x hx
        simp_all; omega
  · intro e he
    unfold writeBytes at he
    rcases List.mem_append.1 he with he | he
    · rcases List.mem_append.1 he with he | he
      · exact h.2 e (List.mem_of_mem_filter he)
      · exact (mem_written a bs e he).2.2
    · exact h.2 e (List.mem_of_mem_filter he)

/-- A byte outside those written reads as before. -/
theorem sget_writeBytes_outside (m : Sparse Byte) (a : Nat) (bs : List Byte) (j : Nat)
    (hj : j < a ∨ a + bs.length ≤ j) : sget 0 (writeBytes m a bs) j = sget 0 m j := by
  have mid : ¬ ∃ e ∈ (bs.mapIdx fun i b => (a + i, b)).filter (fun e => e.2 ≠ 0), e.1 = j := by
    rintro ⟨e, he, rfl⟩; have := mem_written a bs e he; omega
  rw [writeBytes, List.append_assoc, sget_append, sget_append, if_neg mid]
  rcases hj with hj | hj
  · split
    · exact sget_filter_kept 0 m _ j fun v => by simpa using hj
    · rename_i h
      have hm : ∀ e ∈ m, e.1 ≠ j := fun e he hk => h ⟨e, List.mem_filter.2 ⟨he, by simpa [hk] using hj⟩, hk⟩
      rw [sget_of_not_mem 0 _ j fun e he => hm e (List.mem_of_mem_filter he), sget_of_not_mem 0 m j hm]
  · rw [if_neg (by rintro ⟨e, he, rfl⟩; have := (List.mem_filter.1 he).2; simp at this; omega)]
    exact sget_filter_kept 0 m _ j fun v => by simpa using hj

/-- A byte written reads as it was written. -/
theorem sget_writeBytes_inside (m : Sparse Byte) (a : Nat) (bs : List Byte) (i : Nat) (hi : i < bs.length) :
    sget 0 (writeBytes m a bs) (a + i) = bs[i] := by
  have low : ¬ ∃ e ∈ m.filter (fun e => decide (e.1 < a)), e.1 = a + i := by
    rintro ⟨e, he, hk⟩; have := (List.mem_filter.1 he).2; simp at this; omega
  rw [writeBytes, List.append_assoc, sget_append, if_neg low, sget_append]
  have wf : sparseWf 0 ((bs.mapIdx fun i b => (a + i, b)).filter fun e => e.2 ≠ 0) = true := by
    have := sparseWf_writeBytes [] a bs rfl
    simpa [writeBytes] using this
  by_cases hb : bs[i] = 0
  · rw [if_neg, hb]
    · exact sget_of_not_mem 0 _ _ fun e he => by have := (List.mem_filter.1 he).2; simp at this; omega
    · rintro ⟨e, he, hk⟩
      obtain ⟨h1, h2⟩ := List.mem_filter.1 he
      obtain ⟨k, hk', rfl⟩ := List.mem_mapIdx.1 h1
      have : k = i := by simp at hk; omega
      subst this
      simp_all
  · have hm : (a + i, bs[i]) ∈ (bs.mapIdx fun i b => (a + i, b)).filter fun e => e.2 ≠ 0 :=
      List.mem_filter.2 ⟨List.mem_mapIdx.2 ⟨i, hi, rfl⟩, by simpa using hb⟩
    rw [if_pos ⟨_, hm, rfl⟩]
    exact sget_of_mem 0 _ _ _ wf hm

@[simp] theorem length_readBytes (m : Sparse Byte) (a n : Nat) : (readBytes m a n).length = n := by simp [readBytes]

/-- Byte `i` of what readBytes reads is the byte at its address. -/
theorem getElem_readBytes (m : Sparse Byte) (a n i : Nat) (h : i < (readBytes m a n).length) :
    (readBytes m a n)[i] = sget 0 m (a + i) := by simp [readBytes]

end Sys2Proof.Machine
end

