-- ==== Sys2Proof/Laws/State.lean ====
section
/-! SUPPORT. What each update of the state changes: every other field, as simplification rules (one rule per field, joined
for one update), and reading the part that was updated. -/

namespace Sys2Proof.Machine

@[simp] theorem State.setPart_others (s : State) (p : Nat) (x : Part) :
    (s.setPart p x).fuses = s.fuses ∧ (s.setPart p x).boot = s.boot ∧ (s.setPart p x).clk = s.clk
      ∧ (s.setPart p x).host = s.host ∧ (s.setPart p x).arb = s.arb ∧ (s.setPart p x).kprs = s.kprs
      ∧ (s.setPart p x).stations = s.stations ∧ (s.setPart p x).fields = s.fields ∧ (s.setPart p x).net = s.net
      ∧ (s.setPart p x).store = s.store ∧ (s.setPart p x).banks = s.banks ∧ (s.setPart p x).hbm = s.hbm
      ∧ (s.setPart p x).mlv = s.mlv ∧ (s.setPart p x).recov = s.recov ∧ (s.setPart p x).pwr = s.pwr
      ∧ (s.setPart p x).mgmt = s.mgmt ∧ (s.setPart p x).life = s.life ∧ (s.setPart p x).out = s.out
      ∧ (s.setPart p x).freeCtr = s.freeCtr ∧ (s.setPart p x).pending = s.pending
      ∧ (∀ j, (s.setPart p x).kpr j = s.kpr j) ∧ (∀ j, (s.setPart p x).station j = s.station j)
      ∧ (∀ j, (s.setPart p x).field j = s.field j) ∧ (∀ j, (s.setPart p x).bank j = s.bank j)
      ∧ (∀ j, (s.setPart p x).stack j = s.stack j) ∧ (∀ j, (s.setPart p x).tierPort j = s.tierPort j)
      ∧ (∀ j, (s.setPart p x).port j = s.port j) ∧ (∀ j, (s.setPart p x).ctx j = s.ctx j)
      ∧ (∀ j, (s.setPart p x).region j = s.region j) ∧ (∀ j, (s.setPart p x).ring j = s.ring j)
      ∧ (∀ j, (s.setPart p x).dq j = s.dq j) := by
  and_intros <;> first | rfl | (intro _; rfl)

@[simp] theorem State.modPart_others (s : State) (p : Nat) (f : Part → Part) :
    (s.modPart p f).fuses = s.fuses ∧ (s.modPart p f).boot = s.boot ∧ (s.modPart p f).clk = s.clk
      ∧ (s.modPart p f).host = s.host ∧ (s.modPart p f).arb = s.arb ∧ (s.modPart p f).kprs = s.kprs
      ∧ (s.modPart p f).stations = s.stations ∧ (s.modPart p f).fields = s.fields ∧ (s.modPart p f).net = s.net
      ∧ (s.modPart p f).store = s.store ∧ (s.modPart p f).banks = s.banks ∧ (s.modPart p f).hbm = s.hbm
      ∧ (s.modPart p f).mlv = s.mlv ∧ (s.modPart p f).recov = s.recov ∧ (s.modPart p f).pwr = s.pwr
      ∧ (s.modPart p f).mgmt = s.mgmt ∧ (s.modPart p f).life = s.life ∧ (s.modPart p f).out = s.out
      ∧ (s.modPart p f).freeCtr = s.freeCtr ∧ (s.modPart p f).pending = s.pending
      ∧ (∀ j, (s.modPart p f).kpr j = s.kpr j) ∧ (∀ j, (s.modPart p f).station j = s.station j)
      ∧ (∀ j, (s.modPart p f).field j = s.field j) ∧ (∀ j, (s.modPart p f).bank j = s.bank j)
      ∧ (∀ j, (s.modPart p f).stack j = s.stack j) ∧ (∀ j, (s.modPart p f).tierPort j = s.tierPort j)
      ∧ (∀ j, (s.modPart p f).port j = s.port j) ∧ (∀ j, (s.modPart p f).ctx j = s.ctx j)
      ∧ (∀ j, (s.modPart p f).region j = s.region j) ∧ (∀ j, (s.modPart p f).ring j = s.ring j)
      ∧ (∀ j, (s.modPart p f).dq j = s.dq j) := by
  and_intros <;> first | rfl | (intro _; rfl)

@[simp] theorem State.setKpr_others (s : State) (k : Nat) (x : Kpr) :
    (s.setKpr k x).fuses = s.fuses ∧ (s.setKpr k x).boot = s.boot ∧ (s.setKpr k x).clk = s.clk
      ∧ (s.setKpr k x).host = s.host ∧ (s.setKpr k x).arb = s.arb ∧ (s.setKpr k x).parts = s.parts
      ∧ (s.setKpr k x).stations = s.stations ∧ (s.setKpr k x).fields = s.fields ∧ (s.setKpr k x).net = s.net
      ∧ (s.setKpr k x).store = s.store ∧ (s.setKpr k x).banks = s.banks ∧ (s.setKpr k x).hbm = s.hbm
      ∧ (s.setKpr k x).mlv = s.mlv ∧ (s.setKpr k x).recov = s.recov ∧ (s.setKpr k x).pwr = s.pwr
      ∧ (s.setKpr k x).mgmt = s.mgmt ∧ (s.setKpr k x).life = s.life ∧ (s.setKpr k x).out = s.out
      ∧ (s.setKpr k x).freeCtr = s.freeCtr ∧ (s.setKpr k x).pending = s.pending
      ∧ (∀ j, (s.setKpr k x).part j = s.part j) ∧ (∀ j, (s.setKpr k x).station j = s.station j)
      ∧ (∀ j, (s.setKpr k x).field j = s.field j) ∧ (∀ j, (s.setKpr k x).bank j = s.bank j)
      ∧ (∀ j, (s.setKpr k x).stack j = s.stack j) ∧ (∀ j, (s.setKpr k x).tierPort j = s.tierPort j)
      ∧ (∀ j, (s.setKpr k x).port j = s.port j) ∧ (∀ j, (s.setKpr k x).ctx j = s.ctx j)
      ∧ (∀ j, (s.setKpr k x).region j = s.region j) ∧ (∀ j, (s.setKpr k x).ring j = s.ring j)
      ∧ (∀ j, (s.setKpr k x).dq j = s.dq j) := by
  and_intros <;> first | rfl | (intro _; rfl)

@[simp] theorem State.modKpr_others (s : State) (k : Nat) (f : Kpr → Kpr) :
    (s.modKpr k f).fuses = s.fuses ∧ (s.modKpr k f).boot = s.boot ∧ (s.modKpr k f).clk = s.clk
      ∧ (s.modKpr k f).host = s.host ∧ (s.modKpr k f).arb = s.arb ∧ (s.modKpr k f).parts = s.parts
      ∧ (s.modKpr k f).stations = s.stations ∧ (s.modKpr k f).fields = s.fields ∧ (s.modKpr k f).net = s.net
      ∧ (s.modKpr k f).store = s.store ∧ (s.modKpr k f).banks = s.banks ∧ (s.modKpr k f).hbm = s.hbm
      ∧ (s.modKpr k f).mlv = s.mlv ∧ (s.modKpr k f).recov = s.recov ∧ (s.modKpr k f).pwr = s.pwr
      ∧ (s.modKpr k f).mgmt = s.mgmt ∧ (s.modKpr k f).life = s.life ∧ (s.modKpr k f).out = s.out
      ∧ (s.modKpr k f).freeCtr = s.freeCtr ∧ (s.modKpr k f).pending = s.pending
      ∧ (∀ j, (s.modKpr k f).part j = s.part j) ∧ (∀ j, (s.modKpr k f).station j = s.station j)
      ∧ (∀ j, (s.modKpr k f).field j = s.field j) ∧ (∀ j, (s.modKpr k f).bank j = s.bank j)
      ∧ (∀ j, (s.modKpr k f).stack j = s.stack j) ∧ (∀ j, (s.modKpr k f).tierPort j = s.tierPort j)
      ∧ (∀ j, (s.modKpr k f).port j = s.port j) ∧ (∀ j, (s.modKpr k f).ctx j = s.ctx j)
      ∧ (∀ j, (s.modKpr k f).region j = s.region j) ∧ (∀ j, (s.modKpr k f).ring j = s.ring j)
      ∧ (∀ j, (s.modKpr k f).dq j = s.dq j) := by
  and_intros <;> first | rfl | (intro _; rfl)

@[simp] theorem State.modKpart_others (s : State) (k p : Nat) (f : KprPart → KprPart) :
    (s.modKpart k p f).fuses = s.fuses ∧ (s.modKpart k p f).boot = s.boot ∧ (s.modKpart k p f).clk = s.clk
      ∧ (s.modKpart k p f).host = s.host ∧ (s.modKpart k p f).arb = s.arb ∧ (s.modKpart k p f).parts = s.parts
      ∧ (s.modKpart k p f).stations = s.stations ∧ (s.modKpart k p f).fields = s.fields
      ∧ (s.modKpart k p f).net = s.net ∧ (s.modKpart k p f).store = s.store ∧ (s.modKpart k p f).banks = s.banks
      ∧ (s.modKpart k p f).hbm = s.hbm ∧ (s.modKpart k p f).mlv = s.mlv ∧ (s.modKpart k p f).recov = s.recov
      ∧ (s.modKpart k p f).pwr = s.pwr ∧ (s.modKpart k p f).mgmt = s.mgmt ∧ (s.modKpart k p f).life = s.life
      ∧ (s.modKpart k p f).out = s.out ∧ (s.modKpart k p f).freeCtr = s.freeCtr
      ∧ (s.modKpart k p f).pending = s.pending ∧ (∀ j, (s.modKpart k p f).part j = s.part j)
      ∧ (∀ j, (s.modKpart k p f).station j = s.station j) ∧ (∀ j, (s.modKpart k p f).field j = s.field j)
      ∧ (∀ j, (s.modKpart k p f).bank j = s.bank j) ∧ (∀ j, (s.modKpart k p f).stack j = s.stack j)
      ∧ (∀ j, (s.modKpart k p f).tierPort j = s.tierPort j) ∧ (∀ j, (s.modKpart k p f).port j = s.port j)
      ∧ (∀ j, (s.modKpart k p f).ctx j = s.ctx j) ∧ (∀ j, (s.modKpart k p f).region j = s.region j)
      ∧ (∀ j, (s.modKpart k p f).ring j = s.ring j) ∧ (∀ j, (s.modKpart k p f).dq j = s.dq j) := by
  and_intros <;> first | rfl | (intro _; rfl)

@[simp] theorem State.modOpage_others (s : State) (k p g : Nat) (f : OwnedPage → OwnedPage) :
    (s.modOpage k p g f).fuses = s.fuses ∧ (s.modOpage k p g f).boot = s.boot ∧ (s.modOpage k p g f).clk = s.clk
      ∧ (s.modOpage k p g f).host = s.host ∧ (s.modOpage k p g f).arb = s.arb ∧ (s.modOpage k p g f).parts = s.parts
      ∧ (s.modOpage k p g f).stations = s.stations ∧ (s.modOpage k p g f).fields = s.fields
      ∧ (s.modOpage k p g f).net = s.net ∧ (s.modOpage k p g f).store = s.store ∧ (s.modOpage k p g f).banks = s.banks
      ∧ (s.modOpage k p g f).hbm = s.hbm ∧ (s.modOpage k p g f).mlv = s.mlv ∧ (s.modOpage k p g f).recov = s.recov
      ∧ (s.modOpage k p g f).pwr = s.pwr ∧ (s.modOpage k p g f).mgmt = s.mgmt ∧ (s.modOpage k p g f).life = s.life
      ∧ (s.modOpage k p g f).out = s.out ∧ (s.modOpage k p g f).freeCtr = s.freeCtr
      ∧ (s.modOpage k p g f).pending = s.pending ∧ (∀ j, (s.modOpage k p g f).part j = s.part j)
      ∧ (∀ j, (s.modOpage k p g f).station j = s.station j) ∧ (∀ j, (s.modOpage k p g f).field j = s.field j)
      ∧ (∀ j, (s.modOpage k p g f).bank j = s.bank j) ∧ (∀ j, (s.modOpage k p g f).stack j = s.stack j)
      ∧ (∀ j, (s.modOpage k p g f).tierPort j = s.tierPort j) ∧ (∀ j, (s.modOpage k p g f).port j = s.port j)
      ∧ (∀ j, (s.modOpage k p g f).ctx j = s.ctx j) ∧ (∀ j, (s.modOpage k p g f).region j = s.region j)
      ∧ (∀ j, (s.modOpage k p g f).ring j = s.ring j) ∧ (∀ j, (s.modOpage k p g f).dq j = s.dq j) := by
  and_intros <;> first | rfl | (intro _; rfl)

@[simp] theorem State.modHpage_others (s : State) (k p g : Nat) (f : HuskPage → HuskPage) :
    (s.modHpage k p g f).fuses = s.fuses ∧ (s.modHpage k p g f).boot = s.boot ∧ (s.modHpage k p g f).clk = s.clk
      ∧ (s.modHpage k p g f).host = s.host ∧ (s.modHpage k p g f).arb = s.arb ∧ (s.modHpage k p g f).parts = s.parts
      ∧ (s.modHpage k p g f).stations = s.stations ∧ (s.modHpage k p g f).fields = s.fields
      ∧ (s.modHpage k p g f).net = s.net ∧ (s.modHpage k p g f).store = s.store ∧ (s.modHpage k p g f).banks = s.banks
      ∧ (s.modHpage k p g f).hbm = s.hbm ∧ (s.modHpage k p g f).mlv = s.mlv ∧ (s.modHpage k p g f).recov = s.recov
      ∧ (s.modHpage k p g f).pwr = s.pwr ∧ (s.modHpage k p g f).mgmt = s.mgmt ∧ (s.modHpage k p g f).life = s.life
      ∧ (s.modHpage k p g f).out = s.out ∧ (s.modHpage k p g f).freeCtr = s.freeCtr
      ∧ (s.modHpage k p g f).pending = s.pending ∧ (∀ j, (s.modHpage k p g f).part j = s.part j)
      ∧ (∀ j, (s.modHpage k p g f).station j = s.station j) ∧ (∀ j, (s.modHpage k p g f).field j = s.field j)
      ∧ (∀ j, (s.modHpage k p g f).bank j = s.bank j) ∧ (∀ j, (s.modHpage k p g f).stack j = s.stack j)
      ∧ (∀ j, (s.modHpage k p g f).tierPort j = s.tierPort j) ∧ (∀ j, (s.modHpage k p g f).port j = s.port j)
      ∧ (∀ j, (s.modHpage k p g f).ctx j = s.ctx j) ∧ (∀ j, (s.modHpage k p g f).region j = s.region j)
      ∧ (∀ j, (s.modHpage k p g f).ring j = s.ring j) ∧ (∀ j, (s.modHpage k p g f).dq j = s.dq j) := by
  and_intros <;> first | rfl | (intro _; rfl)

@[simp] theorem State.setStation_others (s : State) (i : Nat) (x : Station) :
    (s.setStation i x).fuses = s.fuses ∧ (s.setStation i x).boot = s.boot ∧ (s.setStation i x).clk = s.clk
      ∧ (s.setStation i x).host = s.host ∧ (s.setStation i x).arb = s.arb ∧ (s.setStation i x).parts = s.parts
      ∧ (s.setStation i x).kprs = s.kprs ∧ (s.setStation i x).fields = s.fields ∧ (s.setStation i x).net = s.net
      ∧ (s.setStation i x).store = s.store ∧ (s.setStation i x).banks = s.banks ∧ (s.setStation i x).hbm = s.hbm
      ∧ (s.setStation i x).mlv = s.mlv ∧ (s.setStation i x).recov = s.recov ∧ (s.setStation i x).pwr = s.pwr
      ∧ (s.setStation i x).mgmt = s.mgmt ∧ (s.setStation i x).life = s.life ∧ (s.setStation i x).out = s.out
      ∧ (s.setStation i x).freeCtr = s.freeCtr ∧ (s.setStation i x).pending = s.pending
      ∧ (∀ j, (s.setStation i x).part j = s.part j) ∧ (∀ j, (s.setStation i x).kpr j = s.kpr j)
      ∧ (∀ j, (s.setStation i x).field j = s.field j) ∧ (∀ j, (s.setStation i x).bank j = s.bank j)
      ∧ (∀ j, (s.setStation i x).stack j = s.stack j) ∧ (∀ j, (s.setStation i x).tierPort j = s.tierPort j)
      ∧ (∀ j, (s.setStation i x).port j = s.port j) ∧ (∀ j, (s.setStation i x).ctx j = s.ctx j)
      ∧ (∀ j, (s.setStation i x).region j = s.region j) ∧ (∀ j, (s.setStation i x).ring j = s.ring j)
      ∧ (∀ j, (s.setStation i x).dq j = s.dq j) := by
  and_intros <;> first | rfl | (intro _; rfl)

@[simp] theorem State.modStation_others (s : State) (i : Nat) (f : Station → Station) :
    (s.modStation i f).fuses = s.fuses ∧ (s.modStation i f).boot = s.boot ∧ (s.modStation i f).clk = s.clk
      ∧ (s.modStation i f).host = s.host ∧ (s.modStation i f).arb = s.arb ∧ (s.modStation i f).parts = s.parts
      ∧ (s.modStation i f).kprs = s.kprs ∧ (s.modStation i f).fields = s.fields ∧ (s.modStation i f).net = s.net
      ∧ (s.modStation i f).store = s.store ∧ (s.modStation i f).banks = s.banks ∧ (s.modStation i f).hbm = s.hbm
      ∧ (s.modStation i f).mlv = s.mlv ∧ (s.modStation i f).recov = s.recov ∧ (s.modStation i f).pwr = s.pwr
      ∧ (s.modStation i f).mgmt = s.mgmt ∧ (s.modStation i f).life = s.life ∧ (s.modStation i f).out = s.out
      ∧ (s.modStation i f).freeCtr = s.freeCtr ∧ (s.modStation i f).pending = s.pending
      ∧ (∀ j, (s.modStation i f).part j = s.part j) ∧ (∀ j, (s.modStation i f).kpr j = s.kpr j)
      ∧ (∀ j, (s.modStation i f).field j = s.field j) ∧ (∀ j, (s.modStation i f).bank j = s.bank j)
      ∧ (∀ j, (s.modStation i f).stack j = s.stack j) ∧ (∀ j, (s.modStation i f).tierPort j = s.tierPort j)
      ∧ (∀ j, (s.modStation i f).port j = s.port j) ∧ (∀ j, (s.modStation i f).ctx j = s.ctx j)
      ∧ (∀ j, (s.modStation i f).region j = s.region j) ∧ (∀ j, (s.modStation i f).ring j = s.ring j)
      ∧ (∀ j, (s.modStation i f).dq j = s.dq j) := by
  and_intros <;> first | rfl | (intro _; rfl)

@[simp] theorem State.modCore_others (s : State) (i : Nat) (f : Core → Core) :
    (s.modCore i f).fuses = s.fuses ∧ (s.modCore i f).boot = s.boot ∧ (s.modCore i f).clk = s.clk
      ∧ (s.modCore i f).host = s.host ∧ (s.modCore i f).arb = s.arb ∧ (s.modCore i f).parts = s.parts
      ∧ (s.modCore i f).kprs = s.kprs ∧ (s.modCore i f).fields = s.fields ∧ (s.modCore i f).net = s.net
      ∧ (s.modCore i f).store = s.store ∧ (s.modCore i f).banks = s.banks ∧ (s.modCore i f).hbm = s.hbm
      ∧ (s.modCore i f).mlv = s.mlv ∧ (s.modCore i f).recov = s.recov ∧ (s.modCore i f).pwr = s.pwr
      ∧ (s.modCore i f).mgmt = s.mgmt ∧ (s.modCore i f).life = s.life ∧ (s.modCore i f).out = s.out
      ∧ (s.modCore i f).freeCtr = s.freeCtr ∧ (s.modCore i f).pending = s.pending
      ∧ (∀ j, (s.modCore i f).part j = s.part j) ∧ (∀ j, (s.modCore i f).kpr j = s.kpr j)
      ∧ (∀ j, (s.modCore i f).field j = s.field j) ∧ (∀ j, (s.modCore i f).bank j = s.bank j)
      ∧ (∀ j, (s.modCore i f).stack j = s.stack j) ∧ (∀ j, (s.modCore i f).tierPort j = s.tierPort j)
      ∧ (∀ j, (s.modCore i f).port j = s.port j) ∧ (∀ j, (s.modCore i f).ctx j = s.ctx j)
      ∧ (∀ j, (s.modCore i f).region j = s.region j) ∧ (∀ j, (s.modCore i f).ring j = s.ring j)
      ∧ (∀ j, (s.modCore i f).dq j = s.dq j) := by
  and_intros <;> first | rfl | (intro _; rfl)

@[simp] theorem State.setField_others (s : State) (i : Nat) (x : Field) :
    (s.setField i x).fuses = s.fuses ∧ (s.setField i x).boot = s.boot ∧ (s.setField i x).clk = s.clk
      ∧ (s.setField i x).host = s.host ∧ (s.setField i x).arb = s.arb ∧ (s.setField i x).parts = s.parts
      ∧ (s.setField i x).kprs = s.kprs ∧ (s.setField i x).stations = s.stations ∧ (s.setField i x).net = s.net
      ∧ (s.setField i x).store = s.store ∧ (s.setField i x).banks = s.banks ∧ (s.setField i x).hbm = s.hbm
      ∧ (s.setField i x).mlv = s.mlv ∧ (s.setField i x).recov = s.recov ∧ (s.setField i x).pwr = s.pwr
      ∧ (s.setField i x).mgmt = s.mgmt ∧ (s.setField i x).life = s.life ∧ (s.setField i x).out = s.out
      ∧ (s.setField i x).freeCtr = s.freeCtr ∧ (s.setField i x).pending = s.pending
      ∧ (∀ j, (s.setField i x).part j = s.part j) ∧ (∀ j, (s.setField i x).kpr j = s.kpr j)
      ∧ (∀ j, (s.setField i x).station j = s.station j) ∧ (∀ j, (s.setField i x).bank j = s.bank j)
      ∧ (∀ j, (s.setField i x).stack j = s.stack j) ∧ (∀ j, (s.setField i x).tierPort j = s.tierPort j)
      ∧ (∀ j, (s.setField i x).port j = s.port j) ∧ (∀ j, (s.setField i x).ctx j = s.ctx j)
      ∧ (∀ j, (s.setField i x).region j = s.region j) ∧ (∀ j, (s.setField i x).ring j = s.ring j)
      ∧ (∀ j, (s.setField i x).dq j = s.dq j) := by
  and_intros <;> first | rfl | (intro _; rfl)

@[simp] theorem State.modField_others (s : State) (i : Nat) (f : Field → Field) :
    (s.modField i f).fuses = s.fuses ∧ (s.modField i f).boot = s.boot ∧ (s.modField i f).clk = s.clk
      ∧ (s.modField i f).host = s.host ∧ (s.modField i f).arb = s.arb ∧ (s.modField i f).parts = s.parts
      ∧ (s.modField i f).kprs = s.kprs ∧ (s.modField i f).stations = s.stations ∧ (s.modField i f).net = s.net
      ∧ (s.modField i f).store = s.store ∧ (s.modField i f).banks = s.banks ∧ (s.modField i f).hbm = s.hbm
      ∧ (s.modField i f).mlv = s.mlv ∧ (s.modField i f).recov = s.recov ∧ (s.modField i f).pwr = s.pwr
      ∧ (s.modField i f).mgmt = s.mgmt ∧ (s.modField i f).life = s.life ∧ (s.modField i f).out = s.out
      ∧ (s.modField i f).freeCtr = s.freeCtr ∧ (s.modField i f).pending = s.pending
      ∧ (∀ j, (s.modField i f).part j = s.part j) ∧ (∀ j, (s.modField i f).kpr j = s.kpr j)
      ∧ (∀ j, (s.modField i f).station j = s.station j) ∧ (∀ j, (s.modField i f).bank j = s.bank j)
      ∧ (∀ j, (s.modField i f).stack j = s.stack j) ∧ (∀ j, (s.modField i f).tierPort j = s.tierPort j)
      ∧ (∀ j, (s.modField i f).port j = s.port j) ∧ (∀ j, (s.modField i f).ctx j = s.ctx j)
      ∧ (∀ j, (s.modField i f).region j = s.region j) ∧ (∀ j, (s.modField i f).ring j = s.ring j)
      ∧ (∀ j, (s.modField i f).dq j = s.dq j) := by
  and_intros <;> first | rfl | (intro _; rfl)

@[simp] theorem State.setRemap_others (s : State) (i : Nat) (r : Remap) :
    (s.setRemap i r).fuses = s.fuses ∧ (s.setRemap i r).boot = s.boot ∧ (s.setRemap i r).clk = s.clk
      ∧ (s.setRemap i r).host = s.host ∧ (s.setRemap i r).arb = s.arb ∧ (s.setRemap i r).parts = s.parts
      ∧ (s.setRemap i r).kprs = s.kprs ∧ (s.setRemap i r).stations = s.stations ∧ (s.setRemap i r).net = s.net
      ∧ (s.setRemap i r).store = s.store ∧ (s.setRemap i r).banks = s.banks ∧ (s.setRemap i r).hbm = s.hbm
      ∧ (s.setRemap i r).mlv = s.mlv ∧ (s.setRemap i r).recov = s.recov ∧ (s.setRemap i r).pwr = s.pwr
      ∧ (s.setRemap i r).mgmt = s.mgmt ∧ (s.setRemap i r).life = s.life ∧ (s.setRemap i r).out = s.out
      ∧ (s.setRemap i r).freeCtr = s.freeCtr ∧ (s.setRemap i r).pending = s.pending
      ∧ (∀ j, (s.setRemap i r).part j = s.part j) ∧ (∀ j, (s.setRemap i r).kpr j = s.kpr j)
      ∧ (∀ j, (s.setRemap i r).station j = s.station j) ∧ (∀ j, (s.setRemap i r).bank j = s.bank j)
      ∧ (∀ j, (s.setRemap i r).stack j = s.stack j) ∧ (∀ j, (s.setRemap i r).tierPort j = s.tierPort j)
      ∧ (∀ j, (s.setRemap i r).port j = s.port j) ∧ (∀ j, (s.setRemap i r).ctx j = s.ctx j)
      ∧ (∀ j, (s.setRemap i r).region j = s.region j) ∧ (∀ j, (s.setRemap i r).ring j = s.ring j)
      ∧ (∀ j, (s.setRemap i r).dq j = s.dq j) := by
  and_intros <;> first | rfl | (intro _; rfl)

@[simp] theorem State.modBankBind_others (s : State) (i : Nat) (g : BankBind → BankBind) :
    (s.modBankBind i g).fuses = s.fuses ∧ (s.modBankBind i g).boot = s.boot ∧ (s.modBankBind i g).clk = s.clk
      ∧ (s.modBankBind i g).host = s.host ∧ (s.modBankBind i g).arb = s.arb ∧ (s.modBankBind i g).parts = s.parts
      ∧ (s.modBankBind i g).kprs = s.kprs ∧ (s.modBankBind i g).stations = s.stations
      ∧ (s.modBankBind i g).net = s.net ∧ (s.modBankBind i g).store = s.store ∧ (s.modBankBind i g).banks = s.banks
      ∧ (s.modBankBind i g).hbm = s.hbm ∧ (s.modBankBind i g).mlv = s.mlv ∧ (s.modBankBind i g).recov = s.recov
      ∧ (s.modBankBind i g).pwr = s.pwr ∧ (s.modBankBind i g).mgmt = s.mgmt ∧ (s.modBankBind i g).life = s.life
      ∧ (s.modBankBind i g).out = s.out ∧ (s.modBankBind i g).freeCtr = s.freeCtr
      ∧ (s.modBankBind i g).pending = s.pending ∧ (∀ j, (s.modBankBind i g).part j = s.part j)
      ∧ (∀ j, (s.modBankBind i g).kpr j = s.kpr j) ∧ (∀ j, (s.modBankBind i g).station j = s.station j)
      ∧ (∀ j, (s.modBankBind i g).bank j = s.bank j) ∧ (∀ j, (s.modBankBind i g).stack j = s.stack j)
      ∧ (∀ j, (s.modBankBind i g).tierPort j = s.tierPort j) ∧ (∀ j, (s.modBankBind i g).port j = s.port j)
      ∧ (∀ j, (s.modBankBind i g).ctx j = s.ctx j) ∧ (∀ j, (s.modBankBind i g).region j = s.region j)
      ∧ (∀ j, (s.modBankBind i g).ring j = s.ring j) ∧ (∀ j, (s.modBankBind i g).dq j = s.dq j) := by
  and_intros <;> first | rfl | (intro _; rfl)

@[simp] theorem State.setBank_others (s : State) (i : Nat) (x : Bank) :
    (s.setBank i x).fuses = s.fuses ∧ (s.setBank i x).boot = s.boot ∧ (s.setBank i x).clk = s.clk
      ∧ (s.setBank i x).host = s.host ∧ (s.setBank i x).arb = s.arb ∧ (s.setBank i x).parts = s.parts
      ∧ (s.setBank i x).kprs = s.kprs ∧ (s.setBank i x).stations = s.stations ∧ (s.setBank i x).fields = s.fields
      ∧ (s.setBank i x).net = s.net ∧ (s.setBank i x).store = s.store ∧ (s.setBank i x).hbm = s.hbm
      ∧ (s.setBank i x).mlv = s.mlv ∧ (s.setBank i x).recov = s.recov ∧ (s.setBank i x).pwr = s.pwr
      ∧ (s.setBank i x).mgmt = s.mgmt ∧ (s.setBank i x).life = s.life ∧ (s.setBank i x).out = s.out
      ∧ (s.setBank i x).freeCtr = s.freeCtr ∧ (s.setBank i x).pending = s.pending
      ∧ (∀ j, (s.setBank i x).part j = s.part j) ∧ (∀ j, (s.setBank i x).kpr j = s.kpr j)
      ∧ (∀ j, (s.setBank i x).station j = s.station j) ∧ (∀ j, (s.setBank i x).field j = s.field j)
      ∧ (∀ j, (s.setBank i x).stack j = s.stack j) ∧ (∀ j, (s.setBank i x).tierPort j = s.tierPort j)
      ∧ (∀ j, (s.setBank i x).port j = s.port j) ∧ (∀ j, (s.setBank i x).ctx j = s.ctx j)
      ∧ (∀ j, (s.setBank i x).region j = s.region j) ∧ (∀ j, (s.setBank i x).ring j = s.ring j)
      ∧ (∀ j, (s.setBank i x).dq j = s.dq j) := by
  and_intros <;> first | rfl | (intro _; rfl)

@[simp] theorem State.modBank_others (s : State) (i : Nat) (f : Bank → Bank) :
    (s.modBank i f).fuses = s.fuses ∧ (s.modBank i f).boot = s.boot ∧ (s.modBank i f).clk = s.clk
      ∧ (s.modBank i f).host = s.host ∧ (s.modBank i f).arb = s.arb ∧ (s.modBank i f).parts = s.parts
      ∧ (s.modBank i f).kprs = s.kprs ∧ (s.modBank i f).stations = s.stations ∧ (s.modBank i f).fields = s.fields
      ∧ (s.modBank i f).net = s.net ∧ (s.modBank i f).store = s.store ∧ (s.modBank i f).hbm = s.hbm
      ∧ (s.modBank i f).mlv = s.mlv ∧ (s.modBank i f).recov = s.recov ∧ (s.modBank i f).pwr = s.pwr
      ∧ (s.modBank i f).mgmt = s.mgmt ∧ (s.modBank i f).life = s.life ∧ (s.modBank i f).out = s.out
      ∧ (s.modBank i f).freeCtr = s.freeCtr ∧ (s.modBank i f).pending = s.pending
      ∧ (∀ j, (s.modBank i f).part j = s.part j) ∧ (∀ j, (s.modBank i f).kpr j = s.kpr j)
      ∧ (∀ j, (s.modBank i f).station j = s.station j) ∧ (∀ j, (s.modBank i f).field j = s.field j)
      ∧ (∀ j, (s.modBank i f).stack j = s.stack j) ∧ (∀ j, (s.modBank i f).tierPort j = s.tierPort j)
      ∧ (∀ j, (s.modBank i f).port j = s.port j) ∧ (∀ j, (s.modBank i f).ctx j = s.ctx j)
      ∧ (∀ j, (s.modBank i f).region j = s.region j) ∧ (∀ j, (s.modBank i f).ring j = s.ring j)
      ∧ (∀ j, (s.modBank i f).dq j = s.dq j) := by
  and_intros <;> first | rfl | (intro _; rfl)

@[simp] theorem State.modStack_others (s : State) (i : Nat) (f : Stack → Stack) :
    (s.modStack i f).fuses = s.fuses ∧ (s.modStack i f).boot = s.boot ∧ (s.modStack i f).clk = s.clk
      ∧ (s.modStack i f).host = s.host ∧ (s.modStack i f).arb = s.arb ∧ (s.modStack i f).parts = s.parts
      ∧ (s.modStack i f).kprs = s.kprs ∧ (s.modStack i f).stations = s.stations ∧ (s.modStack i f).fields = s.fields
      ∧ (s.modStack i f).net = s.net ∧ (s.modStack i f).store = s.store ∧ (s.modStack i f).banks = s.banks
      ∧ (s.modStack i f).mlv = s.mlv ∧ (s.modStack i f).recov = s.recov ∧ (s.modStack i f).pwr = s.pwr
      ∧ (s.modStack i f).mgmt = s.mgmt ∧ (s.modStack i f).life = s.life ∧ (s.modStack i f).out = s.out
      ∧ (s.modStack i f).freeCtr = s.freeCtr ∧ (s.modStack i f).pending = s.pending
      ∧ (∀ j, (s.modStack i f).part j = s.part j) ∧ (∀ j, (s.modStack i f).kpr j = s.kpr j)
      ∧ (∀ j, (s.modStack i f).station j = s.station j) ∧ (∀ j, (s.modStack i f).field j = s.field j)
      ∧ (∀ j, (s.modStack i f).bank j = s.bank j) ∧ (∀ j, (s.modStack i f).port j = s.port j)
      ∧ (∀ j, (s.modStack i f).ctx j = s.ctx j) ∧ (∀ j, (s.modStack i f).region j = s.region j)
      ∧ (∀ j, (s.modStack i f).ring j = s.ring j) ∧ (∀ j, (s.modStack i f).dq j = s.dq j) := by
  and_intros <;> first | rfl | (intro _; rfl)

@[simp] theorem State.modTier_others (s : State) (i : Nat) (f : TierPort → TierPort) :
    (s.modTier i f).fuses = s.fuses ∧ (s.modTier i f).boot = s.boot ∧ (s.modTier i f).clk = s.clk
      ∧ (s.modTier i f).host = s.host ∧ (s.modTier i f).arb = s.arb ∧ (s.modTier i f).parts = s.parts
      ∧ (s.modTier i f).kprs = s.kprs ∧ (s.modTier i f).stations = s.stations ∧ (s.modTier i f).fields = s.fields
      ∧ (s.modTier i f).net = s.net ∧ (s.modTier i f).store = s.store ∧ (s.modTier i f).banks = s.banks
      ∧ (s.modTier i f).mlv = s.mlv ∧ (s.modTier i f).recov = s.recov ∧ (s.modTier i f).pwr = s.pwr
      ∧ (s.modTier i f).mgmt = s.mgmt ∧ (s.modTier i f).life = s.life ∧ (s.modTier i f).out = s.out
      ∧ (s.modTier i f).freeCtr = s.freeCtr ∧ (s.modTier i f).pending = s.pending
      ∧ (∀ j, (s.modTier i f).part j = s.part j) ∧ (∀ j, (s.modTier i f).kpr j = s.kpr j)
      ∧ (∀ j, (s.modTier i f).station j = s.station j) ∧ (∀ j, (s.modTier i f).field j = s.field j)
      ∧ (∀ j, (s.modTier i f).bank j = s.bank j) ∧ (∀ j, (s.modTier i f).port j = s.port j)
      ∧ (∀ j, (s.modTier i f).ctx j = s.ctx j) ∧ (∀ j, (s.modTier i f).region j = s.region j)
      ∧ (∀ j, (s.modTier i f).ring j = s.ring j) ∧ (∀ j, (s.modTier i f).dq j = s.dq j) := by
  and_intros <;> first | rfl | (intro _; rfl)

@[simp] theorem State.modPort_others (s : State) (i : Nat) (f : Port → Port) :
    (s.modPort i f).fuses = s.fuses ∧ (s.modPort i f).boot = s.boot ∧ (s.modPort i f).clk = s.clk
      ∧ (s.modPort i f).host = s.host ∧ (s.modPort i f).arb = s.arb ∧ (s.modPort i f).parts = s.parts
      ∧ (s.modPort i f).kprs = s.kprs ∧ (s.modPort i f).stations = s.stations ∧ (s.modPort i f).fields = s.fields
      ∧ (s.modPort i f).net = s.net ∧ (s.modPort i f).store = s.store ∧ (s.modPort i f).banks = s.banks
      ∧ (s.modPort i f).hbm = s.hbm ∧ (s.modPort i f).recov = s.recov ∧ (s.modPort i f).pwr = s.pwr
      ∧ (s.modPort i f).mgmt = s.mgmt ∧ (s.modPort i f).life = s.life ∧ (s.modPort i f).out = s.out
      ∧ (s.modPort i f).freeCtr = s.freeCtr ∧ (s.modPort i f).pending = s.pending
      ∧ (∀ j, (s.modPort i f).part j = s.part j) ∧ (∀ j, (s.modPort i f).kpr j = s.kpr j)
      ∧ (∀ j, (s.modPort i f).station j = s.station j) ∧ (∀ j, (s.modPort i f).field j = s.field j)
      ∧ (∀ j, (s.modPort i f).bank j = s.bank j) ∧ (∀ j, (s.modPort i f).stack j = s.stack j)
      ∧ (∀ j, (s.modPort i f).tierPort j = s.tierPort j) ∧ (∀ j, (s.modPort i f).region j = s.region j)
      ∧ (∀ j, (s.modPort i f).ring j = s.ring j) ∧ (∀ j, (s.modPort i f).dq j = s.dq j) := by
  and_intros <;> first | rfl | (intro _; rfl)

@[simp] theorem State.modCtx_others (s : State) (i : Nat) (f : Ctx → Ctx) :
    (s.modCtx i f).fuses = s.fuses ∧ (s.modCtx i f).boot = s.boot ∧ (s.modCtx i f).clk = s.clk
      ∧ (s.modCtx i f).host = s.host ∧ (s.modCtx i f).arb = s.arb ∧ (s.modCtx i f).parts = s.parts
      ∧ (s.modCtx i f).kprs = s.kprs ∧ (s.modCtx i f).stations = s.stations ∧ (s.modCtx i f).fields = s.fields
      ∧ (s.modCtx i f).net = s.net ∧ (s.modCtx i f).store = s.store ∧ (s.modCtx i f).banks = s.banks
      ∧ (s.modCtx i f).hbm = s.hbm ∧ (s.modCtx i f).recov = s.recov ∧ (s.modCtx i f).pwr = s.pwr
      ∧ (s.modCtx i f).mgmt = s.mgmt ∧ (s.modCtx i f).life = s.life ∧ (s.modCtx i f).out = s.out
      ∧ (s.modCtx i f).freeCtr = s.freeCtr ∧ (s.modCtx i f).pending = s.pending
      ∧ (∀ j, (s.modCtx i f).part j = s.part j) ∧ (∀ j, (s.modCtx i f).kpr j = s.kpr j)
      ∧ (∀ j, (s.modCtx i f).station j = s.station j) ∧ (∀ j, (s.modCtx i f).field j = s.field j)
      ∧ (∀ j, (s.modCtx i f).bank j = s.bank j) ∧ (∀ j, (s.modCtx i f).stack j = s.stack j)
      ∧ (∀ j, (s.modCtx i f).tierPort j = s.tierPort j) ∧ (∀ j, (s.modCtx i f).region j = s.region j)
      ∧ (∀ j, (s.modCtx i f).ring j = s.ring j) ∧ (∀ j, (s.modCtx i f).dq j = s.dq j) := by
  and_intros <;> first | rfl | (intro _; rfl)

@[simp] theorem State.modMlv_others (s : State) (f : Mlv → Mlv) :
    (s.modMlv f).fuses = s.fuses ∧ (s.modMlv f).boot = s.boot ∧ (s.modMlv f).clk = s.clk ∧ (s.modMlv f).host = s.host
      ∧ (s.modMlv f).arb = s.arb ∧ (s.modMlv f).parts = s.parts ∧ (s.modMlv f).kprs = s.kprs
      ∧ (s.modMlv f).stations = s.stations ∧ (s.modMlv f).fields = s.fields ∧ (s.modMlv f).net = s.net
      ∧ (s.modMlv f).store = s.store ∧ (s.modMlv f).banks = s.banks ∧ (s.modMlv f).hbm = s.hbm
      ∧ (s.modMlv f).recov = s.recov ∧ (s.modMlv f).pwr = s.pwr ∧ (s.modMlv f).mgmt = s.mgmt
      ∧ (s.modMlv f).life = s.life ∧ (s.modMlv f).out = s.out ∧ (s.modMlv f).freeCtr = s.freeCtr
      ∧ (s.modMlv f).pending = s.pending ∧ (∀ j, (s.modMlv f).part j = s.part j) ∧ (∀ j, (s.modMlv f).kpr j = s.kpr j)
      ∧ (∀ j, (s.modMlv f).station j = s.station j) ∧ (∀ j, (s.modMlv f).field j = s.field j)
      ∧ (∀ j, (s.modMlv f).bank j = s.bank j) ∧ (∀ j, (s.modMlv f).stack j = s.stack j)
      ∧ (∀ j, (s.modMlv f).tierPort j = s.tierPort j) ∧ (∀ j, (s.modMlv f).region j = s.region j)
      ∧ (∀ j, (s.modMlv f).ring j = s.ring j) ∧ (∀ j, (s.modMlv f).dq j = s.dq j) := by
  and_intros <;> first | rfl | (intro _; rfl)

@[simp] theorem State.modRegion_others (s : State) (i : Nat) (f : Region → Region) :
    (s.modRegion i f).fuses = s.fuses ∧ (s.modRegion i f).boot = s.boot ∧ (s.modRegion i f).clk = s.clk
      ∧ (s.modRegion i f).host = s.host ∧ (s.modRegion i f).arb = s.arb ∧ (s.modRegion i f).parts = s.parts
      ∧ (s.modRegion i f).kprs = s.kprs ∧ (s.modRegion i f).stations = s.stations
      ∧ (s.modRegion i f).fields = s.fields ∧ (s.modRegion i f).net = s.net ∧ (s.modRegion i f).store = s.store
      ∧ (s.modRegion i f).banks = s.banks ∧ (s.modRegion i f).hbm = s.hbm ∧ (s.modRegion i f).mlv = s.mlv
      ∧ (s.modRegion i f).recov = s.recov ∧ (s.modRegion i f).mgmt = s.mgmt ∧ (s.modRegion i f).life = s.life
      ∧ (s.modRegion i f).out = s.out ∧ (s.modRegion i f).freeCtr = s.freeCtr ∧ (s.modRegion i f).pending = s.pending
      ∧ (∀ j, (s.modRegion i f).part j = s.part j) ∧ (∀ j, (s.modRegion i f).kpr j = s.kpr j)
      ∧ (∀ j, (s.modRegion i f).station j = s.station j) ∧ (∀ j, (s.modRegion i f).field j = s.field j)
      ∧ (∀ j, (s.modRegion i f).bank j = s.bank j) ∧ (∀ j, (s.modRegion i f).stack j = s.stack j)
      ∧ (∀ j, (s.modRegion i f).tierPort j = s.tierPort j) ∧ (∀ j, (s.modRegion i f).port j = s.port j)
      ∧ (∀ j, (s.modRegion i f).ctx j = s.ctx j) ∧ (∀ j, (s.modRegion i f).ring j = s.ring j)
      ∧ (∀ j, (s.modRegion i f).dq j = s.dq j) := by
  and_intros <;> first | rfl | (intro _; rfl)

@[simp] theorem State.modPwr_others (s : State) (f : Pwr → Pwr) :
    (s.modPwr f).fuses = s.fuses ∧ (s.modPwr f).boot = s.boot ∧ (s.modPwr f).clk = s.clk ∧ (s.modPwr f).host = s.host
      ∧ (s.modPwr f).arb = s.arb ∧ (s.modPwr f).parts = s.parts ∧ (s.modPwr f).kprs = s.kprs
      ∧ (s.modPwr f).stations = s.stations ∧ (s.modPwr f).fields = s.fields ∧ (s.modPwr f).net = s.net
      ∧ (s.modPwr f).store = s.store ∧ (s.modPwr f).banks = s.banks ∧ (s.modPwr f).hbm = s.hbm
      ∧ (s.modPwr f).mlv = s.mlv ∧ (s.modPwr f).recov = s.recov ∧ (s.modPwr f).mgmt = s.mgmt
      ∧ (s.modPwr f).life = s.life ∧ (s.modPwr f).out = s.out ∧ (s.modPwr f).freeCtr = s.freeCtr
      ∧ (s.modPwr f).pending = s.pending ∧ (∀ j, (s.modPwr f).part j = s.part j) ∧ (∀ j, (s.modPwr f).kpr j = s.kpr j)
      ∧ (∀ j, (s.modPwr f).station j = s.station j) ∧ (∀ j, (s.modPwr f).field j = s.field j)
      ∧ (∀ j, (s.modPwr f).bank j = s.bank j) ∧ (∀ j, (s.modPwr f).stack j = s.stack j)
      ∧ (∀ j, (s.modPwr f).tierPort j = s.tierPort j) ∧ (∀ j, (s.modPwr f).port j = s.port j)
      ∧ (∀ j, (s.modPwr f).ctx j = s.ctx j) ∧ (∀ j, (s.modPwr f).ring j = s.ring j)
      ∧ (∀ j, (s.modPwr f).dq j = s.dq j) := by
  and_intros <;> first | rfl | (intro _; rfl)

@[simp] theorem State.modRing_others (s : State) (q : Nat) (f : Ring → Ring) :
    (s.modRing q f).fuses = s.fuses ∧ (s.modRing q f).boot = s.boot ∧ (s.modRing q f).clk = s.clk
      ∧ (s.modRing q f).arb = s.arb ∧ (s.modRing q f).parts = s.parts ∧ (s.modRing q f).kprs = s.kprs
      ∧ (s.modRing q f).stations = s.stations ∧ (s.modRing q f).fields = s.fields ∧ (s.modRing q f).net = s.net
      ∧ (s.modRing q f).store = s.store ∧ (s.modRing q f).banks = s.banks ∧ (s.modRing q f).hbm = s.hbm
      ∧ (s.modRing q f).mlv = s.mlv ∧ (s.modRing q f).recov = s.recov ∧ (s.modRing q f).pwr = s.pwr
      ∧ (s.modRing q f).mgmt = s.mgmt ∧ (s.modRing q f).life = s.life ∧ (s.modRing q f).out = s.out
      ∧ (s.modRing q f).freeCtr = s.freeCtr ∧ (s.modRing q f).pending = s.pending
      ∧ (∀ j, (s.modRing q f).part j = s.part j) ∧ (∀ j, (s.modRing q f).kpr j = s.kpr j)
      ∧ (∀ j, (s.modRing q f).station j = s.station j) ∧ (∀ j, (s.modRing q f).field j = s.field j)
      ∧ (∀ j, (s.modRing q f).bank j = s.bank j) ∧ (∀ j, (s.modRing q f).stack j = s.stack j)
      ∧ (∀ j, (s.modRing q f).tierPort j = s.tierPort j) ∧ (∀ j, (s.modRing q f).port j = s.port j)
      ∧ (∀ j, (s.modRing q f).ctx j = s.ctx j) ∧ (∀ j, (s.modRing q f).region j = s.region j) := by
  and_intros <;> first | rfl | (intro _; rfl)

@[simp] theorem State.modDq_others (s : State) (i : Nat) (f : DataQueue → DataQueue) :
    (s.modDq i f).fuses = s.fuses ∧ (s.modDq i f).boot = s.boot ∧ (s.modDq i f).clk = s.clk
      ∧ (s.modDq i f).arb = s.arb ∧ (s.modDq i f).parts = s.parts ∧ (s.modDq i f).kprs = s.kprs
      ∧ (s.modDq i f).stations = s.stations ∧ (s.modDq i f).fields = s.fields ∧ (s.modDq i f).net = s.net
      ∧ (s.modDq i f).store = s.store ∧ (s.modDq i f).banks = s.banks ∧ (s.modDq i f).hbm = s.hbm
      ∧ (s.modDq i f).mlv = s.mlv ∧ (s.modDq i f).recov = s.recov ∧ (s.modDq i f).pwr = s.pwr
      ∧ (s.modDq i f).mgmt = s.mgmt ∧ (s.modDq i f).life = s.life ∧ (s.modDq i f).out = s.out
      ∧ (s.modDq i f).freeCtr = s.freeCtr ∧ (s.modDq i f).pending = s.pending ∧ (∀ j, (s.modDq i f).part j = s.part j)
      ∧ (∀ j, (s.modDq i f).kpr j = s.kpr j) ∧ (∀ j, (s.modDq i f).station j = s.station j)
      ∧ (∀ j, (s.modDq i f).field j = s.field j) ∧ (∀ j, (s.modDq i f).bank j = s.bank j)
      ∧ (∀ j, (s.modDq i f).stack j = s.stack j) ∧ (∀ j, (s.modDq i f).tierPort j = s.tierPort j)
      ∧ (∀ j, (s.modDq i f).port j = s.port j) ∧ (∀ j, (s.modDq i f).ctx j = s.ctx j)
      ∧ (∀ j, (s.modDq i f).region j = s.region j) := by
  and_intros <;> first | rfl | (intro _; rfl)

@[simp] theorem State.modHost_others (s : State) (f : HostIf → HostIf) :
    (s.modHost f).fuses = s.fuses ∧ (s.modHost f).boot = s.boot ∧ (s.modHost f).clk = s.clk
      ∧ (s.modHost f).arb = s.arb ∧ (s.modHost f).parts = s.parts ∧ (s.modHost f).kprs = s.kprs
      ∧ (s.modHost f).stations = s.stations ∧ (s.modHost f).fields = s.fields ∧ (s.modHost f).net = s.net
      ∧ (s.modHost f).store = s.store ∧ (s.modHost f).banks = s.banks ∧ (s.modHost f).hbm = s.hbm
      ∧ (s.modHost f).mlv = s.mlv ∧ (s.modHost f).recov = s.recov ∧ (s.modHost f).pwr = s.pwr
      ∧ (s.modHost f).mgmt = s.mgmt ∧ (s.modHost f).life = s.life ∧ (s.modHost f).out = s.out
      ∧ (s.modHost f).freeCtr = s.freeCtr ∧ (s.modHost f).pending = s.pending ∧ (∀ j, (s.modHost f).part j = s.part j)
      ∧ (∀ j, (s.modHost f).kpr j = s.kpr j) ∧ (∀ j, (s.modHost f).station j = s.station j)
      ∧ (∀ j, (s.modHost f).field j = s.field j) ∧ (∀ j, (s.modHost f).bank j = s.bank j)
      ∧ (∀ j, (s.modHost f).stack j = s.stack j) ∧ (∀ j, (s.modHost f).tierPort j = s.tierPort j)
      ∧ (∀ j, (s.modHost f).port j = s.port j) ∧ (∀ j, (s.modHost f).ctx j = s.ctx j)
      ∧ (∀ j, (s.modHost f).region j = s.region j) := by
  and_intros <;> first | rfl | (intro _; rfl)

@[simp] theorem State.modArb_others (s : State) (f : Arb → Arb) :
    (s.modArb f).fuses = s.fuses ∧ (s.modArb f).boot = s.boot ∧ (s.modArb f).clk = s.clk ∧ (s.modArb f).host = s.host
      ∧ (s.modArb f).parts = s.parts ∧ (s.modArb f).kprs = s.kprs ∧ (s.modArb f).stations = s.stations
      ∧ (s.modArb f).fields = s.fields ∧ (s.modArb f).net = s.net ∧ (s.modArb f).store = s.store
      ∧ (s.modArb f).banks = s.banks ∧ (s.modArb f).hbm = s.hbm ∧ (s.modArb f).mlv = s.mlv
      ∧ (s.modArb f).recov = s.recov ∧ (s.modArb f).pwr = s.pwr ∧ (s.modArb f).mgmt = s.mgmt
      ∧ (s.modArb f).life = s.life ∧ (s.modArb f).out = s.out ∧ (s.modArb f).freeCtr = s.freeCtr
      ∧ (s.modArb f).pending = s.pending ∧ (∀ j, (s.modArb f).part j = s.part j) ∧ (∀ j, (s.modArb f).kpr j = s.kpr j)
      ∧ (∀ j, (s.modArb f).station j = s.station j) ∧ (∀ j, (s.modArb f).field j = s.field j)
      ∧ (∀ j, (s.modArb f).bank j = s.bank j) ∧ (∀ j, (s.modArb f).stack j = s.stack j)
      ∧ (∀ j, (s.modArb f).tierPort j = s.tierPort j) ∧ (∀ j, (s.modArb f).port j = s.port j)
      ∧ (∀ j, (s.modArb f).ctx j = s.ctx j) ∧ (∀ j, (s.modArb f).region j = s.region j)
      ∧ (∀ j, (s.modArb f).ring j = s.ring j) ∧ (∀ j, (s.modArb f).dq j = s.dq j) := by
  and_intros <;> first | rfl | (intro _; rfl)

@[simp] theorem State.modMgmt_others (s : State) (f : Mgmt → Mgmt) :
    (s.modMgmt f).fuses = s.fuses ∧ (s.modMgmt f).boot = s.boot ∧ (s.modMgmt f).clk = s.clk
      ∧ (s.modMgmt f).host = s.host ∧ (s.modMgmt f).arb = s.arb ∧ (s.modMgmt f).parts = s.parts
      ∧ (s.modMgmt f).kprs = s.kprs ∧ (s.modMgmt f).stations = s.stations ∧ (s.modMgmt f).fields = s.fields
      ∧ (s.modMgmt f).net = s.net ∧ (s.modMgmt f).store = s.store ∧ (s.modMgmt f).banks = s.banks
      ∧ (s.modMgmt f).hbm = s.hbm ∧ (s.modMgmt f).mlv = s.mlv ∧ (s.modMgmt f).recov = s.recov
      ∧ (s.modMgmt f).pwr = s.pwr ∧ (s.modMgmt f).life = s.life ∧ (s.modMgmt f).out = s.out
      ∧ (s.modMgmt f).freeCtr = s.freeCtr ∧ (s.modMgmt f).pending = s.pending ∧ (∀ j, (s.modMgmt f).part j = s.part j)
      ∧ (∀ j, (s.modMgmt f).kpr j = s.kpr j) ∧ (∀ j, (s.modMgmt f).station j = s.station j)
      ∧ (∀ j, (s.modMgmt f).field j = s.field j) ∧ (∀ j, (s.modMgmt f).bank j = s.bank j)
      ∧ (∀ j, (s.modMgmt f).stack j = s.stack j) ∧ (∀ j, (s.modMgmt f).tierPort j = s.tierPort j)
      ∧ (∀ j, (s.modMgmt f).port j = s.port j) ∧ (∀ j, (s.modMgmt f).ctx j = s.ctx j)
      ∧ (∀ j, (s.modMgmt f).region j = s.region j) ∧ (∀ j, (s.modMgmt f).ring j = s.ring j)
      ∧ (∀ j, (s.modMgmt f).dq j = s.dq j) := by
  and_intros <;> first | rfl | (intro _; rfl)

@[simp] theorem State.modLife_others (s : State) (f : Life → Life) :
    (s.modLife f).fuses = s.fuses ∧ (s.modLife f).boot = s.boot ∧ (s.modLife f).clk = s.clk
      ∧ (s.modLife f).host = s.host ∧ (s.modLife f).arb = s.arb ∧ (s.modLife f).parts = s.parts
      ∧ (s.modLife f).kprs = s.kprs ∧ (s.modLife f).stations = s.stations ∧ (s.modLife f).fields = s.fields
      ∧ (s.modLife f).net = s.net ∧ (s.modLife f).store = s.store ∧ (s.modLife f).banks = s.banks
      ∧ (s.modLife f).hbm = s.hbm ∧ (s.modLife f).mlv = s.mlv ∧ (s.modLife f).recov = s.recov
      ∧ (s.modLife f).pwr = s.pwr ∧ (s.modLife f).mgmt = s.mgmt ∧ (s.modLife f).out = s.out
      ∧ (s.modLife f).freeCtr = s.freeCtr ∧ (s.modLife f).pending = s.pending ∧ (∀ j, (s.modLife f).part j = s.part j)
      ∧ (∀ j, (s.modLife f).kpr j = s.kpr j) ∧ (∀ j, (s.modLife f).station j = s.station j)
      ∧ (∀ j, (s.modLife f).field j = s.field j) ∧ (∀ j, (s.modLife f).bank j = s.bank j)
      ∧ (∀ j, (s.modLife f).stack j = s.stack j) ∧ (∀ j, (s.modLife f).tierPort j = s.tierPort j)
      ∧ (∀ j, (s.modLife f).port j = s.port j) ∧ (∀ j, (s.modLife f).ctx j = s.ctx j)
      ∧ (∀ j, (s.modLife f).region j = s.region j) ∧ (∀ j, (s.modLife f).ring j = s.ring j)
      ∧ (∀ j, (s.modLife f).dq j = s.dq j) := by
  and_intros <;> first | rfl | (intro _; rfl)

@[simp] theorem State.modWear_others (s : State) (i : Nat) (g : Wear → Wear) :
    (s.modWear i g).fuses = s.fuses ∧ (s.modWear i g).boot = s.boot ∧ (s.modWear i g).clk = s.clk
      ∧ (s.modWear i g).host = s.host ∧ (s.modWear i g).arb = s.arb ∧ (s.modWear i g).parts = s.parts
      ∧ (s.modWear i g).kprs = s.kprs ∧ (s.modWear i g).stations = s.stations ∧ (s.modWear i g).fields = s.fields
      ∧ (s.modWear i g).net = s.net ∧ (s.modWear i g).store = s.store ∧ (s.modWear i g).banks = s.banks
      ∧ (s.modWear i g).hbm = s.hbm ∧ (s.modWear i g).mlv = s.mlv ∧ (s.modWear i g).recov = s.recov
      ∧ (s.modWear i g).pwr = s.pwr ∧ (s.modWear i g).mgmt = s.mgmt ∧ (s.modWear i g).out = s.out
      ∧ (s.modWear i g).freeCtr = s.freeCtr ∧ (s.modWear i g).pending = s.pending
      ∧ (∀ j, (s.modWear i g).part j = s.part j) ∧ (∀ j, (s.modWear i g).kpr j = s.kpr j)
      ∧ (∀ j, (s.modWear i g).station j = s.station j) ∧ (∀ j, (s.modWear i g).field j = s.field j)
      ∧ (∀ j, (s.modWear i g).bank j = s.bank j) ∧ (∀ j, (s.modWear i g).stack j = s.stack j)
      ∧ (∀ j, (s.modWear i g).tierPort j = s.tierPort j) ∧ (∀ j, (s.modWear i g).port j = s.port j)
      ∧ (∀ j, (s.modWear i g).ctx j = s.ctx j) ∧ (∀ j, (s.modWear i g).region j = s.region j)
      ∧ (∀ j, (s.modWear i g).ring j = s.ring j) ∧ (∀ j, (s.modWear i g).dq j = s.dq j) := by
  and_intros <;> first | rfl | (intro _; rfl)

@[simp] theorem State.modBoot_others (s : State) (f : Boot → Boot) :
    (s.modBoot f).fuses = s.fuses ∧ (s.modBoot f).clk = s.clk ∧ (s.modBoot f).host = s.host
      ∧ (s.modBoot f).arb = s.arb ∧ (s.modBoot f).parts = s.parts ∧ (s.modBoot f).kprs = s.kprs
      ∧ (s.modBoot f).stations = s.stations ∧ (s.modBoot f).fields = s.fields ∧ (s.modBoot f).net = s.net
      ∧ (s.modBoot f).store = s.store ∧ (s.modBoot f).banks = s.banks ∧ (s.modBoot f).hbm = s.hbm
      ∧ (s.modBoot f).mlv = s.mlv ∧ (s.modBoot f).recov = s.recov ∧ (s.modBoot f).pwr = s.pwr
      ∧ (s.modBoot f).mgmt = s.mgmt ∧ (s.modBoot f).life = s.life ∧ (s.modBoot f).out = s.out
      ∧ (s.modBoot f).freeCtr = s.freeCtr ∧ (s.modBoot f).pending = s.pending ∧ (∀ j, (s.modBoot f).part j = s.part j)
      ∧ (∀ j, (s.modBoot f).kpr j = s.kpr j) ∧ (∀ j, (s.modBoot f).station j = s.station j)
      ∧ (∀ j, (s.modBoot f).field j = s.field j) ∧ (∀ j, (s.modBoot f).bank j = s.bank j)
      ∧ (∀ j, (s.modBoot f).stack j = s.stack j) ∧ (∀ j, (s.modBoot f).tierPort j = s.tierPort j)
      ∧ (∀ j, (s.modBoot f).port j = s.port j) ∧ (∀ j, (s.modBoot f).ctx j = s.ctx j)
      ∧ (∀ j, (s.modBoot f).region j = s.region j) ∧ (∀ j, (s.modBoot f).ring j = s.ring j)
      ∧ (∀ j, (s.modBoot f).dq j = s.dq j) := by
  and_intros <;> first | rfl | (intro _; rfl)

@[simp] theorem State.modRecov_others (s : State) (f : Recovery → Recovery) :
    (s.modRecov f).fuses = s.fuses ∧ (s.modRecov f).boot = s.boot ∧ (s.modRecov f).clk = s.clk
      ∧ (s.modRecov f).host = s.host ∧ (s.modRecov f).arb = s.arb ∧ (s.modRecov f).parts = s.parts
      ∧ (s.modRecov f).kprs = s.kprs ∧ (s.modRecov f).stations = s.stations ∧ (s.modRecov f).fields = s.fields
      ∧ (s.modRecov f).net = s.net ∧ (s.modRecov f).store = s.store ∧ (s.modRecov f).banks = s.banks
      ∧ (s.modRecov f).hbm = s.hbm ∧ (s.modRecov f).mlv = s.mlv ∧ (s.modRecov f).pwr = s.pwr
      ∧ (s.modRecov f).mgmt = s.mgmt ∧ (s.modRecov f).life = s.life ∧ (s.modRecov f).out = s.out
      ∧ (s.modRecov f).freeCtr = s.freeCtr ∧ (s.modRecov f).pending = s.pending
      ∧ (∀ j, (s.modRecov f).part j = s.part j) ∧ (∀ j, (s.modRecov f).kpr j = s.kpr j)
      ∧ (∀ j, (s.modRecov f).station j = s.station j) ∧ (∀ j, (s.modRecov f).field j = s.field j)
      ∧ (∀ j, (s.modRecov f).bank j = s.bank j) ∧ (∀ j, (s.modRecov f).stack j = s.stack j)
      ∧ (∀ j, (s.modRecov f).tierPort j = s.tierPort j) ∧ (∀ j, (s.modRecov f).port j = s.port j)
      ∧ (∀ j, (s.modRecov f).ctx j = s.ctx j) ∧ (∀ j, (s.modRecov f).region j = s.region j)
      ∧ (∀ j, (s.modRecov f).ring j = s.ring j) ∧ (∀ j, (s.modRecov f).dq j = s.dq j) := by
  and_intros <;> first | rfl | (intro _; rfl)

@[simp] theorem State.modNode_others (s : State) (i : Nat) (f : TreeNode → TreeNode) :
    (s.modNode i f).fuses = s.fuses ∧ (s.modNode i f).boot = s.boot ∧ (s.modNode i f).clk = s.clk
      ∧ (s.modNode i f).host = s.host ∧ (s.modNode i f).arb = s.arb ∧ (s.modNode i f).parts = s.parts
      ∧ (s.modNode i f).kprs = s.kprs ∧ (s.modNode i f).stations = s.stations ∧ (s.modNode i f).fields = s.fields
      ∧ (s.modNode i f).store = s.store ∧ (s.modNode i f).banks = s.banks ∧ (s.modNode i f).hbm = s.hbm
      ∧ (s.modNode i f).mlv = s.mlv ∧ (s.modNode i f).recov = s.recov ∧ (s.modNode i f).pwr = s.pwr
      ∧ (s.modNode i f).mgmt = s.mgmt ∧ (s.modNode i f).life = s.life ∧ (s.modNode i f).out = s.out
      ∧ (s.modNode i f).freeCtr = s.freeCtr ∧ (s.modNode i f).pending = s.pending
      ∧ (∀ j, (s.modNode i f).part j = s.part j) ∧ (∀ j, (s.modNode i f).kpr j = s.kpr j)
      ∧ (∀ j, (s.modNode i f).station j = s.station j) ∧ (∀ j, (s.modNode i f).field j = s.field j)
      ∧ (∀ j, (s.modNode i f).bank j = s.bank j) ∧ (∀ j, (s.modNode i f).stack j = s.stack j)
      ∧ (∀ j, (s.modNode i f).tierPort j = s.tierPort j) ∧ (∀ j, (s.modNode i f).port j = s.port j)
      ∧ (∀ j, (s.modNode i f).ctx j = s.ctx j) ∧ (∀ j, (s.modNode i f).region j = s.region j)
      ∧ (∀ j, (s.modNode i f).ring j = s.ring j) ∧ (∀ j, (s.modNode i f).dq j = s.dq j) := by
  and_intros <;> first | rfl | (intro _; rfl)

@[simp] theorem State.modLink_others (s : State) (i : Nat) (f : Link → Link) :
    (s.modLink i f).fuses = s.fuses ∧ (s.modLink i f).boot = s.boot ∧ (s.modLink i f).clk = s.clk
      ∧ (s.modLink i f).host = s.host ∧ (s.modLink i f).arb = s.arb ∧ (s.modLink i f).parts = s.parts
      ∧ (s.modLink i f).kprs = s.kprs ∧ (s.modLink i f).stations = s.stations ∧ (s.modLink i f).fields = s.fields
      ∧ (s.modLink i f).store = s.store ∧ (s.modLink i f).banks = s.banks ∧ (s.modLink i f).hbm = s.hbm
      ∧ (s.modLink i f).mlv = s.mlv ∧ (s.modLink i f).recov = s.recov ∧ (s.modLink i f).pwr = s.pwr
      ∧ (s.modLink i f).mgmt = s.mgmt ∧ (s.modLink i f).life = s.life ∧ (s.modLink i f).out = s.out
      ∧ (s.modLink i f).freeCtr = s.freeCtr ∧ (s.modLink i f).pending = s.pending
      ∧ (∀ j, (s.modLink i f).part j = s.part j) ∧ (∀ j, (s.modLink i f).kpr j = s.kpr j)
      ∧ (∀ j, (s.modLink i f).station j = s.station j) ∧ (∀ j, (s.modLink i f).field j = s.field j)
      ∧ (∀ j, (s.modLink i f).bank j = s.bank j) ∧ (∀ j, (s.modLink i f).stack j = s.stack j)
      ∧ (∀ j, (s.modLink i f).tierPort j = s.tierPort j) ∧ (∀ j, (s.modLink i f).port j = s.port j)
      ∧ (∀ j, (s.modLink i f).ctx j = s.ctx j) ∧ (∀ j, (s.modLink i f).region j = s.region j)
      ∧ (∀ j, (s.modLink i f).ring j = s.ring j) ∧ (∀ j, (s.modLink i f).dq j = s.dq j) := by
  and_intros <;> first | rfl | (intro _; rfl)

@[simp] theorem State.modSync_others (s : State) (node ch : Nat) (f : SyncNode → SyncNode) :
    (s.modSync node ch f).fuses = s.fuses ∧ (s.modSync node ch f).boot = s.boot ∧ (s.modSync node ch f).clk = s.clk
      ∧ (s.modSync node ch f).host = s.host ∧ (s.modSync node ch f).arb = s.arb
      ∧ (s.modSync node ch f).parts = s.parts ∧ (s.modSync node ch f).kprs = s.kprs
      ∧ (s.modSync node ch f).stations = s.stations ∧ (s.modSync node ch f).fields = s.fields
      ∧ (s.modSync node ch f).store = s.store ∧ (s.modSync node ch f).banks = s.banks
      ∧ (s.modSync node ch f).hbm = s.hbm ∧ (s.modSync node ch f).mlv = s.mlv ∧ (s.modSync node ch f).recov = s.recov
      ∧ (s.modSync node ch f).pwr = s.pwr ∧ (s.modSync node ch f).mgmt = s.mgmt ∧ (s.modSync node ch f).life = s.life
      ∧ (s.modSync node ch f).out = s.out ∧ (s.modSync node ch f).freeCtr = s.freeCtr
      ∧ (s.modSync node ch f).pending = s.pending ∧ (∀ j, (s.modSync node ch f).part j = s.part j)
      ∧ (∀ j, (s.modSync node ch f).kpr j = s.kpr j) ∧ (∀ j, (s.modSync node ch f).station j = s.station j)
      ∧ (∀ j, (s.modSync node ch f).field j = s.field j) ∧ (∀ j, (s.modSync node ch f).bank j = s.bank j)
      ∧ (∀ j, (s.modSync node ch f).stack j = s.stack j) ∧ (∀ j, (s.modSync node ch f).tierPort j = s.tierPort j)
      ∧ (∀ j, (s.modSync node ch f).port j = s.port j) ∧ (∀ j, (s.modSync node ch f).ctx j = s.ctx j)
      ∧ (∀ j, (s.modSync node ch f).region j = s.region j) ∧ (∀ j, (s.modSync node ch f).ring j = s.ring j)
      ∧ (∀ j, (s.modSync node ch f).dq j = s.dq j) := by
  and_intros <;> first | rfl | (intro _; rfl)

@[simp] theorem State.emit_others (s : State) (o : Out) :
    (s.emit o).fuses = s.fuses ∧ (s.emit o).boot = s.boot ∧ (s.emit o).clk = s.clk ∧ (s.emit o).host = s.host
      ∧ (s.emit o).arb = s.arb ∧ (s.emit o).parts = s.parts ∧ (s.emit o).kprs = s.kprs
      ∧ (s.emit o).stations = s.stations ∧ (s.emit o).fields = s.fields ∧ (s.emit o).net = s.net
      ∧ (s.emit o).store = s.store ∧ (s.emit o).banks = s.banks ∧ (s.emit o).hbm = s.hbm ∧ (s.emit o).mlv = s.mlv
      ∧ (s.emit o).recov = s.recov ∧ (s.emit o).pwr = s.pwr ∧ (s.emit o).mgmt = s.mgmt ∧ (s.emit o).life = s.life
      ∧ (s.emit o).freeCtr = s.freeCtr ∧ (s.emit o).pending = s.pending ∧ (∀ j, (s.emit o).part j = s.part j)
      ∧ (∀ j, (s.emit o).kpr j = s.kpr j) ∧ (∀ j, (s.emit o).station j = s.station j)
      ∧ (∀ j, (s.emit o).field j = s.field j) ∧ (∀ j, (s.emit o).bank j = s.bank j)
      ∧ (∀ j, (s.emit o).stack j = s.stack j) ∧ (∀ j, (s.emit o).tierPort j = s.tierPort j)
      ∧ (∀ j, (s.emit o).port j = s.port j) ∧ (∀ j, (s.emit o).ctx j = s.ctx j)
      ∧ (∀ j, (s.emit o).region j = s.region j) ∧ (∀ j, (s.emit o).ring j = s.ring j)
      ∧ (∀ j, (s.emit o).dq j = s.dq j) := by
  and_intros <;> first | rfl | (intro _; rfl)

@[simp] theorem State.lifeRecord_others (s : State) (type subject : Nat) (body : List Byte) :
    (s.lifeRecord type subject body).fuses = s.fuses ∧ (s.lifeRecord type subject body).boot = s.boot
      ∧ (s.lifeRecord type subject body).clk = s.clk ∧ (s.lifeRecord type subject body).host = s.host
      ∧ (s.lifeRecord type subject body).arb = s.arb ∧ (s.lifeRecord type subject body).parts = s.parts
      ∧ (s.lifeRecord type subject body).kprs = s.kprs ∧ (s.lifeRecord type subject body).stations = s.stations
      ∧ (s.lifeRecord type subject body).fields = s.fields ∧ (s.lifeRecord type subject body).net = s.net
      ∧ (s.lifeRecord type subject body).store = s.store ∧ (s.lifeRecord type subject body).banks = s.banks
      ∧ (s.lifeRecord type subject body).hbm = s.hbm ∧ (s.lifeRecord type subject body).mlv = s.mlv
      ∧ (s.lifeRecord type subject body).recov = s.recov ∧ (s.lifeRecord type subject body).pwr = s.pwr
      ∧ (s.lifeRecord type subject body).mgmt = s.mgmt ∧ (s.lifeRecord type subject body).out = s.out
      ∧ (s.lifeRecord type subject body).freeCtr = s.freeCtr ∧ (s.lifeRecord type subject body).pending = s.pending
      ∧ (∀ j, (s.lifeRecord type subject body).part j = s.part j)
      ∧ (∀ j, (s.lifeRecord type subject body).kpr j = s.kpr j)
      ∧ (∀ j, (s.lifeRecord type subject body).station j = s.station j)
      ∧ (∀ j, (s.lifeRecord type subject body).field j = s.field j)
      ∧ (∀ j, (s.lifeRecord type subject body).bank j = s.bank j)
      ∧ (∀ j, (s.lifeRecord type subject body).stack j = s.stack j)
      ∧ (∀ j, (s.lifeRecord type subject body).tierPort j = s.tierPort j)
      ∧ (∀ j, (s.lifeRecord type subject body).port j = s.port j)
      ∧ (∀ j, (s.lifeRecord type subject body).ctx j = s.ctx j)
      ∧ (∀ j, (s.lifeRecord type subject body).region j = s.region j)
      ∧ (∀ j, (s.lifeRecord type subject body).ring j = s.ring j)
      ∧ (∀ j, (s.lifeRecord type subject body).dq j = s.dq j) := by
  and_intros <;> first | rfl | (intro _; rfl)

@[simp] theorem State.setTherm_others (s : State) (east : Bool) (code : Nat) :
    (s.setTherm east code).fuses = s.fuses ∧ (s.setTherm east code).boot = s.boot
      ∧ (s.setTherm east code).host = s.host ∧ (s.setTherm east code).arb = s.arb
      ∧ (s.setTherm east code).parts = s.parts ∧ (s.setTherm east code).kprs = s.kprs
      ∧ (s.setTherm east code).stations = s.stations ∧ (s.setTherm east code).fields = s.fields
      ∧ (s.setTherm east code).net = s.net ∧ (s.setTherm east code).store = s.store
      ∧ (s.setTherm east code).banks = s.banks ∧ (s.setTherm east code).hbm = s.hbm
      ∧ (s.setTherm east code).mlv = s.mlv ∧ (s.setTherm east code).recov = s.recov
      ∧ (s.setTherm east code).pwr = s.pwr ∧ (s.setTherm east code).mgmt = s.mgmt
      ∧ (s.setTherm east code).life = s.life ∧ (s.setTherm east code).out = s.out
      ∧ (s.setTherm east code).freeCtr = s.freeCtr ∧ (s.setTherm east code).pending = s.pending
      ∧ (∀ j, (s.setTherm east code).part j = s.part j) ∧ (∀ j, (s.setTherm east code).kpr j = s.kpr j)
      ∧ (∀ j, (s.setTherm east code).station j = s.station j) ∧ (∀ j, (s.setTherm east code).field j = s.field j)
      ∧ (∀ j, (s.setTherm east code).bank j = s.bank j) ∧ (∀ j, (s.setTherm east code).stack j = s.stack j)
      ∧ (∀ j, (s.setTherm east code).tierPort j = s.tierPort j) ∧ (∀ j, (s.setTherm east code).port j = s.port j)
      ∧ (∀ j, (s.setTherm east code).ctx j = s.ctx j) ∧ (∀ j, (s.setTherm east code).region j = s.region j)
      ∧ (∀ j, (s.setTherm east code).ring j = s.ring j) ∧ (∀ j, (s.setTherm east code).dq j = s.dq j) := by
  and_intros <;> first | rfl | (intro _; rfl)

@[simp] theorem State.refuseLease_others (s : State) :
    (s.refuseLease).fuses = s.fuses ∧ (s.refuseLease).boot = s.boot ∧ (s.refuseLease).clk = s.clk
      ∧ (s.refuseLease).host = s.host ∧ (s.refuseLease).parts = s.parts ∧ (s.refuseLease).kprs = s.kprs
      ∧ (s.refuseLease).stations = s.stations ∧ (s.refuseLease).fields = s.fields ∧ (s.refuseLease).net = s.net
      ∧ (s.refuseLease).store = s.store ∧ (s.refuseLease).banks = s.banks ∧ (s.refuseLease).hbm = s.hbm
      ∧ (s.refuseLease).mlv = s.mlv ∧ (s.refuseLease).recov = s.recov ∧ (s.refuseLease).pwr = s.pwr
      ∧ (s.refuseLease).mgmt = s.mgmt ∧ (s.refuseLease).life = s.life ∧ (s.refuseLease).out = s.out
      ∧ (s.refuseLease).freeCtr = s.freeCtr ∧ (s.refuseLease).pending = s.pending
      ∧ (∀ j, (s.refuseLease).part j = s.part j) ∧ (∀ j, (s.refuseLease).kpr j = s.kpr j)
      ∧ (∀ j, (s.refuseLease).station j = s.station j) ∧ (∀ j, (s.refuseLease).field j = s.field j)
      ∧ (∀ j, (s.refuseLease).bank j = s.bank j) ∧ (∀ j, (s.refuseLease).stack j = s.stack j)
      ∧ (∀ j, (s.refuseLease).tierPort j = s.tierPort j) ∧ (∀ j, (s.refuseLease).port j = s.port j)
      ∧ (∀ j, (s.refuseLease).ctx j = s.ctx j) ∧ (∀ j, (s.refuseLease).region j = s.region j)
      ∧ (∀ j, (s.refuseLease).ring j = s.ring j) ∧ (∀ j, (s.refuseLease).dq j = s.dq j) := by
  and_intros <;> first | rfl | (intro _; rfl)

@[simp] theorem State.draw_others (s : State) :
    s.draw.2 = { s with freeCtr := s.freeCtr + 1 } ∧ s.draw.1 = Config.freeValue s.freeCtr := ⟨rfl, rfl⟩

theorem State.part_modPart (s : State) (i j : Nat) (f : Part → Part) :
    (s.modPart i f).part j = if j = i then f (s.part i) else s.part j := by
  split
  · next h => subst h; exact sget_sset_same _ _ _ _
  · next h => exact sget_sset_other _ _ _ _ _ h

theorem State.kpr_modKpr (s : State) (i j : Nat) (f : Kpr → Kpr) :
    (s.modKpr i f).kpr j = if j = i then f (s.kpr i) else s.kpr j := by
  split
  · next h => subst h; exact sget_sset_same _ _ _ _
  · next h => exact sget_sset_other _ _ _ _ _ h

theorem State.station_modStation (s : State) (i j : Nat) (f : Station → Station) :
    (s.modStation i f).station j = if j = i then f (s.station i) else s.station j := by
  split
  · next h => subst h; exact sget_sset_same _ _ _ _
  · next h => exact sget_sset_other _ _ _ _ _ h

theorem State.field_modField (s : State) (i j : Nat) (f : Field → Field) :
    (s.modField i f).field j = if j = i then f (s.field i) else s.field j := by
  split
  · next h => subst h; exact sget_sset_same _ _ _ _
  · next h => exact sget_sset_other _ _ _ _ _ h

theorem State.bank_modBank (s : State) (i j : Nat) (f : Bank → Bank) :
    (s.modBank i f).bank j = if j = i then f (s.bank i) else s.bank j := by
  split
  · next h => subst h; exact sget_sset_same _ _ _ _
  · next h => exact sget_sset_other _ _ _ _ _ h

theorem State.stack_modStack (s : State) (i j : Nat) (f : Stack → Stack) :
    (s.modStack i f).stack j = if j = i then f (s.stack i) else s.stack j := by
  split
  · next h => subst h; exact sget_sset_same _ _ _ _
  · next h => exact sget_sset_other _ _ _ _ _ h

theorem State.tierPort_modTier (s : State) (i j : Nat) (f : TierPort → TierPort) :
    (s.modTier i f).tierPort j = if j = i then f (s.tierPort i) else s.tierPort j := by
  split
  · next h => subst h; exact sget_sset_same _ _ _ _
  · next h => exact sget_sset_other _ _ _ _ _ h

theorem State.port_modPort (s : State) (i j : Nat) (f : Port → Port) :
    (s.modPort i f).port j = if j = i then f (s.port i) else s.port j := by
  split
  · next h => subst h; exact sget_sset_same _ _ _ _
  · next h => exact sget_sset_other _ _ _ _ _ h

theorem State.ctx_modCtx (s : State) (i j : Nat) (f : Ctx → Ctx) :
    (s.modCtx i f).ctx j = if j = i then f (s.ctx i) else s.ctx j := by
  split
  · next h => subst h; exact sget_sset_same _ _ _ _
  · next h => exact sget_sset_other _ _ _ _ _ h

theorem State.region_modRegion (s : State) (i j : Nat) (f : Region → Region) :
    (s.modRegion i f).region j = if j = i then f (s.region i) else s.region j := by
  split
  · next h => subst h; exact sget_sset_same _ _ _ _
  · next h => exact sget_sset_other _ _ _ _ _ h

theorem State.ring_modRing (s : State) (i j : Nat) (f : Ring → Ring) :
    (s.modRing i f).ring j = if j = i then f (s.ring i) else s.ring j := by
  split
  · next h => subst h; exact sget_sset_same _ _ _ _
  · next h => exact sget_sset_other _ _ _ _ _ h

theorem State.dq_modDq (s : State) (i j : Nat) (f : DataQueue → DataQueue) :
    (s.modDq i f).dq j = if j = i then f (s.dq i) else s.dq j := by
  split
  · next h => subst h; exact sget_sset_same _ _ _ _
  · next h => exact sget_sset_other _ _ _ _ _ h

theorem State.part_setPart (s : State) (i j : Nat) (x : Part) :
    (s.setPart i x).part j = if j = i then x else s.part j := by
  split
  · next h => subst h; exact sget_sset_same _ _ _ _
  · next h => exact sget_sset_other _ _ _ _ _ h

theorem State.kpr_setKpr (s : State) (i j : Nat) (x : Kpr) :
    (s.setKpr i x).kpr j = if j = i then x else s.kpr j := by
  split
  · next h => subst h; exact sget_sset_same _ _ _ _
  · next h => exact sget_sset_other _ _ _ _ _ h

theorem State.station_setStation (s : State) (i j : Nat) (x : Station) :
    (s.setStation i x).station j = if j = i then x else s.station j := by
  split
  · next h => subst h; exact sget_sset_same _ _ _ _
  · next h => exact sget_sset_other _ _ _ _ _ h

theorem State.field_setField (s : State) (i j : Nat) (x : Field) :
    (s.setField i x).field j = if j = i then x else s.field j := by
  split
  · next h => subst h; exact sget_sset_same _ _ _ _
  · next h => exact sget_sset_other _ _ _ _ _ h

theorem State.bank_setBank (s : State) (i j : Nat) (x : Bank) :
    (s.setBank i x).bank j = if j = i then x else s.bank j := by
  split
  · next h => subst h; exact sget_sset_same _ _ _ _
  · next h => exact sget_sset_other _ _ _ _ _ h

@[simp] theorem State.part_modPart_same (s : State) (i : Nat) (f : Part → Part) : (s.modPart i f).part i = f (s.part i) := by
  rw [State.part_modPart, if_pos rfl]

@[simp] theorem State.kpr_modKpr_same (s : State) (i : Nat) (f : Kpr → Kpr) : (s.modKpr i f).kpr i = f (s.kpr i) := by
  rw [State.kpr_modKpr, if_pos rfl]

@[simp] theorem State.station_modStation_same (s : State) (i : Nat) (f : Station → Station) : (s.modStation i f).station i = f (s.station i) := by
  rw [State.station_modStation, if_pos rfl]

@[simp] theorem State.field_modField_same (s : State) (i : Nat) (f : Field → Field) : (s.modField i f).field i = f (s.field i) := by
  rw [State.field_modField, if_pos rfl]

@[simp] theorem State.bank_modBank_same (s : State) (i : Nat) (f : Bank → Bank) : (s.modBank i f).bank i = f (s.bank i) := by
  rw [State.bank_modBank, if_pos rfl]

@[simp] theorem State.stack_modStack_same (s : State) (i : Nat) (f : Stack → Stack) : (s.modStack i f).stack i = f (s.stack i) := by
  rw [State.stack_modStack, if_pos rfl]

@[simp] theorem State.tierPort_modTier_same (s : State) (i : Nat) (f : TierPort → TierPort) : (s.modTier i f).tierPort i = f (s.tierPort i) := by
  rw [State.tierPort_modTier, if_pos rfl]

@[simp] theorem State.port_modPort_same (s : State) (i : Nat) (f : Port → Port) : (s.modPort i f).port i = f (s.port i) := by
  rw [State.port_modPort, if_pos rfl]

@[simp] theorem State.ctx_modCtx_same (s : State) (i : Nat) (f : Ctx → Ctx) : (s.modCtx i f).ctx i = f (s.ctx i) := by
  rw [State.ctx_modCtx, if_pos rfl]

@[simp] theorem State.region_modRegion_same (s : State) (i : Nat) (f : Region → Region) : (s.modRegion i f).region i = f (s.region i) := by
  rw [State.region_modRegion, if_pos rfl]

@[simp] theorem State.ring_modRing_same (s : State) (i : Nat) (f : Ring → Ring) : (s.modRing i f).ring i = f (s.ring i) := by
  rw [State.ring_modRing, if_pos rfl]

@[simp] theorem State.dq_modDq_same (s : State) (i : Nat) (f : DataQueue → DataQueue) : (s.modDq i f).dq i = f (s.dq i) := by
  rw [State.dq_modDq, if_pos rfl]

/-! ### Updates that agree on the part updated, and two updates of one part -/

theorem State.modPart_congr (s : State) (i : Nat) (f g : Part → Part) (h : f (s.part i) = g (s.part i)) :
    s.modPart i f = s.modPart i g := by
  simp only [State.modPart, State.part, State.setPart] at h ⊢; rw [h]

theorem State.modKpr_congr (s : State) (i : Nat) (f g : Kpr → Kpr) (h : f (s.kpr i) = g (s.kpr i)) :
    s.modKpr i f = s.modKpr i g := by
  simp only [State.modKpr, State.kpr, State.setKpr] at h ⊢; rw [h]

theorem State.modStation_congr (s : State) (i : Nat) (f g : Station → Station) (h : f (s.station i) = g (s.station i)) :
    s.modStation i f = s.modStation i g := by
  simp only [State.modStation, State.station, State.setStation] at h ⊢; rw [h]

theorem State.modField_congr (s : State) (i : Nat) (f g : Field → Field) (h : f (s.field i) = g (s.field i)) :
    s.modField i f = s.modField i g := by
  simp only [State.modField, State.field, State.setField] at h ⊢; rw [h]

theorem State.modBank_congr (s : State) (i : Nat) (f g : Bank → Bank) (h : f (s.bank i) = g (s.bank i)) :
    s.modBank i f = s.modBank i g := by
  simp only [State.modBank, State.bank, State.setBank] at h ⊢; rw [h]

theorem State.modStack_congr (s : State) (i : Nat) (f g : Stack → Stack) (h : f (s.stack i) = g (s.stack i)) :
    s.modStack i f = s.modStack i g := by
  simp only [State.modStack, smod, State.stack] at h ⊢; rw [h]

theorem State.modTier_congr (s : State) (i : Nat) (f g : TierPort → TierPort) (h : f (s.tierPort i) = g (s.tierPort i)) :
    s.modTier i f = s.modTier i g := by
  simp only [State.modTier, smod, State.tierPort] at h ⊢; rw [h]

theorem State.modPort_congr (s : State) (i : Nat) (f g : Port → Port) (h : f (s.port i) = g (s.port i)) :
    s.modPort i f = s.modPort i g := by
  simp only [State.modPort, smod, State.port] at h ⊢; rw [h]

theorem State.modCtx_congr (s : State) (i : Nat) (f g : Ctx → Ctx) (h : f (s.ctx i) = g (s.ctx i)) :
    s.modCtx i f = s.modCtx i g := by
  simp only [State.modCtx, smod, State.ctx] at h ⊢; rw [h]

theorem State.modRegion_congr (s : State) (i : Nat) (f g : Region → Region) (h : f (s.region i) = g (s.region i)) :
    s.modRegion i f = s.modRegion i g := by
  simp only [State.modRegion, smod, State.region] at h ⊢; rw [h]

theorem State.modRing_congr (s : State) (i : Nat) (f g : Ring → Ring) (h : f (s.ring i) = g (s.ring i)) :
    s.modRing i f = s.modRing i g := by
  simp only [State.modRing, smod, State.ring] at h ⊢; rw [h]

theorem State.modDq_congr (s : State) (i : Nat) (f g : DataQueue → DataQueue) (h : f (s.dq i) = g (s.dq i)) :
    s.modDq i f = s.modDq i g := by
  simp only [State.modDq, smod, State.dq] at h ⊢; rw [h]

@[simp] theorem State.modPart_modPart (s : State) (i : Nat) (f g : Part → Part) :
    (s.modPart i f).modPart i g = s.modPart i fun x => g (f x) := by
  simp only [State.modPart, State.part, State.setPart, sget_sset_same, sset_sset]

@[simp] theorem State.modKpr_modKpr (s : State) (i : Nat) (f g : Kpr → Kpr) :
    (s.modKpr i f).modKpr i g = s.modKpr i fun x => g (f x) := by
  simp only [State.modKpr, State.kpr, State.setKpr, sget_sset_same, sset_sset]

@[simp] theorem State.modStation_modStation (s : State) (i : Nat) (f g : Station → Station) :
    (s.modStation i f).modStation i g = s.modStation i fun x => g (f x) := by
  simp only [State.modStation, State.station, State.setStation, sget_sset_same, sset_sset]

@[simp] theorem State.modField_modField (s : State) (i : Nat) (f g : Field → Field) :
    (s.modField i f).modField i g = s.modField i fun x => g (f x) := by
  simp only [State.modField, State.field, State.setField, sget_sset_same, sset_sset]

@[simp] theorem State.modBank_modBank (s : State) (i : Nat) (f g : Bank → Bank) :
    (s.modBank i f).modBank i g = s.modBank i fun x => g (f x) := by
  simp only [State.modBank, State.bank, State.setBank, sget_sset_same, sset_sset]

@[simp] theorem State.modStack_modStack (s : State) (i : Nat) (f g : Stack → Stack) :
    (s.modStack i f).modStack i g = s.modStack i fun x => g (f x) := by
  simp only [State.modStack, smod, sget_sset_same, sset_sset]

@[simp] theorem State.modTier_modTier (s : State) (i : Nat) (f g : TierPort → TierPort) :
    (s.modTier i f).modTier i g = s.modTier i fun x => g (f x) := by
  simp only [State.modTier, smod, sget_sset_same, sset_sset]

@[simp] theorem State.modPort_modPort (s : State) (i : Nat) (f g : Port → Port) :
    (s.modPort i f).modPort i g = s.modPort i fun x => g (f x) := by
  simp only [State.modPort, smod, sget_sset_same, sset_sset]

@[simp] theorem State.modCtx_modCtx (s : State) (i : Nat) (f g : Ctx → Ctx) :
    (s.modCtx i f).modCtx i g = s.modCtx i fun x => g (f x) := by
  simp only [State.modCtx, smod, sget_sset_same, sset_sset]

@[simp] theorem State.modRegion_modRegion (s : State) (i : Nat) (f g : Region → Region) :
    (s.modRegion i f).modRegion i g = s.modRegion i fun x => g (f x) := by
  simp only [State.modRegion, smod, sget_sset_same, sset_sset]

@[simp] theorem State.modRing_modRing (s : State) (i : Nat) (f g : Ring → Ring) :
    (s.modRing i f).modRing i g = s.modRing i fun x => g (f x) := by
  simp only [State.modRing, smod, sget_sset_same, sset_sset]

@[simp] theorem State.modDq_modDq (s : State) (i : Nat) (f g : DataQueue → DataQueue) :
    (s.modDq i f).modDq i g = s.modDq i fun x => g (f x) := by
  simp only [State.modDq, smod, sget_sset_same, sset_sset]

end Sys2Proof.Machine
end

