-- ==== Sys2Proof/Laws/Commands.lean ====
section
/-! SUPPORT. What the shared operations of commands do: a command that passes its checks is carried out, one that fails is
completed with the status; completions change rings, outputs and the port's count alone. -/

namespace Sys2Proof.Machine

/-! ### Carrying out a command -/

/-- An admitted command is carried out under the next CSN. -/
theorem runCommand_admitted (op : Nat) (c : Packet) (s : State) (h : Admitted op c s) :
    runCommand op c s = (s.began c).execute ⟨op, c⟩ (s.csnOf c) := by
  obtain ⟨hb, hr, hm, hp⟩ := h
  have hm : ¬ (c.src = .mgmt ∧ 8 ≤ s.mgmt.outstanding) := fun q => by have := hm q.1; omega
  simp only [runCommand, State.admitCommand, hb, hr, hp, hm, if_false, ne_eq, not_true_eq_false, Bool.true_eq_false]
  rfl

/-- A command that passes has its row's effect. -/
theorem runCommand_passes (r : CatRow) (hr : catRow r.opcode = some r) (c : Packet) (s : State) (h : Passes r c s) :
    runCommand r.opcode c s = r.eff (s.csnOf c) ⟨r.opcode, c⟩ (s.began c) := by
  rw [runCommand_admitted _ _ _ h.1]
  simp only [State.execute, hr, h.2, ne_eq, not_true_eq_false, if_false]

/-- An admitted command whose precondition fails completes with the failing status. -/
theorem runCommand_fails (r : CatRow) (hr : catRow r.opcode = some r) (c : Packet) (s : State) (h : Admitted r.opcode c s)
    (hp : (r.pre (s.began c) c).status ≠ 0) :
    runCommand r.opcode c s = (s.began c).finish ⟨r.opcode, c⟩ (s.csnOf c) (r.pre (s.began c) c) := by
  rw [runCommand_admitted _ _ _ h]
  simp only [State.execute, hr, hp, ne_eq, not_false_eq_true, if_true]

/-- A command that fails one of checks 1 to 7 is refused with its status. -/
theorem runCommand_refused (op : Nat) (c : Packet) (s : State) (hb : s.canBring c = true) (hr : s.repeated c = none)
    (hm : c.src = .mgmt → s.mgmt.outstanding < 8) (hp : (s.enter c).precheck ⟨op, c⟩ ≠ 0) :
    runCommand op c s = (s.enter c).refuse ⟨op, c⟩ ((s.enter c).precheck ⟨op, c⟩) := by
  have hm : ¬ (c.src = .mgmt ∧ 8 ≤ s.mgmt.outstanding) := fun q => by have := hm q.1; omega
  simp only [runCommand, State.admitCommand, hb, hr, hp, hm, if_false, if_true, ne_eq, not_false_eq_true, Bool.true_eq_false]

/-! ### What completions leave alone: everything but the host interface and the outputs -/

theorem State.writeSlot_same (s : State) (q : Nat) (c : Completion) :
    s.writeSlot q c = { s with host := (s.writeSlot q c).host, out := (s.writeSlot q c).out } := rfl

theorem State.postWaiting_same (s : State) (q : Nat) (c : Completion) :
    (s.postWaiting q c).1 = { s with host := (s.postWaiting q c).1.host, out := (s.postWaiting q c).1.out } := by
  unfold State.postWaiting
  dsimp only
  split
  · rfl
  · split
    · rfl
    · split <;> rfl

theorem State.postRing0_same (s : State) (c : Completion) :
    s.postRing0 c = { s with host := (s.postRing0 c).host, out := (s.postRing0 c).out } := by
  unfold State.postRing0
  split
  · exact s.postWaiting_same _ c
  · rfl

theorem State.postLater_same (s : State) (q : Nat) (c : Completion) :
    s.postLater q c = { s with host := (s.postLater q c).host, out := (s.postLater q c).out } := by
  unfold State.postLater
  split
  · exact s.postWaiting_same _ c
  · exact s.postRing0_same c

theorem State.postReserved_same (s : State) (q : Nat) (c : Completion) :
    s.postReserved q c = { s with host := (s.postReserved q c).host, out := (s.postReserved q c).out } := by
  unfold State.postReserved
  dsimp only
  split
  · rfl
  · exact s.postLater_same _ c

theorem State.reply_same (s : State) (first : Bool) (dest : Nat) (c : Cmd) (k : Nat) (r : Res) (h : c.packet.src ≠ .peer) :
    s.reply first dest c k r = { s with host := (s.reply first dest c k r).host, out := (s.reply first dest c k r).out } := by
  unfold State.reply
  dsimp only
  split
  · split
    · exact s.postReserved_same _ _
    · exact s.postLater_same _ _
  · rfl
  · rename_i hp; exact absurd hp h

theorem State.finish_same (s : State) (c : Cmd) (k : Nat) (r : Res) (h : c.packet.src ≠ .peer) :
    s.finish c k r
      = { s with host := (s.finish c k r).host, out := (s.finish c k r).out, mgmt := (s.finish c k r).mgmt } := by
  unfold State.finish State.mgmtDone
  rw [s.reply_same true c.packet.ring c k r h]
  split <;> rfl

theorem State.began_same (s : State) (c : Packet) :
    s.began c = { s with host := (s.began c).host, arb := { s.arb with lastCsn := s.csnOf c }, mgmt := (s.began c).mgmt } := by
  unfold State.began State.csnOf State.enter
  cases c.src <;> rfl

end Sys2Proof.Machine
end

