-- ==== Sys2Proof/Laws/Stations.lean ====
section
/-! SUPPORT. What the shared operations over stations can do. -/

namespace Sys2Proof.Machine

/-- A fold whose steps change stations only changes stations only. -/
theorem foldl_stations {α : Type} (f : State → α → State)
    (hf : ∀ s a, f s a = { s with stations := (f s a).stations }) (l : List α) (s : State) :
    l.foldl f s = { s with stations := (l.foldl f s).stations } := by
  induction l generalizing s with
  | nil => rfl
  | cons a l ih =>
    rw [List.foldl_cons, ih]
    rw [hf s a]

/-- R400: taking the tiles of replay rings changes stations only. -/
theorem State.takeReplay_same (s : State) (st : Nat) :
    s.takeReplay st = { s with stations := (s.takeReplay st).stations } := by
  unfold State.takeReplay
  split
  · rfl
  · exact foldl_stations _ (fun s a => by dsimp only; split <;> rfl) _ _

@[simp] theorem State.takeReplay_part (s : State) (st p : Nat) : (s.takeReplay st).part p = s.part p := by
  unfold State.part; rw [State.takeReplay_same]

@[simp] theorem State.takeReplay_stPart (s : State) (st i : Nat) : (s.takeReplay st).stPart i = s.stPart i := by
  rw [State.takeReplay_same]; rfl

/-- A station whose rings hold nothing to replay takes nothing. -/
theorem State.takeReplay_none (s : State) (st : Nat) (h : ∀ i ∈ (s.station st).core.inb, i.2.replay = []) :
    s.takeReplay st = s := by
  unfold State.takeReplay
  split
  · rfl
  · have : ((s.station st).core.inb.filter fun i => i.2.replay ≠ []) = [] := by
      rw [List.filter_eq_nil_iff]; intro i hi; simp [h i hi]
    simp only [this, List.map_nil, State.forAll, List.foldl_nil]

end Sys2Proof.Machine
end

