-- ==== Sys2Proof/Laws/Update.lean ====
section
/-! SUPPORT. What the update of a page does block by block: a block whose results are all zero raises no flag and changes no
earlier block, and a delta slot needs a spill record for each block whose deltas do not fit. -/

namespace Sys2Proof.Machine

/-- R73: a random value has 16 bits. -/
theorem draw_lt (k : RandKey) (i : Nat) : k.draw i < 65536 := by
  unfold RandKey.draw
  simp only
  split
  · exact Nat.mod_lt _ (by decide)
  · unfold bits; exact Nat.mod_lt _ (by decide)

/-- R65: zero rounds to zero. -/
theorem toInt_zero (r : Nat) (h : r < 65536) : (Rnd.stochastic r).toInt 0 = 0 := by
  have h0 : ((0 : Rat)).floor = 0 := by decide +kernel
  simp only [Rnd.toInt, h0, Int.cast_zero, sub_zero, zero_mul]
  rw [if_neg]
  omega

theorem convert_zero (r : Nat) (h : r < 65536) (neg : Bool) :
    (Fmt.bf16.convert (.stochastic r) (.fin neg 0)).num = .fin neg 0 := by
  have hr : Fmt.bf16.params.roundMag (.stochastic r) 0 = 0 := by
    simp only [FloatParams.roundMag, zero_div, toInt_zero r h, Int.cast_zero, zero_mul]
  have hm : (0 : Rat) ≤ Fmt.bf16.params.maxFinite := by decide +kernel
  simp only [Fmt.convert, FloatParams.convert, hr, if_pos hm]

/-- R57: a block of zeros is written with exponent 0 and significands 0. -/
theorem writeMw16_zeros (r : Nat → Nat) (h : ∀ j, r j < 65536) (neg : Bool) :
    writeMw16 (fun j => .stochastic (r j)) (List.replicate 32 (.fin neg 0)) = some ⟨List.replicate 32 0, 0, false⟩ := by
  have hv : (List.replicate 32 (Num.fin neg 0)).map Num.val = List.replicate 32 0 := by cases neg <;> decide +kernel
  have hs : ((List.replicate 32 (0 : Rat)).mapIdx fun i v => (Rnd.stochastic (r i)).toInt (v * pow2 (142 - ((0 : Nat) : Int))))
      = List.replicate 32 0 := by
    apply List.ext_getElem
    · simp
    · intro i h1 h2
      simp only [List.getElem_mapIdx, List.getElem_replicate, zero_mul, toInt_zero _ (h i)]
  have ha : ((List.replicate 32 (0 : Rat)).foldl (fun a v => max a |v|) 0) = 0 := by decide +kernel
  have hsp : (List.replicate 32 (Num.fin neg 0)).any Num.special = false := by cases neg <;> decide +kernel
  unfold writeMw16
  rw [if_neg (by rw [hsp]; decide)]
  simp only [hv, ha, if_true, Int.toNat_zero]
  rw [mw16Search]
  simp only [hs]
  rw [if_pos (by decide +kernel)]
  decide +kernel

/-- A block whose new weights and moments are all zero raises no flag and changes no byte of an earlier block. -/
theorem updateBlock_zeros (seed : BitVec 64) (n page g : Nat) (k : Consts) (b nb : PageBody) (gr vf : Nat → Num) (bad : Bool)
    (blk : Nat) (a c : Bool) (hg : goOpt g = 0)
    (h : ∀ j < 32, let i := 32 * blk + j
      updateParam g k (weightAt b i) (bf16At b.m1 i) (bf16At b.m2 i) (gr i) (vf i) = ⟨.fin a 0, .fin c 0, .zero⟩) :
    let u := updateBlock seed n page g k b gr vf (nb, bad) blk
    u.2 = bad ∧ (∀ x < 64 * blk, sget 0 u.1.weights x = sget 0 nb.weights x) ∧ ∀ e < blk, sget 0 u.1.exps e = sget 0 nb.exps e := by
  have hps : ((List.range 32).map fun j => let i := 32 * blk + j
      updateParam g k (weightAt b i) (bf16At b.m1 i) (bf16At b.m2 i) (gr i) (vf i))
      = List.replicate 32 ⟨.fin a 0, .fin c 0, .zero⟩ := by
    apply List.ext_getElem
    · simp
    · intro i h1 h2
      simp only [List.getElem_map, List.getElem_range, List.getElem_replicate]
      exact h i (by simpa using h1)
  have hany (f : Param → Bool) : ((List.replicate 32 (⟨.fin a 0, .fin c 0, .zero⟩ : Param)).any f)
      = f ⟨.fin a 0, .fin c 0, .zero⟩ := by rw [List.any_replicate]; rfl
  have hlarge : ((List.replicate 32 (⟨.fin a 0, .fin c 0, .zero⟩ : Param)).mapIdx fun j p =>
      Fmt.bf16.convert (.stochastic ((⟨seed, n, 6, 0, 0⟩ : RandKey).draw (page * pageParams + (32 * blk + j)))) p.m).any
        (·.num.special) = false := by
    rw [List.any_eq_false]
    intro x hx
    obtain ⟨i, hi, rfl⟩ := List.mem_mapIdx.1 hx
    rw [List.getElem_replicate, convert_zero _ (draw_lt _ _)]
    simp [Num.special]
  have hw := writeMw16_zeros (fun j => (⟨seed, n, 5, 0, 0⟩ : RandKey).draw (page * pageParams + (32 * blk + j)))
    (fun j => draw_lt _ _) a
  have hmap : (List.replicate 32 (⟨.fin a 0, .fin c 0, .zero⟩ : Param)).map (·.w) = List.replicate 32 (.fin a 0) := by rw [List.map_replicate]
  simp only [updateBlock, blockParams, updateRnd, hps, hany, hlarge, hmap, hw, hg]
  refine ⟨by simp [Num.special, Num.zero], ?_, ?_⟩
  · intro x hx
    exact sget_writeBytes_outside _ _ _ _ (.inl hx)
  · intro e he
    exact sget_sset_other _ _ _ _ _ (by omega)

/-- Where every block after the first gets zeros, the first block decides the flag, and its bytes stay. -/
theorem updateBlocks_zeros (seed : BitVec 64) (n page g : Nat) (k : Consts) (b : PageBody) (gr vf : Nat → Num) (a c : Bool)
    (hg : goOpt g = 0)
    (h : ∀ i, 32 ≤ i →
      updateParam g k (weightAt b i) (bf16At b.m1 i) (bf16At b.m2 i) (gr i) (vf i) = ⟨.fin a 0, .fin c 0, .zero⟩) (m : Nat) :
    let u0 := updateBlock seed n page g k b gr vf (b, false) 0
    let u := (List.range (m + 1)).foldl (updateBlock seed n page g k b gr vf) (b, false)
    u.2 = u0.2 ∧ (∀ x < 64, sget 0 u.1.weights x = sget 0 u0.1.weights x) ∧ sget 0 u.1.exps 0 = sget 0 u0.1.exps 0 := by
  induction m with
  | zero => simp [List.range_succ]
  | succ m ih =>
    intro u0
    obtain ⟨h1, h2, h3⟩ := ih
    rw [List.range_succ, List.foldl_append, List.foldl_cons, List.foldl_nil]
    obtain ⟨g1, g2, g3⟩ := updateBlock_zeros seed n page g k b
      ((List.range (m + 1)).foldl (updateBlock seed n page g k b gr vf) (b, false)).1 gr vf
      ((List.range (m + 1)).foldl (updateBlock seed n page g k b gr vf) (b, false)).2 (m + 1) a c hg
      (fun j _ => h _ (by omega))
    refine ⟨?_, ?_, ?_⟩
    · exact g1.trans h1
    · intro x hx; exact (g2 x (by omega)).trans (h2 x hx)
    · exact (g3 0 (by omega)).trans h3

/-- R340: without factored moments the page's update is the updates of its blocks. -/
theorem updateBody_plain (seed : BitVec 64) (n page g : Nat) (k : Consts) (b : PageBody) (grad : Sparse Byte) (hg : goOpt g ≠ 3) :
    updateBody seed n page g k b grad
      = ⟨((List.range pageBlocks).foldl (updateBlock seed n page g k b (fun i => bf16At grad i) fun _ => .zero) (b, false)).1,
        ((List.range pageBlocks).foldl (updateBlock seed n page g k b (fun i => bf16At grad i) fun _ => .zero) (b, false)).2⟩ := by
  have hf : (goOpt g == 3) = false := by simpa using hg
  unfold updateBody
  generalize pageBlocks = m
  simp only [hf, Bool.false_eq_true, if_false, Bool.false_and, Bool.or_false]

/-- Where every block after the first gets zeros, the first block decides whether the page's update is nonfinite, and its
bytes stay. -/
theorem updateBody_zeros (seed : BitVec 64) (n page g : Nat) (k : Consts) (b : PageBody) (grad : Sparse Byte) (a c : Bool)
    (hg : goOpt g = 0)
    (h : ∀ i, 32 ≤ i →
      updateParam g k (weightAt b i) (bf16At b.m1 i) (bf16At b.m2 i) (bf16At grad i) .zero = ⟨.fin a 0, .fin c 0, .zero⟩) :
    (updateBody seed n page g k b grad).nonfinite
        = (updateBlock seed n page g k b (fun i => bf16At grad i) (fun _ => .zero) (b, false) 0).2
      ∧ (∀ x < 64, sget 0 (updateBody seed n page g k b grad).body.weights x
        = sget 0 (updateBlock seed n page g k b (fun i => bf16At grad i) (fun _ => .zero) (b, false) 0).1.weights x)
      ∧ sget 0 (updateBody seed n page g k b grad).body.exps 0
        = sget 0 (updateBlock seed n page g k b (fun i => bf16At grad i) (fun _ => .zero) (b, false) 0).1.exps 0 := by
  obtain ⟨m, hm⟩ : ∃ m, pageBlocks = m + 1 := ⟨pageBlocks - 1, by decide⟩
  rw [updateBody_plain seed n page g k b grad (by omega), hm]
  exact updateBlocks_zeros seed n page g k b (fun i => bf16At grad i) (fun _ => .zero) a c hg h m

/-- R344: a weight that is not finite in the last block makes the page's update nonfinite. -/
theorem updateBody_special (seed : BitVec 64) (n page g : Nat) (k : Consts) (b : PageBody) (grad : Sparse Byte)
    (hg : goOpt g ≠ 3) (i : Nat) (hi : i < 32)
    (h : (updateParam g k (weightAt b (32 * (pageBlocks - 1) + i)) (bf16At b.m1 (32 * (pageBlocks - 1) + i))
      (bf16At b.m2 (32 * (pageBlocks - 1) + i)) (bf16At grad (32 * (pageBlocks - 1) + i)) .zero).w.special = true) :
    (updateBody seed n page g k b grad).nonfinite = true := by
  obtain ⟨m, hm⟩ : ∃ m, pageBlocks = m + 1 := ⟨pageBlocks - 1, by decide⟩
  rw [hm, Nat.add_sub_cancel] at h
  rw [updateBody_plain seed n page g k b grad hg, hm]
  simp only [List.range_succ, List.foldl_append, List.foldl_cons, List.foldl_nil]
  generalize (List.range m).foldl (updateBlock seed n page g k b (fun i => bf16At grad i) fun _ => .zero) (b, false) = acc
  obtain ⟨nb, bad⟩ := acc
  simp only [updateBlock]
  rw [show ∀ mode xs, xs.any Num.special = true → writeMw16 mode xs = none from fun mode xs hx => by rw [writeMw16, if_pos hx]]
  rw [List.any_eq_true]
  refine ⟨_, List.mem_map.2 ⟨_, List.mem_map.2 ⟨i, by simpa using hi, rfl⟩, rfl⟩, h⟩

/-- A slot never has more spill records than blocks encoded. -/
theorem encodeBlocks_spill_le (wv ev wn en : Sparse Byte) (m : Nat) :
    ((List.range m).foldl (encodeBlock wv ev wn en) { zero := false }).spill.length ≤ m := by
  induction m with
  | zero => simp
  | succ m ih =>
    rw [List.range_succ, List.foldl_append, List.foldl_cons, List.foldl_nil, encodeBlock]
    split
    rename_i heq
    simp only [List.length_append]
    split at heq <;> cases heq <;> simp <;> omega

/-- A slot has a spill record for a block 0 whose deltas do not fit. -/
theorem encodeBlocks_spills (wv ev wn en : Sparse Byte) (m : Nat)
    (h : encodeDelta ((List.range 32).map fun i => sigAt wv i) ((List.range 32).map fun i => sigAt wn i) (sget 0 ev 0).toNat
      (expAt en 0) = none) :
    0 < ((List.range (m + 1)).foldl (encodeBlock wv ev wn en) { zero := false }).spill.length := by
  induction m with
  | zero =>
    rw [show List.range (0 + 1) = [0] from rfl]
    simp only [List.foldl_cons, List.foldl_nil, encodeBlock, Nat.mul_zero, Nat.zero_add]
    rw [h]
    simp
  | succ m ih =>
    rw [List.range_succ, List.foldl_append, List.foldl_cons, List.foldl_nil, encodeBlock]
    split
    simp only [List.length_append]
    omega

end Sys2Proof.Machine
end

