-- ==== Sys2Proof/WellFormed.lean ====
section
/-! DEFINITION. When a command is well-formed: every number that names a unit lies in the range that the spec gives the
unit (R2, R10, R282, R456, R457, R470 and the field widths of R385). -/

namespace Sys2Proof

/-- R10: field 0 to 63, row and column 0 to 23. -/
def okStation (st : Nat) : Bool := st < 65536 && bits st 9 5 < 24 && bits st 4 0 < 24

/-- A site, spares included. -/
def okSite (st : Nat) : Bool := st < 65536 && bits st 9 5 < 24 && bits st 4 0 < 25

/-- A packet's ring, context and sequence number. -/
def Packet.wellFormed (c : Packet) : Bool := c.ring < 64 && c.ctx < 4096 && c.seq < 2 ^ 48

/-- Every operand that names a unit, a place or a message field lies in its range. -/
def Instr.wellFormed : Instr → Bool
  | .nop c => c.wellFormed
  | .attach c => c.wellFormed
  | .setId c => c.wellFormed
  | .ringCreate c => c.wellFormed
  | .ringDelete c => c.wellFormed
  | .leaseTake c => c.wellFormed
  | .leaseRelease c => c.wellFormed
  | .reset c => c.wellFormed
  | .eventConfig c => c.wellFormed
  | .partCreate c => c.wellFormed
  | .partDissolve c => c.wellFormed
  | .planLoad c => c.wellFormed
  | .tableLoad c => c.wellFormed
  | .ctxOpen c => c.wellFormed
  | .ctxClose c => c.wellFormed
  | .dqCreate c => c.wellFormed
  | .dqDelete c => c.wellFormed
  | .storeWrite c => c.wellFormed
  | .storeRead c => c.wellFormed
  | .stepBegin c => c.wellFormed
  | .evalOpen c => c.wellFormed
  | .evalClose c => c.wellFormed
  | .skipStep c => c.wellFormed
  | .replay c => c.wellFormed
  | .commitResume c => c.wellFormed
  | .pageLoad c => c.wellFormed
  | .pageRead c => c.wellFormed
  | .scaleRead c => c.wellFormed
  | .scaleWrite c => c.wellFormed
  | .tierEvict c => c.wellFormed
  | .tierFetch c => c.wellFormed
  | .moduleFence c => c.wellFormed
  | .spareAdmit c => c.wellFormed
  | .spareConfig c => c.wellFormed
  | .spareRelease c => c.wellFormed
  | .diagReplay c => c.wellFormed
  | .powerGrants c => c.wellFormed
  | .halfClock c => c.wellFormed
  | .fieldPower c => c.wellFormed
  | .thermalLimits c => c.wellFormed
  | .telemetryConfig c => c.wellFormed
  | .snapshot c => c.wellFormed
  | .lifeRead c => c.wellFormed
  | .attest c => c.wellFormed
  | .fwUpdate c => c.wellFormed
  | .idRead c => c.wellFormed
  | .commandFetch q _ _ => decide (q < 64)
  | .arbitrationCycle => true
  | .finalCompletionPost q => decide (q < 64)
  | .commandTimeout csn => decide (0 < csn ∧ csn < 2 ^ 32)
  | .cxlSqTail q _ => decide (q < 64)
  | .cxlCqHead q _ => decide (q < 64)
  | .cxlRingCtl0Write _ => true
  | .cxlDqDb p q _ => decide (p < 8) && decide (q < 64)
  | .dqInputTile p q _ => decide (p < 8) && decide (q < 64)
  | .dqOutputTile p q _ => decide (p < 8) && decide (q < 64)
  | .cxlLinkReset => true
  | .hostMemRead addr _ => decide (addr < 2 ^ 42)
  | .hostMemWrite addr _ => decide (addr < 2 ^ 42)
  | .registerWrite _ offset size _ => decide (offset < 2 ^ 26) && decide (0 < size ∧ size ≤ 64)
  | .registerReadClear _ offset size => decide (offset < 2 ^ 26) && decide (0 < size ∧ size ≤ 64)
  | .hbmRegCfgWrite _ stk p _ => decide (stk < 32) && decide (p < 8)
  | .fldFaultLogRead f => decide (f < 64)
  | .stationWindowRead st offset => okStation st && decide (offset < 256)
  | .mlvPortEnable _ port _ => decide (port < 64)
  | .retrain _ port => decide (port < 64)
  | .computeStart p => decide (p < 8)
  | .evalStaged p => decide (p < 8)
  | .evalCloseDone p => decide (p < 8)
  | .stepFence p => decide (p < 8)
  | .opFetch st => okStation st
  | .tmul st _ => okStation st
  | .tmulYield st _ _ => okStation st
  | .tmulResume st _ => okStation st
  | .promotion st _ => okStation st
  | .tepi st _ => okStation st
  | .tload st _ => okStation st
  | .tstore st _ => okStation st
  | .tsend st _ => okStation st
  | .trecv st _ => okStation st
  | .tvec st _ => okStation st
  | .tfun st _ => okStation st
  | .tacc st _ => okStation st
  | .tscale st _ => okStation st
  | .tfence st _ => okStation st
  | .tpip st _ => okStation st
  | .opRetire st _ => okStation st
  | .interimShadow st => okStation st
  | .shadowComplete st => okStation st
  | .watchdog st _ => okStation st
  | .streamTile st stream seq _ => okStation st && decide (stream < 65536) && decide (seq < 2 ^ 48)
  | .creditReturn st stream _ _ => okStation st && decide (stream < 65536)
  | .bankReadRequest owner requester region _ => okStation owner && okStation requester && decide (region < 128)
  | .mergeWindowClose owner region _ => okStation owner && decide (region < 128)
  | .bankReadResponse st owner region _ _ => okStation st && okStation owner && decide (region < 128)
  | .arrayFaultLamb st lamb => okStation st && decide (lamb < 16)
  | .arrayFaultWhole st => okStation st
  | .syncPost node member _ _ => decide (node < 1608) && decide (member < 32)
  | .syncResult node _ _ => decide (node < 1608)
  | .heartbeatPost st => okStation st
  | .heartbeatMissing st => okStation st
  | .routerPacket _ gx gy port _ _ _ _ => decide (gx < 200) && decide (gy < 192) && decide (port < 6)
  | .linkSteerResume _ gx gy port => decide (gx < 200) && decide (gy < 192) && decide (port < 6)
  | .checkFlit _ gx gy port _ => decide (gx < 200) && decide (gy < 192) && decide (port < 6)
  | .truncationFlit gx gy port => decide (gx < 200) && decide (gy < 192) && decide (port < 6)
  | .reductionContribution p tree site _ seq micro _ _ => decide (p < 8) && decide (tree < 64) && okStation site && decide (seq < 2 ^ 48) && decide (micro < 65536)
  | .remapUpdate st _ => okStation st
  | .fillTransfer st _ _ => okStation st
  | .stationErrorReport st _ => okStation st
  | .fillComplete f => decide (f < 64)
  | .routerFaultReport st => okSite st
  | .fieldReady t => decide (t.field < 64) && (t.failed ++ t.routers ++ t.sites).all fun i => decide (i < 600)
  | .refreshBurst f prow pcol => decide (f < 64) && decide (prow < 24) && decide (pcol < 25)
  | .storeBandFall f => decide (f < 64)
  | .storeCorrectWriteback f prow pcol _ => decide (f < 64) && decide (prow < 24) && decide (pcol < 25)
  | .scrubBlock f prow pcol _ _ => decide (f < 64) && decide (prow < 24) && decide (pcol < 25)
  | .scrubOverdue f prow pcol _ _ => decide (f < 64) && decide (prow < 24) && decide (pcol < 25)
  | .wordRecovery f prow pcol _ => decide (f < 64) && decide (prow < 24) && decide (pcol < 25)
  | .migrationCopyDone f copy => decide (f < 64) && decide (copy.station < 576)
  | .bankControllerFault f i => decide (f < 64) && decide (i < 576)
  | .sensorRead _ => true
  | .hbmRefreshModeFall stk => decide (stk < 32)
  | .hbmIssueSlot slot _ _ _ => decide (slot.stack < 32 ∧ slot.channel < 64)
  | .hbmScrubBurst stk _ _ => decide (stk < 32)
  | .slowFetchComplete k p page comp _ => decide (k < 8) && decide (p < 8) && decide (page < 2 ^ 28) && decide (comp < 4)
  | .evictComplete k p page comp => decide (k < 8) && decide (p < 8) && decide (page < 2 ^ 28) && decide (comp < 3)
  | .uioTimeout t _ => decide (t < 3)
  | .bucketTile k p bucket stream seq _ => decide (k < 8) && decide (p < 8) && decide (bucket < 4096) && decide (stream < 65536) && decide (seq < 2 ^ 48)
  | .bucketAdmit k p => decide (k < 8) && decide (p < 8)
  | .sliceAcknowledged k p bucket page => decide (k < 8) && decide (p < 8) && decide (bucket < 4096) && decide (page < 2 ^ 28)
  | .parkWriteDone k p bucket => decide (k < 8) && decide (p < 8) && decide (bucket < 4096)
  | .pageReduced k p page => decide (k < 8) && decide (p < 8) && decide (page < 2 ^ 28)
  | .pageCommit k p page => decide (k < 8) && decide (p < 8) && decide (page < 2 ^ 28)
  | .rollbackDone p => decide (p < 8)
  | .trainingPhaseDone port => decide (port < 64)
  | .trainingTimeout port => decide (port < 64)
  | .downRetrain port => decide (port < 64)
  | .live port _ => decide (port < 64)
  | .lack port _ => decide (port < 64)
  | .lnak port _ => decide (port < 64)
  | .lcredit port _ => decide (port < 64)
  | .liveSend port => decide (port < 64)
  | .lackSend port => decide (port < 64)
  | .cellReceive port _ _ _ => decide (port < 64)
  | .portDown port => decide (port < 64)
  | .portStall port => decide (port < 64)
  | .stallRetrain port => decide (port < 64)
  | .hello ctx incarnation partnerCtx => decide (ctx < 4096) && decide (incarnation < 65536) && decide (partnerCtx < 4096)
  | .helloSend ctx => decide (ctx < 4096)
  | .ackSend ctx cls => decide (ctx < 4096) && decide (cls < 5)
  | .cellResend ctx cls seq port => decide (ctx < 4096) && decide (cls < 5) && decide (seq < 2 ^ 48) && decide (port < 64)
  | .contextLost ctx cls => decide (ctx < 4096) && decide (cls < 5)
  | .watchNull ctx => decide (ctx < 4096)
  | .watchLost ctx => decide (ctx < 4096)
  | .sliceHead ctx head _ => decide (ctx < 4096) && decide (head < 2 ^ 4096)
  | .pageHead ctx head _ => decide (ctx < 4096) && decide (head < 2 ^ 4096)
  | .amax ctx head => decide (ctx < 4096) && decide (head < 2 ^ 4096)
  | .amaxReport st k tensor _ => okStation st && decide (k < 8) && decide (tensor < 1024)
  | .pageReq ctx head => decide (ctx < 4096) && decide (head < 2 ^ 4096)
  | .sliceReq ctx head => decide (ctx < 4096) && decide (head < 2 ^ 4096)
  | .peerCmd ctx seq _ => decide (ctx < 4096) && decide (seq < 2 ^ 48)
  | .peerCpl ctx head => decide (ctx < 4096) && decide (head < 2 ^ 4096)
  | .sumUp ctx head _ => decide (ctx < 4096) && decide (head < 2 ^ 4096)
  | .sumDown ctx head => decide (ctx < 4096) && decide (head < 2 ^ 4096)
  | .huskGrad ctx head _ => decide (ctx < 4096) && decide (head < 2 ^ 4096)
  | .huskNull ctx head => decide (ctx < 4096) && decide (head < 2 ^ 4096)
  | .huskSched ctx head _ => decide (ctx < 4096) && decide (head < 2 ^ 4096)
  | .huskProg ctx head => decide (ctx < 4096) && decide (head < 2 ^ 4096)
  | .huskPull ctx head => decide (ctx < 4096) && decide (head < 2 ^ 4096)
  | .huskPage ctx head _ => decide (ctx < 4096) && decide (head < 2 ^ 4096)
  | .huskCmp ctx head => decide (ctx < 4096) && decide (head < 2 ^ 4096)
  | .huskEnd ctx head => decide (ctx < 4096) && decide (head < 2 ^ 4096)
  | .admitWaitExpiry id => decide (id < 4095)
  | .takeoverBlocked => true
  | .attReq ctx head => decide (ctx < 4096) && decide (head < 2 ^ 4096)
  | .mgmtCommand _ _ => true
  | .mgmtDataIn _ _ => true
  | .mgmtPortReset => true
  | .refLoss => true
  | .pllLockLoss => true
  | .supplyUndervoltage _ _ => true
  | .supplyOvervoltage _ _ => true
  | .uvloRestart _ _ => true
  | .pairLost _ _ => true
  | .clipAssert _ => true
  | .clipRelease _ => true
  | .efuseTrip _ => true
  | .powerEvaluation _ _ => true
  | .issueGateSample _ _ => true
  | .thermalCapStep _ => true
  | .thermalStageExit _ => true
  | .thermalDividerStep _ => true
  | .coolantFault _ _ _ => true
  | .powerUp _ _ => true
  | .bringupStageTimeout _ => true
  | .bringupReady _ _ _ => true
  | .cpWatchdog => true
  | .fwProgramDone _ => true
  | .enableDeassert => true
  | .telemetrySample _ => true
  | .snapshotAssembly _ _ => true
  | .sensorCalibration _ => true
  | .wearAccumulate f _ => decide (f < 64)
  | .counterSetWrite _ => true
  | .slowTierPerst t => decide (t < 3)
  | .planLoadDone csn _ => decide (0 < csn ∧ csn < 2 ^ 32)
  | .pageLoadDone csn _ => decide (0 < csn ∧ csn < 2 ^ 32)
  | .pageReadDone csn => decide (0 < csn ∧ csn < 2 ^ 32)
  | .storeWriteDone csn _ => decide (0 < csn ∧ csn < 2 ^ 32)
  | .storeReadDone csn => decide (0 < csn ∧ csn < 2 ^ 32)
  | .spareConfigDone csn _ => decide (0 < csn ∧ csn < 2 ^ 32)
  | .diagReplayEnd csn => decide (0 < csn ∧ csn < 2 ^ 32)
  | .fwImageHeld _ => true
  | .refRestored => true
  | .pairRestored _ _ => true
  | .marginalBandChange _ _ => true
  | .keeperFailure k => decide (k < 8)
  | .fieldControllerFailure f _ => decide (f < 64)
  | .hbmRefresh stk => decide (stk < 32)
  | .slowTierLinkUp t _ _ => decide (t < 3)
  | .reopenTimeout ctx => decide (ctx < 4096)

end Sys2Proof
end

