-- ==== Sys2Proof/Tests/Slice0.lean ====
section
/-! SUPPORT. Tests of one step, and for every statement of Certificates/Slice0 a state and operands that meet the hypotheses
of each of its clauses, at the bounds of their ranges. -/

set_option Elab.async false

namespace Sys2Proof.Tests

open Sys2Proof Sys2Proof.Machine

/-! ### Ill-formed commands: one for each check of WellFormed -/

theorem test_illformed_commands :
    ([.nop { src := .host, ring := 64 }, .attach { src := .peer, ctx := 4096 }, .reset { src := .peer, seq := 2 ^ 48 }, .commandFetch 64 0 [], .commandTimeout 0
      , .commandTimeout (2 ^ 32), .cxlDqDb 8 0 0, .cxlDqDb 0 64 0, .hostMemRead (2 ^ 42) 8, .registerWrite .host (2 ^ 26) 4 0
      , .registerReadClear .host 0 0, .hbmRegCfgWrite .host 32 0 0, .hbmRegCfgWrite .host 0 8 0, .fldFaultLogRead 64
      , .stationWindowRead 24 0, .stationWindowRead 0 256, .retrain .host 64, .computeStart 8] : List Instr).all
      (fun c => !c.wellFormed) = true := by decide +kernel

theorem test_illformed_wafer :
    ([.opFetch 65536, .opFetch (24 * 32), .tmul 24 0, .streamTile 0 65536 0 [], .streamTile 0 0 (2 ^ 48) []
      , .bankReadRequest 0 24 0 ⟨0, 1, 0, []⟩, .mergeWindowClose 0 128 0, .arrayFaultLamb 0 16, .syncPost 1608 0 0 0
      , .routerPacket true 200 0 0 0 false ⟨0, [], true⟩ false, .linkSteerResume true 0 192 0, .checkFlit true 0 0 6 true
      , .reductionContribution 8 0 0 0 0 0 0 [], .reductionContribution 0 64 0 0 0 0 0 []
      , .reductionContribution 0 0 0 0 0 65536 0 [], .refreshBurst 64 0 0, .refreshBurst 0 24 0, .refreshBurst 0 0 25
      , .migrationCopyDone 0 ⟨576, []⟩, .fieldReady ⟨64, [], [], []⟩] : List Instr).all (fun c => !c.wellFormed) = true := by decide +kernel

theorem test_illformed_keepers_links :
    ([.hbmIssueSlot ⟨32, 0⟩ [] [] [], .slowFetchComplete 8 0 0 0 [], .slowFetchComplete 0 0 (2 ^ 28) 0 []
      , .slowFetchComplete 0 0 0 4 [], .uioTimeout 3 ⟨⟨0, 0, 0, 0, false⟩, 0⟩, .bucketTile 0 0 4096 0 0 [], .parkWriteDone 0 8 0
      , .trainingPhaseDone 64, .hello 0 65536 0, .hello 0 0 4096, .ackSend 0 5, .cellResend 0 0 (2 ^ 48) 0
      , .sliceReq 4096 0, .sliceReq 0 (2 ^ 4096), .amaxReport 0 0 1024 0, .admitWaitExpiry 4095, .wearAccumulate 64 0
      , .diagReplayEnd 0, .keeperFailure 8] : List Instr).all (fun c => !c.wellFormed) = true := by decide +kernel

theorem test_wellformed :
    ([.nop { src := .host }, .opFetch (1024 * 63 + 32 * 23 + 23), .routerPacket true 199 191 5 0 false ⟨0, [], true⟩ false, .refreshBurst 63 23 24
      , .hello 4095 65535 4095, .cellResend 4095 4 (2 ^ 48 - 1) 63] : List Instr).all (·.wellFormed) = true := by decide +kernel

/-! ### States -/

/-- The host has attached, and ring 1 has 16 slots. -/
def rung : State :=
  { State.reset with
    host := { State.reset.host with attached := true, rings := [(1, { enable := true, size := 4, vector := 3, sqTail := 1 })] } }

/-- A packet of the host on ring 1, and one of the enclosure manager. -/
def fromHost (n : Nat) (data : List Byte := []) : Packet := { src := .host, ring := 1, cmdId := 5, params := BitVec.ofNat 448 n, data := data }
def fromMgmt (n : Nat) (data : List Byte := []) : Packet := { src := .mgmt, cmdId := 5, tag := 7, params := BitVec.ofNat 448 n, data := data }

def withPart (s : State) (x : Part) : State := s.setPart 0 x

/-- Partition 0 holds field row 0, and the host its lease. -/
def formed : State := (withPart rung { formed := true, rows := 1 }).setHolder 0 1

theorem witness_RingRegisters :
    (let s := rung; s.boot.stage = .ready ∧ (s.ring 1).enable = true ∧ bits (15#32).toNat 11 0 < 2 ^ (s.ring 1).size
      ∧ 2 ^ (s.ring 1).size ≤ bits (16#32).toNat 11 0 ∧ (s.ring 1).cqHead < 2 ^ (s.ring 1).size
      ∧ (0 + 2 ^ (s.ring 1).size - (s.ring 1).cqHead) % 2 ^ (s.ring 1).size ≤ (s.ring 1).used ∧ (s.ring 0).enable = false
      ∧ bits (0x18#32 ||| 1#32).toNat 4 1 = 12 ∧ bits (0x8#32 ||| 1#32).toNat 4 1 = 4 ∧ bits (0x7#32).toNat 4 1 = 3
      ∧ bits (0x1B#32).toNat 4 1 = 13)
    ∧ (let s := rung.modRing 0 fun r => { r with enable := true }; s.boot.stage = .ready ∧ (s.ring 0).enable = true) := by
  decide +kernel

/-- A command of a packet. -/
def cmd (op : Nat) (c : Packet) : Cmd := ⟨op, c⟩

/-- Ring 1's entry: NOP with CMD_ID 5, and a reserved opcode. -/
def nopEntry : BitVec 512 := BitVec.ofNat 512 (5 * 2 ^ 16)

/-- Context 3 is open to Keeper 2 of module 9. -/
def linked : State :=
  { rung with mlv := { rung.mlv with selfId := 1, ctxs := [(3, { state := .opened, partner := 9, partnerKpr := 2, watch := true })] } }

theorem witness_Arbitration :
    (let s := rung
     let c := cmdOf nopEntry .host 1 0 0 0 []
     let b := (s.modRing 1 fun r => { r with sqHead := (r.sqHead + 1) % 2 ^ r.size }).enter c.packet
     let bad := cmdOf (0xFF#512) .host 1 0 0 0 []
     let d := (s.modRing 1 fun r => { r with sqHead := (r.sqHead + 1) % 2 ^ r.size }).enter bad.packet
     s.canBring c.packet = true ∧ (s.ring 1).sqHead ≠ (s.ring 1).sqTail ∧ b.precheck c = 0 ∧ d.precheck bad ≠ 0)
    ∧ (let m := cmd 0x11 (fromMgmt 0)
       let h := cmd 0x11 (fromHost 0)
       let s := formed.modArb fun a => { a with presented := [m, h] }
       s.boot.stage = .ready ∧ s.contradict m h = true ∧ s.contradict h m = true ∧ s.arb.lastCsn < 2 ^ 32 - 2
         ∧ m.managerWins = false ∧ h.managerWins = false
         ∧ (((s.modArb fun a => { a with presented := [], lastCsn := 1 }).modArb fun a =>
             { a with superseded := satAdd 12 a.superseded 1 }).finish m 1 { status := 0x4001, result := 2 }).boot.stage = .ready)
    ∧ (let m := cmd 0x61 (fromMgmt 2)
       let h := cmd 0x61 (fromHost 2)
       let s := formed.modArb fun a => { a with presented := [m, h] }
       s.contradict m h = true ∧ s.contradict h m = true ∧ m.managerWins = true
         ∧ ((s.modArb fun a => { a with presented := [], lastCsn := 1 }).execute m 1).boot.stage = .ready)
    ∧ (let fence := BitVec.ofNat 512 (0x50 + 7 * 2 ^ 64 + 1 * 2 ^ 76)
       let s := linked
       (s.ctx 3).state = .opened ∧ (∀ d ∈ s.arb.presented, d.packet.src ≠ .peer) ∧ s.arb.peerDone = []
         ∧ (s.took 3 1 1).precheck (cmdOf fence .peer 0 3 0 0 []) = 0)
    ∧ (let s := rung.modMgmt fun m => { m with dataIn := some (7, [1]) }
       s.boot.stage = .ready ∧ s.mgmt.outstanding < 8
         ∧ (s.enter (cmdOf nopEntry .mgmt 0 0 0 7 [1]).packet).precheck (cmdOf nopEntry .mgmt 0 0 0 7 [1]) = 0)
    ∧ (let s := rung.modMgmt fun m => { m with outstanding := 8 }
       s.boot.stage = .ready ∧ 8 ≤ s.mgmt.outstanding) := by
  decide +kernel

theorem witness_CompletionsAndLinkReset :
    (let c : Completion := ⟨0, 5, 1, false, 0, 1, 0⟩
     let s := rung.modRing 1 fun r => { r with finals := [c], cqTail := 14 }
     (s.ring 1).finals = [c] ∧ (s.ring 1).enable = true ∧ (s.ring 1).free = 1)
    ∧ (let f : InFlight := ⟨7, cmd 0x30 (fromHost 0), 1, false⟩
       let g : InFlight := ⟨8, cmd 0x12 (fromHost 0), 1, false⟩
       let s := rung.modArb fun a => { a with inflight := [f, g] }
       s.flight 7 = some f ∧ f.cmd.opcode = 0x30 ∧ s.flight 8 = some g ∧ g.cmd.opcode ≠ 0x30 ∧ g.cmd.opcode ≠ 0x81
         ∧ g.cmd.opcode ≠ 0x54 ∧ g.muted = false) := by
  decide +kernel

theorem witness_PeerRepeat :
    (let s := linked.modArb fun a => { a with peerDone := [(3, 1, 76), (3, 0, 77)] }
     s.boot.stage = .ready ∧ (s.ctx 3).state = .opened
       ∧ (∀ d ∈ s.arb.presented, ¬ (d.packet.src = .peer ∧ d.packet.ctx = 3 ∧ d.packet.seq = 0))
       ∧ s.arb.peerDone.find? (fun q => q.1 == 3 && q.2.1 == 0) = some (3, 0, 77)) := by
  decide +kernel

/-- Field `v` at bit `lo`. -/
def at' (lo v : Nat) : Nat := v * 2 ^ lo

/-- A stream-table entry: ID, source kind and source, destination kind and destination, credits and ring; FP32, one row of 64. -/
def streamEntry (id srcKind src dstKind dst credits ring : Nat) (bucket : Bool) (tree : Nat) : Nat :=
  id + at' 16 8 + at' 32 srcKind + at' 36 src + at' 52 dstKind + at' 56 dst + at' 82 63 + at' 94 credits + at' 102 ring
    + (if bucket then at' 111 1 else 0) + at' 112 tree

/-- A small plan of one field row: station 0 with two MICRO operations, one of EVAL and two regions; data queues 0 and 1; two
pages of module 1's Keeper 0 in one bucket; a herd of modules 1, 9 and 10. -/
def demo : Plan :=
  { header := at' 48 1 + at' 128 8
    sections :=
      [ ⟨0x01, 0, [at' 64 2 + at' 88 1 + at' 160 3]⟩
      , ⟨0x02, 0, [7, 7, 7]⟩
      , ⟨0x03, 0, [at' 48 3, at' 26 1 + at' 48 3 + 256 * 64, at' 32 1]⟩
      , ⟨0x06, 0, [streamEntry 1 0 0 0 0 2 8 false 0, streamEntry 2 0 0 5 0 2 8 false 0, streamEntry 3 5 1 0 0 2 8 false 0
          , streamEntry 4 0 0 4 0 2 8 true 0, streamEntry 5 0 32 3 0 2 8 false 3, streamEntry 6 2 0 0 0 2 8 false 0]⟩
      , ⟨0x07, 0, [3 + at' 4 1 + at' 16 2]⟩
      , ⟨0x08, 0, [at' 120 0x80 + at' 128 1]⟩
      , ⟨0x09, 0, [5 + at' 1088 1]⟩
      , ⟨0x0A, 0, [at' 16 1 + at' 32 5]⟩
      , ⟨0x0C, 0, [3 + at' 8 1 + at' 192 8]⟩
      , ⟨0x11, 0, [at' 28 1 + at' 56 1 + at' 76 1 + at' 80 3]⟩
      , ⟨0x13, 0, [at' 80 1]⟩
      , ⟨0x14, 0, [4]⟩
      , ⟨0x17, 0, [6 + at' 8 2 + at' 16 3, 1, 9, 10]⟩ ]
    image := [] }

/-- Partition 0 of module 1 with the plan at version 4. -/
def demoPart : Part := { formed := true, rows := 1, plan := some demo, version := 4, hver := 4 }
def planned : State := (withPart linked demoPart).setHolder 0 1
/-- The partition in a phase of step 4. -/
def inPhase (ph : Phase) : State := withPart planned { demoPart with phase := ph, step := 4, micro := 2 }

/-- Station 0 with one operation in its queue. -/
def queued (op : Nat) (e : OpEntry → OpEntry := id) : State :=
  (inPhase .compute).modStation 0 fun y =>
    { y with core := { y.core with queue := [e { id := 9, index := 0, script := .micro, op := BitVec.ofNat 128 op, micro := 1, deferred := false }] } }

def entry9 (s : State) : OpEntry := ((s.station 0).core.entry 9).getD { id := 0, index := 0, script := .micro, op := 0, micro := 0, deferred := false }

theorem witness_CommandChecks :
    (catRow catSetId.opcode = some catSetId ∧ catRow catPartDissolve.opcode = some catPartDissolve
      ∧ catRow catLeaseTake.opcode = some catLeaseTake ∧ catRow catTierFetch.opcode = some catTierFetch)
    ∧ formed.boot.mode = 1 ∧ formed.boot.faulted = false
    -- checks 2 to 7, then a command that passes them
    ∧ ¬ (catSetId.hostOnly = false ∨ (fromMgmt 7).src = .host)
    ∧ ((fromHost (2 ^ 100)).n ||| catPartDissolve.mask ≠ catPartDissolve.mask)
    ∧ State.reset.host.attached = false
    ∧ catPartDissolve.lease (rung.enter (fromHost 0)) .host (fromHost 0).n = false
    ∧ (catLeaseTake.sourceOk (fromHost 18) && catLeaseTake.range (rung.enter (fromHost 18)) .host (fromHost 18).n) = false
    ∧ (let s := { formed with fuses := { formed.fuses with part := 0x08 } }
       let c := fromHost (at' 59 1)
       (c.n ||| catTierFetch.mask = catTierFetch.mask) ∧ catTierFetch.lease (s.enter c) .host c.n = true
         ∧ (catTierFetch.sourceOk c && catTierFetch.range (s.enter c) .host c.n) = true
         ∧ catTierFetch.present (s.enter c) c.n = false)
    ∧ (rung.canBring (fromHost 0) = true ∧ (rung.enter (fromHost 0)).precheck ⟨0x11, fromHost 0⟩ ≠ 0)
    ∧ (let s := rung.setHolder 0 1
       Admitted 0x11 (fromHost 0) s ∧ (catPartDissolve.pre (s.began (fromHost 0)) (fromHost 0)).status ≠ 0) := by
  refine ⟨⟨rfl, rfl, rfl, rfl⟩, ?_⟩
  unfold Admitted
  decide +kernel

theorem witness_SystemCommands :
    Passes catNop (fromHost 0) rung ∧ Passes catNop (fromMgmt 0) rung ∧ Passes catAttach (fromHost 99) rung
    ∧ Passes catSetId (fromHost 7) rung
    ∧ Passes catRingCreate (fromHost (63 + at' 6 12 + at' 10 5 + at' 64 4096 + at' 128 8192)) rung
    ∧ Passes catEventConfig (fromHost (1 + at' 6 1 + at' 7 127)) rung ∧ Passes catEventConfig (fromMgmt (at' 6 1)) rung
    ∧ Passes catRingDelete (fromHost 1) rung := by
  unfold Passes Admitted
  decide +kernel

theorem witness_LeasesAndReset :
    Passes catLeaseTake (fromHost 0) rung ∧ Passes catLeaseTake (fromHost 7) rung ∧ Passes catLeaseRelease (fromHost 8) rung
    ∧ Passes catLeaseRelease (fromMgmt 17) rung ∧ Admitted 0x05 (fromHost 16) rung ∧ rung.holder 16 ≠ 0
    ∧ rung.holder 16 ≠ srcHolder .host
    ∧ Passes catReset (fromHost (2 + at' 2 7)) formed
    ∧ Passes catReset (fromMgmt 0) formed ∧ Passes catReset (fromMgmt 1) formed ∧ formed.boot.updateRunning = false
    ∧ Passes catReset (fromMgmt 0) { formed with boot := { formed.boot with updateRunning := true } } := by
  unfold Passes Admitted
  decide +kernel

theorem witness_PartitionCommands :
    Passes catPartCreate (fromHost (7 + at' 8 255)) rung ∧ Passes catPartDissolve (fromHost 0) formed
    ∧ ([8, 63].all fun n => ([] : List Byte) == (fromHost n).data) = true
    ∧ Passes catTableLoad (fromHost (8 + at' 64 64)) formed ∧ Passes catTableLoad (fromHost (63 + at' 64 64)) formed
    ∧ pairFault ((fromHost (8 + at' 64 64)).bytes 8256) = none
    ∧ Passes catTableLoad (fromHost (8 + at' 64 64) [3]) formed ∧ pairFault ((fromHost (8 + at' 64 64) [3]).bytes 8256) = some 0
    ∧ Passes catDqCreate (fromHost (at' 8 1 + at' 64 64 + at' 128 128 + at' 192 65535)) planned
    ∧ Passes catDqDelete (fromHost (at' 8 1)) planned
    ∧ Passes catCtxOpen (fromHost (4095 + at' 12 7 + at' 15 4094 + at' 27 7)) linked
    ∧ Passes catCtxClose (fromHost 3) linked ∧ (fromHost 3).n.testBit 12 = false := by
  unfold Passes Admitted
  decide +kernel

theorem witness_LongCommandsAccepted :
    Passes catPlanLoad (fromHost (at' 64 64 + at' 128 256)) formed
    ∧ Passes catStoreWrite (fromHost (at' 40 256 + at' 64 64)) planned
    ∧ Passes catStoreRead (fromHost (at' 16 (0xE00000 - 256) + at' 40 256 + at' 64 64)) planned
    ∧ Passes catPageLoad (fromHost (at' 31 1 + at' 59 1 + at' 64 64)) planned
    ∧ Passes catSpareConfig (fromHost (20 + at' 18 10 + at' 64 64)) rung
    ∧ Passes catFwUpdate (fromMgmt (at' 64 2) [1, 2]) rung := by
  unfold Passes Admitted
  decide +kernel

theorem witness_StepCommands :
    (Passes catStepBegin (fromHost (at' 8 4 + at' 48 8)) planned ∧ (planned.part 0).phase = .idle)
    ∧ (Passes catStepBegin (fromHost (at' 8 5 + at' 48 1)) (inPhase .reduce) ∧ ((inPhase .reduce).part 0).phase ≠ .idle)
    ∧ Passes catEvalOpen (fromHost (at' 8 4)) planned
    ∧ (let s := withPart planned { demoPart with eval := some { version := 4 } }
       Passes catEvalClose (fromHost 0) s ∧ (s.part 0).eval = some { version := 4 })
    ∧ (let s := withPart planned { demoPart with eval := some { version := 4, staged := true } }
       Passes catEvalClose (fromHost 0) s ∧ (s.part 0).eval = some { version := 4, staged := true })
    ∧ Passes catSkipStep (fromHost 0) (inPhase .halted) ∧ Passes catReplay (fromHost 0) (inPhase .halted)
    ∧ (let s := (inPhase .commit).modKpart 0 0 fun y => { y with cstate := .heldResume }
       Passes catCommitResume (fromHost 0) s ∧ (s.heldNamed (fromHost 0).n) = [0]
         ∧ ((s.heldNamed (fromHost 0).n).all fun k => (s.began (fromHost 0)).spillEnough k 0) = true ∧ (s.part 0).phase = .commit) := by
  unfold Passes Admitted
  decide +kernel

theorem witness_PageAndScaleCommands :
    Passes catPageRead (fromHost (at' 59 1 + at' 64 64 + at' 128 4)) planned
    ∧ Passes catTierFetch (fromHost (at' 31 1 + at' 59 7)) planned ∧ Passes catTierEvict (fromHost (at' 3 1 + at' 59 6)) planned
    ∧ Passes catScaleWrite (fromHost (at' 13 4 + at' 17 3 + at' 19 1)) planned
    ∧ Passes catScaleRead (fromHost (at' 64 64)) planned
    ∧ Passes catScaleRead (fromMgmt 0) (planned.setHolder 0 2) := by
  unfold Passes Admitted
  decide +kernel

theorem witness_FenceAndReplayCommands :
    Passes catModuleFence (fromHost (4094 + at' 12 1)) linked ∧ Passes catModuleFence ⟨.peer, 0, 3, 1, 0, 5, 0, BitVec.ofNat 448 (9 + at' 12 65535), []⟩ linked
    ∧ (Admitted 0x50 (fromHost 9) linked ∧ bits (fromHost 9).n 27 12 ≤ linked.gen 9)
    ∧ Passes catSpareAdmit (fromHost (9 + at' 12 1 + at' 28 20)) linked
    ∧ (Admitted 0x51 (fromHost (9 + at' 28 20)) linked
      ∧ bits (fromHost (9 + at' 28 20)).n 27 12 ≤ (sget (0, 0, 0) linked.recov.admitted 9).1)
    ∧ Passes catSpareRelease (fromHost 0) linked ∧ linked.recov.spare = none
    ∧ (let s := { linked with recov := { linked.recov with spare := some ⟨20, [9, 10], [], 10, []⟩ } }
       Passes catSpareRelease (fromHost 0) s ∧ s.recov.spare.isSome = true)
    ∧ (let c := fromHost (at' 3 9 + at' 15 3 + at' 64 64 + at' 128 256) (List.replicate 256 0)
       Passes catDiagReplay c planned ∧ bits (Plan.ofImage (c.bytes 256)).header 55 48 ≠ (planned.part 0).rows.toNat)
    ∧ (let c := fromHost (at' 3 9 + at' 15 3 + at' 64 64 + at' 128 256) (List.replicate 6 0 ++ [1] ++ List.replicate 249 0)
       Passes catDiagReplay c planned ∧ bits (Plan.ofImage (c.bytes 256)).header 55 48 = (planned.part 0).rows.toNat
         ∧ (planned.part 0).hver ≤ 3 + planned.past
         ∧ (((planned.began c).accept ⟨0x54, c⟩ (planned.csnOf c)).planFault 0 1 (c.bytes 256) 256).isSome = true) := by
  unfold Passes Admitted
  decide +kernel

/-- A grant table with CAP 4,200, FLOOR 2.0, CEILING 4.0 and WEIGHT 1 everywhere. -/
def grantBytes : List Byte := leBytes 64 4200 ++ (List.range 80).flatMap fun _ => leBytes 8 (512 + at' 16 1024 + at' 32 1)

theorem witness_PowerCommands :
    Passes catPowerGrants (fromMgmt 0 grantBytes) rung
    ∧ (Admitted 0x60 (fromMgmt 0 (List.replicate 704 0)) rung ∧ grantFault (List.replicate 704 0) = some 68)
    ∧ Passes catThermalLimits (fromMgmt 0 (leBytes 16 (60 + at' 8 65 + at' 16 70 + at' 24 100 + at' 32 1))) rung
    ∧ Passes catHalfClock (fromMgmt 7) rung
    ∧ Passes catFieldPower (fromMgmt 63) (rung.modField 63 fun x => { x with state := .offForHeat })
    ∧ Passes catFieldPower (fromMgmt (63 + at' 6 1)) rung ∧ Passes catFieldPower (fromMgmt (at' 6 2)) rung := by
  unfold Passes Admitted
  decide +kernel

theorem witness_ReportCommands :
    Passes catTelemetryConfig (fromMgmt (at' 128 100 + at' 144 1)) rung
    ∧ Passes catTelemetryConfig (fromHost (at' 64 4096 + at' 128 2 + at' 144 1)) rung
    ∧ Passes catSnapshot (fromHost 0) (rung.modMgmt fun m => { m with hostTelem := { m.hostTelem with configured := true } })
    ∧ Passes catLifeRead (fromHost (at' 64 64 + at' 128 512)) rung ∧ Passes catAttest (fromHost (at' 256 64)) rung
    ∧ ((rung.began (fromHost 0)).attest (leBytes 32 0)).isSome = true
    ∧ ((rung.modLife fun l => { l with nextIndex := 65536 }).attest (leBytes 32 0)).isNone = true
    ∧ Passes catIdRead (fromHost 64) rung := by
  unfold Passes Admitted
  decide +kernel

theorem witness_ComputeAndEval :
    (let s := withPart planned { demoPart with phase := .gather, step := 4, staged := [(0, { version := 4 })] }
     let x := s.part 0
     x.phase = .gather ∧ x.eval = none ∧ x.replayKey = none ∧ (x.stagePages.any fun g => x.current false x.step g) = true)
    ∧ (let s := withPart planned { demoPart with phase := .gather, plan := some { demo with sections := [] } }
       (s.part 0).phase = .gather ∧ (s.part 0).eval = none ∧ (s.part 0).stagePages = [])
    ∧ ([false, true].all fun closing =>
        let w : EvalWindow := { version := 4, closing := closing }
        let s := withPart planned { demoPart with eval := some w, evalStaged := [(0, { version := 4 }), (1, { version := 4 })] }
        (s.part 0).eval == some w && !w.staged && (s.part 0).gathered true w.version && w.closing == closing) = true
    ∧ (let w : EvalWindow := { version := 4, staged := true, closing := true }
       let s := (withPart planned { demoPart with eval := some w }).modStation 0 fun y => { y with evalClosed := true }
       (s.part 0).eval = some w ∧ ((s.part 0).planStations.all fun st => (s.station st).evalClosed) = true) := by
  decide +kernel

theorem witness_FenceAndRollback :
    (let s := withPart planned { demoPart with phase := .drain, step := 4, fenceRows := [0] }
     let s := s.modStation 0 fun y => { y with fencePosted := true }
     (s.part 0).phase = .drain ∧ ((s.part 0).planStations.all fun st => (s.station st).fencePosted) = true
       ∧ ((s.part 0).fenceWaits.all fun r => (s.part 0).fenceRows.contains r) = true)
    ∧ ([RollbackCause.writeBack, .digest].all fun c =>
        let s := (withPart planned { demoPart with phase := .recovery, step := 4, rollback := some c }).modKpart 0 0 fun y =>
          { y with cstate := .rollback }
        let x := s.part 0
        x.phase == .recovery && x.rollback == some c
          && !(x.keepers.any fun k => (x.ownedBy s.selfId k).any fun g => (s.opage k 0 g).awaitingHusk)
          && (x.keepers.all fun k => (s.kpart k 0).cstate == .rollback)) = true := by
  decide +kernel

/-- Module 1 stands as rank 1: its parent is module 9. -/
def child : State :=
  { inPhase .compute with
    mlv := { (inPhase .compute).mlv with selfId := 9, ctxs := [(3, { state := .opened, partner := 1 })] } }

theorem witness_HerdSums :
    (let s := inPhase .compute
     let head := 4 + at' 40 6 + at' 52 1
     let up := s.took 3 2 1
     let recs := [SumRec.decode (leNat ((((leBytes 512 head).drop 16).drop 0).take 16))]
     let ok (p : Nat) (x : Part) : Bool :=
       0 ≤ 3 && ((([] : List Byte).length + 511) / 512 == (1 - 31 + 31) / 32 && 16 * (1 - 31) ≤ ([] : List Byte).length)
         && (4 == x.step || 4 + 1 == x.step || (x.phase == .idle && 4 == x.version)) && 1 ≤ 4096
         && (match x.rankOf (up.ctx 3).partner with
             | some r => (x.childRanks (up.selfRank p)).contains r
             | none => false)
         && recs.all fun r => r.rank < x.ranks
     (s.ctx 3).state = .opened ∧ bits head 47 40 = 6 ∧ bits head 64 52 = 1 ∧ bits head 51 48 ≤ 3 ∧ up.herdPart 6 ok = some 0
       ∧ up.herdPart 7 ok = none)
    ∧ (let s := child
       let down := s.took 3 2 1
       let ok (p : Nat) (x : Part) : Bool :=
         0 ≤ 3 && 4 == x.step
           && (match x.rankOf (down.ctx 3).partner with
               | some q => down.selfRank p ≠ 0 && q == (down.selfRank p - 1) / x.herdF
               | none => false)
       (s.ctx 3).state = .opened ∧ down.herdPart 6 ok = some 0 ∧ down.herdPart 7 ok = none) := by
  decide +kernel

/-- A TVEC that reads tile 0 of a region of the bank, and one that writes the bucket stream. -/
def vecBank (region : Nat) : Nat := 7 + at' 38 (at' 20 2 + at' 14 region)
def vecBucket : Nat := 7 + at' 16 (at' 20 1 + 4)

theorem witness_OperationQueue :
    (let s := (inPhase .compute).takeReplay 0
     let y := s.station 0
     s.stPart 0 = some 0 ∧ y.stopped = false ∧ y.fenced = false ∧ y.error = 0 ∧ (s.part 0).phase ≠ .idle
       ∧ (s.part 0).stopping = false)
    ∧ (let s := ((inPhase .compute).modStation 0 fun y => { y with error := 3 }).takeReplay 0
       s.stPart 0 = some 0 ∧ (s.station 0).error ≠ 0)
    ∧ (let s := (queued vecBucket fun e => { e with script := .eval }).takeReplay 0
       Issues s 0 9 0x07 0 (entry9 s) ∧ (s.part 0).skips 0 (s.station 0).core.probe (entry9 s) = true)
    ∧ (let s := ((queued (vecBank 0)).modBank ((queued 0).stBank 0) fun b => { b with bad := [0] }).takeReplay 0
       Issues s 0 9 0x07 0 (entry9 s) ∧ (s.part 0).skips 0 (s.station 0).core.probe (entry9 s) = false
         ∧ s.readsBad 0 0 (s.station 0).core.probe (entry9 s) = true)
    ∧ (let s := (queued (vecBank 2)).takeReplay 0
       Issues s 0 9 0x07 0 (entry9 s) ∧ (s.part 0).skips 0 (s.station 0).core.probe (entry9 s) = false
         ∧ s.readsBad 0 0 (s.station 0).core.probe (entry9 s) = false
         ∧ ((s.part 0).remoteTiles 0 (s.station 0).core.probe (entry9 s)).length = 1 ∧ (s.station 0).bankReads = [])
    ∧ (let s := queued 7 fun e => { e with issued := true }
       s.stPart 0 = some 0 ∧ (s.station 0).core.entry 9 = some (entry9 s) ∧ (entry9 s).issued = true ∧ (entry9 s).yielded = false
         ∧ s.outputsGone 0 0 (entry9 s) = true ∧ (s.station 0).fenced = false
         ∧ ((s.modStation 0 fun y => { y with fenced := true }).station 0).fenced = true) := by
  unfold Issues
  decide +kernel

/-- Station 0 runs a deferred TMUL of several virtual blocks while a scoreboard TMUL is ready. -/
def yielding : State :=
  (queued (1 + at' 8 1023 + at' 18 1023) fun e => { e with deferred := true, issued := true }).modStation 0 fun y =>
    { y with core := { y.core with
        queue := y.core.queue ++ [{ id := 10, index := 1, script := .micro, op := BitVec.ofNat 128 (1 + at' 72 1), micro := 1, deferred := false }] } }

theorem witness_TileOperations :
    (∀ i ∈ List.range 12, let s := (queued (i + 1)).takeReplay 0; Runs s 0 9 (i + 1) 0 (entry9 s))
    ∧ (let s := (queued 0x0C).takeReplay 0; bits (0x0C) 8 8 = 0 ∧ (s.station 0).posted.getLsbD 0 = false)
    ∧ (let s := yielding
       let e := entry9 s
       let c := (s.station 0).core
       s.stPart 0 = some 0 ∧ c.entry 9 = some e ∧ opCode e.op.toNat = 1 ∧ tmFlock e.op.toNat = false ∧ e.issued = true
         ∧ e.yielded = false ∧ e.deferred = true ∧ c.ranksScoreboard e = false ∧ e.block < 1
         ∧ (let gang := (s.part 0).tmulGang 0 e.op.toNat
            let nb := numBlocks gang (tmM e.op.toNat) (tmN e.op.toNat) (chooseFold gang (tmM e.op.toNat) (tmN e.op.toNat) (tmFold e.op.toNat))
            1 < nb ∧ e.block < nb)
         ∧ (c.queue.any fun g => opCode g.op.toNat == 1 && c.ranksScoreboard g && !g.issued && s.readyButUnit 0 0 g) = true)
    ∧ (let s := queued 1 fun e => { e with deferred := true, issued := true, yielded := true }
       let e := entry9 s
       let c := (s.station 0).core
       c.entry 9 = some e ∧ e.yielded = true ∧ c.unitBusy .array = false ∧ (s.station 0).issues .array = true
         ∧ (c.queue.any fun g => opUnit g.op.toNat == .array && g.id != e.id && (g.yielded || (!g.issued && s.readyButUnit 0 0 g))
             && (if c.ranksScoreboard e then c.ranksScoreboard g && decide (g.id < e.id)
                 else c.ranksScoreboard g || decide (g.id < e.id))) = false)
    ∧ (let s := yielding.modCore 0 fun c => c.modEntry 9 fun e => { e with yielded := true }
       let e := entry9 s
       let c := (s.station 0).core
       (c.queue.any fun g => opUnit g.op.toNat == .array && g.id != e.id && (g.yielded || (!g.issued && s.readyButUnit 0 0 g))
         && (if c.ranksScoreboard e then c.ranksScoreboard g && decide (g.id < e.id)
             else c.ranksScoreboard g || decide (g.id < e.id))) = true)
    ∧ (let s := queued 7 fun e => { e with deferred := true }
       (s.station 0).core.entry 9 = some (entry9 s) ∧ (entry9 s).deferred = true ∧ (entry9 s).issued = false
         ∧ (entry9 s).promoted = false)
    ∧ (let e := entry9 (queued 1 fun e => { e with wroteOut := true }); e.block = 0 ∧ e.wroteOut = true)
    ∧ (entry9 (queued 7)).deferred = false := by
  unfold Runs Issues
  decide +kernel

theorem witness_Shadows :
    (let y := (inPhase .compute).station 0
     (inPhase .compute).stPart 0 = some 0 ∧ y.writing = none ∧ y.retryFault = false ∧ y.fenced = false)
    ∧ (let w : ShadowRun := { interim := false, fence := some 9 }
       let s := ((inPhase .compute).modStation 0 fun y => { y with writing := some w, shadows := 1 }).takeReplay 0
       s.stPart 0 = some 0 ∧ (s.station 0).writing = some w ∧ (s.station 0).mayComplete w = true)
    ∧ (let w : ShadowRun := { interim := true, fence := none }
       let s := ((queued 7 fun e => { e with issued := true }).modStation 0 fun y => { y with writing := some w }).takeReplay 0
       s.stPart 0 = some 0 ∧ (s.station 0).writing = some w ∧ (s.station 0).mayComplete w = false) := by
  decide +kernel

theorem witness_StreamArrivals :
    (let s := (inPhase .compute).takeReplay 0
     let x := s.part 0
     let find (id : Nat) := (x.sec 0x06).find? fun e => bits e 15 0 == id && x.inbound 0 e
     let e := (find 1).getD 0
     let expected := (sget {} (s.station 0).core.inb 1).seq
     s.stPart 0 = some 0 ∧ find 9 = none ∧ find 1 = some e ∧ (List.replicate 256 (0 : Byte)).length = (streamSpace e).bytes
       ∧ sdSrcKind e ≠ 2 ∧ (find 6).any (fun e => sdSrcKind e == 2 && s.muleTile 0 0 e 0 == none
           && (List.replicate 256 (0 : Byte)).length == (streamSpace e).bytes) = true
       ∧ expected = 0 ∧ (sget {} (s.station 0).core.inb 1).ring.length + 1 < sdRing e - sdCredits e
       ∧ 2 ^ 47 - 1 - expected < 2 ^ 47)
    ∧ (let s := (inPhase .compute).modCore 0 fun c => c.modIn 1 fun i => { i with seq := 2 ^ 47 }
       0 < (sget {} (s.station 0).core.inb 1).seq ∧ (sget {} (s.station 0).core.inb 1).seq - 0 ≤ 2 ^ 47)
    ∧ ([false, true].all fun fenced =>
        let s := ((inPhase .compute).modCore 0 fun c => c.modIn 1 fun i => { i with ring := List.replicate 5 [] }).modStation 0
          fun y => { y with fenced := fenced }
        let e := (((s.part 0).sec 0x06).find? fun e => bits e 15 0 == 1).getD 0
        decide (sdRing e - sdCredits e ≤ (sget {} (s.station 0).core.inb 1).ring.length + 1) && (s.station 0).fenced == fenced) = true
    ∧ (let s := inPhase .compute; ((s.part 0).stream 2).isSome = true)
    ∧ ([false, true].all fun off =>
        let s := (queued 7 fun e => { e with issued := true }).modStation 0 fun y => { y with watchdogOff := off }
        (s.station 0).core.entry 9 == some (entry9 s) && (entry9 s).issued && !(entry9 s).yielded
          && (s.station 0).watchdogOff == off) = true := by
  decide +kernel

/-- Station 0 runs a flock whose lamb 15 is in the state of a code. -/
def flocking (code : Nat) : State :=
  ((queued (1 + at' 56 1) fun e => { e with issued := true }).modStation 0 fun y =>
    { y with lambState := BitVec.ofNat 32 (at' 30 code) }).modCore 0 fun c => { c with lambsLeft := if code = 1 then [15] else [] }

theorem witness_ArrayFaults :
    ([1, 2, 3].all fun code =>
      let s := (flocking code).modStation 0 fun y => { y with wholeFaultAt := 1 }
      let e := entry9 s
      let fl := (s.part 0).flockOf e
      let t := (s.settleLambs 0).emit (.report 0 0x10 (errorHeader 0))
      let y := t.station 0
      s.stPart 0 == some 0 && (s.station 0).core.runningTmul == some e && tmFlock e.op.toNat && lambPresent fl 15
        && y.core.lambsLeft.contains 15 == (code == 1)
        && (lambCode y.lambState 15 == 3 && t.sameCycle 0 y.wholeFaultAt) == (code == 3)) = true
    ∧ (let s := inPhase .compute; s.stPart 0 = some 0 ∧ (s.station 0).core.runningTmul = none)
    ∧ (let s := queued 1 fun e => { e with issued := true }
       (s.station 0).core.runningTmul = some (entry9 s) ∧ tmFlock (entry9 s).op.toNat = false) := by
  decide +kernel

/-- The small plan with stations 0 and 32, and with a tree node of two inputs at site 1. -/
def wide : State :=
  withPart linked
    { demoPart with
      phase := .compute, step := 4
      plan := some { demo with sections := (⟨0x01, 0, [0, 32]⟩ :: demo.sections.filter fun c => c.kind ≠ 1 ∧ c.kind ≠ 0x0C)
        ++ [⟨0x0C, 0, [3 + at' 8 1 + at' 24 1 + at' 192 8]⟩] } }

theorem witness_BankReadsAndSync :
    (let s := inPhase .compute
     s.stPart 0 = some 0 ∧ ((s.part 0).regionsOf 0)[0]? = some (at' 48 3) ∧ 3 ≤ bits (at' 48 3) 60 48
       ∧ (at' 48 3).testBit 26 = false ∧ (s.readTile 0 (at' 48 3) 3).isSome = true)
    ∧ (let s := (inPhase .compute).modBank ((inPhase .compute).stBank 0) fun b => { b with bad := [0] }
       s.readTile 0 (at' 48 3) 0 = none)
    ∧ (let s := inPhase .compute
       let d := at' 26 1 + at' 48 3 + 256 * 64
       ((s.part 0).regionsOf 0)[1]? = some d ∧ d.testBit 26 = true
         ∧ (match (s.part 0).readerGroup 0 1 with
             | some g => ((s.part 0).groupMembers g).contains 0
             | none => false) = true
         ∧ sget [] s.net.windows 0 = [])
    ∧ (let w : MergeWin := ⟨1, 3, [(33, 0)], [], some [1]⟩
       let s := { inPhase .compute with net := { (inPhase .compute).net with windows := [(0, [w])] } }
       sget [] s.net.windows 0 = [w] ∧ (∀ q ∈ w.members, q.1 ≠ 0) ∧ w.again = [] ∧ w.data = some [1])
    ∧ ([0, 4].all fun ch =>
        let x := (wide.part 0)
        let s := withPart wide { x with plan := x.plan.map fun q =>
          { q with sections := q.sections ++ [⟨0x0D, 0, [4 + at' 64 2]⟩, ⟨0x19, 0, [0, 32]⟩] } }
        let posts := [(0, 1)]
        let t := s.modSync 1536 ch fun n => { n with posted := posts }
        let u := s.modSync 1536 ch fun n => { n with sent := true }
        -- pips of parity 0 and 1, a downward result, and one of another KIND
        let pip (round kind : Nat) : Byte := BitVec.ofNat 8 (ch + at' 4 round + at' 5 kind)
        bits (pip 0 0).toNat 3 0 == ch && bits (pip 0 0).toNat 7 5 == 0 && bits (pip 0 1).toNat 7 5 == 1
          && bits (pip 0 2).toNat 7 5 == 2 && (pip 1 0).toNat.testBit 4 && !(pip 0 0).toNat.testBit 4
          && s.nodePart 1536 == some 0 && (s.nodeMembers 0 1536 ch).contains 0 && (s.nodeMembers 0 1536 ch).contains 1
          && (s.syncNode 1536 ch).parity == false && (s.syncNode 1536 ch).posted == [] && (s.syncNode 1536 ch).early == []
          && (t.syncNode 1536 ch).posted == posts && (u.syncNode 1536 ch).sent && (u.syncNode 1536 ch).early == []) = true
    ∧ (wide.nodePart 1600 = some 0 ∧ (wide.nodeMembers 0 1600 0).contains 0 = true) := by
  decide +kernel

/-- The header of a tile of stream 1, or of a SEQ of all ones, from station 0 to a station; and of a reserved TYPE. -/
def bulkTo (dst : Nat) : Nat := at' 8 dst + at' 40 1 + at' 56 (2 ^ 48 - 1)

theorem witness_WaferNetworks :
    (let s := inPhase .compute
     let i := linkIdx true 199 191 3
     s.deadSite 199 191 = false ∧ (s.link i).paused = false ∧ (s.link i).retries < 2
       ∧ ((s.modLink i fun l => { l with paused := true }).link i).paused = true
       ∧ ((s.modField 0 fun x => { x with dead := [(0, 0)] }).deadSite 0 0) = true
       ∧ s.portIsolated 0 0 = false ∧ fromBank true (bulkTo 1) = false
       ∧ (let u := s.modField 0 fun x => { x with fencedCores := [(0, 1)] }
          u.portIsolated 0 0 = true ∧ fromBank true (1 + bulkTo 1) = true
            ∧ (u.outputs true 0 0 4 (1 + bulkTo 1) false 1 true).any (fun l => l ≠ [] && l.all fun c => c.port ≠ 4) = true)
       ∧ s.net.heads = []
       ∧ s.outputs true 0 0 4 4 false 1 true = none
       ∧ (s.outputs true 0 0 4 (bulkTo 1) false 1 true).any (fun l => l ≠ []) = true
       ∧ (s.outputs true 0 0 4 (bulkTo 0) false 1 true).any (fun l => l.length == 1 && l.all fun c => 4 ≤ c.port && c.port < 6) = true)
    ∧ (let w : Head := { bulk := true, gx := 0, gy := 0, port := 3, header := bulkTo 1, escape := false, flits := 1, outs := []
                         taken := [1], whole := false, since := 0 }
       w.bulk = true ∧ w.whole = false)
    ∧ ([false, true].all fun bulk =>
        let s := (inPhase .compute).modLink (linkIdx bulk 0 0 3) fun l => { l with retries := 2 }
        2 ≤ (s.link (linkIdx bulk 0 0 3)).retries && ((inPhase .compute).link (linkIdx bulk 0 0 3)).retries < 2) = true
    ∧ ([inPhase .compute, wide].all fun s =>
        let find := ((s.part 0).sec 0x0C).find? fun n => bits n 5 0 == 3 && bits n 23 8 == 1
        let n := find.getD 0
        let e := (((s.part 0).sec 0x06).find? fun e => sdDstKind e == 3 && sdTree e == 3).getD 0
        let t := sget {} s.net.nodes (2 ^ 16 * 3 + 1)
        find.isSome && !t.halted && (List.replicate 256 (0 : Byte)).length == (streamSpace e).bytes
          && (((s.part 0).sec 0x06).any fun e => sdDstKind e == 3 && sdTree e == 3)
          && seqAhead 48 (t.expect + 0) 0 == 0 && seqAhead 48 (t.expect + 0) 1 ≠ 0 && sget [] t.inputs 1 == []
          && bits n 199 192 == 8) = true
    ∧ bits (3 + at' 8 1 + at' 192 8) 26 24 = 0 ∧ bits (3 + at' 8 1 + at' 24 1 + at' 192 8) 26 24 = 1 := by
  decide +kernel

/-- Station 0 of an idle partition with an error. -/
def errs (e : Nat) : State := planned.modStation 0 fun y => { y with error := e }

theorem witness_CoreFaults :
    (let s := { planned with clk := { planned.clk with rootTime := 4096 * 8 } }
     (s.station 0).fenced = false ∧ (s.station 0).lastBeat + 4096 * s.clk.divider (westHalf (stField 0)) ≤ s.clk.rootTime)
    ∧ planned.clk.rootTime < (planned.station 0).lastBeat + 4096 * planned.clk.divider (westHalf (stField 0))
    ∧ (let s := planned.modStation 0 fun y => { y with fenced := true }; (s.station 0).fenced = true)
    ∧ ([0, 3, 4, 6].all fun e => (errs e |>.station 0).error == e && !(errs e |>.station 0).fenced) = true
    ∧ ([1, 2].all fun code =>
        let s := (errs code).modStation 0 fun y => { y with errStream := 1 }
        (s.station 0).error == code && ((s.part 0).stream (s.station 0).errStream).any (fun e => sdSrcKind e == 0)
          && s.stPart 0 == some 0) = true
    ∧ (let s := { errs 3 with net := { (errs 3).net with reports := [(0, 0, 4)] } }
       (s.station 0).error ≠ 1 ∧ (s.station 0).error ≠ 2 ∧ (s.net.reports.find? fun r => r.1 == 0) = some (0, 0, 4))
    ∧ (let s := (errs 3).modStation 0 fun y => { y with fenced := true }
       (s.station 0).fenced = true ∧ (s.field (stField 0)).fill = none)
    ∧ (let s := errs 6
       (s.field 0).state = .inService ∧ (s.station 0).error = 6 ∧ (s.station 0).fenced = false ∧ (s.field 0).fill = none
         ∧ (s.fenceCore 0 false).chooseSpare 0 0 ((s.fenceCore 0 false).remapOf 0).homeDead = some 0)
    ∧ ([33, 0].all fun t =>
        let k : Fill := { station := t, prow := 5, pcol := 24, cause := 1 }
        let s := (errs 6).modField 0 fun x => { x with fill := some k }
        (s.field 0).fill == some k && s.meetsFill 0 == (t == 0) && (s.field 0).queued.length < 4
          && (s.fenceCore 0 false).chooseSpare 0 0 ((s.fenceCore 0 false).remapOf 0).homeDead == some 0) = true
    ∧ (let s := (errs 6).modField 0 fun x => { x with dead := (List.range 24).map fun i => (i, 24) }
       (s.field 0).state = .inService
         ∧ (s.fenceCore 0 false).chooseSpare 0 0 ((s.fenceCore 0 false).remapOf 0).homeDead = none) := by
  decide +kernel

/-- A fill of station 0 to the spare of its row. -/
def filling : State := (inPhase .compute).modField 0 fun x => { x with fill := some { station := 0, prow := 0, pcol := 24, cause := 5 } }

theorem witness_Fills :
    (let s := filling
     let l : Fill := { station := 0, prow := 0, pcol := 24, cause := 5 }
     let need := match (s.station 0).lastShadow with | some sh => sh.bytes | none => 0
     (s.field 0).fill = some l ∧ s.stPart 0 = some 0 ∧ need ≤ l.bytes ∧ s.lostTile l = false ∧ s.clk.rootTime ≤ l.start + 180000)
    ∧ (let s := filling.modStation 0 fun y => { y with shadowA := some { core := {}, interim := false, bytes := 256 } }
       (match (s.station 0).lastShadow with | some sh => sh.bytes | none => 0) = 256 ∧ (s.field 0).fill.isSome = true)
    ∧ (let s := filling.modStation 0 fun y => { y with origin := { y.origin with outb := [(1, { seq := 5 })] } }
       s.lostTile { station := 0, prow := 0, pcol := 24, cause := 5, receiver := some (32, 1) } = true) := by
  decide +kernel

theorem witness_RouterAndFieldFaults :
    (let s := planned
     (s.field 0).state = .inService ∧ (s.field 0).dead.contains (0, 0) = false ∧ s.deadNear 0 0 = false)
    ∧ (let s := rung.modField 0 fun x => { x with dead := [(0, 2)] }
       (s.field 0).dead.contains (0, 0) = false ∧ s.deadNear 0 0 = true ∧ (s.field 0).dead.contains (0, 2) = true)
    ∧ (let s := rung
       let b := s.modField 0 fun x => { x with dead := [(0, 0)] }
       let c := ((List.range 8).filter fun p => (b.part p).formed).foldl (fun s p => s.useAlternates p 0) b
       (c.setRemap 0 { c.remapOf 0 with homeDead := true }).chooseSpare 0 0 true = some 0
         ∧ c.legsOk 0 = true ∧ c.legsOk (0 - 8) = true ∧ c.legsOk (0 + 8) = true ∧ (s.field 0).fill = none
         ∧ (s.bankBind 0).bprow = 0 ∧ (s.bankBind 0).bpcol = 0
         ∧ ((fieldStations 0).filter fun t => t == 0 || ((s.remapOf t).prow == 0 && (s.remapOf t).pcol == 0)
             || ((s.bankBind t).bprow == 0 && (s.bankBind t).bpcol == 0)) = [0])
    ∧ ((fieldStations 0).filter fun t => t == 24 || ((rung.remapOf t).prow == 0 && (rung.remapOf t).pcol == 24)
        || ((rung.bankBind t).bprow == 0 && (rung.bankBind t).bpcol == 24)) = []
    ∧ (let s := (rung.setRemap 64 { rung.remapOf 64 with prow := 1, pcol := 24, moved := true }).modField 0 fun x =>
         { x with dead := [(2, 24)] }
       s.legsOk 0 = false)
    ∧ (let s := rung.modField 0 fun x => { x with starting := true, state := .restarting, log := [⟨2, 0, 0, 0, 0, 0⟩] }
       (s.field 0).starting = true ∧ s.stations = [] ∧ (s.field 0).exhausted = false ∧ (s.field 0).remap = []
         ∧ (s.field 0).fencedCores = [] ∧ (s.field 0).dead = [] ∧ (∀ i ∈ [24, 599], i % 25 = 24)
         ∧ (s.field 0).log = [⟨2, 0, 0, 0, 0, 0⟩])
    ∧ (rung.field 0).starting = false
    ∧ (rung.field 0).log = [] := by
  decide +kernel

theorem witness_StoreUpkeep :
    ([1, 2, 3].all fun b =>
      let s := rung.modField 0 fun x => { x with band := b, storeTemp := 40 }
      0 < (s.field 0).band && (s.field 0).storeTemp + 2 ≤ (if (s.field 0).band = 1 then 55 else if (s.field 0).band = 2 then 70 else 85))
      = true
    ∧ (rung.field 0).band = 0
    ∧ (let s := rung.modField 0 fun x => { x with nextBand := 3 }
       (s.field 0).band < 3 ∧ (s.field 0).nextBand = 3 ∧ (s.region 0).stage = 0 ∧ (rung.field 0).nextBand ≠ 3)
    ∧ (let s := rung.modBank (bankIdx 63 23 24) fun b => { b with writeBack := [64] }
       64 ∈ (s.bank (25 * (24 * 63 + 23) + 24)).writeBack ∧ 65 ∉ (s.bank (25 * (24 * 63 + 23) + 24)).writeBack)
    ∧ (let s := rung.modBank 0 fun b => { b with corrections := [(16 * 2 + 1, [1, 2])] }
       let word := 2 ^ 10 * 2 + 64
       let times := (insertOnce s.clk.rootTime (sget [] (s.bank 0).corrections (16 * 2 + 1))).filter fun t =>
         decide (s.clk.rootTime ≤ t + 2 ^ 24 * 8)
       bits word 9 6 = 1 ∧ bits word 20 10 = 2 ∧ 3 ≤ times.length ∧ 0 < (s.bank 0).spareRows 1
         ∧ (insertOnce rung.clk.rootTime (sget [] (rung.bank 0).corrections 0)).length < 3)
    ∧ (rung.field 0).scrubEn = true ∧ rung.bankBusy 0 0 0 = false ∧ (rung.bank 0).scrubPos + 1 < 16 * 2064
    ∧ ((rung.modField 0 fun x => { x with scrubEn := false }).field 0).scrubEn = false
    ∧ filling.bankBusy 0 0 0 = true := by
  decide +kernel

theorem witness_WordRecovery :
    (let s := rung.modBank (25 * (24 * 63 + 23) + 24) fun b => { b with bad := [2 ^ 21 - 1] }
     (s.bank (25 * (24 * 63 + 23) + 24)).bad.contains (2 ^ 21 - 1) = true ∧ s.siteStation 63 23 24 = none
       ∧ (s.bank (25 * (24 * 63 + 23) + 24)).replaying.contains (2 ^ 21 - 1) = false
       ∧ 0 < (s.bank (25 * (24 * 63 + 23) + 24)).spareRows (bits (2 ^ 21 - 1) 9 6))
    ∧ (rung.bank 0).bad.contains 0 = false
    ∧ ((rung.modBank 0 fun b => { b with bad := [5], replaying := [5] }).bank 0).replaying.contains 5 = true := by
  decide +kernel

theorem witness_BanksAndHostMemory :
    (let s := rung.modBankBind 0 fun b => { b with migrating := true }
     (s.bankBind 0).migrating = true ∧ (s.bank (s.stBank 0)).bad = [] ∧ (s.bankBind 0).copied = false
       ∧ ((s.readFinds 0 [5]).bank (s.stBank 0)).bad ≠ [])
    ∧ (rung.bankBind 0).migrating = false
    ∧ ((rung.modField 0 fun x => { x with state := .lost }).field 0).state ≠ .inService
    ∧ ((rung.field 0).state = .inService ∧ rung.fieldPart 0 = none
        ∧ rung.chooseSpare 0 0 (rung.remapOf 0).homeDead = some 0 ∧ rung.stBank 0 ≠ 25 * (24 * 0 + 0) + 24 ∧ (rung.field 0).fill = none ∧ (rung.field 0).queued = [])
    ∧ rung.stackPresent 0 = true
    ∧ ((List.range 32).any fun i => !({ rung with fuses := { rung.fuses with part := 0x08 } }).stackPresent i) = true := by
  decide +kernel

/-- A setting of a regulator: guarantee, ceiling, burst and ENABLE. -/
def regSet (g c b : Nat) : Nat := g + at' 8 c + at' 16 b + at' 24 1

theorem witness_Regulators :
    rung.holds .host 0 = false ∧ formed.holds .host 0 = true ∧ formed.stackPresent 0 = true
    ∧ ([regSet 2 1 1, regSet 0 0 1, regSet 0 1 0, regSet 217 255 1, regSet 1 1 1 + at' 25 1].all fun v =>
        decide (bits v 15 8 < bits v 7 0
          ∨ (v.testBit 24 = true ∧ (bits v 15 8 = 0 ∨ bits v 23 16 = 0 ∨ 216 < (formed.stack 0).guarantees 0 + bits v 7 0))
          ∨ bits v 63 25 ≠ 0)) = true
    ∧ ([0, regSet 216 255 255, regSet 0 1 1].all fun v =>
        !decide (bits v 15 8 < bits v 7 0
          ∨ (v.testBit 24 = true ∧ (bits v 15 8 = 0 ∨ bits v 23 16 = 0 ∨ 216 < (formed.stack 0).guarantees 0 + bits v 7 0))
          ∨ bits v 63 25 ≠ 0)) = true := by
  decide +kernel

theorem witness_HbmService :
    (let w : HbmReq := { part := none, bytes := 2, addr := 64, data := some [1, 2], write := true }
     let r : HbmReq := { part := none, bytes := 2, addr := 64 }
     [w, r].all fun q =>
       let s := (rung.modStack 0 fun x => { x with queue := [q], hostTokens := 96 * 64 })
       s.stackPresent 0 && !(s.stack 0).fault && ((s.refill 0).stack 0).turned.choose 0 == some (q, 3) && !q.writeBack) = true
    ∧ ((rung.modStack 0 fun x => { x with fault := true }).stack 0).fault = true
    ∧ (rung.stack 0).scrubEn = true ∧ (rung.stack 0).fault = false ∧ rung.paused = false ∧ (rung.stack 0).scrubPos + 1 < 2 ^ 31
    ∧ ((rung.modStack 0 fun x => { x with scrubPos := 2 ^ 31 - 1 }).stack 0).scrubPos + 1 = 2 ^ 31 := by
  decide +kernel

/-- The small plan with an image area of 256 MiB at Keeper 0. -/
def imaged : State :=
  withPart planned { demoPart with phase := .compute, step := 4
                                   plan := some { demo with sections := demo.sections ++ [⟨0x10, 0, [at' 432 256]⟩] } }

theorem witness_Buckets :
    (let s := imaged
     let x := s.part 0
     let b := (x.bucketDef 0 0).getD 0
     let e := (x.stream 4).getD 0
     x.beforeFence = true ∧ x.bucketDef 0 1 = none ∧ x.stream 9 = none ∧ x.bucketDef 0 0 = some b ∧ x.stream 4 = some e
       ∧ ((x.segments b).any fun g => segStream g == 4) = true ∧ sdBucket e = true
       ∧ (List.replicate 256 (0 : Byte)).length = (streamSpace e).bytes
       ∧ 2 ^ 47 ≤ seqAhead 48 (sget 0 (s.kpart 0 0).expected 4) (2 ^ 48 - 1)
       ∧ 0 < seqAhead 48 (sget 0 (s.kpart 0 0).expected 4) (2 ^ 47 - 1) ∧ seqAhead 48 (sget 0 (s.kpart 0 0).expected 4) (2 ^ 47 - 1) < 2 ^ 47
       ∧ seqAhead 48 (sget 0 (s.kpart 0 0).expected 4) 0 = 0
       ∧ sdBucket ((x.stream 1).getD 0) = false ∧ (s.kpart 0 0).heldBuckets = [])
    ∧ (let s := imaged.modKpart 0 0 fun z => z.modBucket 0 fun y => { y with admitted := true, sent := [0, 1], acked := [1], parking := true }
       ((s.kpart 0 0).bucket 0).admitted = true ∧ 0 ∈ ((s.kpart 0 0).bucket 0).sent ∧ 0 ∉ ((s.kpart 0 0).bucket 0).acked
         ∧ 1 ∈ ((s.kpart 0 0).bucket 0).acked ∧ ((s.kpart 0 0).bucket 0).parking = true)
    ∧ (let s := imaged.modKpart 0 0 fun z => z.modBucket 0 fun y => { y with seen := true }
       let b := ((s.part 0).bucketDef 0 0).getD 0
       ((s.kpart 0 0).heldBuckets.map (·.1)) = [0] ∧ (s.part 0).bucketDef 0 0 = some b ∧ s.admits 0 0 b = true)
    ∧ ((imaged.kpart 0 0).bucket 0).parking = false := by
  decide +kernel

theorem witness_Reduction :
    (let slice := 4 + at' 40 6 + at' 60 1 + at' 88 1
     let s (next : Nat) := (inPhase .reduce).modOpage 0 0 1 fun y => { y with reduction := { y.reduction with next := next } }
     ∀ data : List Byte, data.length = 2 ^ 20 →
       let ok (b : State) (head : Nat) (_ : Nat) (x : Part) : Bool :=
         x.reduceStep (bits head 39 0) && x.rankOf (b.ctx 3).partner == some (bits head 99 88)
           && (x.gradPages b.selfId (s 0 |>.ctx 3).kpr).contains (bits head 87 60)
           && ((x.bucketOfPage (bits head 87 60)).any fun c => bkNum c == bits head 59 48) && data.length == 2 ^ 20
       ((s 0).ctx 3).state = .opened
         ∧ ((s 0).took 3 0 2049).herdPart (bits slice 47 40) (ok ((s 0).took 3 0 2049) slice) = some 0
         ∧ ((s 0).took 3 0 2049).herdPart (bits (slice + at' 40 1) 47 40) (ok ((s 0).took 3 0 2049) (slice + at' 40 1)) = none
         ∧ (((s 1).took 3 0 2049).opage 0 0 1).reduction.next = bits slice 99 88
         ∧ (((s 1).took 3 0 2049).opage 0 0 1).reduction.complete = false
         ∧ (((s 1).took 3 0 2049).opage 0 0 1).reduction.heldSlices = []
         ∧ bits slice 99 88 < (((s 2).took 3 0 2049).opage 0 0 1).reduction.next
         ∧ (((s 0).took 3 0 2049).opage 0 0 1).reduction.next < bits slice 99 88
         ∧ (((s 0).took 3 0 2049).opage 0 0 1).reduction.complete = false
         ∧ (((s 0).took 3 0 2049).opage 0 0 1).reduction.heldSlices = [])
    ∧ (let s (sent : List Nat) := (inPhase .reduce).modKpart 0 0 fun z => z.modBucket 0 fun y => { y with sent := sent }
       let head := 4 + at' 40 6 + at' 60 1
       let ok (b : State) (p : Nat) (x : Part) : Bool :=
         x.reduceStep (bits head 39 0) && bits head 99 88 == b.selfRank p
           && ((x.bucketOfPage (bits head 87 60)).any fun c => bkNum c == bits head 59 48 && bits c 18 16 == 0)
       [[], [1]].all fun sent =>
         let b := (s sent).took 3 1 1
         b.herdPart (bits head 47 40) (ok b) == some 0 && ((b.part 0).bucketOfPage 1).isSome
           && ((b.kpart 0 0).bucket 0).sent.contains 1 == (sent == [1]) && !((b.kpart 0 0).bucket 0).parked) = true
    ∧ (let s := (inPhase .reduce).modKpart 0 0 fun z => z.modBucket 0 fun y => { y with sent := [1], parked := true }
       ((s.kpart 0 0).bucket 0).parked = true ∧ ((s.kpart 0 0).bucket 0).parkDigest[1]? = none)
    ∧ (let head := 4 + at' 40 6 + at' 48 1
       let c := (inPhase .reduce).took 3 0 1
       let entries := (List.range (bits head 55 48)).map fun j => bits head (64 * j + 127) (64 * j + 64)
       let ok (_ : Nat) (x : Part) : Bool :=
         x.reduceStep (bits head 39 0) && 1 ≤ bits head 55 48 && bits head 55 48 ≤ 63
           && entries.all fun e => (c.scaleTensors x 0).contains (bits e 9 0)
       c.herdPart (bits head 47 40) ok = some 0 ∧ c.herdPart 7 ok = none)
    ∧ ((inPhase .compute).stPart 0 = some 0 ∧ ((inPhase .compute).part 0).probing = false)
    ∧ (let s := (inPhase .reduce).modOpage 0 0 1 fun y => { y with reduction := { y.reduction with complete := true } }
       (s.part 0).running = true ∧ (s.opage 0 0 1).reduction.complete = true ∧ (s.opage 0 0 1).reduction.staged = false)
    ∧ (planned.part 0).running = false := by
  refine ⟨?_, ?_⟩
  · intro slice s data h
    simp only [h]
    decide +kernel
  · decide +kernel

theorem witness_Reduction_parked (y : Bucket) :
    let z : Bucket := { y with parked := true, parkDigest := [digest128 (y.page 0)] }
    z.parked = true ∧ z.parkDigest[0]? = some (digest128 (z.page 0)) := ⟨rfl, rfl⟩

/-- Optimizer group: SGD with a learning rate of 1, and with a first-moment factor that is a NaN. -/
def sgd : Nat := at' 160 0x3F800000
def sgdNan : Nat := sgd + at' 32 0x7FC00000

/-- The gradient 1 of parameter 0 alone. -/
def oneGrad : Sparse Byte := [(0, 0x80), (1, 0x3F)]

/-- Page 0's commit is due under an optimizer group, with a gradient and places for spill records. -/
def due (group : Nat) (grad : Sparse Byte) (spill : Nat) : State :=
  let s := withPart planned { demoPart with phase := .commit, step := 4, plan := some { demo with sections := demo.sections ++ [⟨0x12, 0, [group]⟩] } }
  ((s.modKpart 0 0 fun z => { z with cstate := .running, spillExt := [(1, spill)] }).modOpage 0 0 0 fun y =>
    { y with body := { y.body with stamp := 4 }, grad := some grad, reduction := { y.reduction with staged := true } }).modOpage 0 0 1 fun y =>
      { y with body := { y.body with stamp := 4 }, reduction := { y.reduction with staged := true } }

/-- The page's body as it was, and the state with its pre-image. -/
def oldBody : PageBody := { stamp := 4 }
def preimaged (s : State) : State := s.modOpage 0 0 0 fun y => { y with pre := some oldBody, cstate := .preimage }

theorem due_ready :
    ([due sgd [] (2 ^ 14), due sgdNan [] 0, due sgd oneGrad 0].all fun s =>
      let x := s.part 0
      let pg := s.opage 0 0 0
      x.phase == .commit && x.rollback == none && (s.kpart 0 0).cstate == .running && s.ownerKpr 0 0 == some 0
        && pg.body.stamp == x.step && !pg.awaitingHusk && pg.missing == [] && s.inOrder 0 0 0 && s.reductionDone 0 0
        && decide ((s.kpart 0 0).window < 16) && pg.resW == .hbm && pg.resM == .hbm && pg.resD == .hbm
        && pg.pre.getD pg.body == oldBody && !x.isNull pg && !x.nullCommit) = true := by decide +kernel

/-- R318: with 33 slices held the credits of the last are withheld; with 32 they are owed again. -/
theorem test_credits_withheld :
    (let s (n : Nat) := ((inPhase .reduce).modOpage 0 0 1 fun y =>
        { y with reduction := { y.reduction with heldSlices := (List.range n).map fun r => (r + 1, []) } }).took 3 0 2049
     let c (s : State) := (s.ctx 3).cls 0
     (c ((s 33).withholdSlice 3 0)).withheld = 2049 ∧ (c ((s 33).withholdSlice 3 0)).owed = (c (s 33)).owed - 2049
       ∧ (c ((s 32).withholdSlice 3 0)).withheld = 0
       ∧ (c (((s 33).withholdSlice 3 0).returnHeld 0)).withheld = 2049
       ∧ (let t := ((s 33).withholdSlice 3 0).modOpage 0 0 1 fun y =>
           { y with reduction := { y.reduction with heldSlices := y.reduction.heldSlices.drop 1 } }
          (c (t.returnHeld 0)).withheld = 0 ∧ (c (t.returnHeld 0)).owed = (c (s 33)).owed)) := by decide +kernel

/-- An update with the arguments that R345 gives it. -/
theorem next_of (s : State) (group : Nat) (k : Consts) (grad : Sparse Byte)
    (h0 : (s.part 0).isNull (s.opage 0 0 0) = false) (h1 : (s.part 0).group (s.opage 0 0 0).group = group)
    (h2 : stepConsts group (s.part 0).step ((s.kpart 0 0).updates + 1) (fp64.decode (s.part 0).herdSum.toNat) = k)
    (h3 : (s.opage 0 0 0).grad.getD [] = grad) (h4 : (s.part 0).seed = 0) (h5 : (s.part 0).step = 4) :
    let r := updateBody 0 4 0 group k oldBody grad
    let u := s.nextBody 0 0 0 oldBody
    u.nonfinite = r.nonfinite
      ∧ (sget ({} : DeltaSlot) u.body.deltas u.body.head).spill = (encodeSlot [] [] r.body.weights r.body.exps).spill
      ∧ u.body.head = 1 % s.past := by
  subst h1 h2 h3
  simp only [State.nextBody, h0, h4, h5, Bool.false_eq_true, if_false]
  refine ⟨trivial, ?_, ?_⟩
  · simp only [finishUpdate, sget_sset_same, oldBody]
  · simp only [finishUpdate, oldBody, Nat.zero_add]

theorem readLe_zeros (m : Sparse Byte) (i : Nat) (h : ∀ x, 2 * i ≤ x → sget 0 m x = 0) : readLe m (2 * i) 2 = 0 := by
  simp only [readLe, readBytes, show List.range 2 = [0, 1] from rfl, List.map_cons, List.map_nil, h (2 * i + 0) (by omega),
    h (2 * i + 1) (by omega)]
  decide

theorem weight_zero (i : Nat) : weightAt oldBody i = mw16Value 0 0 := by
  simp only [weightAt, expAt, sigAt, oldBody, readLe_zeros [] i (fun _ _ => rfl), sget_nil]
  have h : signedOf 0 16 = 0 := by decide
  rw [h]
  rfl

/-- What the blocks of an SGD step do where the gradient is zero past the first block. -/
theorem sgd_body (group : Nat) (k : Consts) (grad : Sparse Byte) (a c : Bool)
    (hz : ∀ x, 64 ≤ x → sget 0 grad x = 0)
    (hp : updateParam group k (mw16Value 0 0) (Fmt.bf16.decode 0) (Fmt.bf16.decode 0) (Fmt.bf16.decode 0) .zero
      = ⟨.fin a 0, .fin c 0, .zero⟩) : ∀ i, 32 ≤ i →
      updateParam group k (weightAt oldBody i) (bf16At oldBody.m1 i) (bf16At oldBody.m2 i) (bf16At grad i) .zero
        = ⟨.fin a 0, .fin c 0, .zero⟩ := by
  intro i hi
  have hr : ∀ i, bf16At [] i = Fmt.bf16.decode 0 := fun i => by simp only [bf16At, readLe_zeros [] i (fun _ _ => rfl)]
  have h4 : bf16At grad i = Fmt.bf16.decode 0 := by simp only [bf16At, readLe_zeros grad i (fun x hx => hz x (by omega))]
  rw [weight_zero, h4, show oldBody.m1 = [] from rfl, show oldBody.m2 = [] from rfl, hr]
  exact hp

/-- The constants of step 4's update. -/
def step4 (group : Nat) : Consts := stepConsts group 4 1 (fp64.decode 0)

theorem next_sgd (s : State) (grad : Sparse Byte) (hs : s = due sgd [] (2 ^ 14) ∧ grad = [] ∨ s = due sgd oneGrad 0 ∧ grad = oneGrad) :
    let r := updateBody 0 4 0 sgd (step4 sgd) oldBody grad
    let u := (preimaged s).nextBody 0 0 0 oldBody
    u.nonfinite = r.nonfinite
      ∧ (sget ({} : DeltaSlot) u.body.deltas u.body.head).spill = (encodeSlot [] [] r.body.weights r.body.exps).spill
      ∧ u.body.head = 1 % (preimaged s).past := by
  rcases hs with ⟨rfl, rfl⟩ | ⟨rfl, rfl⟩ <;>
  · apply next_of <;> decide +kernel

theorem step4_zero : updateParam sgd (step4 sgd) (mw16Value 0 0) (Fmt.bf16.decode 0) (Fmt.bf16.decode 0) (Fmt.bf16.decode 0) .zero
    = ⟨.fin false 0, .fin false 0, .zero⟩ := by decide +kernel

/-- The block of parameter 0 with a gradient, and with none. -/
theorem block0 (grad : Sparse Byte) (h : grad = [] ∨ grad = oneGrad) :
    let u := updateBlock 0 4 0 sgd (step4 sgd) oldBody (fun i => bf16At grad i) (fun _ => .zero) (oldBody, false) 0
    u.2 = false ∧ (grad = oneGrad → (∀ x < 64, sget 0 u.1.weights x = sget 0 [(1, 0xC0)] x) ∧ sget 0 u.1.exps 0 = 128) := by
  rcases h with rfl | rfl
  · exact ⟨by decide +kernel, fun h => absurd h (by decide)⟩
  · exact ⟨by decide +kernel, fun _ => by decide +kernel⟩

theorem witness_Commit :
    (let s := due sgdNan [] 0
     ((preimaged s).nextBody 0 0 0 oldBody).nonfinite = true)
    ∧ (let s := due sgd oneGrad 0
       let r := (preimaged s).nextBody 0 0 0 oldBody
       r.nonfinite = false
         ∧ (preimaged s).spillFree 0 0 r.body.head < (sget ({} : DeltaSlot) r.body.deltas r.body.head).spill.length)
    ∧ (let s := due sgd [] (2 ^ 14)
       let r := (preimaged s).nextBody 0 0 0 oldBody
       r.nonfinite = false
         ∧ (sget ({} : DeltaSlot) r.body.deltas r.body.head).spill.length ≤ (preimaged s).spillFree 0 0 r.body.head) := by
  refine ⟨?_, ?_, ?_⟩
  · obtain ⟨h, -, -⟩ := next_of (preimaged (due sgdNan [] 0)) sgdNan (step4 sgdNan) [] (by decide +kernel) (by decide +kernel)
      (by decide +kernel) (by decide +kernel) (by decide +kernel) (by decide +kernel)
    refine h.trans ?_
    exact updateBody_special 0 4 0 sgdNan (step4 sgdNan) oldBody [] (by decide) 0 (by decide) (by decide +kernel)
  · obtain ⟨h1, h2, h3⟩ := next_sgd _ _ (.inr ⟨rfl, rfl⟩)
    obtain ⟨b1, b2, b3⟩ := updateBody_zeros 0 4 0 sgd (step4 sgd) oldBody oneGrad false false (by decide)
      (sgd_body sgd (step4 sgd) oneGrad false false (fun x hx => by simp only [oneGrad, sget]; rw [if_neg (by omega), if_neg (by omega)])
        step4_zero)
    obtain ⟨c1, c2⟩ := block0 oneGrad (.inr rfl)
    obtain ⟨c2, c3⟩ := c2 rfl
    have hw : ∀ i < 32, sigAt (updateBody 0 4 0 sgd (step4 sgd) oldBody oneGrad).body.weights i = sigAt [(1, 0xC0)] i := by
      intro i hi
      simp only [sigAt, readLe, readBytes, show List.range 2 = [0, 1] from rfl, List.map_cons, List.map_nil,
        b2 (2 * i + 0) (by omega), b2 (2 * i + 1) (by omega), c2 (2 * i + 0) (by omega), c2 (2 * i + 1) (by omega)]
    refine ⟨h1.trans (b1.trans c1), ?_⟩
    have hfree : (preimaged (due sgd oneGrad 0)).spillFree 0 0 (1 % (preimaged (due sgd oneGrad 0)).past) = 0 := by decide +kernel
    rw [h2, h3, hfree]
    have hm : (List.range 32).map (fun i => sigAt (updateBody 0 4 0 sgd (step4 sgd) oldBody oneGrad).body.weights i)
        = (List.range 32).map fun i => sigAt [(1, 0xC0)] i :=
      List.map_congr_left fun i hi => hw i (by simpa using hi)
    obtain ⟨m, hm'⟩ : ∃ m, pageBlocks = m + 1 := ⟨pageBlocks - 1, by decide⟩
    rw [encodeSlot, hm']
    apply encodeBlocks_spills
    rw [hm, expAt, b3, c3]
    decide +kernel
  · obtain ⟨h1, h2, h3⟩ := next_sgd _ _ (.inl ⟨rfl, rfl⟩)
    obtain ⟨b1, -, -⟩ := updateBody_zeros 0 4 0 sgd (step4 sgd) oldBody [] false false (by decide)
      (sgd_body sgd (step4 sgd) [] false false (fun x _ => rfl) step4_zero)
    refine ⟨h1.trans (b1.trans (block0 [] (.inl rfl)).1), ?_⟩
    have hfree : (preimaged (due sgd [] (2 ^ 14))).spillFree 0 0 (1 % (preimaged (due sgd [] (2 ^ 14))).past) = pageBlocks := by
      decide +kernel
    rw [h2, h3, hfree]
    exact encodeBlocks_spill_le _ _ _ _ _

/-- With no buddy context, a stamped page's record goes nowhere. -/
theorem no_buddy (s : State) (f : KprPart → KprPart) (g : OwnedPage → OwnedPage) (head : List Byte) (null : Bool)
    (h : s.buddyCtx 0 = none) :
    let c := ((s.modKpart 0 0 f).modOpage 0 0 0 g).writeScales 0 0
    let c := if null then c.sendNull 0 0 0 else c
    (c.toBuddy 0 0x47 head []).buddyUp 0 = false := by
  intro c d
  have hc : c.buddyCtx 0 = none := by
    rw [← h]
    simp only [c]
    unfold State.writeScales
    simp only
    split <;> rfl
  have hd : d.buddyCtx 0 = none := by
    simp only [d, State.sendNull, State.toBuddy, hc]
    split <;> exact hc
  rw [State.toBuddy, hd, State.buddyUp, hd]

theorem witness_Commit_buddy :
    let s := due sgd [] (2 ^ 14)
    let x := s.part 0
    let b := preimaged s
    let r := b.nextBody 0 0 0 oldBody
    let j := r.body.head
    let first := sget 0 (b.kpart 0 0).spillUsed j
    let need := (sget ({} : DeltaSlot) r.body.deltas j).spill.length
    let full := b.nextSaturates 0 0 0 oldBody
    let c := b.modKpart 0 0 fun y =>
      { y with
        spillUsed := sset 0 y.spillUsed j (first + need), done := y.done + 1, spillFull := false, saturate := y.saturate || full }
    let c := c.modOpage 0 0 0 fun y => { y with body := r.body.spillFrom first, cstate := .stamped, slowValid := [] }
    let c := c.writeScales 0 0
    let c := if x.isNull (s.opage 0 0 0) then c.sendNull 0 0 0 else c
    let c := c.toBuddy 0 0x47 (cmpHead (x.step + 1) x.herdId 0 r.body.digest) []
    c.buddyUp 0 = false := no_buddy _ _ _ _ _ (by decide +kernel)

/-- Page 0 is frozen, and Keeper 0's buddy is reached on context 4. -/
def dueFrozen : State :=
  let s := (due sgd [] 0).modOpage 0 0 0 fun y => { y with frozen := true }
  { s with mlv := { s.mlv with ctxs := s.mlv.ctxs ++ [(4, { state := .opened, partner := 10, role := 3 })] } }

theorem dueFrozen_ready :
    (let s := dueFrozen
     let x := s.part 0
     let pg := s.opage 0 0 0
     x.phase = .commit ∧ x.rollback = none ∧ (s.kpart 0 0).cstate = .running ∧ s.ownerKpr 0 0 = some 0 ∧ pg.body.stamp = x.step
       ∧ pg.awaitingHusk = false ∧ pg.missing = [] ∧ s.inOrder 0 0 0 = true ∧ s.reductionDone 0 0 = true ∧ (s.kpart 0 0).window < 16
       ∧ pg.resW = .hbm ∧ pg.resM = .hbm ∧ pg.resD = .hbm ∧ pg.pre.getD pg.body = oldBody ∧ x.isNull pg = true
       ∧ (s.kpart 0 0).remirrorLeft.contains 0 = false ∧ s.buddyCtx 0 = some 4 ∧ (s.ctx 4).state = .opened) := by decide +kernel

theorem witness_Commit_null :
    (let r := (preimaged dueFrozen).nextBody 0 0 0 oldBody
     r.nonfinite = false
       ∧ (sget ({} : DeltaSlot) r.body.deltas r.body.head).spill.length ≤ (preimaged dueFrozen).spillFree 0 0 r.body.head) := by
  have h : ((preimaged dueFrozen).part 0).isNull ((preimaged dueFrozen).opage 0 0 0) = true := by decide +kernel
  simp only [State.nextBody, h, if_true]
  refine ⟨trivial, ?_⟩
  simp [nullUpdate, sget_sset_same]

theorem witness_Commit_comparison :
    (let head (d : Nat) := 5 + at' 40 6 + at' 48 1 + at' 128 d
     let s (st : PageState) := (inPhase .commit).modOpage 0 0 1 fun y => { y with cstate := st, body := { y.body with digest := 7 } }
     let b (st : PageState) := (s st).took 3 3 1
     let ok (s : State) (h : Nat) (q : Nat) (x : Part) : Bool :=
       (x.range (bits h 75 48)).isSome && ((x.phase == .gate || x.phase == .commit || x.phase == .flipWait) && bits h 39 0 == x.step + 1
         || s.copyRecord 0 q (bits h 75 48) (bits h 39 0))
     ([PageState.clean, .stamped].all fun st =>
       ((s st).ctx 3).state == .opened && (b st).herdPart (bits (head 7) 47 40) (ok (s st) (head 7)) == some 0
         && !(b st).copyRecord 0 0 1 5 && (b st).ownerKpr 0 1 == some 0 && ((b st).opage 0 0 1).cstate == st && ((b st).opage 0 0 1).disputed == none
         && ((b st).opage 0 0 1).body.digest == BitVec.ofNat 256 (bits (head 7) 383 128)
         && ((b st).opage 0 0 1).body.digest ≠ BitVec.ofNat 256 (bits (head 8) 383 128)) = true
     ∧ (let u := planned.modOpage 0 0 1 fun y => { y with cstate := .clean, body := { y.body with stamp := 5, digest := 7 } }
        (u.ctx 3).state = .opened ∧ (u.took 3 3 1).herdPart (bits (head 7) 47 40) (ok u (head 7)) = some 0
          ∧ (u.took 3 3 1).copyRecord 0 0 1 (bits (head 7) 39 0) = true))
    ∧ (let s := withPart child { (child.part 0) with phase := .commit }
       let b := s.took 3 3 1
       let head := 5 + at' 40 6 + at' 48 1
       (s.ctx 3).state = .opened ∧ b.ownerKpr 0 1 ≠ some (s.ctx 3).kpr
         ∧ (b.herdPart (bits head 47 40) fun _ x => (x.range 1).isSome && ((x.phase == .gate || x.phase == .commit || x.phase == .flipWait) && bits head 39 0 == x.step + 1)) = some 0
         ∧ s.copyRecord 0 0 1 5 = false) := by
  decide +kernel

theorem witness_PageMessages :
    (let s := inPhase .gather
     let b := s.took 3 1 1
     let c := s.took 3 3 1
     let head := 4 + at' 40 6 + at' 48 1
     let owns (_ : Nat) (x : Part) : Bool :=
       (x.range 1).any (fun e => prOwner e == b.selfId && prOwnerKpr e == 0) && (x.named b.past 4 || 4 == x.version + 1)
     (s.ctx 3).state = .opened ∧ (s.ctx 3).kpr = 0 ∧ bits head 47 40 = 6 ∧ bits head 75 48 = 1 ∧ bits head 39 0 = 4
       ∧ b.herdPart 6 owns = some 0 ∧ b.herdPart 7 owns = none ∧ s.recov.spare = none
       ∧ (c.herdPart 6 fun _ x => (x.range 1).isSome) = some 0 ∧ (c.herdPart 6 fun _ _ => true) = some 0
       ∧ (c.herdPart 7 fun _ _ => true) = none)
    ∧ ∀ (d : BitVec 128), ∀ data : List Byte, data.length = 2 ^ 20 + 16384 →
        let s := inPhase .gather
        let head := 4 + at' 40 6 + at' 128 d.toNat
        let b := s.took 3 0 2081
        let wants (x : Part) (eval : Bool) : Bool :=
          !x.current eval (bits head 39 0) (bits head 75 48) &&
            (if eval then x.eval.any fun w => w.version == bits head 39 0
             else (bits head 39 0 == x.step && x.phase ≠ .idle) || x.held.isSome && bits head 39 0 == x.step + 1)
        (b.herdPart (bits head 47 40) fun _ x => x.stagePages.contains (bits head 75 48) && (wants x false || wants x true)) = some 0
          ∧ wants (b.part 0) false = true ∧ wants (b.part 0) true = false ∧ BitVec.ofNat 128 (bits head 255 128) = d
          ∧ ((b.part 0).range (bits head 75 48)).isSome = true := by
  refine ⟨by decide +kernel, ?_⟩
  intro d data _ s head b wants
  have h39 : bits head 39 0 = 4 := by simp only [head, at', bits]; omega
  have h47 : bits head 47 40 = 6 := by simp only [head, at', bits]; omega
  have h75 : bits head 75 48 = 0 := by simp only [head, at', bits]; omega
  have hd : bits head 255 128 = d.toNat := by
    have := d.isLt
    simp only [head, at', bits]; omega
  simp only [wants, h39, h47, h75, hd]
  refine ⟨by decide +kernel, by decide +kernel, by decide +kernel, by simp, by decide +kernel⟩

theorem witness_SlowTier :
    ([Resid.fetch, .evict, .slow].all fun r => [0, 2].all fun c =>
      let s (kept : Sparse (BitVec 128)) := (inPhase .compute).modOpage 0 0 1 fun y => { (y.setResid c r) with slowDigest := kept }
      let kept (s : State) := (s.opage 0 0 1).slowDigest.filter fun d => d.1 / 16 == c
      ((s []).opage 0 0 1).resid c == r && !((s []).opage 0 0 1).awaitingHusk && kept (s []) == mibDigests c []
        && kept (s [(16 * c, 1)]) ≠ mibDigests c [] && !((s []).opage 0 0 1).refetched.contains c
        && (((s []).modOpage 0 0 1 fun y => { y with refetched := [c] }).opage 0 0 1).refetched.contains c) = true
    ∧ (let q : UioRequest := ⟨⟨0, 0, 1, 2, false⟩, 4223⟩
       ([0, 1, 2].all fun t => rung.tierPresent t && !(rung.tierPort t).retried.contains q
         && ((rung.modTier t fun y => { y with retried := [q] }).tierPort t).retried.contains q) = true)
    ∧ (∀ q < 8, (rung.part q).keepers = []) := by
  decide +kernel

theorem witness_HuskMirrors :
    ([Phase.compute, .commit].all fun ph =>
      let s := inPhase ph
      let b := s.took 3 3 2049
      let head := 4 + at' 40 6
      (s.ctx 3).state == .opened && (b.herdPart (bits head 47 40) fun _ x => x.phase ≠ .idle && x.step == bits head 39 0) == some 0
        && (b.part 0).phase == ph && !(b.part 0).nullCommit) = true
    ∧ (∀ data : List Byte, data.length = 2 ^ 20 →
        ((inPhase .compute).took 3 3 2049).herdPart 6 (fun _ x => x.phase ≠ .idle && x.step == 4 && data.length == 2 ^ 20) = some 0)
    ∧ (let b := child.took 3 3 1
       let head := 4 + at' 40 6
       (b.herdPart 6 fun _ x => child.pageFor 3 0 x && x.huskLength child.past (bits head 79 76) (bits head 511 256) []) = some 0
         ∧ b.ownerKpr 0 0 ≠ some 0 ∧ (b.part 0).replayKey = none
         ∧ (b.herdPart 6 fun _ x => ([] : List Byte).length == bits head 95 64 && child.recordFor 3 x) = some 0 ∧ b.recov.role ≠ .taking
         ∧ (b.herdPart 6 fun _ x => child.recordFor 3 x) = some 0) := by
  refine ⟨by decide +kernel, ?_, by decide +kernel⟩
  intro data h
  simp only [h]
  decide +kernel

/-- A control word with its two check words (R369). -/
def sealed (w : Nat) : BitVec 256 :=
  let bs := leBytes 32 w
  BitVec.ofNat 256 (w + at' 48 (crc16 (bs.take 6)) + at' 240 (crc16 ((bs.drop 8).take 22)))

theorem witness_Ports :
    ([1, 2, 3, 4].all fun ph =>
      let s := rung.modPort 63 fun x => { x with state := .training, phase := ph }
      (s.port 63).state == .training && (s.port 63).phase == ph) = true
    ∧ (rung.port 63).state ≠ .training
    ∧ ((rung.modPort 0 fun x => { x with state := .down }).port 0).state = .down
    ∧ (let s := rung.modPort 0 fun x => { x with state := .up }
       (s.port 0).state = .up ∧ (s.port 0).stalled = false
         ∧ wordSound 0 = false
         ∧ wordSound (sealed (at' 64 1 + at' 105 1)).toNat = true ∧ wordFields (sealed (at' 64 1 + at' 105 1)).toNat 1 105 = false
         ∧ (let t := rung.modPort 0 fun x => { x with state := .training, phase := 4 }
            (t.port 0).state = .training ∧ (t.port 0).phase = 4))
    ∧ ([(1, 105), (2, 72), (3, 84), (4, 112)].all fun q =>
        let w := (sealed (at' 64 q.1)).toNat
        wordSound w && !w.testBit 3 && wordFields w q.1 q.2) = true
    ∧ (let w := (sealed (at' 64 2 + 8)).toNat
       wordSound w = true ∧ w.testBit 3 = true ∧ wordFields w 2 72 = true)
    ∧ (rung.port 0).state = .disabled
    ∧ (let s := rung.modPort 0 fun x => { x with state := .up, retry := [(0, 0, { cls := 0, msg := 0, seq := 0, payload := [], ctx := 3 })] }
       (s.port 0).state = .up ∧ (s.port 0).stalled = false ∧ (s.port 0).retry ≠ [])
    ∧ (let s := rung.modPort 0 fun x => { x with state := .up, stalled := true }
       (s.port 0).state = .up ∧ (s.port 0).stalled = true) := by
  decide +kernel

/-- Context 3 with the traffic of one class. -/
def carrying (cls : Nat) (f : CtxClass → CtxClass) : State :=
  (linked.modCtx 3 fun c => c.modCls cls f).modPort 0 fun x => { x with state := .up }

theorem classes_idle (s : State) (i : Nat) (h : (s.ctx i).classes = []) : ∀ cls, ((s.ctx i).cls cls).waiting = [] := by
  intro cls
  rw [Ctx.cls, h]
  rfl

theorem witness_Contexts :
    (let s := carrying 4 fun k => { k with owed := 64 }
     (s.ctx 3).state = .opened ∧ 0 < ((s.ctx 3).cls 4).owed ∧ (s.ctx 3).watch = true)
    ∧ (let s := carrying 4 fun k => { k with ackDue := true }; ((s.ctx 3).cls 4).ackDue = true)
    ∧ (((carrying 4 id).ctx 3).cls 4).ackDue = false ∧ (((carrying 4 id).ctx 3).cls 4).owed = 0
    ∧ ([2, 3].all fun n =>
        let x : TxCell := { cls := 0, msg := 0x10, seq := 7, payload := [], ctx := 3, port := 3 - n }
        let s := carrying 0 fun k => { k with unacked := [x], resends := n }
        let later := (((s.ctx 3).cls 0).unacked.dropWhile fun x => x.seq ≠ 7)
        later == [x] && (x.port ≠ 0) == (n == 2) && (s.port 0).usable && (s.portGroup (s.ctx 3).kpr).contains 0 && ((s.ctx 3).cls 0).resends == n) = true
    ∧ ([false, true].all fun sent =>
        let s := linked.modCtx 3 fun c => { c with state := .opening, helloSent := sent }
        (s.ctx 3).state == .opening && (s.ctx 3).helloSent == sent && !(s.ctx 3).helloSeen && (s.ctx 3).classes == []
          && s.bestPort (s.ctx 3).kpr == none && (s.modPort 0 fun x => { x with state := .up }).bestPort (s.ctx 3).kpr == some 0) = true
    ∧ (rung.ctx 3).state = .closed := by
  decide +kernel

/-- A cell with its two check words (R372). -/
def frameOf (h : Nat) (payload : List Byte := []) : List Byte :=
  let bs := leBytes 32 h
  leBytes 32 (h + at' 48 (crc16 (bs.take 6)) + at' 224 (crc32c ((bs.drop 8).take 20 ++ payload))) ++ payload

/-- A cell of a context at the bounds of its fields, with and without payload. -/
theorem witness_SentFrames :
    ([([] : List Byte), [1]].all fun payload =>
      let c : Ctx := { partner := 4095, partnerKpr := 7, kpr := 7, partnerCtx := 4095 }
      let head := c.header 4095 7 255 (2 ^ 48 - 1) (2 ^ 58 - 1) (payload ≠ [])
      let cell : TxCell := { cls := 7, msg := 255, seq := 2 ^ 48 - 1, payload := payload, ctx := 0, head := head }
      cell.head == c.header 4095 7 255 (2 ^ 48 - 1) (2 ^ 58 - 1) (cell.payload ≠ [])) = true
    ∧ ({ rxLsn := 4095 } : Port).rxLsn < 4096 := by
  decide +kernel

/-- R367 to R369: a PAGE_DATA cell and a LIVE word that a port sends are sound, and the word names its sender. -/
theorem test_frames_sound :
    (let x : Port := { rxLsn := 5 }
     let w := x.controlFrame 1 (at' 0 77)
     let cell : TxCell := { cls := 0, msg := 0x13, seq := 9, payload := [1, 2], ctx := 3, head := (linked.ctx 3).header 1 0 0x13 9 0 true }
     let f := leBytes 32 (x.cellFrame 6 cell) ++ cell.payload
     let h := leNat (f.take 32)
     wordSound w = true ∧ wordFields w 1 105 = true ∧ bits w 83 72 = 77 ∧ bits w 27 16 = 5
       ∧ crc16 (f.take 6) = bits h 63 48 ∧ crc32c ((f.drop 8).take 20 ++ cell.payload) = bits h 255 224
       ∧ bits h 15 4 = 6 ∧ bits h 87 76 = 9 ∧ bits h 165 118 = 9) := by decide +kernel

/-- A fold whose accumulator is known at every byte, so that evaluating it nests nothing. -/
def eagerFold (g : Nat → Byte → Nat) : List Byte → Nat → Nat
  | [], a => a
  | b :: bs, a => if a == 0 then eagerFold g bs (g 0 b) else eagerFold g bs (g a b)

theorem foldl_eager (g : Nat → Byte → Nat) (bs : List Byte) : ∀ a, bs.foldl g a = eagerFold g bs a := by
  induction bs with
  | nil => intro a; rfl
  | cons b bs ih =>
    intro a
    rw [List.foldl_cons, ih, eagerFold]
    split
    · rename_i h; rw [beq_iff_eq.mp h]
    · rfl

/-- A PAGE_REQ cell for context 3 of module 1, Keeper 0, from module 9, Keeper 2, in sequence, its payload 512 bytes of zero. -/
def pageReq : Nat := 1 + at' 64 1 + at' 67 1 + at' 68 0x20 + at' 76 1 + at' 91 9 + at' 103 2 + at' 106 3

set_option maxRecDepth 100000 in
/-- The check word of that cell. -/
theorem pageReq_check :
    crc32c (((leBytes 32 pageReq).drop 8).take 20 ++ List.replicate 512 0) = 0xD4551374 := by
  unfold crc32c crcBytes
  rw [foldl_eager]
  decide +kernel

theorem witness_CellReceive_payload :
    let s := linked.modPort 0 fun x => { x with state := .up }
    let f := frameOf pageReq (List.replicate 512 0)
    let h := leNat (f.take 32)
    f.length = 544 ∧ crc16 (f.take 6) = bits h 63 48 ∧ crc32c ((f.drop 8).take 20 ++ f.drop 32) = bits h 255 224
      ∧ bits h 2 0 = 1 ∧ bits h 66 64 = 1 ∧ bits h 75 68 = 0x20 ∧ bits h 117 106 = 3 ∧ msgValid 1 0x20 (h.testBit 67) = true
      ∧ decide ((f.drop 32).length = 512) = h.testBit 67 ∧ bits h 217 215 < 5 ∧ bits h 87 76 = s.selfId ∧ bits h 102 91 = 9
      ∧ bits h 105 103 = 2 := by
  have e : frameOf pageReq (List.replicate 512 0)
      = leBytes 32 (pageReq + at' 48 (crc16 ((leBytes 32 pageReq).take 6)) + at' 224 0xD4551374) ++ List.replicate 512 0 := by
    rw [frameOf, pageReq_check]
  have d : ((leBytes 32 (pageReq + at' 48 (crc16 ((leBytes 32 pageReq).take 6)) + at' 224 0xD4551374) ++ List.replicate 512 0).drop 8).take 20
        ++ (leBytes 32 (pageReq + at' 48 (crc16 ((leBytes 32 pageReq).take 6)) + at' 224 0xD4551374) ++ List.replicate 512 0).drop 32
      = ((leBytes 32 pageReq).drop 8).take 20 ++ List.replicate 512 (0 : Byte) := by decide +kernel
  rw [e]
  intro s f h
  rw [show (f.drop 8).take 20 ++ f.drop 32 = _ from d, pageReq_check]
  decide +kernel

theorem witness_CellReceive :
    ((rung.modPort 63 fun x => { x with state := .up }).port 63).state = .up
    ∧ ([(0, 0, 2), (1, 0, 0), (1, 1, 1), (1, 2047, 1), (1, 2048, 0), (1, 4095, 0)].all fun q =>
        let f := frameOf (q.1 + at' 4 q.2.1 + at' 76 5)
        let h := leNat (f.take 32)
        crc16 (f.take 6) == bits h 63 48 && f.length == 32 && crc32c ((f.drop 8).take 20 ++ f.drop 32) == bits h 255 224
          && bits h 2 0 == q.1 && seqAhead 12 0 (bits h 15 4) == q.2.1 && bits h 87 76 ≠ rung.selfId && bits h 66 64 < 5
          && bits h 47 28 == 0 && !h.testBit 3 && decide ((f.drop 32).length = 512) == h.testBit 67) = true
    -- a NULL cell to module 1, Keeper 0 from module 9, Keeper 2 for context 3, and for context 4, which is closed
    ∧ ([3, 4].all fun i =>
        let s := linked.modPort 0 fun x => { x with state := .up }
        let f := frameOf (1 + at' 76 1 + at' 91 9 + at' 103 2 + at' 106 i)
        let h := leNat (f.take 32)
        (s.port 0).state == .up && crc16 (f.take 6) == bits h 63 48 && crc32c ((f.drop 8).take 20 ++ f.drop 32) == bits h 255 224
          && bits h 2 0 == 1 && seqAhead 12 (s.port 0).rxLsn (bits h 15 4) == 0 && bits h 87 76 == s.selfId && bits h 90 88 == 0
          && bits h 75 68 == 0 && bits h 117 106 == i && bits h 102 91 == 9 && bits h 105 103 == 2 && bits h 217 215 < 5
          && msgValid 0 0 (h.testBit 67) && ((s.ctx i).state == .opened) == (i == 3)
          && (i ≠ 3 || ((s.ctx i).partner == 9 && (s.ctx i).partnerKpr == 2 && (s.ctx i).kpr == 0))) = true
    ∧ crc16 ([] : List Byte) ≠ bits (leNat []) 63 48 := by
  decide +kernel

theorem witness_LossDetection :
    (let s := carrying 0 fun k => { k with unacked := [{ cls := 0, msg := 0x10, seq := 7, payload := [], ctx := 3 }] }
     (s.ctx 3).state = .opened ∧ ((s.ctx 3).cls 0).unacked ≠ [] ∧ (s.ctx 3).watch = true)
    ∧ (rung.ctx 3).state ≠ .opened ∧ (rung.ctx 3).watch = false
    ∧ (let s := linked.modCtx 3 fun c => { c with state := .lost, watch := false }
       (s.ctx 3).state = .lost ∧ (s.ctx 3).watch = false ∧ s.recov.selfFenced = false)
    ∧ linked.idAssigned = true ∧ linked.recov.selfFenced = false := by
  decide +kernel

/-- A spare that takes over the ID of module 9 at generation 2, at a step of its pull. -/
def takes (pull : Nat) : State :=
  { linked with recov := { linked.recov with taking := some (9, 2), role := .taking, pull := pull } }

theorem witness_TakeoverAndReplay :
    (takes 0).recov.taking = some (9, 2) ∧ (takes 0).recov.role = .taking ∧ (takes 0).selfId ≠ 9
    ∧ (let s := { takes 0 with mlv := { (takes 0).mlv with selfId := 9 } }; s.selfId = 9 ∧ s.recov.pull = 0)
    ∧ (takes 1).recov.pull ≠ 0 ∧ ((takes 0).ctx 3).state = .opened
    ∧ bits (at' 40 0x51 + at' 12 4) 47 40 = 0x51 ∧ bits (at' 40 0x51 + at' 12 4) 15 12 = 4
    ∧ ([([0, 1], Phase.reduce), ([0], .reduce), ([0, 1], .compute)].all fun q =>
        let s := (inPhase q.2).modKpart 0 0 fun z => z.modBucket 0 fun y => { y with sent := q.1 }
        let s := { s with recov := { s.recov with replayCmd := some (0, 7) } }
        let x := s.part 0
        s.recov.replayCmd == some (0, 7)
          && (x.keepers.all fun k => (x.bucketsOf k).all fun b => bkPages b ≤ ((s.kpart k 0).bucket (bkNum b)).sent.length) == (q.1 == [0, 1])
          && x.beforeFence == (q.2 == .compute) && !x.herdReplay) = true
    ∧ ([4, 5].all fun v =>
        let s := withPart planned { demoPart with version := v, herdReplay := true }
        let s := { s with recov := { s.recov with replayCmd := some (0, 7), replayStep := 4 } }
        (s.part 0).herdReplay && (s.part 0).phase == .idle && ((s.part 0).version == s.recov.replayStep + 1) == (v == 5)) = true := by
  decide +kernel

/-- R392: MAX_SYMBOLS forgets what is older than 1 ms. -/
theorem test_max_symbols :
    (let x : Port := { symbols := [(7300000, 3), (90000, 9)] }
     bits (x.status 7290000) 31 28 = 9 ∧ bits (x.status 7290001) 31 28 = 3 ∧ bits (x.status 14500001) 31 28 = 0) := by decide +kernel

theorem witness_RegistersAndPorts :
    rung.cxlServed = true ∧ rung.boot.mode ≠ 2
    ∧ ([(0, 3), (2, 4), (4, 8), (0x4000000, 4)].all fun q =>
        !decide ((q.2 = 4 ∨ q.2 = 8) ∧ q.1 % q.2 = 0 ∧ q.1 < 0x4000000) && !(windowStation q.1).any rung.beingFilled) = true
    ∧ ([0, 63].all fun f => !(rung.setHolder (8 + f / 8) 2).holds .host (8 + f / 8) && (rung.setHolder (8 + f / 8) 1).holds .host (8 + f / 8)
        && (rung.fieldLease f == 8 + f / 8)) = true
    ∧ formed.holds .host (formed.fieldLease 0) = true
    ∧ stationOk (1024 * 63 + 32 * 23 + 23) = true ∧ rung.beingFilled 0 = false ∧ filling.beingFilled 0 = true
    ∧ (windowStation 0).any rung.beingFilled = false
    ∧ (let s := { rung with fuses := { rung.fuses with part := 0x08 } }
       s.portPresent 63 = false ∧ s.portPresent 0 = true) := by
  decide +kernel

theorem witness_PortControl :
    (formed.setHolder 8 2).holds .host (8 + 0 / 8) = false ∧ rung.portPresent 0 = true
    ∧ ([PortState.disabled, .training, .up, .down, .failed].all fun st =>
        let s := (rung.setHolder 8 1).modPort 0 fun x => { x with state := st }
        s.holds .host 8 && (s.port 0).state == st && (s.port 0).enable) = true := by
  decide +kernel

theorem witness_DataQueues :
    (let q : DataQueue := { present := true, slots := 2 }
     let s (p c : Nat) := (inPhase .compute).modDq 0 fun _ => { q with prod := p, cons := c }
     (s 0 0).cxlServed = true ∧ ((s 0 0).dq 0).present = true ∧ ((s 0 0).dq 0).slots ≤ bits (2#32).toNat 15 0
       ∧ bits (1#32).toNat 15 0 < ((s 0 0).dq 0).slots ∧ ((s 0 0).dq 0).output = false
       ∧ (((s 0 0).part 0).inputStream 0).isSome = false)
    ∧ (let q : DataQueue := { present := true, slots := 2 }
       let s (p c : Nat) := (inPhase .compute).modDq 1 fun _ => { q with prod := p, cons := c }
       let e := (((s 1 0).part 0).inputStream 1).getD 0
       ((s 1 0).part 0).inputStream 1 = some e ∧ ((s 1 0).dq 1).prod ≠ ((s 1 0).dq 1).cons
         ∧ (((s 1 0).part 0).dests e).all ((s 1 0).inputCredit 0 e ((s 1 0).dq 1).seq) = true
         ∧ ((s 0 0).dq 1).prod = ((s 0 0).dq 1).cons)
    ∧ (let q : DataQueue := { present := true, output := true, slots := 2 }
       let s (used : Nat) (prod : Nat) := ((inPhase .compute).modDq 0 fun _ => { q with prod := prod }).modCore 0 fun c =>
         c.modOut 2 fun o => { o with used := [(0x30000, used)] }
       let e := (((s 1 0).part 0).outputStream 0).getD 0
       let sent (s : State) := sget 0 (sget {} (s.station (sdSrc e)).core.outb (bits e 15 0)).used (0x30000 + 0)
       ((s 1 0).part 0).outputStream 0 = some e ∧ sent (s 1 0) = 1 ∧ ((s 1 0).dq 0).freeSlots ≠ 0 ∧ sent (s 0 0) = 0
         ∧ ((s 1 1).dq 0).freeSlots = 0) := by
  decide +kernel

theorem witness_ManagementPortReset :
    (let f : InFlight := ⟨7, cmd 0x23 (fromMgmt 0), 0, false⟩
     let s := rung.modArb fun a => { a with inflight := [f] }
     let u := rung.modArb fun a => { a with inflight := [{ f with muted := true }] }
     s.mgmtServed = true ∧ f ∈ s.arb.inflight ∧ f.cmd.packet.src = .mgmt ∧ u.flight 7 = some { f with muted := true }) := by
  decide +kernel

/-- A sender's telemetry is on. -/
def watched : State := rung.modMgmt fun m => { m with hostTelem := { enable := true, addr := 0x1000, slots := 4 } }

theorem witness_Telemetry :
    rung.boot.stage = .ready ∧ ([0] : List Byte) ≠ [] ∧ ([0] : List Byte).length ≤ 67108864
    ∧ ([0, 63, 64, 71, 72, 103, 104, 167].all fun p => (rung.telemetryRecord p).isSome) = true
    ∧ (let s := watched
       s.mgmt.mgmtTelem.enable = false ∧ s.mgmt.hostTelem.enable = true ∧ rung.mgmt.hostTelem.enable = false)
    ∧ (let s := rung.modRegion 63 fun r => { r with stage := 3 }
       3 ≤ (s.region 63).stage ∧ (s.region 0).stage < 3 ∧ s.life.calHold = false ∧ s.paused = false) := by
  decide +kernel

theorem witness_Lifetime :
    (rung.field 63).isOff = false ∧ rung.unpowered = false ∧ ((rung.modField 0 fun x => { x with state := .lost }).field 0).isOff = true
    ∧ (linked.ctx 3).state = .opened ∧ linked.life.attEn = false
    ∧ (let s := { linked with life := { linked.life with attEn := true } }
       s.life.attEn = true ∧ s.life.lastAtt = none ∧ (s.attest (leBytes 32 0)).isSome = true)
    ∧ (let s := rung.modWear 0 fun w => { w with hot := 20000 * 3600 - 1 }
       90 * 20000 * 3600 ≤ 100 * (s.wear 0).hot) := by
  refine ⟨by decide +kernel, by decide +kernel, by decide +kernel, by decide +kernel, by decide +kernel,
    ⟨by decide +kernel, by decide +kernel, ?_⟩, by decide +kernel⟩
  simp only [State.attest, Option.isSome_map]
  decide +kernel

theorem witness_SupplyEvents :
    500 ≤ rung.pwr.vinA ∧ 500 ≤ rung.pwr.vinB
    ∧ ((rung.modPwr fun p => { p with vinA := 499 }).pwr.vinA < 500)
    ∧ rung.pwr.supply = .operating ∧ 660 < max 661 0 ∧ max 661 0 ≤ 700
    ∧ (rung.modPwr fun p => { p with supply := .marginal }).pwr.supply = .marginal
    ∧ rung.pwr.clip = false ∧ 98 * rung.pwr.currentLimit ≤ 100 * 686
    ∧ (let s := rung.modPwr fun p => { p with clip := true }; s.pwr.clip = true ∧ 100 * 629 < 90 * s.pwr.currentLimit) := by
  decide +kernel

theorem witness_PowerArbiter :
    (let s (g issue low stage : Nat) := rung.modRegion 79 fun r => { r with grant := g, issue := issue, lowSamples := low, stage := stage }
     ((s 100 64 0 0).region 79).effective < 101 ∧ (s 100 64 0 0).pwr.clip = false ∧ ((s 100 64 0 0).region 79).stage ≠ 3
       ∧ 89 ≤ ((s 100 64 7 0).region 79).effective ∧ 10 * 89 < 9 * ((s 100 64 7 0).region 79).effective
       ∧ ((s 100 64 7 0).region 79).lowSamples = 7 ∧ ((s 100 64 7 3).region 79).stage = 3)
    ∧ (rung.modPwr fun p => { p with clip := true }).pwr.clip = true := by
  decide +kernel

theorem witness_Thermal :
    (let s := rung
     let t := s.throttleAt 63
     t < s.pwr.limits.off ∧ t < s.pwr.limits.emerg ∧ (s.region 63).stage = 0 ∧ (s.field 63).isOff = false ∧ t - 1 < s.throttleAt 63
       ∧ (s.field 63).band ≠ 3)
    ∧ ([(1, 85), (3, 92)].all fun q =>
        let s := rung.modRegion 0 fun r => { r with stage := q.1, cap := some 8, temp := q.2 - 3 }
        (s.region 0).cap == some 8 && (s.region 0).stage == q.1 && decide ((s.region 0).temp + 3 ≤ s.pwr.limits.off)
          && (decide ((s.region 0).temp + 3 ≤ s.throttleAt 0) || q.1 == 3) && decide ((s.field 0).band < 3)) = true
    ∧ (let s := rung.modRegion 0 fun r => { r with cap := some 8 }; (s.region 0).cap = some 8 ∧ (s.region 0).stage = 0)
    ∧ (let s := rung.modRegion 0 fun r => { r with temp := 90 }
       0 ∈ s.halfFields false ∧ s.pwr.limits.half ≤ (s.region 0).temp ∧ s.clk.therm false < s.pwr.limits.maxDiv)
    ∧ ([false, true].all fun east => (rung.halfFields east).all fun f =>
        decide ((rung.region f).temp + 5 ≤ rung.pwr.limits.half) && !rung.atFloor f) = true
    ∧ linked.idAssigned = true ∧ linked.recov.selfFenced = false := by
  decide +kernel

/-- The module off in lockout, with its enable pin and the reference's lock in a state. -/
def dark (enable lock : Bool) (supply : Supply) : State :=
  { State.reset with
    boot := { State.reset.boot with stage := .off }, clk := { State.reset.clk with lock := lock }
    pwr := { State.reset.pwr with enable := enable, supply := supply } }

theorem witness_SwitchingOffAndOn :
    max 499 0 < 500 ∧ 500 ≤ max 500 0 ∧ 700 < max 701 0
    ∧ (rung.region 63).tripped = false ∧ (rung.field 63).isOff = false ∧ (rung.region 63).rearmed = none
    ∧ (dark true true .lockout).boot.stage = .off ∧ (dark true true .lockout).pwr.supply = .lockout
    ∧ (dark true true .lockout).pwr.enable = true ∧ (dark true true .lockout).clk.lock = true ∧ 520 < max 521 0 ∧ max 521 0 ≤ 700
    ∧ rung.boot.stage ≠ .off ∧ (dark false true .operating).pwr.latched = false
    ∧ (dark true false .operating).clk.lock = false ∧ (dark true false .operating).pwr.enable = true
    ∧ (dark true false .operating).pwr.supply = .operating ∧ rung.clk.lock = true ∧ rung.tierPresent 2 = true := by
  decide +kernel

theorem witness_BringUp :
    (let s := { rung with boot := { rung.boot with stage := .carrier } }
     s.boot.stage = .carrier ∧ s.bootReason true = 0 ∧ s.bootReason false ≠ 0 ∧ s.lowFlow = false
       ∧ (s.modPwr fun p => { p with flow := 29 }).lowFlow = true ∧ (s.readyDry 1).unpowered = true)
    ∧ ([Stage.keepers, .wave 0, .wave 7, .links].all fun g =>
        let s := { rung with boot := { rung.boot with stage := g } }
        s.boot.stage == g && s.boot.stage ≠ .off && s.boot.stage ≠ .ready && s.boot.stage ≠ .carrier) = true
    ∧ (0 ≤ 63 % 8 ∧ 7 ≤ 63 % 8 ∧ 0 % 8 < 7) ∧ (rung.field 63).state = .inService ∧ rung.stackPresent (159 - 128) = true
    ∧ rung.boot.stage = .ready ∧ ({ rung with boot := { rung.boot with faulted := true } } : State).boot.faulted = true := by
  decide +kernel

theorem witness_FirmwareUpdate :
    ([FwStage.reading, .programming false, .programming true].all fun st =>
      let s := { rung with boot := { rung.boot with update := some ⟨st, 7, []⟩ } }
      s.boot.update == some ⟨st, 7, []⟩ && s.flight 7 == none && s.boot.heldReset == none && s.boot.mode ≠ 2) = true := by
  decide +kernel

/-- A firmware image of the least length for this part and stepping. -/
def image : List Byte := leBytes 16 (0x4D585345 + at' 32 1 + at' 48 1 + at' 57 1 + at' 64 12288) ++ List.replicate 12272 0

theorem witness_FirmwareUpdate_image (h : Config.imageVerifies (image.take 12288) = true) : imageFault rung.fuses image = none := by
  have hl : imageBits image 95 64 = 12288 := by decide +kernel
  have hn : image.length = 12288 := by simp only [image, List.length_append, List.length_replicate]; decide
  simp only [imageFault, hl, hn, h]
  decide +kernel

/-- A command in flight under CSN 7. -/
def flying (s : State) (op n : Nat) (data : List Byte := []) : State :=
  s.modArb fun a => { a with inflight := [⟨7, cmd op (fromHost n data), 1, false⟩] }

theorem witness_LongCommandsEnd :
    (let s := flying formed 0x12 (at' 128 4096)
     s.flight 7 = some ⟨7, cmd 0x12 (fromHost (at' 128 4096)), 1, false⟩ ∧ (s.part 0).formed = true ∧ (s.part 0).free = true
       ∧ (s.planFault 0 (s.part 0).rows.toNat [] 4096).isSome = true)
    ∧ ([0x40, 0x41].all fun op =>
        let s := flying planned op (at' 3 1)
        (s.part 0).planned && s.ownsPages (at' 3 1) && (s.readReady 0 (at' 3 1)).2) = true
    ∧ (let s := flying (planned.modOpage 0 0 1 fun y => { y with resW := .slow }) 0x41 (at' 3 1 + at' 59 7)
       (s.readReady 0 (at' 3 1 + at' 59 7)).2 = false)
    ∧ ([0x22, 0x23].all fun op =>
        let s := flying formed op (at' 16 256 + at' 40 8)
        !(s.field (stField 0)).isOff && !s.bankBad 0 256 8) = true
    ∧ ((flying (formed.modField 0 fun x => { x with state := .lost }) 0x22 0).field (stField 0)).isOff = true
    ∧ (let bad := fromHost 9 [0xFF, 0x0F]
       let good := fromHost 9 [1, 0]
       (spareMembers bad).contains 0xFFF = true ∧ (spareMembers good).contains 0xFFF = false
         ∧ ([[]] : List (List Byte)).length = bits good.n 17 16 + 1 ∧ rung.recov.spare = none) := by
  decide +kernel

theorem witness_Steps :
    State.reset.memoryWf = true ∧ step { rung with pending := [.nop (fromHost 0)] } = exec (.nop (fromHost 0)) rung
    ∧ ({ rung with pending := [.nop (fromHost 0)] } : State).pending = .nop (fromHost 0) :: [] ∧ rung.pending = [] := by
  exact ⟨by decide +kernel, rfl, rfl, rfl⟩

/-! ### Check values from outside the model -/

/-- The check values of the two CRCs over the characters 1 to 9 (CRC-16 with polynomial 0x1021 and CRC-32C). -/
theorem test_crcs : crc16 [0x31, 0x32, 0x33, 0x34, 0x35, 0x36, 0x37, 0x38, 0x39] = 0x29B1
    ∧ crc32c [0x31, 0x32, 0x33, 0x34, 0x35, 0x36, 0x37, 0x38, 0x39] = 0xE3069283 := by decide +kernel

/-- The published known answer of Philox4x32-10 at counter 0 and key 0. -/
theorem test_philox_known_answer : philox (0, 0, 0, 0) 0 0 = (0x6627E8D5, 0xE169C58D, 0xBC57AC4C, 0x9B00DBD8) := by decide +kernel

/-- SHAKE256 of the empty string begins 46 B9 DD 2B. -/
theorem test_shake256_empty : (shake256 4 []) = [0x46, 0xB9, 0xDD, 0x2B] := by decide +kernel

/-- R56: a weight is its significand times 2^(exponent - 142), and a NaN under exponent 255. -/
theorem test_mw16_values : mw16Value 142 (-3) = .fin true 3 ∧ mw16Value 255 1 = .nan := by decide +kernel

/-- R50: the largest finite values of FP4, E4M3 and E5M2 are 6, 448 and 57,344. -/
theorem test_largest_values : Fmt.fp4.params.maxFinite = 6 ∧ Fmt.e4m3.params.maxFinite = 448 ∧ Fmt.e5m2.params.maxFinite = 57344 := by
  decide +kernel

/-! ### One step -/

/-- The state that a step from `s` with a command in front answers. -/
def after (s : State) (c : Instr) : State :=
  match step { s with pending := [c] } with
  | .next t => t
  | _ => s

/-- R463, R470: a NOP completes with status 0 and CSN 1 in slot 0 of its ring, with PHASE 1 and the ring's vector. -/
theorem test_nop_completes :
    (after rung (.nop (fromHost 0))).out.take 2 = [.msix 3, .completion 1 0 true ⟨0, 5, 1, false, 0, 1, 0⟩]
      ∧ (after rung (.nop (fromHost 0))).pending = [] := by decide +kernel

/-- R463: a reserved operand bit of a NOP gives 0x2001, without a CSN. -/
theorem test_nop_reserved_bit :
    (after rung (.nop (fromHost 1))).out.take 1 = [.msix 3]
      ∧ ((after rung (.nop (fromHost 1))).out.drop 1).take 1 = [.completion 1 0 true ⟨0x2001, 5, 1, false, 0, 0, 0⟩]
      ∧ (after rung (.nop (fromHost 1))).arb.lastCsn = 0 := by decide +kernel

/-- R466: SET_ID sets the module's logical ID; R456: an access of three bytes counts as bad. -/
theorem test_set_id : (after rung (.setId (fromHost 77))).selfId = 77 := by decide +kernel
theorem test_bad_access : (after rung (.registerWrite .host 0 3 0)).arb.badAccess = 1 := by decide +kernel

/-! ### Further clauses of the statements -/

/-- The small plan's Keeper 0 of module 9, as a spare for module 1's pages: context 3 is that of a buddy (role 4) to their owner. -/
def mirror : State := child.modCtx 3 fun c => { c with role := 4 }

theorem witness_Arbitration_turn :
    (let s := rung
     let c := cmdOf nopEntry .host 1 0 0 0 []
     let bad := cmdOf (0xFF#512) .host 1 0 0 0 []
     let r := s.ring 1
     let f := ((s.emit (.rdCurr (r.sqb.toNat + 64 * r.sqHead) 64)).modRing 1 fun r => { r with sqHead := (r.sqHead + 1) % 2 ^ r.size }).modHost
       fun h => { h with turn := 1 }
     s.nextRing = some 1 ∧ s.canBring c.packet = true ∧ (f.enter c.packet).precheck c = 0 ∧ (f.enter bad.packet).precheck bad ≠ 0
       ∧ s.nextRing ≠ some 0)
    -- after ring 1's turn another ring goes first, and ring 1 again where no other has an entry
    ∧ (let s := (rung.modRing 5 fun r => { r with enable := true, size := 4, sqTail := 1 }).modHost fun h => { h with turn := 1 }
       s.nextRing = some 5 ∧ (rung.modHost fun h => { h with turn := 1 }).nextRing = some 1) := by
  decide +kernel

theorem witness_Timeouts :
    (let f : InFlight := ⟨7, cmd 0x32 (fromHost 0), 1, false⟩
     let g : InFlight := ⟨8, cmd 0x12 (fromHost 0), 1, false⟩
     let s := rung.modArb fun a => { a with inflight := [f, g] }
     s.flight 7 = some f ∧ f.cmd.opcode = 0x32 ∧ f.muted = false ∧ s.flight 8 = some g
       ∧ g.cmd.opcode ∉ [0x30, 0x31, 0x32, 0x44, 0x45, 0x54, 0x81])
    ∧ rung.boot.stage = .ready := by
  decide +kernel

theorem witness_PartCreate_again :
    Passes catPartCreate (fromHost (at' 8 1)) formed ∧ (formed.part 0).formed = true ∧ (rung.part 7).formed = false := by
  unfold Passes Admitted
  decide +kernel

theorem witness_Scale_elsewhere :
    (let s := { planned with mlv := { planned.mlv with selfId := 9 } }
     Passes catScaleWrite (fromHost (at' 13 4 + at' 17 3 + at' 19 1)) s ∧ Passes catScaleRead (fromHost (at' 64 64)) s ∧ s.scaleHere 0 0 = false)
    ∧ planned.scaleHere 0 0 = true := by
  unfold Passes Admitted
  decide +kernel

theorem witness_DiagReplay_versions :
    (let s := withPart planned { demoPart with version := 9, hver := 9 }
     let c := fromHost (at' 3 9 + at' 64 64 + at' 128 256) (List.replicate 6 0 ++ [1] ++ List.replicate 249 0)
     Passes catDiagReplay c s ∧ bits c.n 54 15 + s.past < max (s.part 0).hver s.snoopedVersion
       ∧ max (planned.part 0).hver planned.snoopedVersion ≤ 3 + planned.past) := by
  unfold Passes Admitted
  decide +kernel

theorem witness_HerdSums_rollback :
    (let s := withPart child { (child.part 0) with phase := .idle, version := 5, step := 4 }
     let down := s.took 3 2 1
     let ok (p : Nat) (x : Part) : Bool :=
       2 ≤ 3 && (5 == x.step || (2 == 2 && x.phase == .idle && 5 == x.version))
         && (match x.rankOf (down.ctx 3).partner with
             | some q => down.selfRank p ≠ 0 && q == (down.selfRank p - 1) / x.herdF
             | none => false)
     (s.ctx 3).state = .opened ∧ down.herdPart 6 ok = some 0) := by
  decide +kernel

theorem witness_OpFetch_waiting :
    (let s := (withPart planned { demoPart with eval := some { version := 4, staged := true } }).modField 0 fun x => { x with offAtFence := true }
     let b := s.takeReplay 0
     let y := b.station 0
     s.stPart 0 = some 0 ∧ y.stopped = false ∧ y.fenced = false ∧ y.error = 0 ∧ (b.part 0).stopping = false
       ∧ (b.part 0).phase = .idle ∧ (b.part 0).fields.any b.offWaits = true) := by
  decide +kernel

theorem witness_Heartbeat_bounds :
    (let s := { planned with clk := { planned.clk with rootTime := 4096 * 8 + 3, fieldMark := [(0, 3)] } }
     let heard (s : State) := max (s.station 0).lastBeat (sget 0 s.clk.fieldMark (stField 0))
     heard s + 4096 * s.clk.divider (westHalf (stField 0)) ≤ s.clk.rootTime
       ∧ planned.clk.rootTime < heard planned + 4096 * planned.clk.divider (westHalf (stField 0))) := by
  decide +kernel

/-- The small plan, whose tree's one node is its root. -/
def rooted : State :=
  withPart planned { demoPart with
    phase := .compute, step := 4
    plan := some { demo with sections := (demo.sections.filter fun c => c.kind ≠ 0x0C) ++ [⟨0x0C, 0, [3 + at' 8 1 + at' 28 1 + at' 192 8]⟩] } }

theorem witness_ReductionNodes :
    (let s := rooted
     let n := (((s.part 0).sec 0x0C).find? fun n => bits n 5 0 == 3 && bits n 23 8 == 1).getD 0
     let e := (((s.part 0).sec 0x06).find? fun e => sdDstKind e == 3 && sdTree e == 3).getD 0
     let t := sget {} s.net.nodes (2 ^ 16 * 3 + 1)
     let full := List.replicate 8 ([] : List Byte)
     t.halted = false ∧ seqAhead 48 t.expect 0 = 0 ∧ bits n 26 24 = 0 ∧ sget [] t.inputs 0 = [] ∧ t.keys = [] ∧ 0 < bits n 199 192
       ∧ t.used < (s.part 0).parentRoom e n ∧ isChild ((s.part 0).treeNodes 3) n ((nodeInputs n).getD 0 0) = false
       ∧ bits n 199 192 ≤ full.length ∧ seqAhead 48 (t.expect + full.length) 8 = 0)
    -- a node whose parent has no place
    ∧ (let s := inPhase .compute
       let n := (((s.part 0).sec 0x0C).find? fun n => bits n 5 0 == 3 && bits n 23 8 == 1).getD 0
       let e := (((s.part 0).sec 0x06).find? fun e => sdDstKind e == 3 && sdTree e == 3).getD 0
       (s.part 0).parentRoom e n ≤ (sget {} s.net.nodes (2 ^ 16 * 3 + 1)).used) := by
  decide +kernel

theorem witness_CreditReturn_tree :
    (let s := rooted
     let e := ((s.part 0).stream 5).getD 0
     (s.part 0).stream 5 = some e ∧ sdDstKind e = 3 ∧ (((s.part 0).treeNodes (sdTree e)).find? fun q => q.testBit 28).isSome = true
       ∧ s.stPart 0 = some 0 ∧ sdDstKind (((s.part 0).stream 2).getD 0) ≠ 3) := by
  decide +kernel

theorem witness_FieldReady :
    (let s := rung.modField 0 fun x => { x with starting := true, state := .restarting }
     (s.field 0).starting = true ∧ (s.field 0).badSites = [] ∧ (∀ i ∈ [24, 599] ++ [49], i % 25 = 24))
    ∧ (rung.field 0).starting = false := by
  decide +kernel

theorem witness_PoisonedWord :
    ((rung.modBank 0 fun b => { b with poison := [5] }).bank 0).poison.contains 5 = true
    ∧ (rung.bank 0).poison.contains 0 = false
    ∧ (let s := rung.modBank (25 * (24 * 63 + 23) + 24) fun b => { b with bad := [2 ^ 21 - 1] }
       (s.bank (25 * (24 * 63 + 23) + 24)).poison.contains (2 ^ 21 - 1) = false) := by
  decide +kernel

theorem witness_HostWrite_outside :
    (∀ p < 8, ∀ e ∈ (rung.part p).sec 0x10, ∀ r ∈ placeAreas e, 64 + 2 ≤ r.2.1 ∨ r.2.1 + r.2.2.2 * 2 ^ 20 ≤ 64)
    ∧ placeAreas (at' 432 256) ≠ [] := by
  decide +kernel

theorem witness_Reduction_readBack :
    (let s (r : List Nat) := (inPhase .reduce).modKpart 0 0 fun z => z.modBucket 0 fun y =>
       { y with sent := [1], parked := true, resend := [(3, 1)], reread := r, parkDigest := [0, 7] }
     let y (r : List Nat) := ((s r).kpart 0 0).bucket 0
     let d := (((s []).part 0).bucketOfPage 1).getD 0
     ((s []).ctx 3).kpr = 0 ∧ ((s []).part 0).bucketOfPage 1 = some d ∧ bkNum d = 0
       ∧ ((y []).resend.filter fun r => r.2 == 1) = [(3, 1)] ∧ ((y []).resend.filter fun r => r.2 == 0) = [] ∧ 3 < 0x1000
       ∧ (y []).parkDigest[1 - bkFirstPage d]? = some 7 ∧ (y []).reread.contains 1 = false ∧ (y [1]).reread.contains 1 = true
       ∧ ((y []).sent.contains 1 = true ∧ (y []).parked = true))
    ∧ ((inPhase .compute).stPart 0 = some 0 ∧ ((inPhase .compute).part 0).hasEntry 0 = true
        ∧ ((inPhase .compute).part 0).hasEntry 1 = false) := by
  decide +kernel

/-- A parked page whose digest is kept agrees with it, whatever its bytes, and two digests do not agree with one page. -/
theorem witness_Reduction_digests (data : List Byte) :
    ([0, digest128 data] : List (BitVec 128))[1]? = some (digest128 data)
    ∧ ([0, digest128 data + 1] : List (BitVec 128))[1]? ≠ some (digest128 data) := by
  refine ⟨rfl, ?_⟩
  intro h
  have := Option.some.inj h
  bv_omega

theorem witness_SlowTier_missing :
    ([0, 1, 2].all fun c =>
      let s := (inPhase .compute).modOpage 0 0 1 fun y => y.setResid c .fetch
      (s.opage 0 0 1).resid c == .fetch && !(s.opage 0 0 1).missing.contains c) = true := by
  decide +kernel

theorem witness_HuskMirrors_pages :
    (mirror.mirrored 0 0 = [0, 1])
    ∧ ([Phase.compute, .commit, .flipWait].all fun ph => [([], []), ([0], []), ([], [1])].all fun q =>
        let s := (withPart mirror { (mirror.part 0) with phase := ph }).modKpart 0 0 fun y => { y with lacking := q.1, huskDue := q.2 }
        let b := s.took 3 3 2049
        (s.ctx 3).state == .opened
          && (b.herdPart 6 fun p x => x.phase ≠ .idle && x.step == 4 && (s.mirrored 0 p).contains 0) == some 0
          && (b.kpart 0 0).lacking.contains 0 == (q.1 == [0]) && (b.kpart 0 0).huskDue == q.2 && !(b.part 0).nullCommit) = true
    ∧ (let s := mirror
       let b := s.took 3 3 1
       let head := 4 + at' 40 6
       (b.herdPart 6 fun _ x => ([] : List Byte).length == bits head 95 64 && s.recordFor 3 x && s.recordStep x (bits head 39 0)
          && ((s.ctx 3).role ≠ 4 || bits head 50 48 == (s.ctx 3).partnerKpr)) = some 0
         ∧ (b.herdPart 6 fun _ x => s.recordFor 3 x && s.recordStep x (bits head 39 0)
            && (x.bucketDef (if (s.ctx 3).role = 4 then (s.ctx 3).partnerKpr else 0) (bits head 59 48)).isSome) = some 0
         ∧ b.recov.role ≠ .taking ∧ (b.part 0).replayKey = none) := by
  decide +kernel

theorem witness_Ports_selfFenced :
    (let s := rung.modPort 0 fun x => { x with state := .down }
     (s.port 0).state = .down ∧ s.recov.selfFenced = false
       ∧ (let t := { s with recov := { s.recov with selfFenced := true } }; (t.port 0).state = .down ∧ t.recov.selfFenced = true))
    ∧ ((rung.modPort 0 fun x => { x with enable := false }).port 0).enable = false := by
  decide +kernel

theorem witness_Takeover_answer :
    (let s := { takes 0 with recov := { (takes 0).recov with admitOn := some 3 } }
     let b := s.took 3 1 1
     (s.ctx 3).state = .opened ∧ b.recov.role = .taking ∧ b.recov.admitOn = some 3)
    ∧ ((takes 0).took 3 1 1).recov.admitOn ≠ some 3
    ∧ (let s := inPhase .reduce
       let s := { s with recov := { s.recov with replayCmd := some (0, 7), record := [(1, 0, [])] } }
       s.recov.record ≠ [] ∧ s.recov.replayCmd = some (0, 7)) := by
  decide +kernel

theorem witness_DataQueues_record :
    (let x := { demoPart with phase := .compute, step := 4, replayKey := some 9, recordMask := [255] }
     let s := ((withPart planned x).modDq 0 fun _ => { present := true, output := true, slots := 2 }).modDq 1 fun _ =>
       { present := true, slots := 2, prod := 1 }
     let held := { s with recov := { s.recov with record := (List.range 2).map fun i => (3, i, []) } }
     let e := ((s.part 0).inputStream 1).getD 0
     (s.part 0).inputStream 1 = some e ∧ s.recordHolds 0 e = false ∧ held.recordHolds 0 e = true
       ∧ ((s.dq 0).freeSlots ≠ 0 ∧ held.recov.record ≠ [] ∧ held.recordQueue 0 = some 0 ∧ (held.part 0).replayKey.isSome = true)) := by
  decide +kernel

theorem witness_FirmwareUpdate_flight :
    (let s := flying { rung with boot := { rung.boot with update := some ⟨.reading, 7, []⟩ } } 0x81 (at' 64 12288)
     s.boot.update = some ⟨.reading, 7, []⟩ ∧ (s.flight 7).isSome = true ∧ (imageFault s.fuses []).isSome = true)
    ∧ rung.boot.update = none := by
  decide +kernel

theorem witness_LastMissing :
    (rung.boot.stage ≠ .ready ∨ rung.idAssigned = false) ∧ linked.boot.stage = .ready ∧ linked.idAssigned = true
      ∧ linked.recov.selfFenced = false := by
  decide +kernel

end Sys2Proof.Tests
end

section
/-! SUPPORT. Rules of the accesses to BAR0 and of the ports' control bits: when an access crosses the mesh, which place a
write reaches, when a read waits, and what a port's ENABLE and RETRAIN do. -/

namespace Sys2Proof.Machine

/-! ### Accesses of BAR0 that cross the mesh (R138, R241) -/

theorem windowStation_outside (o : Nat) (h : ¬ (0x2000000 ≤ o ∧ o < 0x3000000)) : windowStation o = none := if_neg h

theorem windowStation_window (st k : Nat) (hst : st < 65536) (hk : k < 256) :
    windowStation (0x2000000 + 256 * st + k) = some st := by
  rw [windowStation, if_pos (by omega)]
  congr 1
  omega

theorem accessOk_window (st k : Nat) (hst : st < 65536) (hk : k < 256) (h8 : k % 8 = 0) :
    accessOk (0x2000000 + 256 * st + k) 8 = true :=
  decide_eq_true (by omega)

/-- An access to a place outside the station windows does not cross the mesh. -/
theorem State.overMesh_outside (s : State) (o size type : Nat) (h : ¬ (0x2000000 ≤ o ∧ o < 0x3000000)) :
    s.overMesh o size type = s := by
  simp only [State.overMesh, windowStation_outside o h]

/-- An access that is not served does not cross the mesh. -/
theorem State.overMesh_bad (s : State) (o size type : Nat) (h : accessOk o size = false) : s.overMesh o size type = s := by
  unfold State.overMesh
  split
  · rw [h, Bool.and_false, if_neg Bool.false_ne_true]
  · rfl

theorem State.overMesh_window (s : State) (st k type : Nat) (hst : stationOk st = true) (hlt : st < 65536) (hk : k < 256)
    (h8 : k % 8 = 0) : s.overMesh (0x2000000 + 256 * st + k) 8 type = s.emit (.access st (accessHeader st type)) := by
  simp only [State.overMesh, windowStation_window st k hlt hk, hst, accessOk_window st k hlt hk h8, Bool.and_self, if_true]

/-- A packet of the mesh changes the outputs alone. -/
theorem State.overMesh_same (s : State) (o size type : Nat) :
    s.overMesh o size type = { s with out := (s.overMesh o size type).out } := by
  unfold State.overMesh
  split
  · split <;> rfl
  · rfl

@[simp] theorem State.overMesh_beingFilled (s : State) (o size type : Nat) :
    (s.overMesh o size type).beingFilled = s.beingFilled := by
  rw [State.overMesh_same]; rfl

/-! ### Reads (R138, R456) -/

theorem State.readBar0_bad (s : State) (o size : Nat) (h : accessOk o size = false) :
    s.readBar0 o size = (0, s.modArb fun a => { a with badAccess := satAdd 8 a.badAccess 1 }) :=
  if_neg (of_decide_eq_false h)

/-- A read of a station that is being filled waits. -/
theorem State.readRegister_waits (s : State) (o size : Nat) (hs : s.cxlServed = true)
    (hf : (windowStation o).any s.beingFilled = true) :
    s.readRegister o size = (s.overMesh o size 0).modHost fun h => { h with reads := h.reads ++ [(o, size)] } := by
  simp only [State.readRegister, hs, Bool.true_eq_false, if_false, State.overMesh_beingFilled, hf, if_true]

/-- Any other read is answered at once. -/
theorem State.readRegister_answers (s : State) (o size : Nat) (hs : s.cxlServed = true)
    (hf : (windowStation o).any s.beingFilled = false) : s.readRegister o size = (s.overMesh o size 0).answerRead o size := by
  simp only [State.readRegister, hs, Bool.true_eq_false, if_false, State.overMesh_beingFilled, hf, Bool.false_eq_true]

theorem State.answerRead_bad (s : State) (o size : Nat) (h : accessOk o size = false) :
    s.answerRead o size = (s.modArb fun a => { a with badAccess := satAdd 8 a.badAccess 1 }).emit (.readData 0 false) := by
  simp only [State.answerRead, s.overMesh_bad o size 2 h, s.readBar0_bad o size h]

/-! ### Writes (R15, R456, R473) -/

theorem State.writeRegister_bad (s : State) (src : Source) (o size v : Nat) (hs : s.cxlServed = true)
    (h : accessOk o size = false) :
    s.writeRegister src o size v = s.modArb fun a => { a with badAccess := satAdd 8 a.badAccess 1 } := by
  simp only [State.writeRegister, hs, h, Bool.true_eq_false, Bool.false_eq_true, if_false]

/-- An aligned write of 8 bytes reaches its place with every bit. -/
theorem State.writeRegister_whole (s : State) (src : Source) (o : Nat) (v : BitVec 64) (hs : s.cxlServed = true)
    (h8 : o % 8 = 0) (ho : o < 0x4000000) :
    s.writeRegister src o 8 v.toNat
      = ((s.overMesh o 8 1).writePlace src o (2 ^ 64 - 1) v.toNat).overMesh o 8 3 := by
  have hok : accessOk o 8 = true := decide_eq_true ⟨.inr rfl, h8, ho⟩
  simp only [State.writeRegister, hs, hok, Bool.true_eq_false, if_false, if_true, h8, Nat.sub_zero, Nat.mul_zero,
    Nat.shiftLeft_zero, show 8 * 8 = 64 from rfl, Nat.mod_eq_of_lt v.isLt]

/-- A write of every bit leaves none of the old value. -/
theorem merge_whole (old v : Nat) : merge old (2 ^ 64 - 1) v = v := by
  rw [merge, Nat.xor_self, Nat.and_zero, Nat.zero_or]

theorem ofNat_bits (v : BitVec 64) (hi lo : Nat) :
    BitVec.ofNat (hi + 1 - lo) (bits v.toNat hi lo) = v.extractLsb' lo (hi + 1 - lo) :=
  BitVec.eq_of_toNat_eq (by simp [bits])

theorem State.writePlace_field (s : State) (src : Source) (f o m v : Nat) (hm : s.boot.mode ≠ 2) (hf : f < 64)
    (ho : o < 0x10000) : s.writePlace src (0x1000000 + o + 0x10000 * f) m v = s.writeField src f o m v := by
  have hfield : (0x1000000 + o + 0x10000 * f - 0x1000000) / 0x10000 = f := by omega
  have hoff : (0x1000000 + o + 0x10000 * f) % 0x10000 = o := by omega
  rw [State.writePlace, if_neg (fun h => hm h.1), if_neg (by omega), if_pos (by omega), hfield, hoff]

theorem State.writePlace_station (s : State) (src : Source) (st o m v : Nat) (hm : s.boot.mode ≠ 2) (hst : st < 65536)
    (ho : o < 256) : s.writePlace src (0x2000000 + 256 * st + o) m v = s.writeStation st o m v := by
  have hstation : (0x2000000 + 256 * st + o - 0x2000000) / 256 = st := by omega
  have hoff : (0x2000000 + 256 * st + o) % 256 = o := by omega
  rw [State.writePlace, if_neg (fun h => hm h.1), if_neg (by omega), if_neg (by omega), if_pos (by omega), hstation, hoff]

/-- A write of 8 bytes in a field's window. -/
theorem State.writeRegister_field (s : State) (src : Source) (f o : Nat) (v : BitVec 64) (hs : s.cxlServed = true)
    (hm : s.boot.mode ≠ 2) (hf : f < 64) (ho : o < 0x10000) (h8 : o % 8 = 0) :
    s.writeRegister src (0x1000000 + o + 0x10000 * f) 8 v.toNat = s.writeField src f o (2 ^ 64 - 1) v.toNat := by
  rw [s.writeRegister_whole src _ v hs (by omega) (by omega), State.overMesh_outside _ _ _ _ (by omega),
    State.overMesh_outside _ _ _ _ (by omega), s.writePlace_field src f o _ _ hm hf ho]

/-- A write of 8 bytes in a station's window crosses the mesh, and so does its answer. -/
theorem State.writeRegister_station (s : State) (src : Source) (st o : Nat) (v : BitVec 64) (hs : s.cxlServed = true)
    (hm : s.boot.mode ≠ 2) (hst : stationOk st = true) (hlt : st < 65536) (ho : o < 256) (h8 : o % 8 = 0) :
    s.writeRegister src (0x2000000 + 256 * st + o) 8 v.toNat
      = ((s.emit (.access st (accessHeader st 1))).writeStation st o (2 ^ 64 - 1) v.toNat).emit
          (.access st (accessHeader st 3)) := by
  rw [s.writeRegister_whole src _ v hs (by omega) (by omega), s.overMesh_window st o 1 hst hlt ho h8,
    State.writePlace_station (s.emit (.access st (accessHeader st 1))) src st o _ _ hm hlt ho,
    State.overMesh_window _ st o 3 hst hlt ho h8]

/-- R260, R473: the scrub control of a field takes the value from the holder of the field's lease. -/
theorem State.writeField_storeCtrl (s : State) (src : Source) (f : Nat) (v : BitVec 64) :
    s.writeField src f 0x210 (2 ^ 64 - 1) v.toNat = s.guarded (s.holds src (s.fieldLease f)) fun s =>
      s.modField f fun x => { x with scrubEn := v.getLsbD 0, scrubPeriod := v.extractLsb' 1 3 } := by
  have hperiod : BitVec.ofNat 3 (bits v.toNat 3 1) = v.extractLsb' 1 3 := ofNat_bits v 3 1
  simp only [State.writeField, merge_whole, hperiod]
  rfl

/-- R279: UNRECOVERABLE is cleared by a one. -/
theorem State.writeField_storeStatus (s : State) (src : Source) (f m : Nat) (v : BitVec 64) :
    s.writeField src f 0x200 m v.toNat
      = s.modField f fun x => { x with unrecoverable := x.unrecoverable && !v.getLsbD 17 } := rfl

/-- R159: the stream selection of a station takes the value. -/
theorem State.writeStation_streamSel (s : State) (st : Nat) (v : BitVec 64) (hst : stationOk st = true) :
    s.writeStation st 0x60 (2 ^ 64 - 1) v.toNat = s.modStation st fun y =>
      { y with streamSel := v.extractLsb' 0 16, streamDir := v.getLsbD 16 } := by
  have hsel : BitVec.ofNat 16 (bits v.toNat 15 0) = v.extractLsb' 0 16 := ofNat_bits v 15 0
  simp only [State.writeStation, hst, merge_whole, hsel]
  rfl

/-! ### Ports (R364, R365, R392, R435) -/

theorem State.portCtrl_absent (s : State) (src : Source) (p : Nat) (f : State → State) (h : s.portPresent p = false) :
    s.portCtrl src p f = s := if_pos (.inr (.inl h))

/-- A present port's control bits go to the holder of the Keeper's lease. -/
theorem State.portCtrl_present (s : State) (src : Source) (p : Nat) (f : State → State) (hs : s.cxlServed = true)
    (hm : s.boot.mode ≠ 2) (h : s.portPresent p = true) :
    s.portCtrl src p f = if s.holds src (8 + p / 8) then f s else s.refuseLease := by
  rw [State.portCtrl, if_neg]
  simp [hs, hm, h]

theorem State.startTraining_selfFenced (s : State) (p : Nat) (h : s.recov.selfFenced = true) : s.startTraining p = s :=
  if_pos h

theorem State.startTraining_notUp (s : State) (p : Nat) (hf : s.recov.selfFenced = false) (hup : (s.port p).state ≠ .up) :
    s.startTraining p = s.modPort p fun x => { x.cleared with state := .training, phase := 1 } := by
  simp only [State.startTraining, hf, hup, Bool.false_eq_true, if_false]

/-- A disabled port that is enabled trains from T1. -/
theorem State.portEnable_trains (s : State) (p : Nat) (hx : (s.port p).state = .disabled) (hf : s.recov.selfFenced = false) :
    s.portEnable p true
      = s.modPort p fun x => { { x with enable := true }.cleared with state := .training, phase := 1 } := by
  have hup : ((s.modPort p fun x => { x with enable := true }).port p).state ≠ .up := by
    rw [State.port_modPort_same, hx]; decide
  rw [State.portEnable, if_pos rfl]
  simp only [State.port_modPort_same, hx, if_true]
  rw [State.startTraining_notUp (s.modPort p _) p hf hup, State.modPort_modPort]

/-- A port that is not disabled, or is one of a self-fenced module, starts no training when it is enabled. -/
theorem State.portEnable_stays (s : State) (p : Nat) (h : (s.port p).state ≠ .disabled ∨ s.recov.selfFenced = true) :
    s.portEnable p true = s.modPort p fun x => { x with enable := true } := by
  simp only [State.portEnable, if_true, State.port_modPort_same]
  split
  · next hdis => exact State.startTraining_selfFenced _ p (h.resolve_left (not_not_intro hdis))
  · rfl

theorem State.portEnable_off (s : State) (p : Nat) (hup : (s.port p).state ≠ .up) :
    s.portEnable p false = s.modPort p fun x =>
      { x.cleared with enable := false, retrain := false, state := .disabled, phase := 0, stalled := false } := by
  simp only [State.portEnable, Bool.false_eq_true, if_false, hup]
  rfl

theorem State.portRetrain_disabled (s : State) (p : Nat) (he : (s.port p).enable = false) : s.portRetrain p = s := by
  rw [State.portRetrain, he, if_neg Bool.false_ne_true]

theorem State.portRetrain_trains (s : State) (p : Nat) (he : (s.port p).enable = true) (hup : (s.port p).state ≠ .up)
    (hf : s.recov.selfFenced = false) :
    s.portRetrain p = s.modPort p fun x => { x.cleared with state := .training, phase := 1, retrain := true } := by
  rw [State.portRetrain, if_pos he, s.startTraining_notUp p hf hup, State.modPort_modPort]

/-! ### The rows that access registers and ports -/

theorem exec_registerWrite (src : Source) (o size : Nat) (v : BitVec 64) (s : State) :
    exec (.registerWrite src o size v) s = .next (s.writeRegister src o size v.toNat) := rfl

theorem exec_registerReadClear (src : Source) (o size : Nat) (s : State) :
    exec (.registerReadClear src o size) s = .next (s.readRegister o size) := rfl

theorem exec_stationWindowRead (st offset : Nat) (s : State) (hst : st < 65536) (ho : offset < 256) :
    exec (.stationWindowRead st offset) s = .next (s.readRegister (0x2000000 + 256 * st + offset / 8 * 8) 8) :=
  congrArg _ (if_pos ⟨hst, ho⟩)

theorem exec_mlvPortEnable (src : Source) (p : Nat) (on : Bool) (s : State) :
    exec (.mlvPortEnable src p on) s = .next (s.portCtrl src p fun s => s.portEnable p on) := rfl

theorem exec_retrain (src : Source) (p : Nat) (s : State) :
    exec (.retrain src p) s = .next (s.portCtrl src p fun s => s.portRetrain p) := rfl

/-- A read that no fill holds is answered, its two packets crossing the mesh first. -/
theorem exec_registerReadClear_answers (s : State) (src : Source) (o size : Nat) (hs : s.cxlServed = true)
    (hf : (windowStation o).any s.beingFilled = false) :
    let a := (s.overMesh o size 0).overMesh o size 2
    exec (.registerReadClear src o size) s = .next ((a.readBar0 o size).2.emit (.readData (a.readBar0 o size).1 false)) := by
  rw [exec_registerReadClear, s.readRegister_answers o size hs hf]
  rfl

/-- R456: an access of another size or alignment counts in BAD_ACCESS and does nothing else. -/
theorem exec_badAccess (s : State) (src : Source) (o size : Nat) (v : BitVec 64) (hs : s.cxlServed = true)
    (hbad : ¬ ((size = 4 ∨ size = 8) ∧ o % size = 0 ∧ o < 0x4000000)) (hf : (windowStation o).any s.beingFilled = false) :
    let b := s.modArb fun a => { a with badAccess := satAdd 8 a.badAccess 1 }
    exec (.registerWrite src o size v) s = .next b
      ∧ exec (.registerReadClear src o size) s = .next (b.emit (.readData 0 false)) := by
  have hno : accessOk o size = false := decide_eq_false hbad
  constructor
  · rw [exec_registerWrite, s.writeRegister_bad src o size _ hs hno]
  · rw [exec_registerReadClear, s.readRegister_answers o size hs hf, s.overMesh_bad o size 0 hno, s.answerRead_bad o size hno]

/-- R279, R473: the writable registers of a field's store. -/
theorem exec_registerWrite_field (s : State) (src : Source) (v : BitVec 64) (f : Nat) (hs : s.cxlServed = true) (hf : f < 64)
    (hm : s.boot.mode ≠ 2) :
    (s.holds src (s.fieldLease f) = false →
        exec (.registerWrite src (0x1000210 + 0x10000 * f) 8 v) s = .next s.refuseLease)
      ∧ (s.holds src (s.fieldLease f) = true → exec (.registerWrite src (0x1000210 + 0x10000 * f) 8 v) s
        = .next (s.modField f fun x => { x with scrubEn := v.getLsbD 0, scrubPeriod := v.extractLsb' 1 3 }))
      ∧ exec (.registerWrite src (0x1000200 + 0x10000 * f) 8 v) s
        = .next (s.modField f fun x => { x with unrecoverable := x.unrecoverable && !v.getLsbD 17 }) := by
  have hctrl : s.writeRegister src (0x1000210 + 0x10000 * f) 8 v.toNat = s.writeField src f 0x210 (2 ^ 64 - 1) v.toNat :=
    s.writeRegister_field src f 0x210 v hs hm hf (by decide) rfl
  have hstatus : s.writeRegister src (0x1000200 + 0x10000 * f) 8 v.toNat = s.writeField src f 0x200 (2 ^ 64 - 1) v.toNat :=
    s.writeRegister_field src f 0x200 v hs hm hf (by decide) rfl
  refine ⟨fun hl => ?_, fun hl => ?_, ?_⟩
  · rw [exec_registerWrite, hctrl, s.writeField_storeCtrl src f v, State.guarded, hl, if_neg Bool.false_ne_true]
  · rw [exec_registerWrite, hctrl, s.writeField_storeCtrl src f v, State.guarded, hl, if_pos rfl]
  · rw [exec_registerWrite, hstatus, s.writeField_storeStatus src f _ v]

/-- R138, R159, R241: a write and a read of a station's window. -/
theorem exec_stationWindow (s : State) (src : Source) (v : BitVec 64) (st : Nat) (hs : s.cxlServed = true) (hlt : st < 65536)
    (hst : stationOk st = true) (hm : s.boot.mode ≠ 2) :
    let packet (type : Nat) (s : State) : State := s.emit (.access st (accessHeader st type))
    exec (.registerWrite src (0x2000060 + 256 * st) 8 v) s = .next (packet 3 ((packet 1 s).modStation st fun y =>
      { y with streamSel := v.extractLsb' 0 16, streamDir := v.getLsbD 16 }))
    ∧ (∀ offset, offset < 256 →
        (s.beingFilled st = true → exec (.stationWindowRead st offset) s = .next ((packet 0 s).modHost fun h =>
          { h with reads := h.reads ++ [(0x2000000 + 256 * st + offset / 8 * 8, 8)] }))
        ∧ (s.beingFilled st = false → exec (.stationWindowRead st offset) s
          = .next (((packet 2 (packet 0 s)).readBar0 (0x2000000 + 256 * st + offset / 8 * 8) 8).2.emit
            (.readData ((packet 2 (packet 0 s)).readBar0 (0x2000000 + 256 * st + offset / 8 * 8) 8).1 false)))) := by
  intro packet
  refine ⟨?_, fun offset ho => ?_⟩
  · rw [exec_registerWrite, show 0x2000060 + 256 * st = 0x2000000 + 256 * st + 0x60 by omega,
      s.writeRegister_station src st 0x60 v hs hm hst hlt (by decide) rfl, State.writeStation_streamSel _ st v hst]
  · have hk : offset / 8 * 8 < 256 := by omega
    have hmesh (u : State) (type : Nat) : u.overMesh (0x2000000 + 256 * st + offset / 8 * 8) 8 type = packet type u :=
      u.overMesh_window st _ type hst hlt hk (by omega)
    have hfill : (windowStation (0x2000000 + 256 * st + offset / 8 * 8)).any s.beingFilled = s.beingFilled st := by
      rw [windowStation_window st _ hlt hk]; rfl
    rw [exec_stationWindowRead st offset s hlt ho]
    refine ⟨fun hb => ?_, fun hb => ?_⟩
    · rw [s.readRegister_waits _ 8 hs (hfill.trans hb), hmesh]
    · rw [s.readRegister_answers _ 8 hs (hfill.trans hb), State.answerRead, hmesh, hmesh]

/-- R364, R365, R392: the control bits of a present port act for the holder of the Keeper's lease. -/
theorem exec_portControl (s : State) (src : Source) (p : Nat) (hs : s.cxlServed = true) (hm : s.boot.mode ≠ 2)
    (hp : s.portPresent p = true) :
    (∀ on, exec (.mlvPortEnable src p on) s
        = .next (if s.holds src (8 + p / 8) then s.portEnable p on else s.refuseLease))
      ∧ exec (.retrain src p) s = .next (if s.holds src (8 + p / 8) then s.portRetrain p else s.refuseLease) := by
  refine ⟨fun on => ?_, ?_⟩
  · rw [exec_mlvPortEnable, s.portCtrl_present src p _ hs hm hp]
  · rw [exec_retrain, s.portCtrl_present src p _ hs hm hp]

end Sys2Proof.Machine
end

section
/-! SUPPORT. Rules of the state after reset, and that every row and every step answers a next state. -/

namespace Sys2Proof.Machine

/-- R473: after reset partitions have no holder, the host holds the Keepers' leases, the enclosure manager the others. -/
theorem reset_holder (r : Nat) (h : r < 18) : State.reset.holder r = if r < 8 then 0 else if r < 16 then 1 else 2 := by
  decide +revert

theorem reset_ring (q : Nat) : State.reset.ring q = {} := rfl

theorem reset_station (st : Nat) : State.reset.station st = {} := rfl

theorem reset_memoryWf : State.reset.memoryWf = true := rfl

/-- Each row's meaning is the next state that it answers with. -/
theorem exec_completes (c : Instr) (s : State) : ∃ t, exec c s = .next t := by
  cases c <;> exact ⟨_, rfl⟩

/-- A step idles, or carries out the front of the queue. -/
theorem step_completes (s : State) : ∃ t, step s = .next t := by
  unfold step
  cases s.pending with
  | nil => exact ⟨idleTick s, rfl⟩
  | cons c rest => exact exec_completes c _

end Sys2Proof.Machine
end

section
/-! The statements about the scope of the model: registers and ports, reset, and completion. -/

namespace Sys2Proof.Machine

/-- Settles O46: accesses by the rules of windows and leases, port control by whether the port is present and its lease held. -/
theorem registersAndPorts : Obligations.RegistersAndPorts := by
  unfold Obligations.RegistersAndPorts
  refine ⟨fun s src o size v hs => ⟨?bad, ?field, ?station, ?read⟩, fun s src port hs hm => ⟨?absent, ?refused, ?held⟩⟩
  case bad => exact fun hbad hf => exec_badAccess s src o size v hs hbad hf
  case field => exact fun f hf hm => exec_registerWrite_field s src v f hs hf hm
  case station => exact fun st hlt hst hm => exec_stationWindow s src v st hs hlt hst hm
  case read => exact fun hf => exec_registerReadClear_answers s src o size hs hf
  case absent =>
    intro hp
    refine ⟨fun on => ?_, ?_⟩
    · rw [exec_mlvPortEnable, s.portCtrl_absent src port _ hp]
    · rw [exec_retrain, s.portCtrl_absent src port _ hp]
  case refused =>
    intro hp hl
    have hctrl := exec_portControl s src port hs hm hp
    simpa only [hl, Bool.false_eq_true, if_false] using hctrl
  case held =>
    intro hp hl
    obtain ⟨henable, hretrain⟩ := exec_portControl s src port hs hm hp
    simp only [hl, if_true] at henable hretrain
    refine ⟨fun hx hf => ?_, fun h => ?_, fun hup => ?_, fun he => ?_, fun he hup hf => ?_⟩
    · rw [henable, s.portEnable_trains port hx hf]
    · rw [henable, s.portEnable_stays port h]
    · rw [henable, s.portEnable_off port hup]
    · rw [hretrain, s.portRetrain_disabled port he]
    · rw [hretrain, s.portRetrain_trains port he hup hf]

/-- Settles O57: every table of the state starts empty, so each reads its default. -/
theorem resetValues : Obligations.ResetValues := by
  unfold Obligations.ResetValues
  refine ⟨rfl, rfl, rfl, rfl, rfl, rfl, rfl, rfl, reset_holder, fun q => ?_, rfl, rfl, rfl, fun st _ => reset_station st, rfl,
    rfl, rfl, rfl, reset_memoryWf⟩
  rw [reset_ring]

/-- Settles O58: by the rows' meanings, and by the front of the queue. -/
theorem everyCommandCompletes : Obligations.EveryCommandCompletes := ⟨exec_completes, step_completes⟩

end Sys2Proof.Machine
end

section
/-! SUPPORT. What messages, accepted commands and changes of a Keeper's part leave alone. -/

namespace Sys2Proof.Machine

/-- A fold keeps what each of its steps keeps. -/
theorem foldl_keeps {α β : Type} (part : State → β) (f : State → α → State) (hf : ∀ s a, part (f s a) = part s)
    (l : List α) (s : State) : part (l.foldl f s) = part s := by
  induction l generalizing s with
  | nil => rfl
  | cons a l ih => rw [List.foldl_cons, ih, hf]

/-! ### Messages (R384, R385) -/

/-- A port that sends its cells changes itself and the outputs. -/
theorem State.pumpPort_same (p n : Nat) (s : State) :
    State.pumpPort p n s = { s with mlv := (State.pumpPort p n s).mlv, out := (State.pumpPort p n s).out } := by
  induction n generalizing s with
  | zero => rfl
  | succ n ih =>
    unfold State.pumpPort
    dsimp only
    split
    · rfl
    · split
      · rfl
      · exact ih _

theorem State.dealTo_same (s : State) (p : Nat) (c : TxCell) :
    s.dealTo p c = { s with mlv := (s.dealTo p c).mlv, out := (s.dealTo p c).out } := by
  unfold State.dealTo
  exact State.pumpPort_same _ _ _

theorem State.pumpCtx_same (i cls n : Nat) (s : State) :
    State.pumpCtx i cls n s = { s with mlv := (State.pumpCtx i cls n s).mlv, out := (State.pumpCtx i cls n s).out } := by
  induction n generalizing s with
  | zero => rfl
  | succ n ih =>
    unfold State.pumpCtx
    dsimp only
    split
    · split
      · rw [ih, State.dealTo_same]; rfl
      · rfl
    · rfl

/-- A message changes the links and the outputs alone. -/
theorem State.send_same (s : State) (i cls msg : Nat) (head : List Byte) (pay : Bool) (data : List Byte) :
    s.send i cls msg head pay data
      = { s with mlv := (s.send i cls msg head pay data).mlv, out := (s.send i cls msg head pay data).out } := by
  unfold State.send State.pump
  rw [State.pumpCtx_same]
  rfl

theorem State.toBuddy_same (s : State) (k msg : Nat) (head data : List Byte) :
    s.toBuddy k msg head data = { s with mlv := (s.toBuddy k msg head data).mlv, out := (s.toBuddy k msg head data).out } := by
  unfold State.toBuddy
  split
  · split
    · exact s.send_same _ _ _ _ _ _
    · rfl
  · rfl

/-! ### Messages that arrive (R381, R390) -/

/-- Taking a message's cells leaves the Keeper of its context. -/
theorem State.took_ctxKpr (s : State) (i cls n : Nat) : ((s.took i cls n).ctx i).kpr = (s.ctx i).kpr := by
  unfold State.took
  rw [State.ctx_modCtx_same]
  rfl

/-- A husk message on an OPENED context has its effect at the partition that it names. -/
theorem State.huskMessage_named (s : State) (i n head p : Nat) (ok : Nat → Nat → Part → Bool)
    (eff : State → Nat → Nat → State) (ho : (s.ctx i).state = .opened)
    (hp : (s.took i 3 n).herdPart (bits head 47 40) (ok (s.ctx i).kpr) = some p) :
    s.huskMessage i n head ok eff = eff (s.took i 3 n) (s.ctx i).kpr p := by
  simp only [State.huskMessage, ho, hp, ne_eq, not_true_eq_false, if_false]

/-- A husk message on an OPENED context that names no partition is an error of the message. -/
theorem State.huskMessage_unnamed (s : State) (i n head : Nat) (ok : Nat → Nat → Part → Bool)
    (eff : State → Nat → Nat → State) (ho : (s.ctx i).state = .opened)
    (hp : (s.took i 3 n).herdPart (bits head 47 40) (ok (s.ctx i).kpr) = none) :
    s.huskMessage i n head ok eff = (s.took i 3 n).msgError i := by
  simp only [State.huskMessage, ho, hp, ne_eq, not_true_eq_false, if_false]

/-! ### A Keeper's part and its pages -/

@[simp] theorem State.kpart_modKpart_same (s : State) (k p : Nat) (f : KprPart → KprPart) :
    (s.modKpart k p f).kpart k p = f (s.kpart k p) := by
  unfold State.kpart State.modKpart
  rw [State.kpr_modKpr_same]
  exact sget_sset_same _ _ _ _

theorem State.opage_modKpart (s : State) (k p g : Nat) (f : KprPart → KprPart) :
    (s.modKpart k p f).opage k p g = (f (s.kpart k p)).page g :=
  congrArg (KprPart.page · g) (s.kpart_modKpart_same k p f)

@[simp] theorem State.opage_modOpage_same (s : State) (k p g : Nat) (f : OwnedPage → OwnedPage) :
    (s.modOpage k p g f).opage k p g = f (s.opage k p g) := by
  unfold State.modOpage
  rw [State.opage_modKpart]
  exact sget_sset_same _ _ _ _

/-- A change of a Keeper that leaves its partitions leaves each of them. -/
theorem State.kpart_modKpr (s : State) (k p : Nat) (f : Kpr → Kpr) (h : ∀ y, (f y).part p = y.part p) :
    (s.modKpr k f).kpart k p = s.kpart k p := by
  unfold State.kpart
  rw [State.kpr_modKpr_same, h]

theorem State.pagesReduced_modKpart (s : State) (k p : Nat) (f : KprPart → KprPart) :
    ((s.modKpart k p f).kpr k).pagesReduced = (s.kpr k).pagesReduced := by
  unfold State.modKpart
  rw [State.kpr_modKpr_same]
  rfl

theorem State.eachKpr_part (s : State) (p q : Nat) (f : KprPart → KprPart) : (s.eachKpr p f).part q = s.part q :=
  foldl_keeps (fun s => s.part q) (fun s k => s.modKpart k p f) (fun _ _ => rfl) _ s

/-! ### Accepted commands (R458) -/

@[simp] theorem State.began_part (s : State) (c : Packet) (p : Nat) : (s.began c).part p = s.part p := by
  rw [State.began_same]; rfl

theorem State.began_selfRank (s : State) (c : Packet) (p : Nat) : (s.began c).selfRank p = s.selfRank p := by
  rw [State.began_same]; rfl

theorem State.began_heldNamed (s : State) (c : Packet) (n : Nat) : (s.began c).heldNamed n = s.heldNamed n := by
  rw [State.began_same]; rfl

/-- Accepting a command of the host or of the port posts its completion and puts it in flight. -/
theorem State.accept_same (s : State) (c : Cmd) (k : Nat) (h : c.packet.src ≠ .peer) :
    s.accept c k = { s with host := (s.accept c k).host, out := (s.accept c k).out, arb := (s.accept c k).arb } := by
  unfold State.accept
  rw [s.reply_same true _ c k _ h]

theorem State.accept_part (s : State) (c : Cmd) (k p : Nat) (h : c.packet.src ≠ .peer) :
    (s.accept c k).part p = s.part p := by
  rw [s.accept_same c k h]; rfl

theorem State.accept_selfRank (s : State) (c : Cmd) (k p : Nat) (h : c.packet.src ≠ .peer) :
    (s.accept c k).selfRank p = s.selfRank p := by
  rw [s.accept_same c k h]; rfl

end Sys2Proof.Machine
end

section
/-! SUPPORT. Rules of the tiles, credits and responses that reach a station, and of its watchdog (R156, R157, R158, R180, R183,
R235). -/

namespace Sys2Proof.Machine

/-! ### Places in a sequence (R157) -/

theorem seqAhead_same (w e : Nat) (he : e < 2 ^ w) : seqAhead w e e = 0 := by
  rw [seqAhead, Nat.mod_eq_of_lt he, Nat.add_sub_cancel_left, Nat.mod_self]

/-- A newer number lies ahead by its distance. -/
theorem seqAhead_newer (w e x : Nat) (h : e < x) (hx : x < 2 ^ w) : seqAhead w e x = x - e := by
  rw [seqAhead, Nat.mod_eq_of_lt (h.trans hx), show x + 2 ^ w - e = x - e + 2 ^ w by omega, Nat.add_mod_right,
    Nat.mod_eq_of_lt (by omega)]

/-- An older number lies ahead by what its distance leaves of the range. -/
theorem seqAhead_older (w e x : Nat) (h : x < e) (he : e < 2 ^ w) : seqAhead w e x = 2 ^ w - (e - x) := by
  rw [seqAhead, Nat.mod_eq_of_lt he, Nat.mod_eq_of_lt (by omega)]
  omega

/-! ### What a write to a bank leaves at the stations (R274) -/

/-- A change of a station that leaves its core leaves the core of every station. -/
theorem State.core_modStation (s : State) (i st : Nat) (f : Station → Station) (hf : ∀ y, (f y).core = y.core) :
    ((s.modStation i f).station st).core = (s.station st).core := by
  rw [State.station_modStation]
  split
  · next h => rw [h, hf]
  · rfl

/-- Serving the requests held at a bank leaves every core. -/
theorem State.serveHeld_core (s : State) (owner st : Nat) :
    ((s.serveHeld owner).station st).core = (s.station st).core := by
  unfold State.serveHeld
  dsimp only
  split
  · rfl
  · refine foldl_keeps (fun s => (s.station st).core) _ (fun s h => ?_) _ s
    split
    · rfl
    · split
      · rfl
      · simp only [State.emit_others]
        rw [State.core_modStation _ _ _ _ ?_]
        · rfl
        · exact fun _ => rfl

theorem State.writeBank_core (s : State) (owner off st : Nat) (data : List Byte) :
    ((s.writeBank owner off data).station st).core = (s.station st).core := by
  unfold State.writeBank
  dsimp only
  split
  · rfl
  · exact State.serveHeld_core _ owner st

theorem State.writeRing_core (s : State) (p st e seq : Nat) (data : List Byte) :
    ((s.writeRing p st e seq data).station st).core = (s.station st).core := by
  unfold State.writeRing
  split
  · exact State.writeBank_core _ _ _ _ _
  · rfl

/-! ### Tiles (R157, R158, R183) -/

@[simp] theorem State.station_modCore_same (s : State) (st : Nat) (f : Core → Core) :
    ((s.modCore st f).station st).core = f (s.station st).core :=
  congrArg Station.core (s.station_modStation_same st _)

theorem Core.inb_modIn_same (c : Core) (id : Nat) (f : StreamEnd → StreamEnd) :
    sget {} (c.modIn id f).inb id = f (sget {} c.inb id) := sget_sset_same _ _ _ _

theorem State.fenced_modCore (s : State) (st : Nat) (f : Core → Core) :
    ((s.modCore st f).station st).fenced = (s.station st).fenced := by
  unfold State.modCore
  rw [State.station_modStation_same]

/-- The state in which a tile of the expected number has come into ring and buffer. -/
def State.tileKept (s : State) (p st e id seq : Nat) (data : List Byte) : State :=
  (s.writeRing p st e seq data).modCore st fun c => c.modIn id fun i =>
    { i with seq := (i.seq + 1) % 2 ^ 48, buffer := i.buffer ++ [data], ring := i.ring ++ [data] }

theorem State.tileKept_ring (s : State) (p st e id seq : Nat) (data : List Byte) :
    (sget {} ((s.tileKept p st e id seq data).station st).core.inb id).ring.length
      = (sget {} (s.station st).core.inb id).ring.length + 1 := by
  unfold State.tileKept
  rw [State.station_modCore_same, Core.inb_modIn_same, State.writeRing_core]
  exact List.length_append

/-- R183: a ring that an accepted tile brings to RING − CREDITS holds credits and starts an interim shadow, but in a fenced
core. -/
theorem State.acceptTile_cases (s : State) (p st e : Nat) (data : List Byte) :
    let id := bits e 15 0
    let cur := sget {} (s.station st).core.inb id
    let t := s.tileKept p st e id cur.seq data
    s.acceptTile p st e data =
      if sdRing e - sdCredits e ≤ cur.ring.length + 1 ∧ (s.station st).fenced = false then
        (t.modCore st fun c => c.modIn id fun i => { i with ringHold := true }).modStation st Station.startInterim
      else t.startLambs p st := by
  intro id cur t
  rw [← s.tileKept_ring p st e id cur.seq data]
  rfl

/-- The inbound stream of a station with an identifier. -/
def Part.inboundStream (x : Part) (st id : Nat) : Option Nat :=
  (x.sec 0x06).find? fun e => bits e 15 0 == id && x.inbound st e

theorem Part.inboundStream_id (x : Part) (st id e : Nat) (h : x.inboundStream st id = some e) : bits e 15 0 = id := by
  have hkeys := List.find?_some h
  rw [Bool.and_eq_true, beq_iff_eq] at hkeys
  exact hkeys.1

/-- R157: an error of a stream stops its station, which notes the stream. -/
def State.stopStream (s : State) (st code id : Nat) : State :=
  (s.stationError st code).modStation st fun y => { y with errStream := id }

section StreamTile

variable (s : State) {st p id seq e : Nat} {data : List Byte}

/-- R157: a tile of a stream that does not end at the station is an error. -/
theorem State.streamTile_unknown (hst : s.stPart st = some p) (h : ((s.takeReplay st).part p).inboundStream st id = none) :
    s.streamTile st id seq data = (s.takeReplay st).stopStream st 2 id := by
  have hst' : (s.takeReplay st).stPart st = some p := by rw [State.takeReplay_stPart]; exact hst
  unfold Part.inboundStream at h
  simp only [State.streamTile, hst', h]
  rfl

/-- R157: so is one of another size. -/
theorem State.streamTile_size (hst : s.stPart st = some p) (h : ((s.takeReplay st).part p).inboundStream st id = some e)
    (hlen : data.length ≠ (streamSpace e).bytes) : s.streamTile st id seq data = (s.takeReplay st).stopStream st 2 id := by
  have hst' : (s.takeReplay st).stPart st = some p := by rw [State.takeReplay_stPart]; exact hst
  unfold Part.inboundStream at h
  simp only [State.streamTile, hst', h]
  exact if_pos hlen

/-- R26: a mule's tile does not come before the pages that it needs. -/
theorem State.streamTile_muleWaits (hst : s.stPart st = some p) (h : ((s.takeReplay st).part p).inboundStream st id = some e)
    (hlen : data.length = (streamSpace e).bytes) (hm : sdSrcKind e = 2) (hw : (s.takeReplay st).muleTile p st e seq = none) :
    s.streamTile st id seq data = s.takeReplay st := by
  have hst' : (s.takeReplay st).stPart st = some p := by rw [State.takeReplay_stPart]; exact hst
  unfold Part.inboundStream at h
  simp only [State.streamTile, hst', h, hlen, hm, hw, ne_eq, not_true_eq_false, if_true, if_false]

/-- R157: any other tile is accepted, dropped with its credit returned, or an error, by its place in the sequence. -/
theorem State.streamTile_placed (hst : s.stPart st = some p) (h : ((s.takeReplay st).part p).inboundStream st id = some e)
    (hlen : data.length = (streamSpace e).bytes) (hm : sdSrcKind e ≠ 2) :
    let t := s.takeReplay st
    let d := seqAhead 48 (sget {} (t.station st).core.inb id).seq seq
    let dup := t.modCore st fun c => c.modIn id fun i => { i with dup := true }
    s.streamTile st id seq data =
      if d = 0 then t.acceptTile p st e data
      else if 2 ^ 47 ≤ d then (if (t.station st).fenced then dup else dup.emitCredit st id 1)
      else t.stopStream st 1 id := by
  intro t d dup
  have hst' : (s.takeReplay st).stPart st = some p := by rw [State.takeReplay_stPart]; exact hst
  have hf : (dup.station st).fenced = (t.station st).fenced := t.fenced_modCore st _
  rw [← hf]
  unfold Part.inboundStream at h
  simp only [State.streamTile, hst', h, hlen, hm, ne_eq, not_true_eq_false, if_false]
  rfl

end StreamTile

/-! ### Credits (R156, R235) -/

/-- R156: credits of a stream's destination return to its sender; waiting tiles go out. -/
theorem State.creditsBack_sender (s : State) (st p id dest n e : Nat) (hst : s.stPart st = some p)
    (hs : (s.part p).stream id = some e) (hd : sdDstKind e ≠ 3 ∨ dest = 0x20000) :
    let b := s.modCore st fun c => c.modOut id fun o => { o with used := sset 0 o.used dest (sget 0 o.used dest - n) }
    s.creditsBack st id dest n = State.sendTiles p st e ((sget {} (b.station st).core.outb id).unsent.length) b := by
  have htree : ¬ (sdDstKind e = 3 ∧ dest ≠ 0x20000) := fun h => hd.elim (fun h3 => h3 h.1) h.2
  simp only [State.creditsBack, State.creditReturn, hst, hs, htree, Option.bind_some, if_false]

/-- R235: credits of a tree's destination return to its root node, which combines on. -/
theorem State.creditsBack_root (s : State) (st p id dest n e q : Nat) (hst : s.stPart st = some p)
    (hs : (s.part p).stream id = some e) (hk : sdDstKind e = 3) (hd : dest ≠ 0x20000)
    (hq : ((s.part p).treeNodes (sdTree e)).find? (fun q => q.testBit 28) = some q) :
    s.creditsBack st id dest n
      = (s.modNode (nodeIdx p (sdTree e) (bits q 23 8)) fun t => { t with used := t.used - n }).combineFrom
          p (sdTree e) e (bits q 23 8) := by
  simp only [State.creditsBack, hst, hs, hk, hd, hq, ne_eq, not_false_eq_true, and_self, Option.bind_some, Option.map_some, if_true]

/-! ### The watchdog (R180, R274) -/

/-- An operation that runs trips its station's watchdog, unless that is suspended. -/
theorem State.execWatchdog_running (s : State) (st id : Nat) (e : OpEntry) (he : (s.station st).core.entry id = some e)
    (hi : e.issued = true) (hy : e.yielded = false) :
    execWatchdog st id s = .next (if (s.station st).watchdogOff = false then s.stationError st 3 else s) := by
  simp only [execWatchdog, he, hi, hy, true_and]

/-! ### The rows of a station's arrivals -/

theorem exec_streamTile (st id seq : Nat) (data : List Byte) (s : State) :
    exec (.streamTile st id seq data) s = .next (s.streamTile st id seq data) := rfl

theorem exec_creditReturn (st id dest n : Nat) (s : State) :
    exec (.creditReturn st id dest n) s = .next (s.creditsBack st id dest n) := rfl

theorem exec_watchdog (st id : Nat) (s : State) : exec (.watchdog st id) s = execWatchdog st id s := rfl

end Sys2Proof.Machine
end

section
/-! SUPPORT. Rules of slices, of requests for them, of maxima, and of the end of a page's reduction at its Keeper (R77, R306,
R317 to R322, R346). -/

namespace Sys2Proof.Machine

/-! ### Slices (R317, R318, R440) -/

/-- A slice already added or held is discarded. -/
theorem State.takeSlice_repeat (s : State) (k p g rank : Nat) (data : List Byte)
    (h : rank < (s.opage k p g).reduction.next ∨ (s.opage k p g).reduction.complete = true
      ∨ ((s.opage k p g).reduction.heldSlices.any fun h => h.1 == rank) = true) : s.takeSlice k p g rank data = s :=
  if_pos h

/-- The slice of the rank that comes next joins its page's reduction. -/
theorem State.takeSlice_next (s : State) (k p g rank : Nat) (data : List Byte)
    (hr : rank = (s.opage k p g).reduction.next) (hc : (s.opage k p g).reduction.complete = false)
    (hh : ((s.opage k p g).reduction.heldSlices.any fun h => h.1 == rank) = false) :
    s.takeSlice k p g rank data = (s.modOpage k p g fun y =>
      { y with reduction := { y.reduction with
        heldSlices := sset [] y.reduction.heldSlices rank data } }).runReduction k p g := by
  simp only [State.takeSlice, hc, hh, ← hr, lt_self_iff_false, Bool.false_eq_true, or_self, if_false]

/-- R317, R390: the fields of a SLICE agree with a partition. -/
def State.sliceFits (s : State) (i head : Nat) (data : List Byte) (x : Part) : Bool :=
  x.reduceStep (bits head 39 0) && x.rankOf (s.ctx i).partner == some (bits head 99 88)
    && (x.gradPages s.selfId (s.ctx i).kpr).contains (bits head 87 60)
    && ((x.bucketOfPage (bits head 87 60)).any fun c => bkNum c == bits head 59 48) && data.length == 2 ^ 20

section SliceArrives

variable (s : State) {i head p : Nat} {data : List Byte}

/-- R390: a SLICE that fits no partition is an error of the message. -/
theorem State.sliceArrives_unfit (ho : (s.ctx i).state = .opened)
    (hn : ((s.took i 0 2049).herdPart (bits head 47 40) fun _ => (s.took i 0 2049).sliceFits i head data) = none) :
    s.sliceArrives i head data = (s.took i 0 2049).msgError i := by
  unfold State.sliceFits at hn
  rw [s.took_ctxKpr] at hn
  rw [State.sliceArrives]
  dsimp only
  rw [if_neg (not_not_intro ho), hn]

/-- R318: a SLICE that fits is taken; one before its turn has its credits withheld where there is no room. -/
theorem State.sliceArrives_fits (ho : (s.ctx i).state = .opened)
    (hp : ((s.took i 0 2049).herdPart (bits head 47 40) fun _ => (s.took i 0 2049).sliceFits i head data) = some p) :
    let rank := bits head 99 88
    let b := s.took i 0 2049
    let r := (b.opage (s.ctx i).kpr p (bits head 87 60)).reduction
    let t := b.takeSlice (s.ctx i).kpr p (bits head 87 60) rank data
    s.sliceArrives i head data =
      if r.next < rank ∧ r.complete = false ∧ (r.heldSlices.any fun h => h.1 == rank) = false then
        t.withholdSlice i (s.ctx i).kpr
      else t := by
  unfold State.sliceFits at hp
  rw [s.took_ctxKpr] at hp
  rw [State.sliceArrives]
  dsimp only
  rw [if_neg (not_not_intro ho), hp]
  simp only [Bool.and_eq_true, decide_eq_true_eq, Bool.not_eq_true', and_assoc]

end SliceArrives

/-! ### Requests for slices (R306, R322, R346) -/

/-- R390: the fields of a SLICE_REQ agree with a partition. -/
def State.requestFits (s : State) (k head p : Nat) (x : Part) : Bool :=
  x.reduceStep (bits head 39 0) && bits head 99 88 == s.selfRank p
    && ((x.bucketOfPage (bits head 87 60)).any fun c => bkNum c == bits head 59 48 && bits c 18 16 == k)

/-- R346, R439: a slice that has been sent is sent again, from its image or, where that is parked, once it is read back. -/
theorem State.sliceRequested_fits (s : State) (i head p d : Nat) (ho : (s.ctx i).state = .opened)
    (hp : (s.took i 1 1).herdPart (bits head 47 40) ((s.took i 1 1).requestFits (s.ctx i).kpr head) = some p)
    (hd : (s.part p).bucketOfPage (bits head 87 60) = some d) :
    let g := bits head 87 60
    let k := (s.ctx i).kpr
    let b := s.took i 1 1
    let y := (b.kpart k p).bucket (bkNum d)
    s.sliceRequested i head =
      if y.sent.contains g = false then b
      else if y.parked then b.readParked k p (bkNum d) g i
      else b.send i 0 0x10 (sliceHead (b.part p).step (b.part p).herdId (bkNum d) g (b.selfRank p)) true
        (y.page (g - bkFirstPage d)) := by
  have hd' : ((s.took i 1 1).part p).bucketOfPage (bits head 87 60) = some d := hd
  unfold State.requestFits at hp
  rw [State.sliceRequested]
  dsimp only
  rw [if_neg (not_not_intro ho), hp]
  dsimp only
  rw [hd']

/-- R322: the read of page `g` of a parked image has ended, and with it what asked for it. -/
def State.readBackEnds (s : State) (port k p b g : Nat) : State :=
  (s.transferEnded port ⟨k, p, g, 3, false⟩).modKpart k p fun z => z.modBucket b fun y =>
    { y with resend := y.resend.filter fun r => r.2 ≠ g, reread := y.reread.filter (· ≠ g) }

/-- A page of a parked image for which nothing asks is passed over. -/
theorem State.parkedPage_unasked (s : State) (k p g d : Nat) (data : List Byte) (hd : (s.part p).bucketOfPage g = some d)
    (hr : (((s.kpart k p).bucket (bkNum d)).resend.filter fun r => r.2 == g) = []) : s.parkedPage k p g data = s := by
  simp only [State.parkedPage, hd, hr, List.map_nil, if_true]

/-- R322: a page that agrees with its digest goes to the context that asked for it. -/
theorem State.parkedPage_agrees (s : State) (k p g d i : Nat) (data : List Byte) (hd : (s.part p).bucketOfPage g = some d)
    (hr : (((s.kpart k p).bucket (bkNum d)).resend.filter fun r => r.2 == g) = [(i, g)]) (hi : i < 0x1000)
    (hg : ((s.kpart k p).bucket (bkNum d)).parkDigest[g - bkFirstPage d]? = some (digest128 data)) :
    let b := s.readBackEnds (s.part p).parkPort k p (bkNum d) g
    s.parkedPage k p g data
      = b.send i 0 0x10 (sliceHead (s.part p).step (s.part p).herdId (bkNum d) g (b.selfRank p)) true data := by
  have hself : ¬ i = 0x1000 := Nat.ne_of_lt hi
  simp only [State.parkedPage, hd, hr, hg, List.map_cons, List.map_nil, State.forAll, List.foldl_cons, List.foldl_nil, hself,
    if_true, if_false, List.cons_ne_nil]
  rfl

/-- R306: a page that does not agree is read again, and is lost where that has been done. -/
theorem State.parkedPage_differs (s : State) (k p g d : Nat) (data : List Byte) (hd : (s.part p).bucketOfPage g = some d)
    (hr : (((s.kpart k p).bucket (bkNum d)).resend.filter fun r => r.2 == g) ≠ [])
    (hg : ((s.kpart k p).bucket (bkNum d)).parkDigest[g - bkFirstPage d]? ≠ some (digest128 data)) :
    let port := (s.part p).parkPort
    let fails := s.modKpr k fun z => { z with digestFails := satAdd 16 z.digestFails 1 }
    s.parkedPage k p g data =
      if ((s.kpart k p).bucket (bkNum d)).reread.contains g then
        (fails.readBackEnds port k p (bkNum d) g).modKpr k fun z => { z with lost := satAdd 16 z.lost 1 }
      else ((fails.modKpart k p fun z => z.modBucket (bkNum d) fun y => { y with reread := insertOnce g y.reread }).transferEnded
        port ⟨k, p, g, 3, false⟩).transfer port 4096 ⟨k, p, g, 3, false⟩ := by
  have hwho : ¬ ((((s.kpart k p).bucket (bkNum d)).resend.filter fun r => r.2 == g).map (·.1)) = [] := by
    rwa [List.map_eq_nil_iff]
  simp only [State.parkedPage, hd, hwho, hg, if_false]
  rfl

/-! ### Maxima (R77) -/

/-- R390: the fields of an AMAX agree with a partition. -/
def State.maximaFit (s : State) (k head : Nat) (x : Part) : Bool :=
  let n := bits head 55 48
  x.reduceStep (bits head 39 0) && 1 ≤ n && n ≤ 63
    && ((List.range n).map fun j => bits head (64 * j + 127) (64 * j + 64)).all fun e =>
      (s.scaleTensors x k).contains (bits e 9 0)

/-- R77, R385: the maxima of an AMAX that fits join those of the step. -/
theorem State.amaxArrives_fits (s : State) (i head p : Nat) (ho : (s.ctx i).state = .opened)
    (hp : ((s.took i 0 1).herdPart (bits head 47 40) fun _ => (s.took i 0 1).maximaFit (s.ctx i).kpr head) = some p) :
    s.amaxArrives i head = (s.took i 0 1).modPart p fun x =>
      ((List.range (bits head 55 48)).map fun j => bits head (64 * j + 127) (64 * j + 64)).foldl
        (fun x e => x.addAmax (bits e 9 0) (BitVec.ofNat 32 (bits e 63 32))) x := by
  unfold State.maximaFit at hp
  rw [State.amaxArrives]
  dsimp only at hp ⊢
  rw [if_neg (not_not_intro ho), hp]

/-- R390: an AMAX that fits no partition is an error of the message. -/
theorem State.amaxArrives_unfit (s : State) (i head : Nat) (ho : (s.ctx i).state = .opened)
    (hn : ((s.took i 0 1).herdPart (bits head 47 40) fun _ => (s.took i 0 1).maximaFit (s.ctx i).kpr head) = none) :
    s.amaxArrives i head = (s.took i 0 1).msgError i := by
  unfold State.maximaFit at hn
  rw [State.amaxArrives]
  dsimp only at hn ⊢
  rw [if_neg (not_not_intro ho), hn]

/-- R77: a report of a tensor without an entry is passed over. -/
theorem State.amaxReport_without (s : State) (st t p : Nat) (v : BitVec 32) (hst : s.stPart st = some p)
    (h : (s.part p).hasEntry t = false) : s.amaxReport st t v = s := by
  simp only [State.amaxReport, hst, h, if_true]

/-- R77: outside a measuring pass a report joins the maxima of the step. -/
theorem State.amaxReport_joins (s : State) (st t p : Nat) (v : BitVec 32) (hst : s.stPart st = some p)
    (h : (s.part p).hasEntry t = true) (hp : (s.part p).probing = false) :
    s.amaxReport st t v = s.modPart p fun x => x.addAmax t v := by
  simp only [State.amaxReport, hst, h, hp, Bool.true_eq_false, Bool.false_eq_true, if_false]

/-! ### The end of a page's reduction (R317 to R320, R33) -/

/-- R320: a page with its reduced gradient and the sum of its squares; its partial slot is free. -/
def OwnedPage.reduced (y : OwnedPage) (grad : Sparse Byte) : OwnedPage :=
  { y with
    grad := some grad, sumSq := pageSum grad
    reduction := { y.reduction with slot := false, staged := true, partialSum := [] } }

/-- R320, R33: a reduced page is kept at its Keeper, and a nonfinite one is noted. -/
def State.keepGradient (s : State) (k p g : Nat) (grad : Sparse Byte) (bad : Bool) : State :=
  let s := s.modOpage k p g fun y => y.reduced grad
  let s := s.modKpr k fun y => { y with pagesReduced := satAdd 24 y.pagesReduced 1 }
  if bad || (fp64.decode (pageSum grad).toNat).special then s.modKpart k p fun y => { y with nonfinite := true } else s

/-- R320: with its last page the Keeper's sum of squares is formed. -/
def State.sumPages (s : State) (k p : Nat) : State :=
  if s.reductionDone k p then
    s.modKpart k p fun y => { y with sumSq := sum64 (((s.part p).gradPages s.selfId k).map fun h => (y.page h).sumSq) }
  else s

/-- The page, by partition and number, whose rank-0 slice waits for a slot at a Keeper. -/
def State.slotWaiter (s : State) (k : Nat) : Option (Nat × Nat) :=
  (s.kpr k).parts.findSome? fun q =>
    (q.2.pages.find? fun h => !h.2.reduction.slot && h.2.reduction.next == 0 && !h.2.reduction.complete
      && h.2.reduction.heldSlices.any fun e => e.1 == 0).map fun h => (q.1, h.1)

/-- R320, R422: a reduced page is kept, goes to the buddy and joins the Keeper's sum. -/
def State.keepReduced (s : State) (k p g : Nat) (grad : Sparse Byte) (bad : Bool) : State :=
  ((s.keepGradient k p g grad bad).sendGrad k p g grad).sumPages k p

/-- The gradient that a page's partial sum is staged as, and whether it is nonfinite. -/
def State.reducedGrad (s : State) (k p g : Nat) : Sparse Byte × Bool :=
  stageGrad (s.part p).seed (s.part p).step (s.keyId p) g (s.opage k p g).reduction.partialSum

/-- R318: the slot that a reduced page frees goes to the page whose rank-0 slice waits. -/
def State.passSlot (s : State) (k : Nat) : State :=
  match s.slotWaiter k with
  | some (q, h) => s.runReduction k q h
  | none => s

theorem State.passSlot_cases (s : State) (k : Nat) : s.passSlot k = s ∨ ∃ q h, s.passSlot k = s.runReduction k q h := by
  unfold State.passSlot
  split
  · exact .inr ⟨_, _, rfl⟩
  · exact .inl rfl

theorem State.pageReduced_keeps (s : State) (k p g : Nat) (hrun : (s.part p).running = true)
    (hc : (s.opage k p g).reduction.complete = true) (hs : (s.opage k p g).reduction.staged = false) :
    s.pageReduced k p g
      = ((s.keepReduced k p g (s.reducedGrad k p g).1 (s.reducedGrad k p g).2).passSlot k).checkReduced p := by
  unfold State.pageReduced State.reducedGrad
  refine (if_neg ?_).trans ?_
  · simp only [hrun, hc, hs]; decide
  generalize stageGrad (s.part p).seed (s.part p).step (s.keyId p) g (s.opage k p g).reduction.partialSum = staged
  rfl

/-- Keeping the gradient changes its Keeper alone. -/
theorem State.keepGradient_part (s : State) (k p g q : Nat) (grad : Sparse Byte) (bad : Bool) :
    (s.keepGradient k p g grad bad).part q = s.part q := by
  unfold State.keepGradient
  dsimp only
  split <;> rfl

theorem State.sendGrad_part (s : State) (k p g q : Nat) (grad : Sparse Byte) : (s.sendGrad k p g grad).part q = s.part q := by
  unfold State.sendGrad
  rw [State.toBuddy_same]
  rfl

theorem State.sendGrad_kpr (s : State) (k p g j : Nat) (grad : Sparse Byte) : (s.sendGrad k p g grad).kpr j = s.kpr j := by
  unfold State.sendGrad
  rw [State.toBuddy_same]
  rfl

theorem State.sumPages_part (s : State) (k p q : Nat) : (s.sumPages k p).part q = s.part q := by
  unfold State.sumPages
  split <;> rfl

/-- Forming the sum leaves the Keeper's pages, its counts and its NONFINITE. -/
theorem State.sumPages_keeps (s : State) (k p g : Nat) :
    (s.sumPages k p).opage k p g = s.opage k p g
      ∧ ((s.sumPages k p).kpr k).pagesReduced = (s.kpr k).pagesReduced
      ∧ ((s.sumPages k p).kpart k p).nonfinite = (s.kpart k p).nonfinite := by
  unfold State.sumPages
  split
  · refine ⟨?_, State.pagesReduced_modKpart _ _ _ _, ?_⟩
    · rw [State.opage_modKpart]; rfl
    · rw [State.kpart_modKpart_same]
  · exact ⟨rfl, rfl, rfl⟩

/-- What keeping the gradient writes. -/
theorem State.keepGradient_keeps (s : State) (k p g : Nat) (grad : Sparse Byte) (bad : Bool) :
    let b := s.keepGradient k p g grad bad
    b.opage k p g = (s.opage k p g).reduced grad ∧ (b.kpr k).pagesReduced = satAdd 24 (s.kpr k).pagesReduced 1
      ∧ (bad = true → (b.kpart k p).nonfinite = true) := by
  let t := s.modOpage k p g fun y => y.reduced grad
  let u := t.modKpr k fun y => { y with pagesReduced := satAdd 24 y.pagesReduced 1 }
  have hpage : u.opage k p g = (s.opage k p g).reduced grad := by
    rw [← s.opage_modOpage_same k p g fun y => y.reduced grad]
    exact congrArg (KprPart.page · g) (t.kpart_modKpr k p _ fun _ => rfl)
  have hcount : (u.kpr k).pagesReduced = satAdd 24 (s.kpr k).pagesReduced 1 := by
    rw [← s.pagesReduced_modKpart k p fun y => y.modPage g fun y => y.reduced grad]
    exact congrArg Kpr.pagesReduced (t.kpr_modKpr_same k _)
  intro b
  have hb : b = if bad || (fp64.decode (pageSum grad).toNat).special then u.modKpart k p fun y => { y with nonfinite := true }
      else u := rfl
  cases hbad : bad || (fp64.decode (pageSum grad).toNat).special with
  | true =>
    rw [hb, hbad, if_pos rfl, State.opage_modKpart, State.pagesReduced_modKpart, State.kpart_modKpart_same]
    exact ⟨hpage, hcount, fun _ => rfl⟩
  | false =>
    rw [hb, hbad, if_neg Bool.false_ne_true]
    exact ⟨hpage, hcount, fun h => by simp [h] at hbad⟩

/-- A reduced page that has been kept, sent and summed stands at its Keeper, and the partition is as before. -/
theorem State.keepReduced_keeps (s : State) (k p g : Nat) (grad : Sparse Byte) (bad : Bool) :
    let b := s.keepReduced k p g grad bad
    b.opage k p g = (s.opage k p g).reduced grad ∧ (b.kpr k).pagesReduced = satAdd 24 (s.kpr k).pagesReduced 1
      ∧ (bad = true → (b.kpart k p).nonfinite = true) ∧ b.part p = s.part p := by
  intro b
  obtain ⟨hpage, hcount, hnon⟩ := s.keepGradient_keeps k p g grad bad
  obtain ⟨spage, scount, snon⟩ := ((s.keepGradient k p g grad bad).sendGrad k p g grad).sumPages_keeps k p g
  have hk := (s.keepGradient k p g grad bad).sendGrad_kpr k p g k grad
  refine ⟨?_, ?_, ?_, ?_⟩
  · exact spage.trans ((congrArg (fun y => (y.part p).page g) hk).trans hpage)
  · exact scount.trans ((congrArg Kpr.pagesReduced hk).trans hcount)
  · exact fun h => snon.trans ((congrArg (fun y => (y.part p).nonfinite) hk).trans (hnon h))
  · exact (State.sumPages_part _ _ _ _).trans ((State.sendGrad_part _ _ _ _ _ _).trans (State.keepGradient_part _ _ _ _ _ _ _))

/-! ### The rows of a reduction -/

theorem exec_sliceHead (i head : Nat) (data : List Byte) (s : State) :
    exec (.sliceHead i head data) s = .next (s.sliceArrives i head data) := rfl

theorem exec_sliceReq (i head : Nat) (s : State) : exec (.sliceReq i head) s = .next (s.sliceRequested i head) := rfl

/-- R322: component 3 is a page of a parked image. -/
theorem exec_slowFetchComplete_parked (k p g : Nat) (data : List Byte) (s : State) :
    exec (.slowFetchComplete k p g 3 data) s = .next (s.parkedPage k p g data) := rfl

theorem exec_amax (i head : Nat) (s : State) : exec (.amax i head) s = .next (s.amaxArrives i head) := rfl

/-- R77: a station reports to the Keeper of its field row. -/
theorem exec_amaxReport_ownRow (st t : Nat) (v : BitVec 32) (s : State) :
    exec (.amaxReport st (fieldRow (stField st)) t v) s = .next (s.amaxReport st t v) :=
  congrArg _ (if_pos (.inl rfl))

theorem exec_pageReduced (k p g : Nat) (s : State) : exec (.pageReduced k p g) s = .next (s.pageReduced k p g) := rfl

end Sys2Proof.Machine
end

section
/-! SUPPORT. Rules of the commands of a step, of compute and eval, and of the ends of a step (R21, R31, R39, R147, R348 to R354). -/

namespace Sys2Proof.Machine

/-! ### Eval windows and choices (R147, R354) -/

/-- R147: the close of an open window reaches the stations where it is staged, and waits for the staging else. -/
theorem State.evalClose_window (s : State) (p : Nat) (w : EvalWindow) (hw : (s.part p).eval = some w) :
    let b := s.modPart p fun x => { x with eval := some { w with closing := true } }
    s.evalClose p = if w.staged then b.forAll (b.part p).planStations fun s st => s.closePass p st else b := by
  simp only [State.evalClose, hw]

/-- A choice of the host does not change the module's rank. -/
theorem State.choose_posts (s : State) (p choice : Nat) :
    s.choose p choice = State.post applyChoice (s.modPart p fun x => { x with choice := choice }) p 3
      (some ⟨s.selfRank p, false, choice, 0⟩) := by
  have hrank : (s.modPart p fun x => { x with choice := choice }).selfRank p = s.selfRank p := by
    unfold State.selfRank
    rw [State.part_modPart_same]
    rfl
  rw [State.choose, hrank]

/-- R354: an accepted choice is posted in a round of the herd. -/
theorem runCommand_choice (op choice : Nat) (hr : catRow op = some (choiceRow op choice)) (c : Packet) (s : State)
    (h : Passes (choiceRow op choice) c s) (hsrc : c.src ≠ .peer) :
    runCommand op c s = State.post applyChoice
      (((s.began c).accept ⟨op, c⟩ (s.csnOf c)).modPart (parP c.n) fun x => { x with choice := choice }) (parP c.n) 3
      (some ⟨s.selfRank (parP c.n), false, choice, 0⟩) := by
  refine (runCommand_passes (choiceRow op choice) hr c s h).trans ?_
  change ((s.began c).accept ⟨op, c⟩ (s.csnOf c)).choose (parP c.n) choice = _
  rw [State.choose_posts, State.accept_selfRank _ _ _ _ hsrc, State.began_selfRank]

/-! ### Compute and eval windows (R37 to R39) -/

/-- R39: compute starts in a gathering partition without a window once its records and a first page have come. -/
theorem State.execComputeStart_due (s : State) (p : Nat) (hphase : (s.part p).phase = .gather) (heval : (s.part p).eval = none)
    (hreplay : (s.part p).replayKey = none ∨ s.recov.replayWait = [])
    (hstage : (s.part p).stagePages = []
      ∨ ((s.part p).stagePages.any fun g => (s.part p).current false (s.part p).step g) = true) :
    execComputeStart p s = .next (s.computeStart p) :=
  congrArg _ (if_pos ⟨hphase, heval, hreplay, hstage⟩)

/-- R37: a gathered window completes EVAL_OPEN; it is gone where its close has come, else the stations run EVAL. -/
theorem State.execEvalStaged_gathered (s : State) (p : Nat) (w : EvalWindow) (hw : (s.part p).eval = some w)
    (hs : w.staged = false) (hg : (s.part p).gathered true w.version = true) :
    let t := s.finalAll 0x31 p {}
    let b := (t.offRoutes p).modPart p fun x => { x with eval := some { w with staged := true } }
    execEvalStaged p s = .next (
      if w.closing then ((t.modPart p fun x => { x with eval := none, evalStaged := [] }).finalAll 0x32 p {}).settle p
      else b.forAll (b.part p).planStations fun s st =>
        (s.modStation st fun y => { y with evalClosed := ((b.part p).script st .eval).isEmpty }).modCore st fun c =>
          (b.part p).startEval st c) := by
  simp only [execEvalStaged, hw, hs, hg, Bool.false_eq_true, Bool.true_eq_false, or_self, if_false]

/-! ### COMMIT_RESUME (R348, R350) -/

/-- Without an extension no slot's area grows. -/
theorem State.extendSpill_none (s : State) (n : Nat) (h : bits n 159 128 = 0) : s.extendSpill n = s := if_pos h

/-- R348: a held Keeper without the spill records that its page needs refuses the command. -/
theorem State.commitResume_short (s : State) (k : Nat) (c : Cmd) (hext : bits c.packet.n 159 128 = 0)
    (h : ((s.heldNamed c.packet.n).all fun j => s.spillEnough j (parP c.packet.n)) = false) :
    s.commitResume k c = s.finish c k { status := 0x5004 } := by
  simp only [State.commitResume, s.extendSpill_none _ hext, h, if_true]

/-- R350: with enough of them the named Keepers of a committing partition go on, and the shares are looked at. -/
theorem State.commitResume_enough (s : State) (k : Nat) (c : Cmd) (hext : bits c.packet.n 159 128 = 0)
    (h : ((s.heldNamed c.packet.n).all fun j => s.spillEnough j (parP c.packet.n)) = true)
    (hphase : ((s.accept c k).part (parP c.packet.n)).phase = .commit) :
    let b := (s.accept c k).modPart (parP c.packet.n) fun x => { x with phase := .commit, huskPending := true }
    s.commitResume k c
      = (b.forAll (s.heldNamed c.packet.n) fun s j => s.resumeKpr (parP c.packet.n) j).shares (parP c.packet.n) := by
  have hwaits : (Phase.commit == Phase.flipWait) = false := rfl
  simp only [State.commitResume, s.extendSpill_none _ hext, h, hphase, hwaits, Bool.true_eq_false, Bool.false_and,
    Bool.false_eq_true, if_false]

/-! ### The rows of a step -/

theorem exec_stepBegin (c : Packet) (s : State) : exec (.stepBegin c) s = .next (runCommand catStepBegin.opcode c s) := rfl

theorem exec_evalOpen (c : Packet) (s : State) : exec (.evalOpen c) s = .next (runCommand catEvalOpen.opcode c s) := rfl

theorem exec_evalClose (c : Packet) (s : State) : exec (.evalClose c) s = .next (runCommand catEvalClose.opcode c s) := rfl

theorem exec_skipStep (c : Packet) (s : State) : exec (.skipStep c) s = .next (runCommand catSkipStep.opcode c s) := rfl

theorem exec_replay (c : Packet) (s : State) : exec (.replay c) s = .next (runCommand catReplay.opcode c s) := rfl

theorem exec_commitResume (c : Packet) (s : State) :
    exec (.commitResume c) s = .next (runCommand catCommitResume.opcode c s) := rfl

theorem exec_computeStart (p : Nat) (s : State) : exec (.computeStart p) s = execComputeStart p s := rfl

theorem exec_evalStaged (p : Nat) (s : State) : exec (.evalStaged p) s = execEvalStaged p s := rfl

theorem exec_evalCloseDone (p : Nat) (s : State) : exec (.evalCloseDone p) s = execEvalCloseDone p s := rfl

theorem exec_stepFence (p : Nat) (s : State) : exec (.stepFence p) s = .next (s.stepFence p) := rfl

theorem exec_rollbackDone (p : Nat) (s : State) : exec (.rollbackDone p) s = .next (s.rollbackDone p) := rfl

end Sys2Proof.Machine
end

section
/-! SUPPORT. Rules of the messages that ask for pages and bring them (R27 to R29, R325, R428). -/

namespace Sys2Proof.Machine

/-- R390: the fields of a PAGE_REQ agree with a partition. -/
def State.pageReqFits (s : State) (k head p : Nat) (x : Part) : Bool :=
  (x.range (bits head 75 48)).any (fun e => prOwner e == s.selfId && prOwnerKpr e == k)
    && (x.named s.past (bits head 39 0) || bits head 39 0 == x.version + 1 || s.beforeK3 p)

/-- R27: a gather that fits is asked for at the owner. -/
theorem State.pageRequest_fits (s : State) (i head p : Nat) (ho : (s.ctx i).state = .opened)
    (hp : (s.took i 1 1).herdPart (bits head 47 40) ((s.took i 1 1).pageReqFits (s.ctx i).kpr head) = some p) :
    s.pageRequest i head = (s.took i 1 1).requestPage (s.ctx i).kpr p (bits head 75 48) (bits head 39 0) i := by
  unfold State.pageReqFits at hp
  rw [State.pageRequest]
  dsimp only
  rw [if_neg (not_not_intro ho), hp]

/-- R390: one that fits no partition is an error of the message. -/
theorem State.pageRequest_unfit (s : State) (i head : Nat) (ho : (s.ctx i).state = .opened)
    (hn : (s.took i 1 1).herdPart (bits head 47 40) ((s.took i 1 1).pageReqFits (s.ctx i).kpr head) = none) :
    s.pageRequest i head = (s.took i 1 1).msgError i := by
  unfold State.pageReqFits at hn
  rw [State.pageRequest]
  dsimp only
  rw [if_neg (not_not_intro ho), hn]

/-- A module without a standby configuration takes a PAGE message as a member. -/
theorem State.snoop_member (s : State) (i head : Nat) (data : List Byte) (h : s.recov.spare = none) :
    s.snoop i head data = s.pageArrives i head data := by
  simp only [State.snoop, h]

/-- R28, R38: a page of the stage is wanted at a version: the stage does not hold it at that version, and the running step, a
held one, or the open window reads it. -/
def Part.wantsPage (x : Part) (v g : Nat) (eval : Bool) : Bool :=
  !x.current eval v g &&
    (if eval then x.eval.any fun w => w.version == v
     else (v == x.step && x.phase ≠ .idle) || x.held.isSome && v == x.step + 1)

/-- R29, R325: a PAGE message of a page that is wanted, whole, is staged where its digest agrees; else it is counted and its page
gathered again for the first that wants it. -/
theorem State.pageArrives_wanted (s : State) (i head p : Nat) (data : List Byte) (ho : (s.ctx i).state = .opened)
    (hlen : data.length = 2 ^ 20 + 16384)
    (hp : ((s.took i 0 2081).herdPart (bits head 47 40) fun _ x => x.stagePages.contains (bits head 75 48)
      && (x.wantsPage (bits head 39 0) (bits head 75 48) false || x.wantsPage (bits head 39 0) (bits head 75 48) true)) = some p) :
    let v := bits head 39 0
    let g := bits head 75 48
    let b := s.took i 0 2081
    let evals := [false, true].filter ((b.part p).wantsPage v g)
    let w := writeBytes [] 0 (data.take (2 ^ 20))
    let e := writeBytes [] 0 (data.drop (2 ^ 20))
    s.pageArrives i head data =
      if digestW g v w e = BitVec.ofNat 128 (bits head 255 128) then
        b.forAll evals fun s ev => s.modPart p fun x => x.setStaged ev g
          { version := v, bytes := writeBytes [] 0 data, scales := x.arrivedScales g head }
      else
        (b.modKpr (((b.part p).range g).elim 0 prStageKpr) fun y => { y with stagedFails := satAdd 16 y.stagedFails 1 }).forAll
          (evals.take 1) fun s ev => s.gatherPage p ev g v := by
  unfold Part.wantsPage at hp ⊢
  unfold State.pageArrives
  dsimp only at hp ⊢
  rw [if_neg (not_not_intro ho), hp]
  dsimp only
  rw [if_neg (not_not_intro hlen)]
  cases ((s.took i 0 2081).part p).range (bits head 75 48) <;> rfl

/-! ### The rows of page messages -/

theorem exec_pageReq (i head : Nat) (s : State) : exec (.pageReq i head) s = .next (s.pageRequest i head) := rfl

theorem exec_pageHead (i head : Nat) (data : List Byte) (s : State) :
    exec (.pageHead i head data) s = .next (s.snoop i head data) := rfl

theorem exec_huskPull (i head : Nat) (s : State) :
    exec (.huskPull i head) s = .next (s.huskMessage i 1 head (fun _ _ x => (x.range (bits head 75 48)).isSome)
      fun s k p => s.servePull i k p (bits head 75 48) (bits head 103 76) (bits head 107 104)) := rfl

theorem exec_huskEnd (i head : Nat) (s : State) :
    exec (.huskEnd i head) s = .next (s.huskMessage i 1 head (fun _ _ _ => true) fun s _ _ => s.pullProgress) := rfl

end Sys2Proof.Machine
end

section
/-! The statements about the training step: its commands, compute and eval, the step fence and the rollback, the tiles of its
streams, the reduction of its gradients, and its pages. -/

namespace Sys2Proof.Machine

/-- Settles O23: a tile by its place in the sequence, credits by their destination, a running operation by its watchdog. -/
theorem streamArrivals : Obligations.StreamArrivals := by
  unfold Obligations.StreamArrivals
  refine ⟨?tile, ?others⟩
  case tile =>
    intro s0 st p id seq data hst s find stop cur
    refine ⟨?unknown, ?size, ?mule, ?placed⟩
    case unknown =>
      intro hn
      rw [exec_streamTile, s0.streamTile_unknown hst hn]
      rfl
    case size =>
      intro e he hlen
      rw [exec_streamTile, s0.streamTile_size hst he hlen]
      rfl
    case mule =>
      intro e he hlen hm hw
      rw [exec_streamTile, s0.streamTile_muleWaits hst he hlen hm hw]
    case placed =>
      intro e he hm hlen hcur hseq t dup
      have hid : bits e 15 0 = id := (s.part p).inboundStream_id st id e he
      have haccept := s.acceptTile_cases p st e data
      rw [hid] at haccept
      rw [exec_streamTile, s0.streamTile_placed hst he hlen hm]
      refine ⟨?room, ?full, ?older, ?newer⟩
      case room =>
        intro hs hroom
        have hsame : seqAhead 48 cur.seq seq = 0 := by rw [hs]; exact seqAhead_same 48 _ hcur
        rw [if_pos hsame, haccept, if_neg ?_, ← hs]
        · rfl
        · rintro ⟨hfull, hf⟩
          exact hroom.elim (fun h => absurd h (Nat.not_lt.2 hfull)) (fun h => absurd h (Bool.eq_false_iff.1 hf))
      case full =>
        intro hs hfull hf
        have hsame : seqAhead 48 cur.seq seq = 0 := by rw [hs]; exact seqAhead_same 48 _ hcur
        rw [if_pos hsame, haccept, if_pos ⟨hfull, hf⟩, ← hs]
        rfl
      case older =>
        intro hlt hle
        have holder : seqAhead 48 cur.seq seq = 2 ^ 48 - (cur.seq - seq) := seqAhead_older 48 _ _ hlt hcur
        rw [if_neg (by rw [holder]; omega), if_pos (by rw [holder]; omega)]
      case newer =>
        intro hlt hle
        have hnewer : seqAhead 48 cur.seq seq = seq - cur.seq := seqAhead_newer 48 _ _ hlt hseq
        rw [if_neg (by rw [hnewer]; omega), if_neg (by rw [hnewer]; omega)]
        rfl
  case others =>
    intro s st p hst
    refine ⟨?sender, ?root, fun owner region tile data => rfl, ?watchdog⟩
    case sender =>
      intro id dest n e hs hd
      rw [exec_creditReturn, s.creditsBack_sender st p id dest n e hst hs hd]
    case root =>
      intro id dest n e q hs hk hd hq
      rw [exec_creditReturn, s.creditsBack_root st p id dest n e q hst hs hk hd hq]
    case watchdog =>
      intro id e he hi hy
      rw [exec_watchdog, s.execWatchdog_running st id e he hi hy]
      refine ⟨fun hoff => ?_, fun hoff => ?_⟩
      · rw [if_pos hoff]
        rfl
      · rw [if_neg (by rw [hoff]; decide)]

/-- Settles O36: messages by whether their fields fit a partition, slices by their turn, a parked page by its digest, and the end
of a reduction by what each of its steps keeps. -/
theorem reduction : Obligations.Reduction := by
  unfold Obligations.Reduction
  refine ⟨?slice, ?asked, ?reduced⟩
  case slice =>
    intro s i head data ho g rank k b ok
    have hfits : (fun _ => b.sliceFits i head data) = ok := by
      unfold State.sliceFits
      rw [s.took_ctxKpr]
    refine ⟨?unfit, ?fits⟩
    case unfit =>
      intro hn
      rw [exec_sliceHead, s.sliceArrives_unfit ho (hfits ▸ hn)]
      rfl
    case fits =>
      intro p hp r
      rw [exec_sliceHead, s.sliceArrives_fits ho (hfits ▸ hp)]
      refine ⟨?again, ?next, ?early⟩
      case again =>
        intro hrep
        rw [if_neg ?_, b.takeSlice_repeat k p g rank data hrep]
        rintro ⟨hlater, hopen, hnew⟩
        rcases hrep with h | h | h
        · exact absurd h (Nat.lt_asymm hlater)
        · exact absurd h (Bool.eq_false_iff.1 hopen)
        · exact absurd h (Bool.eq_false_iff.1 hnew)
      case next =>
        intro hr hc hh
        rw [if_neg fun h => absurd hr.symm (Nat.ne_of_lt h.1), b.takeSlice_next k p g rank data hr hc hh]
      case early =>
        intro hr hc hh
        rw [if_pos ⟨hr, hc, hh⟩]
        rfl
  case asked =>
    intro s i head ho g k b ok
    refine ⟨?request, ?parked, ?maxima, ?without, ?report⟩
    case request =>
      intro p d hp hd y n
      rw [exec_sliceReq, s.sliceRequested_fits i head p d ho hp hd]
      refine ⟨fun hs hk => ?_, fun hs hk => ?_, fun hs => ?_⟩
      · rw [if_neg (by rw [hs]; decide), if_neg (by rw [hk]; decide)]
      · rw [if_neg (by rw [hs]; decide), if_pos hk]
      · rw [if_pos hs]
    case parked =>
      intro p d data hd y port done fails
      refine ⟨fun hr => ?_, fun hr hi => ⟨fun hg => ?_, fun hg => ?_⟩⟩
      · rw [exec_slowFetchComplete_parked, s.parkedPage_unasked k p g d data hd hr]
      · rw [exec_slowFetchComplete_parked, s.parkedPage_agrees k p g d i data hd hr hi hg]
        rfl
      · rw [exec_slowFetchComplete_parked, s.parkedPage_differs k p g d data hd (hr ▸ List.cons_ne_nil _ _) hg]
        refine ⟨fun hfirst => ?_, fun hsecond => ?_⟩
        · rw [if_neg (by rw [hfirst]; decide)]
        · rw [if_pos hsecond]
          rfl
    case maxima =>
      intro n entries c ok
      refine ⟨fun p hp => ?_, fun hn => ?_⟩
      · rw [exec_amax, s.amaxArrives_fits i head p ho hp]
      · rw [exec_amax, s.amaxArrives_unfit i head ho hn]
    case without =>
      intro st t v p hst h
      rw [exec_amaxReport_ownRow, s.amaxReport_without st t p v hst h]
    case report =>
      intro st t v p hst h hp
      rw [exec_amaxReport_ownRow, s.amaxReport_joins st t p v hst h hp]
      rfl
  case reduced =>
    intro s k p g x r
    refine ⟨fun h => ?_, fun hrun hc hs => ?_⟩
    · rw [exec_pageReduced, State.pageReduced, if_pos h]
    · obtain ⟨hpage, hcount, hbad, hpart⟩ := s.keepReduced_keeps k p g (s.reducedGrad k p g).1 (s.reducedGrad k p g).2
      have hnext := s.pageReduced_keeps k p g hrun hc hs
      generalize s.keepReduced k p g (s.reducedGrad k p g).1 (s.reducedGrad k p g).2 = b at hpage hcount hbad hpart hnext
      refine ⟨(b.passSlot k).checkReduced p, congrArg _ hnext, b, ?grad, ?sum, ?slot, hcount, hpart, hbad, b.passSlot k,
        b.passSlot_cases k, rfl⟩
      case grad => rw [hpage]; rfl
      case sum => rw [hpage]; rfl
      case slot => rw [hpage]; rfl

/-- Settles O12: each command that passes has its row's effect, and being carried out and accepted leaves partitions and rank. -/
theorem stepCommands : Obligations.StepCommands := by
  unfold Obligations.StepCommands
  refine ⟨?begin, ?windows, ?resume⟩
  case begin =>
    intro s c hc hsrc p
    rw [exec_stepBegin, runCommand_passes catStepBegin rfl c s hc]
    refine ⟨fun hidle => congrArg _ (if_pos ?_), fun hbusy => congrArg _ (if_neg ?_)⟩
    · rw [State.began_part]
      exact hidle
    · rw [State.began_part]
      exact hbusy
  case windows =>
    intro s c hsrc p k
    have hclose (w : EvalWindow) (hc : Passes catEvalClose c s) (hw : (s.part p).eval = some w) :=
      (runCommand_passes catEvalClose rfl c s hc).trans
        (State.evalClose_window ((s.began c).accept ⟨0x32, c⟩ k) p w
          (by rw [State.accept_part _ _ _ _ hsrc, State.began_part, hw]))
    refine ⟨fun hc => ?_, fun w hc hw hs => ?_, fun w hc hw hs => ?_, fun hc => ?_, fun hc => ?_⟩
    · rw [exec_evalOpen, runCommand_passes catEvalOpen rfl c s hc]
      rfl
    · rw [exec_evalClose, hclose w hc hw, if_neg (by rw [hs]; decide)]
    · rw [exec_evalClose, hclose w hc hw, if_pos hs]
      rfl
    · exact congrArg _ (runCommand_choice 0x33 1 rfl c s hc hsrc)
    · exact congrArg _ (runCommand_choice 0x34 2 rfl c s hc hsrc)
  case resume =>
    intro s c hc hsrc hext p ks
    have hnamed : (s.began c).heldNamed c.n = ks := s.began_heldNamed c c.n
    rw [exec_commitResume, runCommand_passes catCommitResume rfl c s hc]
    refine ⟨fun hshort => ?_, fun henough hphase => ?_⟩
    · rw [← hnamed] at hshort
      exact congrArg _ (State.commitResume_short _ _ _ hext hshort)
    · have hcommit : (((s.began c).accept ⟨0x35, c⟩ (s.csnOf c)).part p).phase = .commit := by
        rw [State.accept_part _ _ _ _ hsrc, State.began_part, hphase]
      rw [← hnamed] at henough ⊢
      exact congrArg _ (State.commitResume_enough _ _ ⟨0x35, c⟩ hext henough hcommit)

/-- Settles O17: the conditions of each row select its branch. -/
theorem computeAndEval : Obligations.ComputeAndEval := by
  unfold Obligations.ComputeAndEval
  refine ⟨?compute, ?window⟩
  case compute =>
    intro s0 p s x probe hphase heval hreplay hstage b
    rw [exec_computeStart, s0.execComputeStart_due p hphase heval hreplay hstage]
    rfl
  case window =>
    intro s p w hw
    refine ⟨?opens, ?abandoned, ?closes, ?stays⟩
    case opens =>
      intro hs hg hc
      rw [exec_evalStaged, s.execEvalStaged_gathered p w hw hs hg, if_neg (by rw [hc]; decide)]
      rfl
    case abandoned =>
      intro hs hg hc
      rw [exec_evalStaged, s.execEvalStaged_gathered p w hw hs hg, if_pos hc]
    case closes =>
      intro hs hc hall
      rw [exec_evalCloseDone, execEvalCloseDone]
      simp only [hw, hs, hc, hall, and_self, if_true]
      rfl
    case stays =>
      intro hs hc
      rw [exec_evalCloseDone, execEvalCloseDone]
      simp only [hw, hc, Bool.false_eq_true, false_and, if_false]

/-- Settles O18: the conditions of the fence and of the end of a rollback hold; the event names the partition's step, which the
Keepers' change leaves. -/
theorem fenceAndRollback : Obligations.FenceAndRollback := by
  unfold Obligations.FenceAndRollback
  refine ⟨?fence, ?rollback⟩
  case fence =>
    intro s p hphase hposted hrows
    rw [exec_stepFence, State.stepFence]
    dsimp only
    rw [if_neg (by simp only [hphase, hposted, hrows]; decide)]
    rfl
  case rollback =>
    intro s p cause x hphase hcause hpull hrest b
    simp only [x] at hphase hcause hpull hrest
    rw [exec_rollbackDone, State.rollbackDone]
    simp only [hcause, hphase, hpull, hrest, ne_eq, not_true_eq_false, Bool.false_eq_true, Bool.true_eq_false, or_self, if_false]
    refine ⟨fun hwb => ?_, fun hother => ?_⟩
    · rw [if_pos hwb, State.stepEvent, State.part_modPart_same, State.eachKpr_part]
      rfl
    · rw [if_neg hother]
      rfl

/-- Settles O38: messages by whether their fields fit a partition; of the stage's two copies the running step's alone wants the
page. -/
theorem pageMessages : Obligations.PageMessages := by
  unfold Obligations.PageMessages
  refine ⟨?messages, ?stage⟩
  case messages =>
    intro s i head data ho k herd g v b owns
    refine ⟨fun p hp => ?_, fun hn => ?_, fun hs => ?_, fun p hp => ?_, fun p hp => ?_, fun hn => ?_⟩
    · rw [exec_pageReq, s.pageRequest_fits i head p ho hp]
    · rw [exec_pageReq, s.pageRequest_unfit i head ho hn]
    · rw [exec_pageHead, s.snoop_member i head data hs]
    · rw [exec_huskPull, s.huskMessage_named i 1 head p _ _ ho hp]
    · rw [exec_huskEnd, s.huskMessage_named i 1 head p _ _ ho hp]
    · rw [exec_huskEnd, s.huskMessage_unnamed i 1 head _ _ ho hn]
  case stage =>
    intro s i head p data ho hs hlen v g b wants hp htrain heval good copy
    change (b.part p).wantsPage v g false = true at htrain
    change (b.part p).wantsPage v g true = false at heval
    have hevals : [false, true].filter ((b.part p).wantsPage v g) = [false] := by simp only [List.filter, htrain, heval]
    have harrives := s.pageArrives_wanted i head p data ho hlen hp
    dsimp only at harrives
    rw [hevals] at harrives
    rw [exec_pageHead, s.snoop_member i head data hs, harrives]
    refine ⟨fun hgood => ?_, fun hbad e he => ?_⟩
    · rw [if_pos hgood]
      rfl
    · rw [if_neg hbad, he]
      rfl

end Sys2Proof.Machine
end

section
/-! SUPPORT. Rules of the commands that read pages, move their components and change scale entries (R80, R303 to R305, R468). -/

namespace Sys2Proof.Machine

/-! ### Scale entries (R76, R80) -/

/-- Taking up a command leaves who keeps a scale entry. -/
@[simp] theorem State.began_scaleHere (s : State) (c : Packet) (p t : Nat) : (s.began c).scaleHere p t = s.scaleHere p t := by
  rw [State.began_same]; rfl

@[simp] theorem State.began_freeCtr (s : State) (c : Packet) : (s.began c).freeCtr = s.freeCtr := by
  rw [State.began_same]

/-- One more free value after the bytes read so far. -/
def drawMore (r : List Byte × State) : List Byte × State := (r.1 ++ leBytes 8 r.2.draw.1.toNat, r.2.draw.2)

/-- Free values drawn in a row are those of consecutive counts. -/
theorem foldl_drawMore (s : State) (m : Nat) :
    (List.range m).foldl (fun r _ => drawMore r) ([], s)
      = ((List.range m).flatMap fun i => leBytes 8 (Config.freeValue (s.freeCtr + i)).toNat, { s with freeCtr := s.freeCtr + m }) := by
  induction m with
  | zero => rfl
  | succ m ih =>
    rw [List.range_succ, List.foldl_append, ih, List.flatMap_append, List.flatMap_singleton]
    rfl

theorem State.scaleBytes_here (s : State) (p t : Nat) (h : s.scaleHere p t = true) :
    s.scaleBytes p t = ((sget {} (s.part p).scales t).encode, s) := if_pos h

/-- The bytes of an entry that another module keeps are free values (log entry 126). -/
theorem State.scaleBytes_elsewhere (s : State) (p t : Nat) (h : s.scaleHere p t = false) :
    s.scaleBytes p t
      = ((List.range 16).flatMap fun i => leBytes 8 (Config.freeValue (s.freeCtr + i)).toNat,
          { s with freeCtr := s.freeCtr + 16 }) :=
  (if_neg (by rw [h]; decide)).trans (foldl_drawMore s 16)

theorem State.hostData_host (s : State) (c : Packet) (addr : Nat) (data : List Byte) (h : c.src = .host) :
    s.hostData c addr data = s.emit (.hostWrite addr data) := by
  simp only [State.hostData, h]

/-- To the enclosure manager the data goes as a message of a free KIND (log entry 119). -/
theorem State.hostData_mgmt (s : State) (c : Packet) (addr : Nat) (data : List Byte) (h : c.src = .mgmt) :
    s.hostData c addr data
      = { s with freeCtr := s.freeCtr + 1 }.emit (.mgmtMsg ((Config.freeValue s.freeCtr).toNat % 256) c.tag data) := by
  simp only [State.hostData, h]
  rfl

/-- A command that changes one partition and completes leaves the other parts of the module. -/
theorem State.modPart_finish_others (s : State) (c : Packet) (p : Nat) (f : Part → Part) (d : Cmd) (k : Nat) (r : Res)
    (h : d.packet.src ≠ .peer) :
    let u := ((s.began c).modPart p f).finish d k r
    (∀ q, u.part q = (s.modPart p f).part q) ∧ u.kprs = s.kprs ∧ u.stations = s.stations ∧ u.store = s.store ∧ u.hbm = s.hbm := by
  dsimp only
  rw [State.finish_same _ _ _ _ h, s.began_same c]
  exact ⟨fun _ => rfl, rfl, rfl, rfl, rfl⟩

/-- R80: what SCALE_WRITE sets in an entry: FORMAT, MARGIN and POLICY. -/
def scaleSet (n : Nat) (e : ScaleEntry) : ScaleEntry :=
  { e with format := BitVec.ofNat 4 (bits n 16 13), margin := BitVec.ofNat 2 (bits n 18 17), policy := n.testBit 19 }

/-- R80: SCALE_WRITE's change of a partition, to entry `t`. -/
def Part.setScale (n t : Nat) (x : Part) : Part := { x with scales := smod {} x.scales t (scaleSet n) }

theorem Part.setScale_same (n t : Nat) (x : Part) : sget {} (x.setScale n t).scales t = scaleSet n (sget {} x.scales t) :=
  sget_sset_same _ _ _ _

theorem Part.setScale_other (n t j : Nat) (x : Part) (h : j ≠ t) : sget {} (x.setScale n t).scales j = sget {} x.scales j :=
  sget_sset_other _ _ _ _ _ h

/-! ### The rows -/

theorem exec_pageRead (c : Packet) (s : State) : exec (.pageRead c) s = .next (runCommand catPageRead.opcode c s) := rfl

theorem exec_tierFetch (c : Packet) (s : State) : exec (.tierFetch c) s = .next (runCommand catTierFetch.opcode c s) := rfl

theorem exec_tierEvict (c : Packet) (s : State) : exec (.tierEvict c) s = .next (runCommand catTierEvict.opcode c s) := rfl

/-- SCALE_WRITE changes an entry kept here, and nothing of one that another module keeps; both complete. -/
theorem exec_scaleWrite (c : Packet) (s : State) (hc : Passes catScaleWrite c s) :
    exec (.scaleWrite c) s
      = .next ((if s.scaleHere (parP c.n) (bits c.n 12 3) = false then s.began c
          else (s.began c).modPart (parP c.n) (Part.setScale c.n (bits c.n 12 3))).finish ⟨0x43, c⟩ (s.csnOf c) {}) := by
  rw [← s.began_scaleHere c]
  exact congrArg _ (runCommand_passes catScaleWrite rfl c s hc)

theorem exec_scaleWrite_here (c : Packet) (s : State) (hc : Passes catScaleWrite c s)
    (h : s.scaleHere (parP c.n) (bits c.n 12 3) = true) :
    exec (.scaleWrite c) s
      = .next (((s.began c).modPart (parP c.n) (Part.setScale c.n (bits c.n 12 3))).finish ⟨0x43, c⟩ (s.csnOf c) {}) := by
  rw [exec_scaleWrite c s hc, if_neg (by rw [h]; decide)]

theorem exec_scaleWrite_elsewhere (c : Packet) (s : State) (hc : Passes catScaleWrite c s)
    (h : s.scaleHere (parP c.n) (bits c.n 12 3) = false) :
    exec (.scaleWrite c) s = .next ((s.began c).finish ⟨0x43, c⟩ (s.csnOf c) {}) := by
  rw [exec_scaleWrite c s hc, if_pos h]

/-- SCALE_READ sends the bytes of its entry and completes. -/
theorem exec_scaleRead (c : Packet) (s : State) (hc : Passes catScaleRead c s) :
    let r := (s.began c).scaleBytes (parP c.n) (bits c.n 12 3)
    exec (.scaleRead c) s
      = .next ((r.2.hostData c (bits c.n 127 64) r.1).finish ⟨0x42, c⟩ (s.csnOf c) {}) :=
  congrArg _ (runCommand_passes catScaleRead rfl c s hc)

/-- An entry kept here is read as it stands. -/
theorem exec_scaleRead_here (c : Packet) (s : State) (hc : Passes catScaleRead c s)
    (h : s.scaleHere (parP c.n) (bits c.n 12 3) = true) :
    exec (.scaleRead c) s
      = .next (((s.began c).hostData c (bits c.n 127 64) (sget {} (s.part (parP c.n)).scales (bits c.n 12 3)).encode).finish
          ⟨0x42, c⟩ (s.csnOf c) {}) := by
  rw [exec_scaleRead c s hc, State.scaleBytes_here _ _ _ ((s.began_scaleHere c _ _).trans h), State.began_part]

/-- An entry that another module keeps is read as free values. -/
theorem exec_scaleRead_elsewhere (c : Packet) (s : State) (hc : Passes catScaleRead c s)
    (h : s.scaleHere (parP c.n) (bits c.n 12 3) = false) :
    exec (.scaleRead c) s
      = .next (({ s.began c with freeCtr := s.freeCtr + 16 }.hostData c (bits c.n 127 64)
          ((List.range 16).flatMap fun i => leBytes 8 (Config.freeValue (s.freeCtr + i)).toNat)).finish
            ⟨0x42, c⟩ (s.csnOf c) {}) := by
  rw [exec_scaleRead c s hc, State.scaleBytes_elsewhere _ _ _ ((s.began_scaleHere c _ _).trans h), State.began_freeCtr]

end Sys2Proof.Machine
end

section
/-! The statement about number formats: the commands that read pages, move their components, and read and write scale entries. -/

namespace Sys2Proof.Machine

/-- Settles O13: each command that passes has its row's effect; a scale entry is written, and read as itself, where this module
keeps it. -/
theorem pageAndScaleCommands : Obligations.PageAndScaleCommands := by
  unfold Obligations.PageAndScaleCommands
  refine ⟨?pages, ?scales⟩
  case pages =>
    intro s c _ p k pages
    refine ⟨fun hc => ?_, fun hc => ?_, fun hc => ?_⟩
    · rw [exec_pageRead, runCommand_passes catPageRead rfl c s hc]
      rfl
    · rw [exec_tierFetch, runCommand_passes catTierFetch rfl c s hc]
      rfl
    · rw [exec_tierEvict, runCommand_passes catTierEvict rfl c s hc]
      rfl
  case scales =>
    intro s c hsrc p t k
    refine ⟨fun hc h => ?written, exec_scaleWrite_elsewhere c s, fun hc h hhost => ?toHost, fun hc h hmgmt => ?toManager,
      fun hc h hhost => ?free⟩
    case written =>
      obtain ⟨hpart, hothers⟩ := s.modPart_finish_others c p (Part.setScale c.n t) ⟨0x43, c⟩ k {} hsrc
      refine ⟨((s.began c).modPart p (Part.setScale c.n t)).finish ⟨0x43, c⟩ k {},
        exec_scaleWrite_here c s hc h, ?entry, fun j hj => ?entries, fun q hq => ?parts, hothers⟩
      case entry =>
        rw [hpart, State.part_modPart_same, Part.setScale_same]
        rfl
      case entries =>
        rw [hpart, State.part_modPart_same, Part.setScale_other _ _ _ _ hj]
      case parts =>
        rw [hpart, State.part_modPart, if_neg hq]
    case toHost =>
      rw [exec_scaleRead_here c s hc h, State.hostData_host _ _ _ _ hhost]
      rfl
    case toManager =>
      rw [exec_scaleRead_here c s hc h, State.hostData_mgmt _ _ _ _ hmgmt, State.began_freeCtr]
      rfl
    case free =>
      rw [exec_scaleRead_elsewhere c s hc h, State.hostData_host _ _ _ _ hhost]

end Sys2Proof.Machine
end

section
/-! SUPPORT. A state in which a station's interim shadow serves another station's held read: R182 writes the resident block to
its image, the write clears a poisoned word of the image (R276), and the bank serves the read of it that it holds (R274). -/

namespace Sys2Proof.Machine

theorem exec_shadowComplete (st : Nat) (s : State) : exec (.shadowComplete st) s = .next (s.completeShadow st) := rfl

/-- The image region of station 0: KIND 0b01, with two tiles of 107 granules, one for each copy (R150, R151). -/
def imageRegion : Nat := 2 ^ 24 + 2 ^ 48 + 106 * 2 ^ 64

/-- A plan of stations 0 and 1. Station 0 owns accumulator tile 0, of one virtual block, with its image region; station 1 has
that region as its region 0. -/
def imagePlan : Plan :=
  { header := 0
    sections := [⟨0x01, 0, [2 ^ 160 + 2 ^ 288, 1 + 2 ^ 160]⟩, ⟨0x03, 0, [imageRegion]⟩, ⟨0x05, 0, [2 ^ 32]⟩]
    image := [] }

/-- Step 4 computes. Station 0 writes an interim shadow, and block 0 of its tile 0 is resident; word 0 of its bank, in the
block's image, is poisoned, and the bank holds station 1's read of that image. -/
def imageReadHeld : State :=
  let part : Part := { formed := true, rows := 1, plan := some imagePlan, phase := .compute, step := 4 }
  let s := { State.reset with parts := [(0, part)] }
  let s := (s.modBank (s.stBank 0) fun b => { b with poison := [0] }).holdReads 0 0 0 [(1, 0)]
  s.modStation 0 fun y => { y with writing := some { interim := true }, core := { y.core with resident := some (0, 0) } }

/-- Before: the image reads as uncorrectable, so that station 1's read is held and its watchdog suspended. -/
theorem imageReadHeld_holds :
    imageReadHeld.readTile 0 imageRegion 0 = none
      ∧ (imageReadHeld.bank (imageReadHeld.stBank 0)).heldReads = [(1, 0, 0)]
      ∧ (imageReadHeld.station 1).watchdogOff = true := by
  decide +kernel

/-- Station 0's shadow may complete, in a step and not in a measuring pass. -/
theorem imageReadHeld_mayComplete :
    imageReadHeld.stPart 0 = some 0 ∧ (imageReadHeld.part 0).probing = false
      ∧ ((imageReadHeld.takeReplay 0).station 0).writing = some { interim := true }
      ∧ ((imageReadHeld.takeReplay 0).station 0).mayComplete { interim := true } = true := by
  decide +kernel

/-- After: the bank holds no read, and station 1's watchdog runs again. -/
theorem imageReadHeld_served :
    let t := imageReadHeld.completeShadow 0
    (t.bank (t.stBank 0)).heldReads = [] ∧ (t.station 1).watchdogOff = false := by
  decide +kernel

end Sys2Proof.Machine
end

section
/-! The statement about the long accumulator: the shadows of a station. -/

namespace Sys2Proof.Machine

/-- Refutes O22: of its last clause, that a complete shadow leaves every other station as it was, `imageReadHeld` is a
counterexample. Station 0's shadow writes the resident block out, the bank then serves the read of it that station 1 waits for,
and R274's suspension of station 1's watchdog ends. -/
theorem not_shadows : ¬ Obligations.Shadows := by
  unfold Obligations.Shadows
  intro h
  obtain ⟨hpart, hprobing, hwriting, hmay⟩ := imageReadHeld_mayComplete
  obtain ⟨-, -, hsuspended⟩ := imageReadHeld_holds
  obtain ⟨-, hruns⟩ := imageReadHeld_served
  obtain ⟨-, -, -, hcomplete⟩ := h imageReadHeld 0 0 hpart
  obtain ⟨t, ht, -, -, -, -, -, -, -, hothers⟩ := hcomplete _ hwriting hmay
  obtain rfl : imageReadHeld.completeShadow 0 = t := by
    rw [exec_shadowComplete] at ht
    exact Host.Outcome.next.inj ht
  have hsame : (imageReadHeld.completeShadow 0).station 1 = imageReadHeld.station 1 := hothers hprobing 1 (by decide)
  rw [hsame, hsuspended] at hruns
  exact Bool.noConfusion hruns

end Sys2Proof.Machine
end

section
/-! SUPPORT. Rules of the operations of a station: what an operation that runs does (R172 to R174, R400), and the array that a
deferred TMUL leaves and takes again (R175). -/

namespace Sys2Proof.Machine

/-! ### Issue (R172, R173, R174) -/

/-- An operation that runs is marked issued and has its effect, the tiles of replay rings taken first. -/
theorem State.issue_runs (s : State) (st id code p : Nat) (e : OpEntry) (eff : State → Nat → OpEntry → State)
    (h : Runs (s.takeReplay st) st id code p e) :
    s.issue st id code eff = eff ((s.takeReplay st).issuing st id e) p e := by
  obtain ⟨⟨hpart, hentry, hcode, hmay, hgoes⟩, hskip, hbad, harrived⟩ := h
  simp only [State.issue, hpart, hentry, hcode, hmay, hgoes, hskip, hbad, harrived, ne_eq, not_true_eq_false,
    Bool.true_eq_false, Bool.false_eq_true, or_self, if_true, if_false]
  rfl

/-! ### What taking the tiles of replay rings leaves at the station (R400) -/

/-- What neither a change of the inbound ends nor the start of an interim shadow changes. -/
theorem State.takeReplay_keeps {β : Type} (part : Station → β) (s : State) (st : Nat)
    (hends : ∀ y ends, part { y with core := { y.core with inb := ends } } = part y)
    (hinterim : ∀ y, part y.startInterim = part y) :
    part ((s.takeReplay st).station st) = part (s.station st) := by
  unfold State.takeReplay
  split
  · rfl
  · refine foldl_keeps (fun s => part (s.station st)) _ (fun s id => ?_) _ s
    dsimp only
    split
    · rw [State.station_modStation_same, hinterim, State.modCore, State.station_modStation_same]
      exact hends _ _
    · rw [State.modCore, State.station_modStation_same]
      exact hends _ _

/-- The start of an interim shadow changes a station's `writing` alone. -/
theorem Station.startInterim_same (y : Station) : y.startInterim = { y with writing := y.startInterim.writing } := by
  unfold Station.startInterim
  split <;> rfl

theorem State.takeReplay_queue (s : State) (st : Nat) :
    ((s.takeReplay st).station st).core.queue = (s.station st).core.queue :=
  s.takeReplay_keeps (·.core.queue) st (fun _ _ => rfl) fun y => by rw [y.startInterim_same]

theorem State.takeReplay_posted (s : State) (st : Nat) : ((s.takeReplay st).station st).posted = (s.station st).posted :=
  s.takeReplay_keeps (·.posted) st (fun _ _ => rfl) fun y => by rw [y.startInterim_same]

theorem State.takeReplay_entry (s : State) (st id : Nat) :
    ((s.takeReplay st).station st).core.entry id = (s.station st).core.entry id := by
  rw [Core.entry, s.takeReplay_queue, Core.entry]

/-- R184: whether a second post waits does not depend on the tiles of replay rings. -/
theorem State.takeReplay_pipWaits (s : State) (st id : Nat) : (s.takeReplay st).pipWaits st id = s.pipWaits st id := by
  simp only [State.pipWaits, s.takeReplay_entry, s.takeReplay_posted]

theorem State.pipWaits_unposted (s : State) (st id : Nat) (e : OpEntry) (he : (s.station st).core.entry id = some e)
    (hposted : (s.station st).posted.getLsbD (bits e.op.toNat 12 9) = false) : s.pipWaits st id = false := by
  simp only [State.pipWaits, he, hposted, Bool.and_false]

/-! ### A deferred TMUL leaves the array and takes it again (R121, R175) -/

/-- A scoreboard TMUL is ready but for the array. -/
def State.scoreboardTmulReady (s : State) (p st : Nat) : Bool :=
  let c := (s.station st).core
  c.queue.any fun g => opCode g.op.toNat == 1 && c.ranksScoreboard g && !g.issued && s.readyButUnit p st g

/-- R174: another operation of the array goes before the entry. -/
def State.anotherFirst (s : State) (p st : Nat) (e : OpEntry) : Bool :=
  let c := (s.station st).core
  c.queue.any fun g =>
    opUnit g.op.toNat == .array && g.id != e.id && (g.yielded || (!g.issued && s.readyButUnit p st g))
      && (if c.ranksScoreboard e then c.ranksScoreboard g && decide (g.id < e.id)
          else c.ranksScoreboard g || decide (g.id < e.id))

/-- The virtual blocks of a TMUL that is no flock. -/
def Part.tmulBlocks (x : Part) (st op : Nat) : Nat :=
  numBlocks (x.tmulGang st op) (tmM op) (tmN op) (chooseFold (x.tmulGang st op) (tmM op) (tmN op) (tmFold op))

/-- The state in which a TMUL has left the array, to resume at a virtual block. -/
def State.tmulYielded (s : State) (st id block : Nat) : State :=
  let rest := (s.station st).core.busy.filter fun b => block < b.part
  let s := (s.modCore st fun c => { c with busy := c.busy.filter fun b => b.part ≤ block }).countAllBusy st
  (s.modStation st fun y => { y with yields := satAdd 16 y.yields 1 }).modCore st fun c =>
    { c.modEntry id fun e => { e with yielded := true, block := block, rest := rest } with resident := none, busy := [] }

/-- The state in which a yielded TMUL has taken the array again. -/
def State.tmulResumed (s : State) (p st id : Nat) (e : OpEntry) : State :=
  let op := e.op.toNat
  let w0 := otherResident (s.station st).core (tmAcc op)
  let now := s.clk.rootTime
  let t := now + w0 * s.corePeriod st
  let old := e.rest.foldl (fun m b => min m b.from') ((e.rest.map (·.from')).headD 0)
  (s.writeOutResident p st (tmAcc op, e.block)).modCore st fun c =>
    { c.modEntry id fun e => { e with yielded := false, wroteOut := decide (w0 ≠ 0), rest := [] } with
      resident := some (tmAcc op, (s.part p).tmulBlocks st op - 1)
      busy := ⟨0, now, t, true⟩ :: e.rest.map fun b => { b with from' := b.from' - old + t, to' := b.to' - old + t } }

section TmulYield

variable (s : State) {st p id : Nat} {e : OpEntry} (hst : s.stPart st = some p) (he : (s.station st).core.entry id = some e)

include hst he

/-- R175: a deferred TMUL leaves the array at a virtual block that it has not passed, once a scoreboard TMUL is ready. -/
theorem State.execTmulYield_leaves {block : Nat} (hcode : opCode e.op.toNat = 1) (hflock : tmFlock e.op.toNat = false)
    (hissued : e.issued = true) (hyielded : e.yielded = false) (hdefer : e.deferred = true)
    (hrank : (s.station st).core.ranksScoreboard e = false) (hmany : 1 < (s.part p).tmulBlocks st e.op.toNat)
    (hblock : block < (s.part p).tmulBlocks st e.op.toNat)
    (hplace : e.block < block ∨ (e.block = block ∧ e.wroteOut = true)) (hready : s.scoreboardTmulReady p st = true) :
    execTmulYield st id block s = .next (s.tmulYielded st id block) := by
  simp only [execTmulYield, hst, he]
  exact congrArg _ (if_pos ⟨hcode, hissued, hyielded, hdefer, hrank, hflock, hmany, hblock, hplace, hready⟩)

/-- R174, R175: a yielded TMUL takes the array again where it is free, the station issues, and no other operation goes first. -/
theorem State.execTmulResume_entry :
    execTmulResume st id s = .next (if e.yielded = true ∧ (s.station st).core.unitBusy .array = false
      ∧ (s.station st).issues .array = true ∧ s.anotherFirst p st e = false then s.tmulResumed p st id e else s) := by
  simp only [execTmulResume, hst, he]
  rfl

end TmulYield

/-- R176: a deferred operation that has neither issued nor been promoted is promoted, and counted. -/
theorem State.execPromotion_entry (s : State) (st id : Nat) (e : OpEntry) (he : (s.station st).core.entry id = some e) :
    execPromotion st id s = .next (if e.deferred = true ∧ e.issued = false ∧ e.promoted = false then
      (s.modStation st fun y => { y with promoted := satAdd 16 y.promoted 1 }).modCore st fun c =>
        c.modEntry id fun e => { e with promoted := true } else s) := by
  simp only [execPromotion, he]

/-! ### The rows of the operations -/

theorem exec_tmul (st id : Nat) (s : State) :
    exec (.tmul st id) s = .next (s.issue st id 0x01 fun s p e => effTmul s p st e) := rfl

theorem exec_tepi (st id : Nat) (s : State) :
    exec (.tepi st id) s = .next (s.issue st id 0x02 fun s p e => effTepi s p st e) := rfl

theorem exec_tload (st id : Nat) (s : State) :
    exec (.tload st id) s = .next (s.issue st id 0x03 fun s p e => effMove s p st e) := rfl

theorem exec_tstore (st id : Nat) (s : State) :
    exec (.tstore st id) s = .next (s.issue st id 0x04 fun s p e => effMove s p st e) := rfl

theorem exec_tsend (st id : Nat) (s : State) :
    exec (.tsend st id) s = .next (s.issue st id 0x05 fun s p e => effMove s p st e) := rfl

theorem exec_trecv (st id : Nat) (s : State) :
    exec (.trecv st id) s = .next (s.issue st id 0x06 fun s p e => effMove s p st e) := rfl

theorem exec_tvec (st id : Nat) (s : State) :
    exec (.tvec st id) s = .next (s.issue st id 0x07 fun s p e => effVec s p st e) := rfl

theorem exec_tfun (st id : Nat) (s : State) :
    exec (.tfun st id) s = .next (s.issue st id 0x08 fun s p e => effFun s p st e) := rfl

theorem exec_tacc (st id : Nat) (s : State) :
    exec (.tacc st id) s = .next (s.issue st id 0x09 fun s p e => effAcc s p st e) := rfl

theorem exec_tscale (st id : Nat) (s : State) :
    exec (.tscale st id) s = .next (s.issue st id 0x0A fun s p e => effScale s p st e) := rfl

theorem exec_tfence (st id : Nat) (s : State) :
    exec (.tfence st id) s = .next (s.issue st id 0x0B fun s p e => effFence s p st e) := rfl

theorem exec_tpip (st id : Nat) (s : State) :
    exec (.tpip st id) s = .next (if s.pipWaits st id then s else s.issue st id 0x0C fun s p e => effPip s p st e) := rfl

theorem exec_tmulYield (st id block : Nat) (s : State) : exec (.tmulYield st id block) s = execTmulYield st id block s := rfl

theorem exec_tmulResume (st id : Nat) (s : State) : exec (.tmulResume st id) s = execTmulResume st id s := rfl

theorem exec_promotion (st id : Nat) (s : State) : exec (.promotion st id) s = execPromotion st id s := rfl

/-- R184: a post of a channel that the station has not posted goes to its leaf. -/
theorem effPip_post (s : State) (p st : Nat) (e : OpEntry) (hpost : e.op.toNat.testBit 8 = false) :
    let ch := bits e.op.toNat 12 9
    effPip s p st e = (s.modStation st fun x =>
      { x with
        posted := x.posted ||| BitVec.ofNat 16 (2 ^ ch)
        joinedEver := x.joinedEver ||| BitVec.ofNat 16 (2 ^ ch) }).emit
      (.pip st (pipBytes ch (s.leafParity st ch) 0 (bits e.op.toNat 111 104))) := by
  simp only [effPip, bit, hpost, Bool.false_eq_true, if_false]

end Sys2Proof.Machine
end

section
/-! SUPPORT. Rules of faults in the array (R129 to R132, R135). -/

namespace Sys2Proof.Machine

/-! ### Settling the lambs and counting the cycles leave the queue (R127, R135) -/

@[simp] theorem State.settleLambs_queue (s : State) (st : Nat) :
    ((s.settleLambs st).station st).core.queue = (s.station st).core.queue := by
  rw [State.settleLambs, State.station_modStation_same]

@[simp] theorem State.countBusy_queue (s : State) (st t : Nat) :
    ((s.countBusy st t).station st).core.queue = (s.station st).core.queue := by
  have hcycles (s : State) (a b : Nat) : ((s.addCycles st a b).station st).core.queue = (s.station st).core.queue := by
    simp only [State.addCycles, State.modField_others, State.station_modStation_same]
  rw [State.countBusy, State.station_modCore_same]
  exact hcycles s _ _

/-- The state in which the lambs that are over are complete, and the cycles so far count. -/
def State.counted (s : State) (st : Nat) : State := (s.settleLambs st).countBusy st s.clk.rootTime

theorem State.counted_runningTmul (s : State) (st : Nat) :
    ((s.counted st).station st).core.runningTmul = (s.station st).core.runningTmul := by
  simp only [Core.runningTmul, State.counted, State.countBusy_queue, State.settleLambs_queue]

/-! ### Faults of the whole array (R131) -/

/-- The array stops with error 6. -/
def State.stopArray (s : State) (st : Nat) : State :=
  (s.modCore st fun c => { c with lambsLeft := [], busy := [] }).stationError st 6

/-- The lambs that run are aborted. -/
def State.abortLambs (s : State) (st : Nat) : State :=
  s.modStation st fun y =>
    { y with
      lambState := mapLambs (fun i c => if y.core.lambsLeft.contains i then 3 else c) y.lambState
      flockAbort := true, wholeFaultAt := s.clk.rootTime + 1 }

/-- Where the array runs a flock, its lambs that run are aborted too. -/
theorem State.arrayWhole_stops (s : State) (st : Nat) :
    s.arrayWhole st =
      (if (s.station st).core.runningTmul.any (fun e => tmFlock e.op.toNat) = true then (s.counted st).abortLambs st
        else s.counted st).stopArray st := by
  have hrun := s.counted_runningTmul st
  unfold State.counted at hrun
  cases hflock : (s.station st).core.runningTmul <;>
    · simp only [State.arrayWhole, hrun, hflock, Option.any_none, Option.any_some]
      rfl

/-! ### Faults of one lamb (R129, R130, R132) -/

/-- A lamb of flock `fl` runs, or a whole-array fault of this cycle has aborted it. -/
def State.lambFaults (s : State) (st fl lamb : Nat) : Prop :=
  let y := s.station st
  y.core.lambsLeft.contains lamb = true
    ∨ (lambPresent fl lamb = true ∧ lambCode y.lambState lamb = 3 ∧ s.sameCycle st y.wholeFaultAt = true)

theorem State.lambFaults_iff (s : State) (st fl lamb : Nat) :
    s.lambFaults st fl lamb ↔ ((s.station st).core.lambsLeft.contains lamb || (lambPresent fl lamb
      && (lambCode (s.station st).lambState lamb == 3 && s.sameCycle st (s.station st).wholeFaultAt))) = true := by
  simp only [State.lambFaults, Bool.or_eq_true, Bool.and_eq_true, beq_iff_eq]

/-- The state in which a lamb of flock `fl` on tile `acc` has faulted. -/
def State.lambFaulted (s : State) (p st fl lamb acc : Nat) : State :=
  (s.modStation st fun y =>
    { y with
      lambState := mapLambs (fun i c => if i = lamb then 2 else c) y.lambState
      lambFault := y.lambFault ||| BitVec.ofNat 16 (2 ^ lamb)
      lastLamb := if s.sameCycle st y.lambFaultAt then min y.lastLamb lamb else lamb
      lambFaultNow := (if s.sameCycle st y.lambFaultAt then y.lambFaultNow else 0) ||| BitVec.ofNat 16 (2 ^ lamb)
      lambFaultAt := s.clk.rootTime + 1
      retryFault := y.retryFault || flockRetry fl }).modCore st fun c =>
    { (s.part p).killLamb fl lamb c acc with
      lambsLeft := c.lambsLeft.filter fun i => i ≠ lamb
      busy := c.busy.map fun b => if b.part = lamb + 1 then { b with to' := min b.to' s.clk.rootTime } else b }

section ArrayLamb

variable (s : State) {st p : Nat} (lamb : Nat) (hst : s.stPart st = some p)

include hst

/-- A check that fails in a block while no TMUL runs is only reported. -/
theorem State.arrayLamb_free (he : (s.station st).core.runningTmul = none) :
    s.arrayLamb st lamb = s.emit (.report st 0x10 (errorHeader st)) := by
  simp only [State.arrayLamb, hst, he]

/-- R131: outside a flock it is a fault of the whole array. -/
theorem State.arrayLamb_single {e : OpEntry} (he : (s.station st).core.runningTmul = some e)
    (hf : tmFlock e.op.toNat = false) : s.arrayLamb st lamb = s.arrayWhole st := by
  simp only [State.arrayLamb, hst, he, hf, Bool.not_false, if_true]

section Flock

variable {e : OpEntry} (he : (s.station st).core.runningTmul = some e) (hf : tmFlock e.op.toNat = true)

include he hf

/-- R130: in a flock a lamb that faults does so alone. -/
theorem State.arrayLamb_faults :
    let fl := (s.part p).flockOf e
    let t := (s.settleLambs st).emit (.report st 0x10 (errorHeader st))
    t.lambFaults st fl lamb → s.arrayLamb st lamb = t.lambFaulted p st fl lamb (tmAcc e.op.toNat) := by
  intro fl t h
  simp only [State.arrayLamb, hst, he, hf, Bool.not_true, Bool.false_eq_true, if_false]
  exact if_pos ((t.lambFaults_iff st fl lamb).1 h)

/-- R129: in a block of no running lamb a failed check is only reported. -/
theorem State.arrayLamb_reports :
    let fl := (s.part p).flockOf e
    let t := (s.settleLambs st).emit (.report st 0x10 (errorHeader st))
    ¬ t.lambFaults st fl lamb → s.arrayLamb st lamb = t := by
  intro fl t h
  simp only [State.arrayLamb, hst, he, hf, Bool.not_true, Bool.false_eq_true, if_false]
  exact if_neg fun hcond => h ((t.lambFaults_iff st fl lamb).2 hcond)

end Flock

end ArrayLamb

/-! ### The rows of the array's faults -/

theorem exec_arrayFaultLamb (st lamb : Nat) (s : State) : exec (.arrayFaultLamb st lamb) s = .next (s.arrayLamb st lamb) := rfl

theorem exec_arrayFaultWhole (st : Nat) (s : State) : exec (.arrayFaultWhole st) s = .next (s.arrayWhole st) := rfl

end Sys2Proof.Machine
end

section
/-! The statements about array folding and flocks: the tile operations, and faults in the array. -/

namespace Sys2Proof.Machine

/-- Settles O21: an operation that runs has its row's effect; the conditions of a yield, a resumption and a promotion select
their branch. -/
theorem tileOperations : Obligations.TileOperations := by
  unfold Obligations.TileOperations
  refine ⟨?operations, ?array⟩
  case operations =>
    intro s0 st id p e s b op
    refine ⟨fun h => ?tmul, fun h => ?tepi, fun h => ?tload, fun h => ?tstore, fun h => ?tsend, fun h => ?trecv,
      fun h => ?tvec, fun h => ?tfun, fun h => ?tacc, fun h => ?tscale, fun h => ?tfence, fun h hpost hfree => ?tpip⟩
    case tmul => rw [exec_tmul, s0.issue_runs st id 0x01 p e _ h]; rfl
    case tepi => rw [exec_tepi, s0.issue_runs st id 0x02 p e _ h]
    case tload => rw [exec_tload, s0.issue_runs st id 0x03 p e _ h]
    case tstore => rw [exec_tstore, s0.issue_runs st id 0x04 p e _ h]
    case tsend => rw [exec_tsend, s0.issue_runs st id 0x05 p e _ h]
    case trecv => rw [exec_trecv, s0.issue_runs st id 0x06 p e _ h]
    case tvec => rw [exec_tvec, s0.issue_runs st id 0x07 p e _ h]
    case tfun => rw [exec_tfun, s0.issue_runs st id 0x08 p e _ h]; rfl
    case tacc => rw [exec_tacc, s0.issue_runs st id 0x09 p e _ h]
    case tscale => rw [exec_tscale, s0.issue_runs st id 0x0A p e _ h]
    case tfence => rw [exec_tfence, s0.issue_runs st id 0x0B p e _ h]; rfl
    case tpip =>
      have ⟨⟨_, hentry, _⟩, _⟩ := h
      have hgoes : s0.pipWaits st id = false := by
        rw [← s0.takeReplay_pipWaits]
        exact s.pipWaits_unposted st id e hentry hfree
      rw [exec_tpip, hgoes, if_neg Bool.false_ne_true, s0.issue_runs st id 0x0C p e _ h, effPip_post _ p st e hpost]
  case array =>
    intro s st id p e hst he c rival first gang m n acc nb w0 now from' old
    refine ⟨?yields, ?resumes, ?stays, ?promoted, ?unpromoted⟩
    case yields =>
      intro block hcode hflock hissued hyielded hdefer hrank hmany hblock hplace hready
      rw [exec_tmulYield, s.execTmulYield_leaves hst he hcode hflock hissued hyielded hdefer hrank hmany hblock hplace hready]
      rfl
    case resumes =>
      intro hyielded hfree hissues hfirst
      rw [exec_tmulResume, s.execTmulResume_entry hst he, if_pos ⟨hyielded, hfree, hissues, hfirst⟩]
      rfl
    case stays =>
      intro h
      rw [exec_tmulResume, s.execTmulResume_entry hst he, if_neg]
      rintro ⟨hyielded, -, -, hfirst⟩
      rcases h with h | h
      · exact absurd (hyielded.symm.trans h) (by decide)
      · exact absurd (h.symm.trans hfirst) (by decide)
    case promoted =>
      intro hdefer hissued hpromoted
      rw [exec_promotion, s.execPromotion_entry st id e he, if_pos ⟨hdefer, hissued, hpromoted⟩]
    case unpromoted =>
      intro hdefer
      rw [exec_promotion, s.execPromotion_entry st id e he, if_neg]
      rintro ⟨hdeferred, -, -⟩
      exact absurd (hdeferred.symm.trans hdefer) (by decide)

/-- Settles O24: by the TMUL that the array runs, and in a flock by whether the lamb runs or has been aborted in this cycle. -/
theorem arrayFaults : Obligations.ArrayFaults := by
  unfold Obligations.ArrayFaults
  intro s st p hst stop b whole
  refine ⟨?flock, ?lambFree, ?single, ?wholeFree⟩
  case flock =>
    intro e lamb he hf fl t y code faults
    refine ⟨fun h => ?_, fun h => ?_, ?_⟩
    · rw [exec_arrayFaultLamb, s.arrayLamb_faults lamb hst he hf h]
      rfl
    · rw [exec_arrayFaultLamb, s.arrayLamb_reports lamb hst he hf h]
    · rw [exec_arrayFaultWhole, s.arrayWhole_stops, he, Option.any_some, hf, if_pos rfl]
      rfl
  case lambFree =>
    intro lamb he
    rw [exec_arrayFaultLamb, s.arrayLamb_free lamb hst he]
  case single =>
    intro e lamb he hf
    have hstop : s.arrayWhole st = stop b := by
      rw [s.arrayWhole_stops, he, Option.any_some, hf, if_neg Bool.false_ne_true]
      rfl
    rw [exec_arrayFaultLamb, exec_arrayFaultWhole, s.arrayLamb_single lamb hst he hf, hstop]
    exact ⟨rfl, rfl⟩
  case wholeFree =>
    intro he
    rw [exec_arrayFaultWhole, s.arrayWhole_stops, he, Option.any_none, if_neg Bool.false_ne_true]
    rfl

end Sys2Proof.Machine
end

section
/-! SUPPORT. Rules of heartbeats, of error reports, and of the core faults that they make (R180, R275, R314, R395 to R398, R403 to
R405, R414). -/

namespace Sys2Proof.Machine

/-! ### Heartbeats (R395) -/

/-- The root time up to which a core may be silent: 4,096 cycles since it was last heard, bound, or reset with its field. -/
def State.silentUntil (s : State) (st : Nat) : Nat :=
  max (s.station st).lastBeat (sget 0 s.clk.fieldMark (stField st)) + 4096 * s.clk.divider (westHalf (stField st))

theorem exec_heartbeatPost (st : Nat) (s : State) :
    exec (.heartbeatPost st) s
      = .next (if (s.station st).fenced then s else s.modStation st fun y => { y with lastBeat := s.clk.rootTime }) := rfl

theorem exec_heartbeatMissing (st : Nat) (s : State) :
    exec (.heartbeatMissing st) s
      = .next (if (s.station st).fenced = false ∧ s.silentUntil st ≤ s.clk.rootTime then s.coreFault st 5 true none
          else s) := rfl

/-! ### Error reports (R180, R275, R314, R403, R404) -/

theorem exec_stationErrorReport (st : Nat) (report : ErrorReport) (s : State) :
    exec (.stationErrorReport st report) s = execStationErrorReport st report s := rfl

/-- R180: a station keeps its first error. -/
theorem State.stationError_error (s : State) (st code : Nat) :
    ((s.stationError st code).station st).error = if (s.station st).error = 0 then code else (s.station st).error := by
  simp only [State.stationError, State.emit_others, State.station_modStation_same]

/-- R404: a sequence error that a station finds is a fault of the station that sends the stream. -/
theorem State.gapFault_sender (s : State) (st p stream e : Nat) (he : (s.part p).stream stream = some e) (hsrc : sdSrcKind e = 0) :
    s.gapFault st p stream = s.coreFault (sdSrc e) 7 false (some (st, stream)) := by
  simp only [State.gapFault, he, hsrc, if_true]

/-- R396: a report of a fenced core has an effect only on the fill of that core. -/
theorem exec_stationErrorReport_fenced (s : State) (st : Nat) (report : ErrorReport) (hf : (s.station st).fenced = true)
    (hfill : ∀ l, (s.field (stField st)).fill = some l → l.station ≠ st) :
    exec (.stationErrorReport st report) s = .next s := by
  have hany : ((s.field (stField st)).fill.any fun l => l.station == st) = false := by
    cases h : (s.field (stField st)).fill with
    | none => rfl
    | some l => simpa using hfill l h
  rw [exec_stationErrorReport, execStationErrorReport]
  simp only [hf, hany, Bool.false_eq_true, false_and, if_true, if_false]

section Unfenced

variable (s : State) (st : Nat) (hf : (s.station st).fenced = false)

include hf

/-- R396, R403: a watchdog (3) and an array fault of whole-array scope (6) are core faults of the station that they stopped. -/
theorem exec_stationErrorReport_core (code : Nat) (hcode : code = 3 ∨ code = 6) (he : (s.station st).error = code) :
    exec (.stationErrorReport st ⟨code, []⟩) s = .next (s.coreFault st (errorCause code) (code == 3) none) := by
  rw [exec_stationErrorReport, execStationErrorReport]
  rcases hcode with rfl | rfl <;> simp [hf, he]

/-- An uncorrectable error of the core SRAM is recorded with its report, and is a core fault. -/
theorem exec_stationErrorReport_sram (he : (s.station st).error = 0 ∨ (s.station st).error = 4) :
    exec (.stationErrorReport st ⟨4, []⟩) s = .next ((s.stationError st 4).coreFault st (errorCause 4) false none) := by
  have hfirst : ((s.stationError st 4).station st).error = 4 := by
    rw [s.stationError_error]
    rcases he with he | he <;> rw [he] <;> rfl
  rw [exec_stationErrorReport, execStationErrorReport]
  simp [hf, hfirst]

/-- R404: a sequence error that stopped the station. -/
theorem exec_stationErrorReport_gap (code p : Nat) (hcode : code = 1 ∨ code = 2) (he : (s.station st).error = code)
    (hst : s.stPart st = some p) :
    exec (.stationErrorReport st ⟨code, []⟩) s = .next (s.gapFault st p (s.station st).errStream) := by
  rw [exec_stationErrorReport, execStationErrorReport]
  rcases hcode with rfl | rfl <;> simp [hf, he, hst]

/-- R314: a sequence error that a Keeper reported of a stream of the station. -/
theorem exec_stationErrorReport_keeper (code : Nat) (r : Nat × Nat × Nat) (hcode : code = 1 ∨ code = 2)
    (he : (s.station st).error ≠ code) (hr : (s.net.reports.find? fun r => r.1 == st) = some r) :
    exec (.stationErrorReport st ⟨code, []⟩) s = .next (s.coreFault st 7 false (some (65536 + r.2.1, r.2.2))) := by
  rw [exec_stationErrorReport, execStationErrorReport]
  rcases hcode with rfl | rfl <;> simp [hf, he, hr]

/-- R275: bad words of the station's own bank are counted, and it stops. -/
theorem exec_stationErrorReport_ownBank (bad : List Nat) (hbad : bad ≠ []) :
    exec (.stationErrorReport st ⟨5, bad⟩) s = .next ((s.readFinds st bad).stationError st 5) := by
  rw [exec_stationErrorReport, execStationErrorReport]
  simp [hf, State.ownReadBad, hbad]

end Unfenced

/-! ### What fencing a core leaves at the fields (R396) -/

/-- A change of a field that leaves a part of every field leaves that part. -/
theorem State.field_modField_keeps {β : Type} (part : Field → β) (s : State) (i f : Nat) (g : Field → Field)
    (h : ∀ x, part (g x) = part x) : part ((s.modField i g).field f) = part (s.field f) := by
  rw [State.field_modField]
  split
  · next hif => rw [h, hif]
  · rfl

theorem State.cutPacket_field (s : State) (gx gy f : Nat) : (s.cutPacket gx gy).field f = s.field f := by
  refine foldl_keeps (·.field f) _ (fun t w => ?_) _ s
  exact foldl_keeps (·.field f) (fun t q => t.emit (.truncation gx gy q)) (fun _ _ => rfl) w.taken t

theorem State.nonfiniteLevel_field (s : State) (node member value f : Nat) :
    (s.nonfiniteLevel node member value).field f = s.field f := by
  unfold State.nonfiniteLevel
  extract_lets key up l t
  split <;> rfl

/-- Fencing a core changes of a field its remap entry, the core's state, and the counts of cycles. -/
theorem State.fenceCore_keeps {β : Type} (part : Field → β) (s : State) (st f : Nat) (retest : Bool)
    (hcycles : ∀ x a b, part { x with productTotal := a, exchangeTotal := b } = part x)
    (hremap : ∀ x r, part { x with remap := r } = part x)
    (hcores : ∀ x l, part { x with fencedCores := l } = part x) :
    part ((s.fenceCore st retest).field f) = part (s.field f) := by
  unfold State.fenceCore
  extract_lets r cut rebound noted level quiet
  calc part (State.field _ f) = part (level.field f) := rfl
    _ = part (noted.field f) := congrArg part (noted.nonfiniteLevel_field _ _ _ f)
    _ = part (rebound.field f) := State.field_modField_keeps part rebound _ f _ fun x => hcores x _
    _ = part (cut.field f) := State.field_modField_keeps part cut _ f _ fun x => hremap x _
    _ = part ((s.countBusy st s.clk.rootTime).field f) := congrArg part (State.cutPacket_field _ _ _ f)
    _ = part (s.field f) := State.field_modField_keeps part _ _ f _ fun x => hcycles x _ _

theorem State.fenceCore_fill (s : State) (st f : Nat) (retest : Bool) :
    ((s.fenceCore st retest).field f).fill = (s.field f).fill :=
  s.fenceCore_keeps (·.fill) st f retest (fun _ _ _ => rfl) (fun _ _ => rfl) fun _ _ => rfl

theorem State.fenceCore_queued (s : State) (st f : Nat) (retest : Bool) :
    ((s.fenceCore st retest).field f).queued = (s.field f).queued :=
  s.fenceCore_keeps (·.queued) st f retest (fun _ _ _ => rfl) (fun _ _ => rfl) fun _ _ => rfl

/-! ### Core faults (R396 to R398, R401, R405, R414) -/

/-- The fill of a station to the spare of prow `i`, for a fault of a cause. -/
def State.fillTo (s : State) (st i cause : Nat) (retest : Bool) (receiver : Option (Nat × Nat)) : Fill :=
  { station := st, prow := i, pcol := 24, cause := cause, receiver := receiver
    start := s.faultTime st cause (receiver.map (·.1)), failRow := (s.remapOf st).prow, failCol := (s.remapOf st).pcol
    time := (s.fenceCore st retest).faultClock (stField st) }

section CoreFault

variable (s : State) (st cause : Nat) (retest : Bool) (receiver : Option (Nat × Nat))
  (hserves : (s.field (stField st)).state = .inService)

include hserves

/-- R397, R398, R405: with a spare for the station its fill starts where none runs in the field; where the fault meets the
running fill, or four wait, it is bound without one; else its fill waits. -/
theorem State.coreFault_spare (i : Nat) :
    let f := stField st
    let r := s.remapOf st
    let b := s.fenceCore st retest
    let l := s.fillTo st i cause retest receiver
    b.chooseSpare f (stRow st) (b.remapOf st).homeDead = some i →
    s.coreFault st cause retest receiver
      = (if (s.field f).fill.isNone then (b.logFault f cause 0 st r.prow r.pcol).modField f fun x => { x with fill := some l }
        else if s.meetsFill st || 4 ≤ (s.field f).queued.length then
          ((((b.logFault f cause 2 st r.prow r.pcol).dropFills f (some st)).letFillGo l).bindFresh st i 24).fieldRollback f
        else (b.logFault f cause 6 st r.prow r.pcol).modField f fun x => { x with queued := x.queued ++ [l] }).spareTaken f
          (s.field f).freeSpares := by
  intro f r b l h
  rw [← s.fenceCore_fill st f retest, ← s.fenceCore_queued st f retest]
  simp only [State.coreFault, hserves, State.withSpare, ne_eq, not_true_eq_false, if_false]
  rw [h]
  rfl

/-- R414: with no spare left the field is lost. -/
theorem State.coreFault_exhausted :
    let f := stField st
    let b := s.fenceCore st retest
    b.chooseSpare f (stRow st) (b.remapOf st).homeDead = none →
    s.coreFault st cause retest receiver
      = ((b.modField f fun x => { x with exhausted := true }).event 0 f).fieldLoss f 0xE st (s.remapOf st).prow
          (s.remapOf st).pcol := by
  intro f b h
  simp only [State.coreFault, hserves, State.withSpare, ne_eq, not_true_eq_false, if_false]
  rw [h]

end CoreFault

/-- R401: the time of a fault that a station reports is that of its error. -/
theorem State.faultTime_reported (s : State) (st cause : Nat) (he : (s.station st).error ≠ 0) (h5 : cause ≠ 5)
    (h4 : cause ≠ 4) :
    s.faultTime st cause none = (s.station st).errorAt := by
  simp only [State.faultTime, h5, if_false]
  exact if_pos ⟨he, h4⟩

end Sys2Proof.Machine
end

section
/-! SUPPORT. Rules of an HBM stack: its issue slots, refresh and scrub, and the places of its bytes (R283, R286, R288 to R295,
R455). -/

namespace Sys2Proof.Machine

/-- A fold over steps that leave the state leaves it. -/
theorem State.forAll_unchanged {α : Type} (s : State) (l : List α) (f : State → α → State) (h : ∀ a ∈ l, f s a = s) :
    s.forAll l f = s := by
  unfold State.forAll
  induction l with
  | nil => rfl
  | cons a l ih => rw [List.foldl_cons, h a List.mem_cons_self, ih fun b hb => h b (List.mem_cons_of_mem a hb)]

/-! ### Places of bytes (R282, R286) -/

/-- A stack offset is made of its row and of the parts of it that name the column, bank, pseudo-channel and byte. -/
theorem stackOffset_parts (a : Nat) (h : a < 2 ^ 37) :
    a = 2 ^ 20 * bits a 36 20 + 2 ^ 18 * bits a 19 18 + 2 ^ 14 * bits a 17 14 + 2 ^ 8 * bits a 13 8 + bits a 7 0 := by
  simp only [bits, Nat.shiftRight_eq_div_pow]
  omega

/-- R286: the hashes of the row permute pseudo-channels and banks, so a place names one byte of its stack. -/
theorem hbmDecode_injective (a b : Nat) (ha : a < 2 ^ 37) (hb : b < 2 ^ 37) (h : hbmDecode a = hbmDecode b) : a = b := by
  simp only [hbmDecode, HbmPlace.mk.injEq] at h
  obtain ⟨hpc, hbank, hrow, hbyte⟩ := h
  rw [hrow] at hpc hbank
  have hchannel : bits a 13 8 = bits b 13 8 := Nat.xor_left_inj.1 hpc
  have hplane : bits a 17 14 = bits b 17 14 := Nat.xor_left_inj.1 hbank
  have hlow (n : Nat) : bits n 7 0 < 256 := Nat.mod_lt _ (by decide)
  have hcolumn : bits a 19 18 = bits b 19 18 ∧ bits a 7 0 = bits b 7 0 := by
    have hla := hlow a
    have hlb := hlow b
    omega
  rw [stackOffset_parts a ha, stackOffset_parts b hb, hrow, hcolumn.1, hplane, hchannel, hcolumn.2]

/-- R282: an offset into a stack lies in it. -/
theorem hbmStack_offset (stk o : Nat) (hstk : stk < 32) (ho : o < 2 ^ 37) : hbmStack (stk * 2 ^ 37 + o) = stk := by
  rw [hbmStack, bits, Nat.shiftRight_eq_div_pow, Nat.add_comm, Nat.add_mul_div_right _ _ (by decide), Nat.div_eq_of_lt ho,
    Nat.zero_add]
  exact Nat.mod_eq_of_lt hstk

/-! ### What refilling, turning and debiting leave (R288, R293, R295) -/

theorem State.refill_queue (s : State) (stk : Nat) : ((s.refill stk).stack stk).queue = (s.stack stk).queue := by
  unfold State.refill
  rw [State.stack_modStack_same]
  dsimp only
  refine List.foldlRecOn (motive := fun x : Stack => x.queue = (s.stack stk).queue) _ _ rfl fun x hx p _ => ?_
  split <;> exact hx

theorem Stack.turned_queue (x : Stack) : x.turned.queue = x.queue := by
  unfold Stack.turned
  split <;> rfl

/-! ### A host's bytes in the areas of the plans' placements (R192, R455) -/

/-- What the Keepers keep of a host's write is kept in partitions and Keepers alone. -/
theorem State.strayWrite_same (s : State) (k p j : Nat) (data : List Byte) :
    s.strayWrite k p j data
      = { s with parts := (s.strayWrite k p j data).parts, kprs := (s.strayWrite k p j data).kprs
                 freeCtr := (s.strayWrite k p j data).freeCtr } := by
  unfold State.strayWrite
  dsimp only
  split
  iterate 4 next => split <;> rfl
  rfl

theorem State.hostInto_keeps {β : Type} (part : State → β) (h : ∀ s k p j data, part (State.strayWrite s k p j data) = part s)
    (s : State) (a : Nat) (data : List Byte) : part (s.hostInto a data) = part s := by
  refine foldl_keeps part _ (fun s p => ?_) _ s
  refine foldl_keeps part _ (fun s e => ?_) _ s
  refine foldl_keeps part _ (fun s q => ?_) _ s
  split
  · exact h s _ _ _ _
  · rfl

/-- R455: a write outside every area changes nothing that the Keepers keep. -/
theorem State.hostInto_outside (s : State) (a : Nat) (data : List Byte)
    (h : ∀ p < 8, ∀ e ∈ (s.part p).sec 0x10, ∀ r ∈ placeAreas e,
      a + data.length ≤ r.2.1 ∨ r.2.1 + r.2.2.2 * 2 ^ 20 ≤ a) :
    s.hostInto a data = s := by
  refine s.forAll_unchanged _ _ fun p hp => s.forAll_unchanged _ _ fun e he => s.forAll_unchanged _ _ fun q hq => if_neg ?_
  obtain ⟨j, hj, rfl⟩ := List.mem_mapIdx.1 hq
  have := h p (List.mem_range.1 hp) e he _ (List.getElem_mem hj)
  dsimp only
  omega

/-! ### Issue slots (R288, R295) -/

theorem exec_hbmIssueSlot (slot : IssueSlot) (requests : List HbmTraffic) (fixed bad : List Nat) (s : State) :
    exec (.hbmIssueSlot slot requests fixed bad) s = .next (s.issueSlot slot requests fixed bad) := rfl

theorem State.issueSlot_faulted (s : State) (slot : IssueSlot) (requests : List HbmTraffic) (fixed bad : List Nat)
    (h : (s.stack slot.stack).fault = true) : s.issueSlot slot requests fixed bad = s := if_pos (.inr h)

/-- The state in which a request has left its queue, debited with its class. -/
def State.granted (s : State) (stk : Nat) (q : HbmReq) (cls : Nat) : State :=
  (s.refill stk).modStack stk fun x =>
    { (x.turned.debit q cls) with queue := x.turned.queue.erase q, moved := x.turned.moved + q.bytes }

/-- A host's request that a slot grants is debited and leaves the queue, and its access is carried out. -/
theorem State.issueSlot_host (s : State) (stk ch : Nat) (q : HbmReq) (cls : Nat) (hpresent : s.stackPresent stk = true)
    (hfault : (s.stack stk).fault = false) (hchoose : ((s.refill stk).stack stk).turned.choose ch = some (q, cls))
    (hpart : q.part = none) (hback : q.writeBack = false) :
    s.issueSlot ⟨stk, ch⟩ [] [] [] = (s.granted stk q cls).hostAccess q := by
  have hhost : q.ofHost = true := by rw [HbmReq.ofHost, hpart, hback]; rfl
  have hnone (n : Nat) : (List.range n).filter ([] : List Nat).contains = [] := List.filter_eq_nil_iff.2 fun _ _ => by simp
  unfold State.issueSlot
  rw [if_neg (by rw [hpresent, hfault]; decide)]
  simp only [List.filter_nil, sortedBy, List.foldr_nil, List.map_nil, List.append_nil, State.stack_modStack_same, hchoose, hhost,
    hnone, State.forAll, List.foldl_nil, ite_self, if_true, State.modStack_modStack]
  rfl

theorem State.granted_queue (s : State) (stk : Nat) (q : HbmReq) (cls : Nat) :
    ((s.granted stk q cls).stack stk).queue = (s.stack stk).queue.erase q := by
  rw [State.granted, State.stack_modStack_same]
  dsimp only
  rw [Stack.turned_queue, s.refill_queue]

/-- R283, R455: a granted write changes its bytes and no other, and outside the areas of placements nothing that Keepers keep. -/
theorem State.hostAccess_write (s : State) (q : HbmReq) (d : List Byte) (hd : q.data = some d) :
    let t := s.hostAccess q
    t.hbm.mem = writeBytes s.hbm.mem q.addr d ∧ t.hbm.stack = s.hbm.stack ∧ t.out = s.out ∧ t.store = s.store
      ∧ t.stations = s.stations
      ∧ ((∀ p < 8, ∀ e ∈ (s.part p).sec 0x10, ∀ r ∈ placeAreas e,
          q.addr + d.length ≤ r.2.1 ∨ r.2.1 + r.2.2.2 * 2 ^ 20 ≤ q.addr) → t.parts = s.parts ∧ t.kprs = s.kprs) := by
  intro t
  have ht : t = (s.writeHbm q.addr d).hostInto q.addr d := by simp only [t, State.hostAccess, hd]
  have hkeeps : (t.hbm, t.out, t.store, t.stations) = ((s.writeHbm q.addr d).hbm, s.out, s.store, s.stations) := by
    rw [ht]
    exact State.hostInto_keeps (fun u => (u.hbm, u.out, u.store, u.stations))
      (fun s k p j data => by rw [State.strayWrite_same]) _ _ _
  simp only [Prod.mk.injEq] at hkeeps
  obtain ⟨hhbm, hout, hstore, hstations⟩ := hkeeps
  refine ⟨by rw [hhbm]; rfl, by rw [hhbm]; rfl, hout, hstore, hstations, fun houtside => ?_⟩
  rw [ht, (s.writeHbm q.addr d).hostInto_outside q.addr d houtside]
  exact ⟨rfl, rfl⟩

theorem State.hostAccess_read (s : State) (q : HbmReq) (hd : q.data = none) :
    s.hostAccess q = s.emit (.readData (leNat (readBytes s.hbm.mem q.addr q.bytes)) (s.hbmBad q.addr q.bytes)) := by
  simp only [State.hostAccess, hd]

/-! ### Refresh and scrub (R290, R292, R293) -/

theorem exec_hbmRefresh (stk : Nat) (s : State) (h : s.stackPresent stk = true) :
    exec (.hbmRefresh stk) s
      = .next (s.modStack stk fun x => { x with refresh2x := x.refresh2x || x.wantDouble, wantDouble := false }) :=
  congrArg Host.Outcome.next (if_pos h)

theorem exec_hbmRefreshModeFall (stk : Nat) (s : State) (h : s.stackPresent stk = true) :
    exec (.hbmRefreshModeFall stk) s = .next (s.modeFall stk) := congrArg Host.Outcome.next (if_pos h)

theorem exec_hbmScrubBurst (stk : Nat) (fixed : Bool) (bad : Option BadBurst) (s : State) :
    exec (.hbmScrubBurst stk fixed bad) s = .next (s.hbmScrub stk fixed bad) := rfl

/-- The scrub of a stack moves on, or ends its pass. -/
def Stack.scrubOn (x : Stack) : Stack :=
  if x.scrubPos + 1 < 2 ^ 31 then { x with scrubPos := x.scrubPos + 1, scrubActive := true }
  else { x with scrubPos := 0, scrubActive := false, scrubPasses := satAdd 16 x.scrubPasses 1 }

section Scrub

variable (s : State) (stk : Nat) (hpresent : s.stackPresent stk = true) (hen : (s.stack stk).scrubEn = true)
  (hfault : (s.stack stk).fault = false) (hpaused : s.paused = false)

include hpresent hen hfault hpaused

theorem State.hbmScrub_sound : s.hbmScrub stk false none = s.modStack stk Stack.scrubOn := by
  simp only [State.hbmScrub, hpresent, hen, hfault, hpaused, Bool.true_eq_false, Bool.false_eq_true, or_self, if_false]
  rfl

theorem State.hbmScrub_bad :
    s.hbmScrub stk false (some ⟨none⟩)
      = (s.burstBad (stk * 2 ^ 37 + 64 * (s.stack stk).scrubPos)).modStack stk Stack.scrubOn := by
  simp only [State.hbmScrub, hpresent, hen, hfault, hpaused, Bool.true_eq_false, Bool.false_eq_true, or_self, if_false]
  rfl

end Scrub

theorem Stack.scrubOn_uncorrectable (x : Stack) : x.scrubOn.uncorrectable = x.uncorrectable := by
  unfold Stack.scrubOn
  split <;> rfl

theorem mem_insertOnce (a : Nat) (l : List Nat) : a ∈ insertOnce a l := by
  unfold insertOnce
  split
  · next h => exact h
  · exact List.mem_append_right l (List.mem_singleton_self a)

/-- R292, R293: a bad burst without an owner is counted at its stack and poisoned, and the scrub goes on. -/
theorem State.burstBad_counts (s : State) (stk a : Nat) (h : hbmStack a = stk) :
    let t := (s.burstBad a).modStack stk Stack.scrubOn
    (t.stack stk).uncorrectable = satAdd 16 (s.stack stk).uncorrectable 1 ∧ a / 64 ∈ t.hbm.poison
      ∧ t.hbm.mem = s.hbm.mem := by
  subst h
  refine ⟨?_, mem_insertOnce _ _, rfl⟩
  rw [State.stack_modStack_same, Stack.scrubOn_uncorrectable]
  show ((s.modStack (hbmStack a) fun x => { x with uncorrectable := satAdd 16 x.uncorrectable 1 }).stack _).uncorrectable = _
  rw [State.stack_modStack_same]

end Sys2Proof.Machine
end

section
/-! SUPPORT. Rules of bucket tiles and of buckets at their Keeper (R157, R313 to R316, R322, R422). -/

namespace Sys2Proof.Machine

/-! ### Bucket tiles (R157, R313, R314) -/

/-- A bucket tile is taken before the step fence. -/
theorem exec_bucketTile_running (k p bucket stream seq : Nat) (data : List Byte) (s : State) (h : (s.part p).beforeFence = true) :
    exec (.bucketTile k p bucket stream seq data) s = .next (s.bucketTile k p bucket stream seq data) :=
  congrArg Host.Outcome.next (if_pos (by rw [h, Bool.true_or]))

section BucketTile

variable (s : State) (k p bucket stream seq : Nat) (data : List Byte)

/-- R314: the tile names no bucket of the Keeper, or no stream. -/
theorem State.bucketTile_unknown (h : (s.part p).bucketDef k bucket = none ∨ (s.part p).stream stream = none) :
    s.bucketTile k p bucket stream seq data = s.bucketError k p stream := by
  unfold State.bucketTile
  dsimp only
  split
  · next b e hb he =>
    rcases h with h | h
    · exact absurd (hb.symm.trans h) (Option.some_ne_none b)
    · exact absurd (he.symm.trans h) (Option.some_ne_none e)
  · rfl

variable {b e : Nat} (hb : (s.part p).bucketDef k bucket = some b) (he : (s.part p).stream stream = some e)

include hb he

/-- R314: the tile's stream ends in no bucket, or the tile has not its size. -/
theorem State.bucketTile_unfit (h : sdBucket e = false ∨ data.length ≠ (streamSpace e).bytes) :
    s.bucketTile k p bucket stream seq data = s.bucketError k p stream := by
  simp only [State.bucketTile, hb, he]
  refine if_pos ?_
  rcases h with h | h
  · rw [h, Bool.not_false, Bool.or_true, Bool.true_or]
  · rw [decide_eq_true h, Bool.or_true]

variable (hseg : ((s.part p).segments b).any (fun g => segStream g == stream) = true) (hbucket : sdBucket e = true)
  (hsize : data.length = (streamSpace e).bytes)

include hseg hbucket hsize

/-- R157: an older tile is dropped and its credit returned; one that is ahead of its turn is an error. -/
theorem State.bucketTile_misplaced (h : seqAhead 48 (sget 0 (s.kpart k p).expected stream) seq ≠ 0) :
    s.bucketTile k p bucket stream seq data
      = if 2 ^ 47 ≤ seqAhead 48 (sget 0 (s.kpart k p).expected stream) seq then
          s.emit (.credit (0x40000 + k) stream 1 ((s.part p).creditHeader e (0x40000 + k)))
        else s.bucketError k p stream := by
  simp only [State.bucketTile, hb, he, hseg, hbucket, hsize, Bool.not_true, ne_eq, not_true_eq_false, decide_false, Bool.or_self,
    Bool.false_eq_true, if_false]
  exact if_pos h

/-- R313: the next tile of an admitted bucket is converted into the image, and pages go out. -/
theorem State.bucketTile_admitted (h : seqAhead 48 (sget 0 (s.kpart k p).expected stream) seq = 0)
    (hadmitted : ((s.kpart k p).bucket bucket).admitted = true) :
    let u := s.modKpart k p fun z => { z with expected := smod 0 z.expected stream fun q => (q + 1) % 2 ^ 48 }
    s.bucketTile k p bucket stream seq data = (u.convertTile k p b stream seq data).sendReady k p := by
  intro u
  have hu : ((u.kpart k p).bucket bucket).admitted = true := by
    rw [State.kpart_modKpart_same]
    exact hadmitted
  simp only [State.bucketTile, hb, he, hseg, hbucket, hsize, Bool.not_true, ne_eq, not_true_eq_false, decide_false, Bool.or_self,
    Bool.false_eq_true, if_false, h]
  exact if_pos hu

end BucketTile

/-! ### Admission, acknowledgement and parking (R315, R316, R322, R422) -/

theorem exec_bucketAdmit_none (k p : Nat) (s : State) (h : (s.kpart k p).heldBuckets = []) :
    exec (.bucketAdmit k p) s = .next s := by
  show execBucketAdmit k p s = _
  rw [execBucketAdmit, h]

/-- R315: the bucket held longest is taken in where the admission conditions hold. -/
theorem exec_bucketAdmit_oldest (k p n b : Nat) (y : Bucket) (rest : List (Nat × Bucket)) (s : State)
    (h : (s.kpart k p).heldBuckets = (n, y) :: rest) (hb : (s.part p).bucketDef k n = some b) (hadmits : s.admits k p b = true) :
    exec (.bucketAdmit k p) s = .next (s.takeIn k p b) := by
  show execBucketAdmit k p s = _
  simp only [execBucketAdmit, h, hb, State.tryAdmit, hadmits, if_true]

theorem exec_sliceAcknowledged (k p bucket g : Nat) (s : State) :
    exec (.sliceAcknowledged k p bucket g) s = .next (s.sliceAcked k p bucket g) := rfl

/-- R316: the acknowledgement of a page that was sent counts for its bucket the first time. -/
theorem State.sliceAcked_sent (s : State) (k p bucket g b : Nat) (hb : (s.part p).bucketDef k bucket = some b)
    (hsent : g ∈ ((s.kpart k p).bucket bucket).sent) :
    s.sliceAcked k p bucket g
      = if g ∈ ((s.kpart k p).bucket bucket).acked then s
        else (s.modKpart k p fun z => z.modBucket bucket fun y => { y with acked := y.acked ++ [g] }).bucketDone k p b := by
  simp only [State.sliceAcked, hb, List.contains_iff_mem.2 hsent, Bool.true_and]
  by_cases hacked : g ∈ ((s.kpart k p).bucket bucket).acked
  · rw [if_pos hacked, if_neg (by simp [hacked])]
  · rw [if_neg hacked, if_pos (by simp [hacked])]

theorem exec_parkWriteDone (k p bucket : Nat) (s : State) :
    exec (.parkWriteDone k p bucket) s
      = .next (if ((s.kpart k p).bucket bucket).parking then
          ((s.transferEnded (s.part p).parkPort ⟨k, p, bucket, 3, true⟩).modKpart k p fun z => z.modBucket bucket fun y =>
            { y with parking := false, parked := true, image := [] }).modKpr k fun y => { y with parked := satAdd 16 y.parked 1 }
        else s) := rfl

end Sys2Proof.Machine
end

section
/-! SUPPORT. Rules of the data queues: doorbells, input tiles and output tiles (R156, R157, R449, R454, R460). -/

namespace Sys2Proof.Machine

theorem exec_cxlDqDb (p q : Nat) (v : BitVec 32) (s : State) :
    exec (.cxlDqDb p q v) s = .next (s.dqDoorbell p q (bits v.toNat 15 0)) := rfl

theorem exec_dqInputTile (p q : Nat) (tile : List Byte) (s : State) :
    exec (.dqInputTile p q tile) s = .next (s.inputTile p q tile) := rfl

theorem exec_dqOutputTile (p q : Nat) (tile : List Byte) (s : State) :
    exec (.dqOutputTile p q tile) s = .next (s.outputTile p q tile) := rfl

/-- R460: the tile in the next slot of an input queue goes to the mesh, and the consumer index to the host. -/
def State.passInput (s : State) (p q e : Nat) (tile : List Byte) : State :=
  let d := s.dq (64 * p + q)
  let next := (d.cons + 1) % d.slots
  let a := s.emit (.rdCurr (d.base.toNat + d.cons * (streamSpace e).bytes) (streamSpace e).bytes)
  let a := a.emit (.tile (0x30000 + 64 * p + q) (bits e 15 0) d.seq (tileOf e tile)
    ((s.part p).tileHeader e 0 d.seq (tileOf e tile).length))
  let a := (a.recordTile p (bits e 15 0) d.seq (tileOf e tile)).modDq (64 * p + q) fun d =>
    { d with cons := next, seq := (d.seq + 1) % 2 ^ 48 }
  (a.emit (.hostWrite d.index.toNat (leBytes 4 next))).recompute p

/-- R460: a tile that a station has sent fills the next slot of an output queue, and the producer index goes to the host. -/
def State.passOutput (s : State) (p q e : Nat) (tile : List Byte) : State :=
  let d := s.dq (64 * p + q)
  let next := (d.prod + 1) % d.slots
  let a := s.emit (.hostWrite (d.base.toNat + d.prod * (tileOf e tile).length) (tileOf e tile))
  let a := a.modDq (64 * p + q) fun d => { d with prod := next, seq := (d.seq + 1) % 2 ^ 48 }
  (a.emit (.hostWrite d.index.toNat (leBytes 4 next))).creditReturn (sdSrc e) (bits e 15 0) (0x30000 + q) 1

/-- R449: the queue takes the tiles that a replay has recorded, and there is one. -/
def State.takesRecorded (s : State) (p q : Nat) : Bool :=
  s.recov.record ≠ [] && s.recordQueue p == some q && (s.part p).replayKey.isSome

/-- Tiles that the sender of an output queue's stream has sent and the queue has not taken. -/
def State.sentTo (s : State) (q e : Nat) : Nat :=
  sget 0 (sget {} (s.station (sdSrc e)).core.outb (bits e 15 0)).used (0x30000 + q)

section Queue

variable (s : State) (p q : Nat) (hp : p < 8) (hq : q < 64) (hpresent : (s.dq (64 * p + q)).present = true)

include hp hq hpresent

/-- The doorbell of a queue that is there. -/
theorem State.dqDoorbell_present (v : Nat) (hserved : s.cxlServed = true)
    (h : (s.dq (64 * p + q)).slots ≤ v ∨ (s.dq (64 * p + q)).output = false) :
    s.dqDoorbell p q v
      = if (s.dq (64 * p + q)).slots ≤ v then s.modRing 0 fun r => { r with err := true }
        else s.modDq (64 * p + q) fun d => { d with prod := v } := by
  simp only [State.dqDoorbell, hserved, hpresent, Nat.not_le.2 hp, Nat.not_le.2 hq, Bool.true_eq_false, or_self, if_false]
  split
  · rfl
  · next hslot => exact if_pos (h.resolve_left hslot)

/-- R156, R449: an input tile passes once the queue holds one, its stream has credits, and recording does not hold it. -/
theorem State.inputTile_present (e : Nat) (tile : List Byte) (hdir : (s.dq (64 * p + q)).output = false)
    (he : (s.part p).inputStream q = some e) :
    s.inputTile p q tile
      = if (s.dq (64 * p + q)).prod = (s.dq (64 * p + q)).cons
          ∨ ((s.part p).dests e).all (s.inputCredit p e (s.dq (64 * p + q)).seq) = false ∨ s.recordHolds p e = true then s
        else s.passInput p q e tile := by
  simp only [State.inputTile, he, hpresent, hdir, Nat.not_le.2 hp, Nat.not_le.2 hq, Bool.true_eq_false, Bool.false_eq_true,
    false_or]
  rfl

/-- R449: an output queue takes a recorded tile before any other. -/
theorem State.outputTile_present (e : Nat) (tile : List Byte) (hdir : (s.dq (64 * p + q)).output = true)
    (he : (s.part p).outputStream q = some e) :
    s.outputTile p q tile
      = if s.takesRecorded p q = true ∧ (s.dq (64 * p + q)).freeSlots ≠ 0 then s.recordOut p q e
        else if s.sentTo q e = 0 ∨ (s.dq (64 * p + q)).freeSlots = 0 then s
        else s.passOutput p q e tile := by
  have htakes : (s.takesRecorded p q = true ∧ (s.dq (64 * p + q)).freeSlots ≠ 0)
      ↔ (s.dq (64 * p + q)).freeSlots ≠ 0 ∧ s.recov.record ≠ [] ∧ s.recordQueue p = some q
        ∧ (s.part p).replayKey.isSome = true := by
    simp only [State.takesRecorded, Bool.and_eq_true, decide_eq_true_iff, beq_iff_eq]
    tauto
  simp only [htakes, State.outputTile, he, hpresent, hdir, hp, hq, Nat.not_le.2 hp, Nat.not_le.2 hq, Bool.true_eq_false, true_and,
    false_or, or_false]
  rfl

end Queue

end Sys2Proof.Machine
end

section
/-! SUPPORT. Rules of the ends of the long commands (R186, R194, R276, R429, R467, R568). -/

namespace Sys2Proof.Machine

theorem exec_planLoadDone (csn : Nat) (image : List Byte) (s : State) :
    exec (.planLoadDone csn image) s = .next (s.planLoaded csn image) := rfl

theorem exec_pageLoadDone (csn : Nat) (data : List Byte) (s : State) :
    exec (.pageLoadDone csn data) s = .next (s.pagesLoaded csn data) := rfl

theorem exec_pageReadDone (csn : Nat) (s : State) : exec (.pageReadDone csn) s = .next (s.pagesRead csn) := rfl

theorem exec_storeWriteDone (csn : Nat) (data : List Byte) (s : State) :
    exec (.storeWriteDone csn data) s = .next (s.storeWritten csn data) := rfl

theorem exec_storeReadDone (csn : Nat) (s : State) : exec (.storeReadDone csn) s = .next (s.storeRead csn) := rfl

theorem exec_spareConfigDone (csn : Nat) (images : List (List Byte)) (s : State) :
    exec (.spareConfigDone csn images) s = .next (s.spareConfigured csn images) := rfl

/-- The command in flight under a CSN is the one of its opcode. -/
theorem State.flightOf_opcode (s : State) (op csn : Nat) (f : InFlight) (hf : s.flight csn = some f) (hop : f.cmd.opcode = op) :
    s.flightOf op csn = some f := by
  rw [State.flightOf, hf, Option.filter_some, hop, beq_self_eq_true, if_pos rfl]

section Flight

variable (s : State) (csn : Nat) (data : List Byte) (f : InFlight) (hf : s.flight csn = some f)

include hf

/-- R194, R467: the checks of the image choose between the fault's completion and the plan's installation. -/
theorem State.planLoaded_formed (hop : f.cmd.opcode = 0x12) (hformed : (s.part (parP f.cmd.packet.n)).formed = true)
    (hfree : (s.part (parP f.cmd.packet.n)).free = true) (fault : Option PlanFault)
    (h : s.planFault (parP f.cmd.packet.n) (s.part (parP f.cmd.packet.n)).rows.toNat
      (f.read data (bits f.cmd.packet.n 159 128)) (bits f.cmd.packet.n 159 128) = fault) :
    let n := f.cmd.packet.n
    s.planLoaded csn data
      = fault.elim ((s.installPlan (parP n) (Plan.ofImage (f.read data (bits n 159 128))) (bits n 199 160)).final csn {})
          fun g => s.final csn { status := g.1, result := g.2 } := by
  intro n
  simp only [State.planLoaded, s.flightOf_opcode 0x12 csn f hf hop, hformed, hfree, Bool.and_self, Bool.not_true,
    Bool.false_eq_true, if_false, h]
  cases fault <;> rfl

/-- R568: the pages are loaded; the first of which blocks kept their values gives the completion. -/
theorem State.pagesLoaded_planned (hop : f.cmd.opcode = 0x40) (hplanned : (s.part (parP f.cmd.packet.n)).planned = true)
    (howns : s.ownsPages f.cmd.packet.n = true) (t : State) (rest : List Byte) (first : Option Nat) (kept : Nat)
    (h : State.loadPages (parP f.cmd.packet.n) f.cmd.packet.n (cmdPages f.cmd.packet.n)
      (s, f.read data (s.loadLength f.cmd.packet.n), none, 0) = (t, rest, first, kept)) :
    s.pagesLoaded csn data
      = first.elim (t.final csn {}) fun g => t.final csn { status := 0x6005, result := g + min kept (2 ^ 20 - 1) * 2 ^ 28 } := by
  simp only [State.pagesLoaded, s.flightOf_opcode 0x40 csn f hf hop, hplanned, howns, Bool.and_self, Bool.not_true,
    Bool.false_eq_true, if_false, h]
  cases first <;> rfl

/-- R304, R568: the pages that are owned here are read once their components rest in HBM. -/
theorem State.pagesRead_found (hop : f.cmd.opcode = 0x41) (t : State) (ready : Bool)
    (h : s.readReady (parP f.cmd.packet.n) f.cmd.packet.n = (t, ready)) :
    let n := f.cmd.packet.n
    let p := parP n
    let pages := (cmdPages n).filterMap fun g => (t.ownerKpr p g).map fun k => t.readPage k p n g
    let out := pages.flatMap fun d => d.getD []
    s.pagesRead csn
      = if ready = false then t
        else if pages.any (·.isNone) then t.final csn { status := 0x3004 }
        else ((t.nanRead p n).flightData f (bits n 127 64) out).final csn { result := out.length } := by
  intro n p pages out
  simp only [State.pagesRead, s.flightOf_opcode 0x41 csn f hf hop, h, Bool.not_eq_true']
  rfl

/-- R276: a bank range is written where the field is on. -/
theorem State.storeWritten_found (hop : f.cmd.opcode = 0x22) :
    let n := f.cmd.packet.n
    s.storeWritten csn data
      = if (s.field (stField (bits n 15 0))).isOff then s.final csn { status := 0x6002 }
        else (s.writeBank (bits n 15 0) (bits n 39 16) (f.read data (bits n 63 40))).final csn {} := by
  intro n
  simp only [State.storeWritten, s.flightOf_opcode 0x22 csn f hf hop]
  rfl

/-- R467: a bank range whose words are good is copied whole. -/
theorem State.storeRead_good (hop : f.cmd.opcode = 0x23) (hon : (s.field (stField (bits f.cmd.packet.n 15 0))).isOff = false) :
    let n := f.cmd.packet.n
    let words := bits n 63 40 / 8
    (∀ i, i < words → s.bankBad (bits n 15 0) (bits n 39 16 + 8 * i) 8 = false) →
    s.storeRead csn
      = (s.flightData f (bits n 127 64) (s.readBank (bits n 15 0) (bits n 39 16) (8 * words))).final csn {} := by
  intro n words hgood
  have hfind : (List.range words).find? (fun i => s.bankBad (bits n 15 0) (bits n 39 16 + 8 * i) 8) = none :=
    List.find?_eq_none.2 fun i hi => by rw [hgood i (List.mem_range.1 hi)]; exact Bool.false_ne_true
  simp only [State.storeRead, s.flightOf_opcode 0x23 csn f hf hop, hon, Bool.false_eq_true, if_false]
  rw [hfind]

end Flight

/-! ### SPARE_CONFIG (R429, R430) -/

/-- The configuration of a spare that a command's parameters, member list and images give. -/
def spareOf (c : Packet) (images : List (List Byte)) : SpareCfg :=
  { standbyId := bits c.n 11 0, members := spareMembers c, plans := images.map Plan.ofImage, admitWait := bits c.n 25 18
    staged := [] }

/-- The state in which a spare configuration has been loaded in the place of an earlier one. -/
def State.spareLoaded (s : State) (c : SpareCfg) : State :=
  let b := s.closeStandby
  { b with
    recov := { b.recov with spare := some c, role := if c.armed then .armed else .standby }
    mlv := { b.mlv with selfId := BitVec.ofNat 12 c.standbyId } }

section Spare

variable (s : State) (csn : Nat) (images : List (List Byte)) (f : InFlight) (hf : s.flight csn = some f) (hop : f.cmd.opcode = 0x52)

include hf hop

/-- No spare stands by for a member without an ID (log entry 117). -/
theorem State.spareConfigured_unnamed (h : (spareMembers f.cmd.packet).contains 0xFFF = true) :
    s.spareConfigured csn images = s.final csn { status := 0x2003 } := by
  simp only [State.spareConfigured, s.flightOf_opcode 0x52 csn f hf hop, h, if_true]

theorem State.spareConfigured_sound (h : (spareMembers f.cmd.packet).contains 0xFFF = false)
    (hlength : images.length = bits f.cmd.packet.n 17 16 + 1)
    (hsound : ∀ img ∈ images, s.standbyFault (spareMembers f.cmd.packet) img = none) :
    let c := spareOf f.cmd.packet images
    s.spareConfigured csn images = ((s.spareLoaded c).openStandby c).final csn {} := by
  intro c
  have hfind : images.findSome? (s.standbyFault (spareMembers f.cmd.packet)) = none := List.findSome?_eq_none_iff.2 hsound
  simp only [State.spareConfigured, s.flightOf_opcode 0x52 csn f hf hop, h, ← hlength, Nat.sub_self, List.replicate_zero,
    List.append_nil, List.take_length, hfind, Bool.false_eq_true, if_false]
  rfl

end Spare

end Sys2Proof.Machine
end

section
/-! SUPPORT. Rules of the queue of operations: fetch, the gates of an issue, and retirement (R146, R147, R172, R177, R180, R231,
R273, R396, R400, R497). -/

namespace Sys2Proof.Machine

/-! ### Fetch (R147, R172, R400, R497) -/

/-- A station of a partition fetches once the tiles of its replay rings are in. -/
theorem exec_opFetch_station (s : State) (st p : Nat) (hst : s.stPart st = some p) :
    exec (.opFetch st) s = .next ((((s.takeReplay st).fetch st).endHalt st).progress p) := by
  show execOpFetch st s = _
  rw [execOpFetch, hst]

/-- A field of the partition waits, between two passes, to be switched off. -/
def State.heldForOff (s : State) (p : Nat) : Bool :=
  ((s.part p).phase == .idle || (s.part p).phase == .halted) && (s.part p).fields.any s.offWaits

theorem State.heldForOff_iff (s : State) (p : Nat) :
    s.heldForOff p = true
      ↔ ((s.part p).phase = .idle ∨ (s.part p).phase = .halted) ∧ (s.part p).fields.any s.offWaits = true := by
  simp only [State.heldForOff, Bool.and_eq_true, Bool.or_eq_true, beq_iff_eq]

section Fetch

variable (s : State) (st p : Nat) (hst : s.stPart st = some p)

include hst

/-- A station that is stopped, fenced or in error, or whose step is being rolled back, fetches nothing. -/
theorem State.fetch_stops (h : (s.station st).stopped = true ∨ (s.station st).fenced = true ∨ (s.station st).error ≠ 0
    ∨ (s.part p).stopping = true) : s.fetch st = s := by
  simp only [State.fetch, hst]
  refine if_pos ?_
  simp only [Bool.or_eq_true, decide_eq_true_iff]
  tauto

theorem State.fetch_runs (hstop : (s.station st).stopped = false) (hfence : (s.station st).fenced = false)
    (herror : (s.station st).error = 0) (hgoes : (s.part p).stopping = false) :
    s.fetch st = s.modCore st fun c => (s.part p).fetchOp st (if s.heldForOff p then c else (s.part p).nextPass st c) := by
  simp only [State.fetch, hst, hstop, hfence, herror, hgoes, ne_eq, not_true_eq_false, decide_false, Bool.or_self,
    Bool.false_eq_true, if_false]
  rfl

end Fetch

/-! ### The gates of an issue (R146, R180, R231, R241) -/

section Issue

variable (s0 : State) (st id code p : Nat) (e : OpEntry) (eff : State → Nat → OpEntry → State)
  (h : Issues (s0.takeReplay st) st id code p e)

include h

/-- R146: an operation that is skipped leaves the queue. -/
theorem State.issue_skips :
    let s := s0.takeReplay st
    (s.part p).skips st (s.station st).core.probe e = true →
    s0.issue st id code eff = (((s.beginOp st e).dropEntry st id).closePass p st).progress p := by
  intro s hskip
  obtain ⟨hpart, hentry, hcode, hmay, hgoes⟩ := h
  simp only [State.issue, hpart, hentry, hcode, hmay, hgoes, ne_eq, not_true_eq_false, Bool.true_eq_false, Bool.false_eq_true,
    or_self, if_false]
  exact if_pos hskip

variable (hruns : ((s0.takeReplay st).part p).skips st ((s0.takeReplay st).station st).core.probe e = false)

include hruns

/-- R180: an operation that reads a bad word of its own bank stops its station. -/
theorem State.issue_readsBad :
    let s := s0.takeReplay st
    s.readsBad p st (s.station st).core.probe e = true → s0.issue st id code eff = s.stationError st 5 := by
  intro s hbad
  obtain ⟨hpart, hentry, hcode, hmay, hgoes⟩ := h
  simp only [State.issue, hpart, hentry, hcode, hmay, hgoes, hruns, ne_eq, not_true_eq_false, Bool.true_eq_false,
    Bool.false_eq_true, or_self, if_false]
  exact if_pos hbad

/-- R231: an operation that lacks tiles of remote banks asks for them. -/
theorem State.issue_lacksTiles :
    let s := s0.takeReplay st
    let remote := (s.part p).remoteTiles st (s.station st).core.probe e
    s.readsBad p st (s.station st).core.probe e = false → (s.station st).arrived e remote = false →
    s0.issue st id code eff = s.askRemote p st e remote := by
  intro s remote hgood hlacks
  obtain ⟨hpart, hentry, hcode, hmay, hgoes⟩ := h
  simp only [State.issue, hpart, hentry, hcode, hmay, hgoes, hruns, ne_eq, not_true_eq_false, Bool.true_eq_false,
    Bool.false_eq_true, or_self, if_false]
  rw [if_neg (hgood ▸ Bool.false_ne_true)]
  exact if_neg (hlacks ▸ Bool.false_ne_true)

end Issue

/-- R241: the first tile that a station asks for. -/
theorem State.askRemote_first (s : State) (p st : Nat) (e : OpEntry) (t : Nat × Nat × Nat) (h : (s.station st).bankReads = []) :
    s.askRemote p st e [t]
      = (s.modStation st fun x => { x with bankReads := [⟨t.1, t.2.1, t.2.2, e.id, none⟩] }).emit
          (.bankRequest st t.1 t.2.1 t.2.2 1 (e.id % 1024) ((s.part p).requestHeader st t.1 t.2.1 (e.id % 1024))) := by
  simp only [State.askRemote, State.forAll, List.foldl_cons, List.foldl_nil, h, List.any_nil, Bool.false_eq_true, if_false]
  exact congrArg (State.emit · _) (s.modStation_congr st _ _ (by rw [h, List.nil_append]))

/-! ### Retirement (R177, R273, R396, R497) -/

theorem exec_opRetire_station (s : State) (st id p : Nat) (hst : s.stPart st = some p) :
    exec (.opRetire st id) s = .next ((((s.retire st id).endHalt st).retireRecovered st).settle p) := by
  show execOpRetire st id s = _
  rw [execOpRetire, hst]

section Retire

variable (s : State) (st id p : Nat) (e : OpEntry) (hst : s.stPart st = some p) (he : (s.station st).core.entry id = some e)
  (hmul : opCode e.op.toNat ≠ 0x01)

include hst he hmul

/-- R396: in a fenced core no operation retires. -/
theorem State.retire_fenced (hfence : (s.station st).fenced = true) : s.retire st id = s := by
  simp [State.retire, hst, he, hmul, hfence]

/-- R177: the tiles that the operation read are consumed, and its entry and its bank reads are gone. -/
theorem State.retire_gone (hissued : e.issued = true) (hyielded : e.yielded = false) (hgone : s.outputsGone p st e = true)
    (hfenceOp : opCode e.op.toNat ≠ 0x0B) (hpip : opCode e.op.toNat ≠ 0x0C) (hfence : (s.station st).fenced = false) :
    s.retire st id
      = (((((s.consume p st e).dropEntry st id).modStation st fun x =>
          { x with bankReads := x.bankReads.filter fun r => r.op ≠ id }).closePass p st).progress p) := by
  simp [State.retire, hst, he, hmul, hissued, hyielded, hgone, hfenceOp, hpip, hfence]

end Retire

end Sys2Proof.Machine
end

section
/-! The statements about stations and streams: core faults, the issue slots and upkeep of HBM, buckets, data queues, the ends of
the long commands, and the queue of operations. -/

namespace Sys2Proof.Machine

/-- Settles O27: the station's mask, its error and its stream's sender choose the report's effect; the spare, the running fill and
the queue choose what a core fault does. -/
theorem coreFaults : Obligations.CoreFaults := by
  unfold Obligations.CoreFaults
  refine ⟨?reports, ?fills⟩
  case reports =>
    intro s st y heard
    refine ⟨fun hf => ?posts, fun hf => ?fencedPosts, fun hf hsilent => ?silent, fun hheard => ?heard,
      fun hf he => ?watchdog, fun hf he => ?sram, fun hf he => ?array, fun p e code hcode hf he hst hstream hsrc => ?gap,
      fun r code hcode hf he hr => ?keeper, fun bad hf hbad => ?ownBank, fun report hf hfill => ?fenced⟩
    case posts => rw [exec_heartbeatPost, hf, if_neg Bool.false_ne_true]
    case fencedPosts => rw [exec_heartbeatPost, hf, if_pos rfl]
    case silent => rw [exec_heartbeatMissing, if_pos ⟨hf, hsilent⟩]
    case heard => rw [exec_heartbeatMissing, if_neg fun ⟨_, hsilent⟩ => Nat.not_le.2 hheard hsilent]
    case watchdog => exact exec_stationErrorReport_core s st hf 3 (.inl rfl) he
    case sram => exact exec_stationErrorReport_sram s st hf he
    case array => exact exec_stationErrorReport_core s st hf 6 (.inr rfl) he
    case gap => rw [exec_stationErrorReport_gap s st hf code p hcode he hst, s.gapFault_sender st p _ e hstream hsrc]
    case keeper => exact exec_stationErrorReport_keeper s st hf code r hcode he hr
    case ownBank => exact exec_stationErrorReport_ownBank s st hf bad hbad
    case fenced => exact exec_stationErrorReport_fenced s st report hf hfill
  case fills =>
    intro s st i hserves hf he f r before b l go
    have hgo : go = .next (s.coreFault st 1 false none) := exec_stationErrorReport_core s st hf 6 (.inr rfl) he
    have hl : s.fillTo st i 1 false none = l := by
      have htime : s.faultTime st 1 none = (s.station st).errorAt :=
        s.faultTime_reported st 1 (by rw [he]; decide) (by decide) (by decide)
      simp only [State.fillTo, Option.map_none, htime]
      rfl
    refine ⟨fun hspare => ?_, fun hnone => ?_⟩
    · have hfault := s.coreFault_spare st 1 false none hserves i hspare
      rw [hl] at hfault
      rw [hgo, hfault]
      refine ⟨fun hfill => ?starts, fun k hfill hapart hroom => ?waits, fun k hfill hmeets => ?binds⟩
      case starts => rw [hfill, Option.isNone_none, if_pos rfl]
      case waits =>
        rw [hfill, Option.isNone_some, if_neg Bool.false_ne_true, hapart, Bool.false_or,
          decide_eq_false (Nat.not_le.2 hroom), if_neg Bool.false_ne_true]
      case binds =>
        rw [hfill, Option.isNone_some, if_neg Bool.false_ne_true, if_pos (by simpa using hmeets)]
    · rw [hgo, s.coreFault_exhausted st 1 false none hserves hnone]

/-- Settles O34: a granted host request is debited and then accessed; refilling and turning keep the queue; the place of a byte
determines its address. -/
theorem hbmService : Obligations.HbmService := by
  unfold Obligations.HbmService
  refine ⟨?slots, ?upkeep, ?places⟩
  case slots =>
    intro s stk ch q cls hpresent
    refine ⟨fun hfault rs fx bd => ?faulted, fun hfault hchoose hpart hback => ?granted⟩
    case faulted => rw [exec_hbmIssueSlot, s.issueSlot_faulted _ _ _ _ hfault]
    case granted =>
      have hslot := s.issueSlot_host stk ch q cls hpresent hfault hchoose hpart hback
      have hqueue := s.granted_queue stk q cls
      refine ⟨fun d hd => ⟨_, exec_hbmIssueSlot _ _ _ _ s, ?written⟩, fun hd => ⟨_, exec_hbmIssueSlot _ _ _ _ s, ?read⟩⟩
      case written =>
        rw [hslot]
        obtain ⟨hmem, hstack, hout, hstore, hstations, houtside⟩ := (s.granted stk q cls).hostAccess_write q d hd
        refine ⟨fun i hi => ?_, fun a ha => ?_, ?_, hout, hstore, hstations, houtside⟩
        · rw [hmem, sget_writeBytes_inside _ _ _ i hi]
        · rw [hmem, sget_writeBytes_outside _ _ _ a ha]
          rfl
        · rw [State.stack, hstack]
          exact hqueue
      case read =>
        rw [hslot, State.hostAccess_read _ q hd]
        exact ⟨rfl, rfl, hqueue, rfl, rfl⟩
  case upkeep =>
    intro s stk hpresent
    refine ⟨exec_hbmRefresh stk s hpresent, ?falls,
      fun hen hfault hpaused => ⟨fun hpos => ?next, fun hpos => ?last, fun hpos => ?found⟩⟩
    case falls =>
      rw [exec_hbmRefreshModeFall stk s hpresent, State.modeFall]
      have h95 (n : Nat) : decide (95 < n + 2) = decide (93 < n) := decide_eq_decide.2 (by omega)
      have h85 (n : Nat) : decide (85 < n + 2) = decide (83 < n) := decide_eq_decide.2 (by omega)
      simp only [h95, h85]
    case next =>
      rw [exec_hbmScrubBurst, s.hbmScrub_sound stk hpresent hen hfault hpaused]
      exact congrArg _ (s.modStack_congr stk _ _ (if_pos hpos))
    case last =>
      rw [exec_hbmScrubBurst, s.hbmScrub_sound stk hpresent hen hfault hpaused]
      exact congrArg _ (s.modStack_congr stk _ _ (if_neg (by omega)))
    case found =>
      have hstk : stk < 32 := by
        rw [State.stackPresent, Bool.and_eq_true, decide_eq_true_iff] at hpresent
        exact hpresent.1
      have hplace : hbmStack (2 ^ 37 * stk + 64 * (s.stack stk).scrubPos) = stk := by
        rw [Nat.mul_comm]
        exact hbmStack_offset stk _ hstk (by omega)
      refine ⟨_, exec_hbmScrubBurst _ _ _ s, ?_⟩
      rw [s.hbmScrub_bad stk hpresent hen hfault hpaused, Nat.mul_comm stk]
      exact s.burstBad_counts stk _ hplace
  case places => exact ⟨hbmDecode_injective, by decide, by decide, by decide⟩

/-- Settles O35: by the checks of a bucket tile in their order, and by the state of the bucket for each other event. -/
theorem buckets : Obligations.Buckets := by
  unfold Obligations.Buckets
  refine ⟨?tiles, ?events⟩
  case tiles =>
    intro s k p bucket stream seq data hrunning x err bad
    rw [exec_bucketTile_running k p bucket stream seq data s hrunning]
    have hbad : s.bucketError k p stream = bad := rfl
    refine ⟨fun h => ?unknown, fun b e hb he => ⟨fun h => ?unfit, fun hseg hbucket hsize => ?placed⟩⟩
    case unknown => rw [s.bucketTile_unknown k p bucket stream seq data h, hbad]
    case unfit => rw [s.bucketTile_unfit k p bucket stream seq data hb he h, hbad]
    case placed =>
      intro d
      have hmisplaced := s.bucketTile_misplaced k p bucket stream seq data hb he hseg hbucket hsize
      refine ⟨fun h => ?older, fun hpos h => ?ahead, fun h hadmitted => ?next⟩
      case older => rw [hmisplaced (by omega), if_pos h]
      case ahead => rw [hmisplaced (by omega), if_neg (Nat.not_le.2 h), hbad]
      case next => exact congrArg _ (s.bucketTile_admitted k p bucket stream seq data hb he hseg hbucket hsize h hadmitted)
  case events =>
    intro s k p
    refine ⟨exec_bucketAdmit_none k p s, fun n y rest b => exec_bucketAdmit_oldest k p n b y rest s,
      fun bucket g b hb hsent => ⟨fun hacked => ?again, fun hacked => ?first⟩, fun bucket h => ?parked, fun bucket h => ?unparked⟩
    case again => rw [exec_sliceAcknowledged, s.sliceAcked_sent k p bucket g b hb hsent, if_pos hacked]
    case first => rw [exec_sliceAcknowledged, s.sliceAcked_sent k p bucket g b hb hsent, if_neg hacked]
    case parked => rw [exec_parkWriteDone, if_pos h]
    case unparked => rw [exec_parkWriteDone, h, if_neg Bool.false_ne_true]

/-- Settles O47: the queue's direction, its indexes, credits and slots choose the branch of each event. -/
theorem dataQueues : Obligations.DataQueues := by
  unfold Obligations.DataQueues
  intro s p q v tile e hserved hp hq d n hpresent
  refine ⟨fun hslot => ?outside, fun hslot hdir => ?producer, fun hdir he => ?input, fun hdir he => ?output⟩
  case outside => rw [exec_cxlDqDb, s.dqDoorbell_present p q hp hq hpresent n hserved (.inl hslot), if_pos hslot]
  case producer => rw [exec_cxlDqDb, s.dqDoorbell_present p q hp hq hpresent n hserved (.inr hdir), if_neg (Nat.not_le.2 hslot)]
  case input =>
    rw [exec_dqInputTile, s.inputTile_present p q hp hq hpresent e tile hdir he]
    refine ⟨fun h => ?waits, fun hsome hcredit hfree => ?passes⟩
    case waits => rw [if_pos h]
    case passes =>
      rw [if_neg]
      · rfl
      · rintro (h | h | h)
        · exact hsome h
        · exact absurd (hcredit.symm.trans h) (by decide)
        · exact absurd (hfree.symm.trans h) (by decide)
  case output =>
    intro sent next record
    rw [exec_dqOutputTile, s.outputTile_present p q hp hq hpresent e tile hdir he]
    refine ⟨fun hrecord hroom => ?recorded, fun h => ?waits, fun hrecord hsent hroom => ?passes⟩
    case recorded =>
      rw [if_pos ⟨hrecord, hroom⟩]
    case waits =>
      have hnone : s.sentTo q e = 0 ∨ d.freeSlots = 0 := h.imp And.right id
      rw [if_neg, if_pos hnone]
      rintro ⟨htakes, hroom⟩
      rcases h with ⟨hrecord, -⟩ | hfull
      · exact absurd (htakes.symm.trans hrecord) (by decide)
      · exact hroom hfull
    case passes =>
      rw [if_neg, if_neg]
      · rfl
      · rintro (h | h)
        · exact hsent h
        · exact hroom h
      · rintro ⟨htakes, -⟩
        exact absurd (htakes.symm.trans hrecord) (by decide)

/-- Settles O11: the command in flight under the CSN is the one whose end this is, and its checks choose the completion. -/
theorem longCommandsEnd : Obligations.LongCommandsEnd := by
  unfold Obligations.LongCommandsEnd
  intro s csn data f hf n p st
  refine ⟨fun hop hformed hfree => ?planLoad, fun hop hplanned howns t rest kept => ?pageLoad, fun hop t => ?pageRead,
    fun hop => ?storeWrite, fun hop hon hgood => ?storeRead, fun hop images => ?spareConfig⟩
  case planLoad =>
    intro img
    rw [exec_planLoadDone]
    exact ⟨fun status offset h => congrArg _ (s.planLoaded_formed csn data f hf hop hformed hfree (some (status, offset)) h),
      fun h => congrArg _ (s.planLoaded_formed csn data f hf hop hformed hfree none h)⟩
  case pageLoad =>
    rw [exec_pageLoadDone]
    exact ⟨fun h => congrArg _ (s.pagesLoaded_planned csn data f hf hop hplanned howns t rest none kept h),
      fun g h => congrArg _ (s.pagesLoaded_planned csn data f hf hop hplanned howns t rest (some g) kept h)⟩
  case pageRead =>
    rw [exec_pageReadDone]
    refine ⟨fun h => ?waits, fun h => ?reads⟩
    case waits => rw [s.pagesRead_found csn f hf hop t false h, if_pos rfl]
    case reads =>
      intro pages out
      rw [s.pagesRead_found csn f hf hop t true h, if_neg (by decide)]
      exact ⟨fun hlacks => congrArg _ (if_pos hlacks), fun hall => congrArg _ (if_neg (hall ▸ Bool.false_ne_true))⟩
  case storeWrite =>
    rw [exec_storeWriteDone, s.storeWritten_found csn data f hf hop]
    exact ⟨fun hon => congrArg _ (if_neg (hon ▸ Bool.false_ne_true)), fun hoff => congrArg _ (if_pos hoff)⟩
  case storeRead => rw [exec_storeReadDone, s.storeRead_good csn f hf hop hon hgood]
  case spareConfig =>
    rw [exec_spareConfigDone]
    refine ⟨fun h => ?unnamed, fun h hlength hsound => ?loaded⟩
    case unnamed => rw [s.spareConfigured_unnamed csn images f hf hop h]
    case loaded => exact congrArg _ (s.spareConfigured_sound csn images f hf hop h hlength hsound)

/-- Settles O20: whether the station runs chooses the fetch; the gates of an issue apply in order; an operation that may retire does
outside a fenced core. -/
theorem operationQueue : Obligations.OperationQueue := by
  unfold Obligations.OperationQueue
  refine ⟨?fetch, ?issue, ?retire⟩
  case fetch =>
    intro s st p hst b x y ready
    have hstb : b.stPart st = some p := by rw [s.takeReplay_stPart, hst]
    rw [exec_opFetch_station s st p hst]
    refine ⟨fun ⟨hstop, hfence, herror, hgoes⟩ h => ?passes, fun ⟨hstop, hfence, herror, hgoes⟩ hphase hoff => ?held,
      fun h => ?stops⟩
    case passes =>
      have hheld : b.heldForOff p = false := by
        rw [← Bool.not_eq_true, b.heldForOff_iff]
        rintro ⟨hphase, hoff⟩
        rcases h with ⟨hidle, hhalted⟩ | hnone
        · exact hphase.elim hidle hhalted
        · exact absurd (hoff.symm.trans hnone) (by decide)
      rw [b.fetch_runs st p hstb hstop hfence herror hgoes, hheld]
      rfl
    case held =>
      have hheld : b.heldForOff p = true := (b.heldForOff_iff p).2 ⟨hphase, hoff⟩
      rw [b.fetch_runs st p hstb hstop hfence herror hgoes, hheld]
      rfl
    case stops => rw [b.fetch_stops st p hstb h]
  case issue =>
    intro s0 st id p e s h probe
    rw [exec_tvec]
    refine ⟨fun hskip => ?skipped, fun hskip hbad => ?bad, fun t hskip hgood ht hnone => ?asks⟩
    case skipped => exact congrArg _ (s0.issue_skips st id 0x07 p e _ h hskip)
    case bad => exact congrArg _ (s0.issue_readsBad st id 0x07 p e _ h hskip hbad)
    case asks =>
      have hlacks : (s.station st).arrived e ((s.part p).remoteTiles st probe e) = false := by
        rw [ht, Station.arrived, hnone]
        rfl
      rw [s0.issue_lacksTiles st id 0x07 p e _ h hskip hgood hlacks]
      exact congrArg _ ((congrArg _ ht).trans (s.askRemote_first p st e t hnone))
  case retire =>
    intro s st id p e hst he hissued hyielded hgone hmul hfenceOp hpip b0 b
    rw [exec_opRetire_station s st id p hst]
    refine ⟨fun hfence => ?retires, fun hfence => ?fenced⟩
    case retires =>
      rw [s.retire_gone st id p e hst he hmul hissued hyielded hgone hfenceOp hpip hfence]
      rfl
    case fenced => rw [s.retire_fenced st id p e hst he hmul hfence]

end Sys2Proof.Machine
end

section
/-! SUPPORT. Rules of requests for bank tiles, of merge windows, and of the rounds of the synchronisation network (R231, R232,
R241, R243 to R246, R274). -/

namespace Sys2Proof.Machine

/-! ### Requests for tiles of a bank (R231, R232, R241) -/

section TileRequest

variable (s : State) (owner region tile : Nat) (m : Nat × Nat) {p d : Nat} (hst : s.stPart owner = some p)
  (hd : ((s.part p).regionsOf owner)[region]? = some d) (htile : tile ≤ bits d 60 48)

include hst hd htile

/-- A request for a tile of a region without MERGE is answered on its own. -/
theorem State.tileRequest_alone (hmerge : d.testBit 26 = false) :
    s.tileRequest owner m region tile = s.respond p owner region d tile false [m] (s.readTile owner d tile) := by
  have hnone : (sget [] s.net.windows owner).find? (fun _ => false) = none := List.find?_eq_none.2 fun _ _ => Bool.false_ne_true
  simp only [State.tileRequest, hst, hd, Nat.not_lt.2 htile, hmerge, Bool.false_and, hnone, Bool.false_eq_true, if_false]

section Reader

variable (hmerge : d.testBit 26 = true) {g : Nat} (hg : (s.part p).readerGroup owner region = some g)
  (hreader : ((s.part p).groupMembers g).contains m.1 = true)

include hmerge hg hreader

/-- R231: the first request of a reader opens the tile's window. -/
theorem State.tileRequest_opens (hws : sget [] s.net.windows owner = []) :
    s.tileRequest owner m region tile = s.setWindows owner [⟨region, tile, [m], [], s.readTile owner d tile⟩] := by
  simp only [State.tileRequest, hst, hd, Nat.not_lt.2 htile, hmerge, hg, hreader, hws, if_false]
  rfl

/-- R232: another reader joins the window that is open, and is counted. -/
theorem State.tileRequest_joins (w : MergeWin) (hws : sget [] s.net.windows owner = [w]) (hregion : w.region = region)
    (hsame : w.tile = tile) (hnew : ∀ q ∈ w.members, q.1 ≠ m.1) :
    s.tileRequest owner m region tile
      = (s.setWindows owner [{ w with members := w.members ++ [m] }]).modField (stField owner) fun f =>
          { f with merged := satAdd 16 f.merged 1 } := by
  have hagain : (w.members.any fun q => q.1 == m.1) = false := List.any_eq_false.2 fun q hq => by simpa using hnew q hq
  have hfind : [w].find? (fun w => w.region == region && w.tile == tile) = some w := by simp [hregion, hsame]
  simp only [State.tileRequest, hst, hd, Nat.not_lt.2 htile, hmerge, hg, hreader, hws, Bool.true_and, hfind, hagain, if_false,
    List.map_cons, List.map_nil, if_true, Bool.false_eq_true]

end Reader

end TileRequest

/-- R231: the window's close answers its members with the tile that was read as it opened. -/
theorem State.closeWindow_answers (s : State) (owner region tile : Nat) {p d : Nat} (w : MergeWin) (data : List Byte)
    (hst : s.stPart owner = some p) (hd : ((s.part p).regionsOf owner)[region]? = some d)
    (hws : sget [] s.net.windows owner = [w]) (hregion : w.region = region) (hsame : w.tile = tile) (hagain : w.again = [])
    (hdata : w.data = some data) :
    s.closeWindow owner region tile
      = (s.setWindows owner []).emit (.bankResponse owner region tile w.members data
          ((s.part p).responseHeader owner region d tile true (w.members.map (·.1)) data.length)) := by
  have hfind : [w].find? (fun w => w.region == region && w.tile == tile) = some w := by simp [hregion, hsame]
  have hd' : (((s.setWindows owner []).part p).regionsOf owner)[region]? = some d := hd
  simp only [State.closeWindow, hst, hws, hfind, hdata, hagain, List.erase_cons_head, hd', Option.getD_some]
  rfl

theorem exec_bankReadRequest (owner requester region : Nat) (tiles : TileRange) (s : State) :
    exec (.bankReadRequest owner requester region tiles) s
      = .next ((List.range tiles.count).foldl (fun s i => s.tileRequest owner (requester, tiles.space) region (tiles.tile + i))
          (s.readFinds owner tiles.bad)) := rfl

/-- A request for one tile whose read finds no word bad. -/
theorem exec_bankReadRequest_one (owner requester region tile space : Nat) (s : State) :
    exec (.bankReadRequest owner requester region ⟨tile, 1, space, []⟩) s
      = .next (s.tileRequest owner (requester, space) region tile) := rfl

theorem exec_mergeWindowClose (owner region tile : Nat) (s : State) :
    exec (.mergeWindowClose owner region tile) s = .next (s.closeWindow owner region tile) := rfl

/-! ### Rounds of the synchronisation network (R243 to R246) -/

theorem State.modSync_congr (s : State) (node ch : Nat) (f g : SyncNode → SyncNode)
    (h : f (s.syncNode node ch) = g (s.syncNode node ch)) : s.modSync node ch f = s.modSync node ch g := by
  simp only [State.modSync, smod, State.syncNode] at h ⊢; rw [h]

theorem State.syncNode_modSync_same (s : State) (node ch : Nat) (f : SyncNode → SyncNode) :
    (s.modSync node ch f).syncNode node ch = f (s.syncNode node ch) := sget_sset_same _ _ _ _

/-- A node sends nothing while one of its members has not posted. -/
theorem State.nodeReady_waits (s : State) (p node ch m : Nat) (hm : m ∈ s.nodeMembers p node ch)
    (hpost : ((s.syncNode node ch).posted.any fun q => q.1 == m) = false) : s.nodeReady p node ch = s := by
  have hall : ((s.nodeMembers p node ch).all fun m => (s.syncNode node ch).posted.any fun q => q.1 == m) = false :=
    List.all_eq_false.2 ⟨m, hm, by rw [hpost]; decide⟩
  exact if_pos (by rw [hall]; simp)

/-- A field node or a field-row node has no leaf that a fence masks (R250). -/
theorem State.masked_above (s : State) (node member : Nat) (h : 1536 ≤ node) : s.masked node member = false := by
  simp only [State.masked, decide_eq_false (Nat.not_lt.2 h), Bool.false_and]

/-- A pip of another KIND is no post. -/
theorem State.syncPost_otherKind (s : State) (node member head value : Nat) (h : bits head 7 5 ≠ 0) :
    s.syncPost node member head value = s := by
  unfold State.syncPost
  dsimp only
  split
  · rfl
  · exact if_pos (.inl h)

/-- A pip of another KIND is no result. -/
theorem State.syncResult_otherKind (s : State) (node head value : Nat) (h : bits head 7 5 ≠ 1) :
    s.syncResult node head value = s := by
  unfold State.syncResult
  dsimp only
  split
  · rfl
  · exact if_pos (.inl h)

/-- R243, R246: a member's post of the other parity waits for the next round, its second of a round is ignored, and its first
counts. -/
theorem State.syncPost_member (s : State) (node member head value : Nat) {p : Nat} (hp : s.nodePart node = some p)
    (hnode : 1536 ≤ node) (hch : bits head 3 0 = 0 ∨ 4 ≤ bits head 3 0)
    (hms : (s.nodeMembers p node (bits head 3 0)).contains member = true) (hkind : bits head 7 5 = 0) :
    s.syncPost node member head value =
      if (s.syncNode node (bits head 3 0)).parity ≠ head.testBit 4 then
        s.modSync node (bits head 3 0) fun n =>
          if n.early.any fun q => q.1 == member then n else { n with early := n.early ++ [(member, value)] }
      else if (s.syncNode node (bits head 3 0)).posted.any fun q => q.1 == member then s
      else (s.modSync node (bits head 3 0) fun n => { n with posted := n.posted ++ [(member, value)] }).nodeReady p node
        (bits head 3 0) := by
  have h1 : bits head 3 0 ≠ 1 := by omega
  have h2 : bits head 3 0 ≠ 2 := by omega
  have h3 : bits head 3 0 ≠ 3 := by omega
  simp only [State.syncPost, hp, hkind, s.masked_above node member hnode, h1, h2, h3, hms, ne_eq, not_true_eq_false,
    Bool.false_eq_true, Bool.true_eq_false, or_self, if_false]

/-- R246: a node that has sent its post passes the result down, and its next round may be ready. -/
theorem State.syncResult_sent (s : State) (node head value : Nat) {p : Nat} (hp : s.nodePart node = some p)
    (hch : bits head 3 0 = 0 ∨ 4 ≤ bits head 3 0) (hkind : bits head 7 5 = 1)
    (hparity : (s.syncNode node (bits head 3 0)).parity = head.testBit 4)
    (hsent : (s.syncNode node (bits head 3 0)).sent = true) :
    s.syncResult node head value
      = (s.resultPasses p node (bits head 3 0) value).nodeReady p node (bits head 3 0) := by
  have h1 : bits head 3 0 ≠ 1 := by omega
  have h2 : bits head 3 0 ≠ 2 := by omega
  have h3 : bits head 3 0 ≠ 3 := by omega
  simp only [State.syncResult, hp, hkind, hparity, hsent, h1, h2, h3, ne_eq, not_true_eq_false, or_self, if_false,
    Bool.true_or, and_self, if_true]

/-- R246: a result changes no station above the rows of cores. -/
theorem State.awaitsOver_above (s : State) (p node ch : Nat) (hnode : 1536 ≤ node) : s.awaitsOver p node ch = s :=
  if_pos hnode

/-- R244, R246: what the result leaves of a node above the rows that holds no early post; from a field-row node that of channel 0
reaches the row's Keeper. -/
theorem State.resultPasses_above (s : State) (p node ch value : Nat) (hnode : 1536 ≤ node)
    (hearly : (s.syncNode node ch).early = []) :
    let b := (s.emit (.pip node (pipBytes ch (s.syncNode node ch).parity 1 value))).modSync node ch fun n =>
      { parity := !n.parity }
    s.resultPasses p node ch value
      = if ch = 0 ∧ 1600 ≤ node then b.modPart p fun x => { x with fenceRows := insertOnce (node - 1600) x.fenceRows }
        else b := by
  intro b
  have hb : (s.emit (.pip node (pipBytes ch (s.syncNode node ch).parity 1 value))).modSync node ch
      (fun n => { parity := !n.parity, posted := n.early, early := [], sent := false }) = b :=
    State.modSync_congr _ _ _ _ _ (congrArg (SyncNode.mk _ · [] false) hearly)
  simp only [State.resultPasses, hb, State.awaitsOver_above _ p node ch hnode]

/-- The next round of such a node has no post. -/
theorem State.resultPasses_posted (s : State) (p node ch value : Nat) (hnode : 1536 ≤ node)
    (hearly : (s.syncNode node ch).early = []) : ((s.resultPasses p node ch value).syncNode node ch).posted = [] := by
  rw [s.resultPasses_above p node ch value hnode hearly]
  split <;> exact congrArg SyncNode.posted (State.syncNode_modSync_same _ node ch _)

/-- A result leaves who is a member of a node. -/
theorem State.resultPasses_members (s : State) (p node ch value : Nat) (hnode : 1536 ≤ node)
    (hearly : (s.syncNode node ch).early = []) :
    (s.resultPasses p node ch value).nodeMembers p node ch = s.nodeMembers p node ch := by
  rw [s.resultPasses_above p node ch value hnode hearly]
  split
  · unfold State.nodeMembers
    rw [State.part_modPart_same]
    rfl
  · rfl

theorem exec_syncPost (node member : Nat) (head value : Byte) (s : State) :
    exec (.syncPost node member head value) s = .next (s.syncPost node member head.toNat value.toNat) := rfl

theorem exec_syncResult (node : Nat) (head value : Byte) (s : State) :
    exec (.syncResult node head value) s = .next (s.syncResult node head.toNat value.toNat) := rfl

end Sys2Proof.Machine
end

section
/-! SUPPORT. Rules of packets, links and truncation flits at a router (R218 to R221, R223, R226, R227, R249, R251). -/

namespace Sys2Proof.Machine

/-! ### Links (R218, R219, R221) -/

/-- R219: the first two uncorrectable receipts of a flit ask for it again. -/
theorem State.badFlit_retry (s : State) (bulk : Bool) (gx gy port : Nat) (h : (s.link (linkIdx bulk gx gy port)).retries < 2) :
    s.badFlit bulk gx gy port
      = (s.modLink (linkIdx bulk gx gy port) fun l => { l with retries := l.retries + 1 }).modField (routerField gx gy) fun x =>
          { x with retries := satAdd 16 x.retries 1 } := if_neg (Nat.not_le.2 h)

/-- R221: the third makes the link unrepairable. -/
theorem State.badFlit_third (s : State) (bulk : Bool) (gx gy port : Nat)
    (h : 2 ≤ (s.link (linkIdx bulk gx gy port)).retries) :
    s.badFlit bulk gx gy port
      = (s.modLink (linkIdx bulk gx gy port) fun l => { l with retries := 0 }).unrepairable gx gy port := if_pos h

/-! ### Packets that a router takes (R218, R219, R223, R249, R251) -/

/-- R251: a dead router takes no packet. -/
theorem State.routerPacket_dead (s : State) (bulk : Bool) (gx gy port : Nat) (a : Arrival) (h : s.deadSite gx gy = true) :
    s.routerPacket bulk gx gy port a = s := if_pos (.inr (.inr (.inr h)))

/-- R218: a router that works receives the packet, unless its link is paused. -/
theorem State.routerPacket_alive (s : State) (bulk : Bool) (gx gy port : Nat) (a : Arrival) (hx : gx < 200) (hy : gy < 192)
    (hport : port < 6) (h : s.deadSite gx gy = false) :
    s.routerPacket bulk gx gy port a =
      if port < 4 ∧ (s.link (linkIdx bulk gx gy port)).paused = true then
        s.modLink (linkIdx bulk gx gy port) fun l => { l with arrived := l.arrived ++ [a] }
      else s.receive bulk gx gy port a :=
  if_neg fun hout => by
    rw [h] at hout
    simp only [Bool.false_eq_true, or_false] at hout
    omega

/-- R219: a packet with an uncorrectable flit is not taken. -/
theorem State.receive_bad (s : State) (bulk : Bool) (gx gy port : Nat) (a : Arrival) (hport : port < 4) (hbad : a.bad = true) :
    s.receive bulk gx gy port a = s.badFlit bulk gx gy port :=
  if_pos (by rw [hbad, decide_eq_true hport]; rfl)

/-- R249: what a fenced core emits is discarded. -/
theorem State.receive_fenced (s : State) (bulk : Bool) (gx gy : Nat) (a : Arrival) (hiso : s.portIsolated gx gy = true)
    (hcore : fromBank bulk a.header = false) : s.receive bulk gx gy 4 a = s.discard gx gy := by
  have hlink : ¬ (decide (4 < 4) && a.bad) = true := Bool.false_ne_true
  rw [State.receive, if_neg hlink]
  exact if_pos ⟨rfl, hiso, hcore⟩

/-- No packet is incomplete where every one is whole. -/
theorem State.partialAt_whole (s : State) (bulk : Bool) (gx gy port : Nat) (ok : Nat → Bool)
    (h : ∀ w ∈ s.net.heads, w.whole = true) : s.partialAt bulk gx gy port ok = none := by
  have hnone : (s.net.heads.zipIdx.find? fun q =>
      q.1.bulk == bulk && q.1.gx == gx && q.1.gy == gy && q.1.port == port && !q.1.whole && ok q.1.header) = none := by
    refine List.find?_eq_none.2 fun q hq => ?_
    simp [h q.1 (List.fst_mem_of_mem_zipIdx hq)]
  rw [State.partialAt, hnone]
  rfl

section FromSite

variable (s : State) (bulk : Bool) (gx gy : Nat) (a : Arrival)
  (hopen : s.portIsolated gx gy = false ∨ fromBank bulk a.header = true) (hwhole : ∀ w ∈ s.net.heads, w.whole = true)

include hopen

/-- A packet of the site is not discarded for the fence of its core. -/
theorem State.not_fencedOut : ¬ (s.portIsolated gx gy = true ∧ fromBank bulk a.header = false) := by
  rintro ⟨hfence, hcore⟩
  rcases hopen with h | h
  · exact Bool.false_ne_true (h.symm.trans hfence)
  · exact Bool.false_ne_true (hcore.symm.trans h)

include hwhole

/-- R223: a packet of the site that the router must discard is counted and reported. -/
theorem State.receive_malformed (houts : s.outputs bulk gx gy 4 a.header a.escape a.length a.ended = none) :
    s.receive bulk gx gy 4 a = s.routerError gx gy a.header := by
  have hbooked : s.bookedAt bulk gx gy 4 a = none := rfl
  have harrive : s.arriveAt bulk gx gy 4 a = s := rfl
  simp only [State.receive, s.not_fencedOut bulk gx gy a hopen, s.partialAt_whole bulk gx gy 4 _ hwhole, Nat.lt_irrefl,
    Nat.reduceEqDiff, decide_false, Bool.false_and, Bool.false_eq_true, true_and, false_and, if_false, hbooked, harrive,
    Option.map_none, houts]
  exact if_pos (by decide)

/-- R226: any other enters the router's buffers, where none of its copies goes to a fenced core. -/
theorem State.receive_enters (outs : List Copy)
    (houts : s.outputs bulk gx gy 4 a.header a.escape a.length a.ended = some outs) (hne : outs ≠ [])
    (hcore : s.portIsolated gx gy = true → ∀ c ∈ outs, c.port ≠ 4) :
    s.receive bulk gx gy 4 a = s.intake bulk gx gy 4 a.header a outs := by
  have hbooked : s.bookedAt bulk gx gy 4 a = none := rfl
  have harrive : s.arriveAt bulk gx gy 4 a = s := rfl
  have hlost : (outs.filter fun c => c.port == 4 && s.portIsolated gx gy && !takenAtHome bulk gx gy c.header) = [] := by
    refine List.filter_eq_nil_iff.2 fun c hc hgone => ?_
    simp only [Bool.and_eq_true, beq_iff_eq] at hgone
    exact hcore hgone.1.2 c hc hgone.1.1
  have hall : (outs.filter fun c => !([] : List Copy).contains c) = outs := List.filter_eq_self.2 fun _ _ => rfl
  simp only [State.receive, s.not_fencedOut bulk gx gy a hopen, s.partialAt_whole bulk gx gy 4 _ hwhole, Nat.lt_irrefl,
    Nat.reduceEqDiff, decide_false, Bool.false_and, Bool.false_eq_true, true_and, false_and, if_false, hbooked, harrive,
    Option.map_none, houts, hlost, hall, hne]
  rfl

end FromSite

/-! ### Packets that leave a router (R220, R227) -/

/-- Routers without packets send nothing. -/
theorem State.drain_empty (n : Nat) (rs : List (Bool × Nat × Nat)) (s : State) (h : s.net.heads = []) :
    State.drain n rs s = s := by
  induction n generalizing rs with
  | zero => rfl
  | succ n ih =>
    cases rs with
    | nil => rfl
    | cons r rs =>
      have hstore : s.storable r.1 r.2.1 r.2.2 = none := by simp [State.storable, h]
      have hgrant : ∀ rsp q, s.grantOf r.1 rsp r.2.1 r.2.2 q = none := by simp [State.grantOf, h]
      simp only [State.drain, hstore, hgrant]
      exact ih rs

theorem bits_mul_le (n hi lo : Nat) : bits n hi lo * 2 ^ lo ≤ n := by
  calc bits n hi lo * 2 ^ lo ≤ (n / 2 ^ lo) * 2 ^ lo :=
        Nat.mul_le_mul_right _ (by rw [bits, Nat.shiftRight_eq_div_pow]; exact Nat.mod_le _ _)
    _ ≤ n := Nat.div_mul_le_self _ _

/-- R227: a packet that leaves as it comes has its header. -/
theorem State.aged_fresh (s : State) (w : Head) (h : Nat) (hsince : w.since = s.clk.rootTime) : s.aged w h = h := by
  have hle : ∀ lo, bits h (lo + 5) lo ≤ 63 := fun lo => by
    have : bits h (lo + 5) lo < 2 ^ (lo + 5 + 1 - lo) := Nat.mod_lt _ (Nat.two_pow_pos _)
    rw [show lo + 5 + 1 - lo = 6 by omega] at this
    omega
  simp only [State.aged, hsince, Nat.sub_self, Nat.zero_div, Nat.add_zero]
  rw [Nat.min_eq_right (hle _), Nat.sub_add_cancel (bits_mul_le _ _ _)]

/-- The grants of twelve turns, two for each output, find the one output that has a packet. -/
theorem findSome?_turns {α : Type} (x : α) (k : Nat) (hk : k < 6) :
    ((List.range 12).findSome? fun q => if q / 2 = k then some x else none) = some x := by
  interval_cases k <;> rfl

section Leaves

variable (s : State) (w : Head) (c : Copy) (hheads : s.net.heads = [w]) (houts : w.outs = [c]) (hport : 4 ≤ c.port)

include hport

/-- Only a copy for another router waits for alternates or for room there. -/
theorem State.awaitsAlternate_local : s.awaitsAlternate w c = false := by
  simp only [State.awaitsAlternate, decide_eq_false (Nat.not_lt.2 hport), Bool.and_false, Bool.false_and]

theorem State.roomFor_local : s.roomFor w c = true := if_pos hport

include hheads houts

theorem State.storable_local (bulk : Bool) (gx gy : Nat) (hbranch : w.branch = false) : s.storable bulk gx gy = none := by
  simp [State.storable, hheads, houts, hbranch, s.awaitsAlternate_local w c hport]

/-- The one packet of the routers is granted its output. -/
theorem State.grantOf_local (rsp : Bool) (q : Nat) (hbulk : w.bulk = true) (hbranch : w.branch = false)
    (hstored : w.stored = false) :
    s.grantOf true rsp w.gx w.gy q = if q = c.port then some (0, c) else none := by
  have hgo : s.mayGo 0 w = true := by simp [State.mayGo, hbranch, hstored]
  by_cases hq : q = c.port
  · simp [State.grantOf, hheads, houts, hbulk, hgo, hq, s.roomFor_local w c hport]
  · simp [State.grantOf, hheads, houts, hbulk, hgo, hq, Ne.symm hq]

/-- R227: as such a packet is sent, it goes out with its header, and the routers are empty. -/
theorem State.sendCopy_local (hwhole : w.whole = true) (hstored : w.stored = false) (hsince : w.since = s.clk.rootTime) :
    let t := (s.sendCopy 0 w c).1
    t.out = .packet w.gx w.gy c.port w.bulk c.header c.escape :: s.out ∧ t.net.heads = [] ∧ t.parts = s.parts
      ∧ t.stations = s.stations ∧ t.fields = s.fields ∧ t.store = s.store := by
  have haged := s.aged_fresh w c.header hsince
  simp only [State.sendCopy, State.emit_others, hheads, houts, haged, hwhole, hstored, Nat.not_lt.2 hport, List.erase_cons_head,
    List.eraseIdx_cons_zero, Bool.false_eq_true, and_self, if_true, if_false]
  exact ⟨rfl, rfl, rfl, rfl, rfl, rfl⟩

/-- R227: the one packet of the routers, whole and for its own site, leaves at once. -/
theorem State.flow_local (hport' : c.port < 6) (hbulk : w.bulk = true) (hwhole : w.whole = true) (hbranch : w.branch = false)
    (hstored : w.stored = false) (hsince : w.since = s.clk.rootTime) :
    s.flow [(true, w.gx, w.gy)] = (s.sendCopy 0 w c).1 := by
  have hgrant : ((List.range 12).findSome? fun q => s.grantOf true (q % 2 == 1) w.gx w.gy (q / 2)) = some (0, c) := by
    simp only [s.grantOf_local w c hheads houts hport _ _ hbulk hbranch hstored]
    exact findSome?_turns (0, c) c.port hport'
  obtain ⟨-, hempty, -⟩ := s.sendCopy_local w c hheads houts hport hwhole hstored hsince
  simp only [State.flow, hheads, houts, List.foldl_cons, List.foldl_nil, List.length_cons, List.length_nil, State.drain,
    s.storable_local w c hheads houts hport _ _ _ hbranch, hgrant]
  exact State.drain_empty _ _ _ hempty

end Leaves

/-- R227: a whole packet of the site that finds the routers empty and goes to the core or the tap there leaves at once. -/
theorem State.intake_leaves (s : State) (gx gy h : Nat) (a : Arrival) (c : Copy) (hended : a.ended = true)
    (hheads : s.net.heads = []) (hport : 4 ≤ c.port) (hport' : c.port < 6) :
    let t := s.intake true gx gy 4 h a [c]
    t.out = .packet gx gy c.port true c.header c.escape :: s.out ∧ t.net.heads = [] ∧ t.parts = s.parts
      ∧ t.stations = s.stations ∧ t.fields = s.fields ∧ t.store = s.store := by
  unfold State.intake
  extract_lets h' ch flits w b net t
  let entered : State := { b with net := { net with heads := net.heads ++ [w] } }
  have hone : entered.net.heads = [w] := congrArg (· ++ [w]) hheads
  have ht : t = (entered.sendCopy 0 w c).1 := entered.flow_local w c hone rfl hport hport' rfl hended rfl rfl rfl
  rw [ht]
  exact entered.sendCopy_local w c hone rfl hport hended rfl rfl

/-! ### Truncation flits (R220) -/

/-- Outputs for each element of a list come one after another. -/
theorem foldl_emit {α : Type} (f : α → Out) (l : List α) (s : State) :
    l.foldl (fun s q => s.emit (f q)) s = { s with out := (l.reverse.map f) ++ s.out } := by
  induction l generalizing s with
  | nil => rfl
  | cons a l ih =>
    rw [List.foldl_cons, ih]
    simp [State.emit]

/-- R220: the one packet of the routers, cut off, leaves a truncation flit on every output that it has taken. -/
theorem State.truncate_one (s : State) (gx gy port : Nat) (w : Head) (hheads : s.net.heads = [w]) (hbulk : w.bulk = true)
    (hx : w.gx = gx) (hy : w.gy = gy) (hport : w.port = port) (hpart : w.whole = false) :
    let t := s.truncate gx gy port
    t.out = (w.taken.reverse.map fun q => .truncation gx gy q) ++ s.out ∧ t.net.heads = [] ∧ t.parts = s.parts
      ∧ t.stations = s.stations ∧ t.fields = s.fields ∧ t.store = s.store := by
  have hfind : s.partialAt true gx gy port (fun _ => true) = some (0, w) := by
    simp [State.partialAt, hheads, hbulk, hx, hy, hport, hpart]
  simp only [State.truncate, hfind, State.dropPartial, State.forAll, foldl_emit]
  rw [State.flow, State.drain_empty _ _ _ (congrArg (·.eraseIdx 0) hheads), hx, hy]
  exact ⟨rfl, congrArg (·.eraseIdx 0) hheads, rfl, rfl, rfl, rfl⟩

/-- Where no packet is incomplete a truncation flit has no effect. -/
theorem State.truncate_none (s : State) (gx gy port : Nat) (h : s.net.heads = []) : s.truncate gx gy port = s := by
  have hnone : s.partialAt true gx gy port (fun _ => true) = none :=
    s.partialAt_whole true gx gy port _ fun w hw => absurd (h ▸ hw) List.not_mem_nil
  rw [State.truncate, hnone]

/-! ### The rows of the networks -/

theorem exec_routerPacket_bulk (gx gy port length : Nat) (header : BitVec 512) (ended bad : Bool) (s : State) :
    exec (.routerPacket true gx gy port header false ⟨length, [], ended⟩ bad) s
      = .next (s.routerPacket true gx gy port ⟨header.toNat, length, [], bad, false, ended⟩) := rfl

theorem exec_linkSteerResume (bulk : Bool) (gx gy port : Nat) (s : State) :
    exec (.linkSteerResume bulk gx gy port) s = .next (s.resumeLink bulk gx gy port) := rfl

theorem exec_checkFlit_good (bulk : Bool) (gx gy port : Nat) (s : State) :
    exec (.checkFlit bulk gx gy port true) s
      = .next (s.modLink (linkIdx bulk gx gy port) fun l => { l with flits := l.flits + 1, retries := 0 }) := rfl

theorem exec_checkFlit_bad (bulk : Bool) (gx gy port : Nat) (s : State) :
    exec (.checkFlit bulk gx gy port false) s = .next (s.badFlit bulk gx gy port) := rfl

theorem exec_truncationFlit (gx gy port : Nat) (s : State) :
    exec (.truncationFlit gx gy port) s = .next (s.truncate gx gy port) := rfl

end Sys2Proof.Machine
end

section
/-! SUPPORT. Rules of a contribution at a node of a reduction tree (R235 to R238). -/

namespace Sys2Proof.Machine

/-- The entry of a node names the tree and the node's site (R233). -/
theorem Part.nodeEntry_keys (x : Part) {tree site n : Nat} (h : x.nodeEntry tree site = some n) :
    bits n 5 0 = tree ∧ bits n 23 8 = site := by
  have hkeys := List.find?_some h
  rwa [Bool.and_eq_true, beq_iff_eq, beq_iff_eq] at hkeys

/-- The state of a tree node. -/
abbrev State.treeNode (s : State) (i : Nat) : TreeNode := sget {} s.net.nodes i

@[simp] theorem State.treeNode_modNode_same (s : State) (i : Nat) (f : TreeNode → TreeNode) :
    (s.modNode i f).treeNode i = f (s.treeNode i) := sget_sset_same _ _ _ _

/-- A contribution waits at its input of a node, with the micro-step and offset of its SEQ. -/
def TreeNode.took (input micro off : Nat) (data : List Byte) (t : TreeNode) : TreeNode :=
  let waiting := sget [] t.inputs input
  { t with
    inputs := sset [] t.inputs input (waiting ++ [data])
    keys := if t.keys.length ≤ waiting.length then t.keys ++ [(micro, off)] else t.keys }

/-! ### What a node combines (R235 to R238) -/

@[simp] theorem State.combine_nil (p tree e k : Nat) (s : State) : State.combine p tree e k [] s = s := by
  cases k <;> rfl

/-- R235: a node does not combine while an input has no tile, or the parent no place. -/
theorem State.combine_waits (p tree e k site : Nat) (rest : List Nat) (s : State) {n : Nat}
    (hn : (s.part p).nodeEntry tree site = some n)
    (hwait : (∃ j ≤ bits n 26 24, sget [] (s.treeNode (nodeIdx p tree site)).inputs j = [])
      ∨ (s.part p).parentRoom e n ≤ (s.treeNode (nodeIdx p tree site)).used) :
    State.combine p tree e (k + 1) (site :: rest) s = State.combine p tree e k rest s := by
  have hlacks : (∃ j ≤ bits n 26 24, sget [] (s.treeNode (nodeIdx p tree site)).inputs j = []) →
      ((List.range (bits n 26 24 + 1)).filterMap fun j => (sget [] (s.treeNode (nodeIdx p tree site)).inputs j).head?).length
        < (List.range (bits n 26 24 + 1)).length := by
    rintro ⟨j, hj, hempty⟩
    refine List.length_filterMap_lt_length_iff_exists.2 ⟨j, List.mem_range.2 (Nat.lt_succ_of_le hj), ?_⟩
    rw [hempty, List.head?_nil]
  simp only [State.combine, hn]
  refine if_pos ?_
  simp only [Bool.or_eq_true, decide_eq_true_eq]
  exact hwait.elim (fun h => .inl (.inr (hlacks h))) .inr

theorem State.combineFrom_waits (s : State) (p tree e site : Nat) {n : Nat} (hn : (s.part p).nodeEntry tree site = some n)
    (hwait : (∃ j ≤ bits n 26 24, sget [] (s.treeNode (nodeIdx p tree site)).inputs j = [])
      ∨ (s.part p).parentRoom e n ≤ (s.treeNode (nodeIdx p tree site)).used) :
    s.combineFrom p tree e site = s :=
  (State.combine_waits p tree e _ site [] s hn hwait).trans (State.combine_nil _ _ _ _ s)

/-- R235: a node with one input sends on the tile that waits there. -/
def TreeNode.sentOn (t : TreeNode) : TreeNode :=
  { t with
    expect := (t.expect + 1) % 2 ^ 48, keys := t.keys.drop 1, used := t.used + 1
    inputs := sset [] t.inputs 0 ((sget [] t.inputs 0).drop 1) }

/-- R235: the place of a station's contribution is free again with a credit. -/
theorem State.freePlace_station (s : State) (p n input : Nat)
    (h : isChild ((s.part p).treeNodes (bits n 5 0)) n ((nodeInputs n).getD input 0) = false) :
    s.freePlace p n input = s.emit (.nodeCredit p (bits n 5 0) (bits n 23 8) input) :=
  if_neg fun hchild => Bool.false_ne_true (h.symm.trans hchild.1)

section Single

variable (s : State) (p tree e site micro off : Nat) (data : List Byte) {n : Nat}
  (hn : (s.part p).nodeEntry tree site = some n) (hsingle : bits n 26 24 = 0)
  (hstation : isChild ((s.part p).treeNodes tree) n ((nodeInputs n).getD 0 0) = false)

/-- The state in which a node with one input, of a station, has sent on the tile that waits there and returned its credit. -/
def State.sentOn (n : Nat) : State :=
  let t := s.treeNode (nodeIdx p tree site)
  let out := (s.part p).combined e n micro off [data]
  ((s.modNode (nodeIdx p tree site) TreeNode.sentOn).emit
    (.contribution p tree site t.expect out ((s.part p).nodeHeader e n t.expect out.length))).emit (.nodeCredit p tree site 0)

theorem State.sentOn_node : (s.sentOn p tree e site micro off data n).treeNode (nodeIdx p tree site)
    = (s.treeNode (nodeIdx p tree site)).sentOn := s.treeNode_modNode_same _ _

variable (hlive : (s.treeNode (nodeIdx p tree site)).halted = false)
  (htile : sget [] (s.treeNode (nodeIdx p tree site)).inputs 0 = [data])
  (hkey : (s.treeNode (nodeIdx p tree site)).keys = [(micro, off)])
  (hroom : (s.treeNode (nodeIdx p tree site)).used < (s.part p).parentRoom e n)

include hn hsingle hstation hlive htile hkey hroom

theorem State.combine_single (k : Nat) :
    State.combine p tree e (k + 1) [site] s = State.combine p tree e k [site] (s.sentOn p tree e site micro off data n) := by
  obtain ⟨htree, hsite⟩ := (s.part p).nodeEntry_keys hn
  have hinputs : nodeInputs n = [(nodeInputs n).getD 0 0] := by rw [nodeInputs, hsingle]; rfl
  have hchildren : (nodeInputs n).filter (fun v => isChild ((s.part p).treeNodes tree) n v) = [] := by
    rw [hinputs, List.filter_cons_of_neg (by rw [hstation]; exact Bool.false_ne_true), List.filter_nil]
  have hfree : ∀ t : State, t.part p = s.part p → t.freePlace p n 0 = t.emit (.nodeCredit p tree site 0) := fun t ht => by
    rw [t.freePlace_station p n 0 (by rw [ht, htree]; exact hstation), htree, hsite]
  simp only [State.combine, hn, hsingle, Nat.zero_add, List.range_one, List.filterMap_cons, List.filterMap_nil, List.head?_cons,
    htile, hlive, hkey, hchildren, List.length_cons, List.length_nil, Nat.lt_irrefl, decide_false, Bool.or_self,
    Bool.false_eq_true, Nat.not_le.2 hroom, if_false, State.forAll, List.foldl_cons, List.foldl_nil]
  exact congrArg (State.combine p tree e k [site]) (hfree _ rfl)

/-- R235: such a node has nothing more to send then. -/
theorem State.combineFrom_single : s.combineFrom p tree e site = s.sentOn p tree e site micro off data n := by
  have hempty : sget [] ((s.sentOn p tree e site micro off data n).treeNode (nodeIdx p tree site)).inputs 0 = [] := by
    rw [s.sentOn_node, TreeNode.sentOn, sget_sset_same, htile]
    rfl
  calc s.combineFrom p tree e site = State.combine p tree e (_ + 1) [site] (s.sentOn p tree e site micro off data n) :=
        s.combine_single p tree e site micro off data hn hsingle hstation hlive htile hkey hroom _
    _ = State.combine p tree e _ [] (s.sentOn p tree e site micro off data n) :=
        State.combine_waits p tree e _ site [] _ hn (.inl ⟨0, Nat.zero_le _, hempty⟩)
    _ = s.sentOn p tree e site micro off data n := State.combine_nil _ _ _ _ _

end Single

/-! ### What a contribution does as it comes (R235, R236) -/

section Contribution

variable (s : State) (p tree site input seq micro off : Nat) (data : List Byte) {n e : Nat}
  (hn : (s.part p).nodeEntry tree site = some n) (he : (s.part p).treeStream tree = some e)
  (hlive : (s.treeNode (nodeIdx p tree site)).halted = false) (hinput : input ≤ bits n 26 24)
  (hlen : data.length = (streamSpace e).bytes)

include hn he hlive hinput hlen

/-- R235, R236: by its place in the sequence and the places of its input a contribution halts the tree, does not enter, or
waits at the node, which combines. -/
theorem State.contribute_cases :
    let i := nodeIdx p tree site
    let waiting := sget [] (s.treeNode i).inputs input
    s.contribute p tree site input seq micro off data =
      if seqAhead 48 ((s.treeNode i).expect + waiting.length) seq ≠ 0 then
        ((s.modNode i fun t => { t with halted := true }).modField (stField site) fun f => { f with treeHalt := true }).emit
          (.report site 0x21)
      else if bits n 199 192 ≤ waiting.length then s
      else (s.modNode i (TreeNode.took input micro off data)).combineFrom p tree e site := by
  intro i waiting
  simp only [State.contribute, hn, he, hlive, decide_eq_false (Nat.not_lt.2 hinput), hlen, ne_eq, not_true_eq_false,
    decide_false, Bool.or_self, Bool.false_eq_true, if_false]
  rfl

/-- R235: one in sequence enters where its input has a place. -/
theorem State.contribute_enters
    (hseq : seqAhead 48 ((s.treeNode (nodeIdx p tree site)).expect
      + (sget [] (s.treeNode (nodeIdx p tree site)).inputs input).length) seq = 0)
    (hplace : (sget [] (s.treeNode (nodeIdx p tree site)).inputs input).length < bits n 199 192) :
    s.contribute p tree site input seq micro off data
      = (s.modNode (nodeIdx p tree site) (TreeNode.took input micro off data)).combineFrom p tree e site :=
  (s.contribute_cases p tree site input seq micro off data hn he hlive hinput hlen).trans
    ((if_neg (not_not_intro hseq)).trans (if_neg (Nat.not_le.2 hplace)))

/-- R235: it waits while another input has no tile, or the parent no place. -/
theorem State.contribute_waits :
    let i := nodeIdx p tree site
    let t := s.treeNode i
    seqAhead 48 (t.expect + (sget [] t.inputs input).length) seq = 0 → (sget [] t.inputs input).length < bits n 199 192 →
    ((∃ j ≤ bits n 26 24, j ≠ input ∧ sget [] t.inputs j = []) ∨ (s.part p).parentRoom e n ≤ t.used) →
    s.contribute p tree site input seq micro off data = s.modNode i (TreeNode.took input micro off data) := by
  intro i t hseq hplace hwait
  have hstays : (∃ j ≤ bits n 26 24, sget [] (t.took input micro off data).inputs j = [])
      ∨ (s.part p).parentRoom e n ≤ (t.took input micro off data).used :=
    hwait.imp_left fun ⟨j, hj, hother, hnone⟩ => ⟨j, hj, (sget_sset_other _ _ _ _ _ hother).trans hnone⟩
  rw [← s.treeNode_modNode_same i (TreeNode.took input micro off data)] at hstays
  rw [s.contribute_enters p tree site input seq micro off data hn he hlive hinput hlen hseq hplace]
  exact State.combineFrom_waits _ p tree e site hn hstays

end Contribution

/-- R235, R236: a contribution of a station at a node of one input, with places there and at the parent, is sent on as it
comes, and its credit returns. -/
theorem State.contribute_single (s : State) (p tree site seq micro off : Nat) (data : List Byte) {n e : Nat}
    (hn : (s.part p).nodeEntry tree site = some n) (he : (s.part p).treeStream tree = some e)
    (hlive : (s.treeNode (nodeIdx p tree site)).halted = false) (hsingle : bits n 26 24 = 0)
    (hlen : data.length = (streamSpace e).bytes) (hseq : seqAhead 48 (s.treeNode (nodeIdx p tree site)).expect seq = 0)
    (hempty : sget [] (s.treeNode (nodeIdx p tree site)).inputs 0 = [])
    (hkeys : (s.treeNode (nodeIdx p tree site)).keys = []) (hplace : 0 < bits n 199 192)
    (hroom : (s.treeNode (nodeIdx p tree site)).used < (s.part p).parentRoom e n)
    (hstation : isChild ((s.part p).treeNodes tree) n ((nodeInputs n).getD 0 0) = false) :
    let t := s.treeNode (nodeIdx p tree site)
    let out := (s.part p).combined e n micro off [data]
    let u := s.contribute p tree site 0 seq micro off data
    (u.treeNode (nodeIdx p tree site)).expect = (t.expect + 1) % 2 ^ 48
      ∧ sget [] (u.treeNode (nodeIdx p tree site)).inputs 0 = [] ∧ (u.treeNode (nodeIdx p tree site)).used = t.used + 1
      ∧ u.out = .nodeCredit p tree site 0
        :: .contribution p tree site t.expect out ((s.part p).nodeHeader e n t.expect out.length) :: s.out
      ∧ u.parts = s.parts ∧ u.stations = s.stations ∧ u.store = s.store ∧ u.kprs = s.kprs := by
  intro t out u
  let b := s.modNode (nodeIdx p tree site) (TreeNode.took 0 micro off data)
  have hb : b.treeNode (nodeIdx p tree site) = t.took 0 micro off data := s.treeNode_modNode_same _ _
  have htile : sget [] (b.treeNode (nodeIdx p tree site)).inputs 0 = [data] := by
    rw [hb, TreeNode.took, sget_sset_same, hempty]
    rfl
  have hkey : (b.treeNode (nodeIdx p tree site)).keys = [(micro, off)] := by
    rw [hb, TreeNode.took, hempty, hkeys]
    rfl
  have henters := s.contribute_enters p tree site 0 seq micro off data hn he hlive (Nat.zero_le _) hlen
    (by rw [hempty]; exact hseq) (by rw [hempty]; exact hplace)
  have hsent := b.combineFrom_single p tree e site micro off data hn hsingle hstation (by rw [hb]; exact hlive) htile hkey
    (by rw [hb]; exact hroom)
  have hu : u = b.sentOn p tree e site micro off data n := henters.trans hsent
  rw [hu, b.sentOn_node, hb]
  refine ⟨rfl, ?_, rfl, ?_, rfl, rfl, rfl, rfl⟩
  · rw [TreeNode.sentOn, sget_sset_same, ← hb, htile]
    rfl
  · simp only [State.sentOn, hb]
    rfl

theorem exec_reductionContribution (p tree site input seq micro off : Nat) (data : List Byte) (s : State) :
    exec (.reductionContribution p tree site input seq micro off data) s
      = .next (s.contribute p tree site input seq micro off data) := rfl

end Sys2Proof.Machine
end

section
/-! SUPPORT. A state in which a remap update changes a partition: R250 moves the leaf from the row node that the entry in force
names, and here that is no row node but the root of the partition's sync tree. -/

namespace Sys2Proof.Machine

theorem exec_remapUpdate (st : Nat) (v : BitVec 32) (s : State) :
    exec (.remapUpdate st v) s = .next (s.rebind st (Remap.decode v.toNat)) := rfl

/-- A plan of station 0 alone. -/
def lonePlan : Plan := { header := 0, sections := [⟨0x01, 0, [0]⟩], image := [] }

/-- The partition of field row 0. The remap entry of station 0 names prow 1600, so that its leaf lies at node 1600, the row's
field-row node and the root. There field 0 has posted in the round of channel 0, and nothing has been sent. -/
def strayEntry : State :=
  let part : Part := { formed := true, rows := 1, plan := some lonePlan }
  let s := { State.reset with parts := [(0, part)] }
  (s.setRemap 0 ⟨1600, 5, true, false, false⟩).modSync 1600 0 fun n => { n with posted := [(0, 1)] }

/-- Before: no row's result of channel 0 has reached its Keeper. -/
theorem strayEntry_waits : (strayEntry.part 0).fenceRows = [] := by
  decide +kernel

/-- After: as the leaf moves, the root finds its round complete, and its result reaches the Keeper of row 0. -/
theorem strayEntry_passes : ((strayEntry.rebind 0 (Remap.decode 0)).part 0).fenceRows = [0] := by
  decide +kernel

end Sys2Proof.Machine
end

section
/-! The statements about the wafer's networks: requests for bank tiles and sync rounds, packets and reduction trees, and routers
and fields that fail. -/

namespace Sys2Proof.Machine

/-- Settles O25: the region's MERGE bit and the open windows choose what a request does; parity and earlier posts what a pip
does. -/
theorem bankReadsAndSync : Obligations.BankReadsAndSync := by
  unfold Obligations.BankReadsAndSync
  refine ⟨?requests, ?rounds⟩
  case requests =>
    intro s owner requester region tile space p d hst hd htile x ws setWs joins ask
    have reader : joins = true → ∃ g, x.readerGroup owner region = some g ∧ (x.groupMembers g).contains requester = true := by
      intro hjoins
      cases hg : x.readerGroup owner region with
      | none => simp [joins, hg] at hjoins
      | some g => exact ⟨g, rfl, by simpa [joins, hg] using hjoins⟩
    have hask : ask = .next (s.tileRequest owner (requester, space) region tile) :=
      exec_bankReadRequest_one owner requester region tile space s
    rw [hask]
    refine ⟨fun hmerge data hread => ?answered, fun hmerge hread => ?held, fun hmerge hjoins hws => ?opens,
      fun w hmerge hjoins hws hregion hsame hnew => ?joins, fun w data hws hregion hsame hagain hdata => ?closes,
      fun count bad => exec_bankReadRequest owner requester region ⟨tile, count, space, bad⟩ s⟩
    case answered =>
      rw [s.tileRequest_alone owner region tile _ hst hd htile hmerge, hread]
      rfl
    case held =>
      rw [s.tileRequest_alone owner region tile _ hst hd htile hmerge, hread]
      rfl
    case opens =>
      obtain ⟨g, hg, hreader⟩ := reader hjoins
      rw [s.tileRequest_opens owner region tile (requester, space) hst hd htile hmerge hg hreader hws]
      rfl
    case joins =>
      obtain ⟨g, hg, hreader⟩ := reader hjoins
      rw [s.tileRequest_joins owner region tile (requester, space) hst hd htile hmerge hg hreader w hws hregion hsame hnew]
      rfl
    case closes =>
      rw [exec_mergeWindowClose, s.closeWindow_answers owner region tile w data hst hd hws hregion hsame hagain hdata]
      rfl
  case rounds =>
    intro s node member p head value hp hnode ch n ms hch hms
    have hpost := s.syncPost_member node member head.toNat value.toNat hp hnode hch hms
    refine ⟨fun hkind hparity hnew hwaits => ?counts, fun hkind hparity hrepeat => ?ignored,
      fun hkind hparity hnew => ?early, fun hkind hparity hsent hearly => ?result, fun hkind => ?otherPost,
      fun hkind => ?otherResult⟩
    case counts =>
      obtain ⟨m, hm, hother, hopen⟩ := hwaits
      rw [exec_syncPost, hpost hkind, if_neg (not_not_intro hparity), if_neg (ne_true_of_eq_false hnew)]
      refine congrArg _ (State.nodeReady_waits _ p node ch m hm ?_)
      rw [State.syncNode_modSync_same, List.any_append, Bool.or_eq_false_iff]
      exact ⟨hopen, by simpa using Ne.symm hother⟩
    case ignored => rw [exec_syncPost, hpost hkind, if_neg (not_not_intro hparity), if_pos hrepeat]
    case early =>
      rw [exec_syncPost, hpost hkind, if_pos hparity]
      exact congrArg _ (s.modSync_congr node ch _ _ (if_neg (ne_true_of_eq_false hnew)))
    case result =>
      have hm : member ∈ (s.resultPasses p node ch value.toNat).nodeMembers p node ch := by
        rw [s.resultPasses_members p node ch _ hnode hearly]
        exact List.contains_iff_mem.1 hms
      rw [exec_syncResult, s.syncResult_sent node head.toNat value.toNat hp hch hkind hparity hsent,
        State.nodeReady_waits _ p node ch member hm (by rw [s.resultPasses_posted p node ch _ hnode hearly]; rfl)]
      exact congrArg _ (s.resultPasses_above p node ch value.toNat hnode hearly)
    case otherPost => rw [exec_syncPost, s.syncPost_otherKind node member _ _ hkind]
    case otherResult => rw [exec_syncResult, s.syncResult_otherKind node _ _ hkind]

/-- Settles O26: whether the router is dead, the link paused, the core fenced and the header good choose what becomes of a packet;
a contribution's place in its sequence, the inputs and the parent's places what a tree node does. -/
theorem waferNetworks : Obligations.WaferNetworks := by
  unfold Obligations.WaferNetworks
  refine ⟨?packets, ?links, ?trees⟩
  case packets =>
    intro s gx gy length header ended hx hy f h send a
    have hsend : ∀ port bad, port < 6 → s.deadSite gx gy = false →
        ¬ (port < 4 ∧ (s.link (linkIdx true gx gy port)).paused = true) →
        exec (send port bad) s = .next (s.receive true gx gy port { a with bad := bad }) := fun port bad hport hlive hrun => by
      rw [exec_routerPacket_bulk, s.routerPacket_alive true gx gy port _ hx hy hport hlive, if_neg hrun]
    have hsite : s.deadSite gx gy = false → exec (send 4 false) s = .next (s.receive true gx gy 4 a) := fun hlive =>
      hsend 4 false (by decide) hlive fun hlink => absurd hlink.1 (by decide)
    refine ⟨fun port bad hdead => ?dead, fun port hport hlive hpaused => ?paused, fun port hport hlive hrun hretry => ?retried,
      fun hlive hfence hcore => ?fenced, fun hlive hfence hbank hwhole outs houts hne hcore => ?bank,
      fun hlive hopen hwhole => ⟨fun houts => ?malformed, fun outs houts hne => ?enters,
        fun c houts hport hport' hended hheads => ?leaves⟩,
      fun port w hheads hbulk hgx hgy hport hpart => ?truncated, fun port hheads => ?nothing⟩
    case dead => rw [exec_routerPacket_bulk, s.routerPacket_dead true gx gy port _ hdead]
    case paused =>
      rw [exec_routerPacket_bulk, s.routerPacket_alive true gx gy port _ hx hy (by omega) hlive, if_pos ⟨hport, hpaused⟩]
    case retried =>
      rw [hsend port true (by omega) hlive (by simp [hrun]), s.receive_bad true gx gy port _ hport rfl,
        s.badFlit_retry true gx gy port hretry]
    case fenced =>
      rw [hsite hlive, s.receive_fenced true gx gy a hfence hcore]
      rfl
    case bank => rw [hsite hlive, s.receive_enters true gx gy a (.inr hbank) hwhole outs houts hne fun _ => hcore]
    case malformed =>
      rw [hsite hlive, s.receive_malformed true gx gy a (.inl hopen) hwhole houts]
      rfl
    case enters =>
      rw [hsite hlive, s.receive_enters true gx gy a (.inl hopen) hwhole outs houts hne (by simp [hopen])]
    case leaves =>
      refine ⟨_, ?_, s.intake_leaves gx gy h a c hended hheads hport hport'⟩
      rw [hsite hlive, s.receive_enters true gx gy a (.inl hopen) hwhole [c] houts (by simp) (by simp [hopen])]
    case truncated =>
      exact ⟨_, exec_truncationFlit gx gy port s, s.truncate_one gx gy port w hheads hbulk hgx hgy hport hpart⟩
    case nothing => rw [exec_truncationFlit, s.truncate_none gx gy port hheads]
  case links =>
    intro s bulk gx gy i
    refine ⟨exec_linkSteerResume bulk gx gy 3 s, exec_checkFlit_good bulk gx gy 3 s, fun hretry => ?retry, fun hthird => ?third⟩
    case retry =>
      rw [exec_checkFlit_bad, s.badFlit_retry bulk gx gy 3 hretry]
      rfl
    case third =>
      rw [exec_checkFlit_bad, s.badFlit_third bulk gx gy 3 hthird]
      rfl
  case trees =>
    intro s p tree site input seq micro off n e data hn he i t waiting room hlive hinput hlen go
    have hgo : go = .next (s.contribute p tree site input seq micro off data) :=
      exec_reductionContribution p tree site input seq micro off data s
    have hcases := s.contribute_cases p tree site input seq micro off data hn he hlive hinput hlen
    refine ⟨fun hseq => ?misplaced, fun hseq hfull => ?full, fun hseq hplace hwait => ?waits,
      fun hseq hsingle hempty hkeys hplace hroom hstation => ?sends⟩
    case misplaced => exact hgo.trans (congrArg _ (hcases.trans (if_pos hseq)))
    case full => exact hgo.trans (congrArg _ (hcases.trans ((if_neg (not_not_intro hseq)).trans (if_pos hfull))))
    case waits =>
      exact hgo.trans (congrArg _
        (s.contribute_waits p tree site input seq micro off data hn he hlive hinput hlen hseq hplace hwait))
    case sends =>
      obtain rfl : input = 0 := by omega
      exact ⟨_, hgo, s.contribute_single p tree site seq micro off data hn he hlive hsingle hlen hseq hempty hkeys hplace hroom
        hstation⟩

/-- Refutes O29: of its last clause, that a remap update leaves every partition as it was, `strayEntry` is a counterexample. The
clause is stated of every state, also of one whose entry in force names a prow outside the field. The node of that prow may be
the root of a sync tree with a complete round; as the leaf moves (R250) the root then sends its result, which R244 brings to the
Keeper of the row. -/
theorem not_routerAndFieldFaults : ¬ Obligations.RouterAndFieldFaults := by
  unfold Obligations.RouterAndFieldFaults
  intro h
  obtain ⟨-, hfields⟩ := h
  obtain ⟨-, -, -, -, -, hremap⟩ := hfields strayEntry 0
  obtain ⟨t, ht, -, -, -, hparts⟩ := hremap 0 0
  obtain rfl : strayEntry.rebind 0 (Remap.decode 0) = t := by
    rw [exec_remapUpdate] at ht
    exact Host.Outcome.next.inj ht
  have hsame : (strayEntry.rebind 0 (Remap.decode 0)).part 0 = strayEntry.part 0 := by
    rw [State.part, State.part, hparts]
  have hpasses := strayEntry_passes
  rw [hsame, strayEntry_waits] at hpasses
  exact List.cons_ne_nil _ _ hpasses.symm

end Sys2Proof.Machine
end

section
/-! SUPPORT. The frame of a state: the memories and the queue, which few operations write; and the frames that a step may lead
to from a given one. -/

namespace Sys2Proof.Machine

/-- What few operations write: the store's bytes, HBM's bytes and the queue. -/
structure Frame where
  store : Sparse Byte
  hbm : Sparse Byte
  pending : List Instr

def State.frame (s : State) : Frame := ⟨s.store, s.hbm.mem, s.pending⟩

/-- Both memories are in canonical form. -/
def Frame.wf (m : Frame) : Bool := sparseWf 0 m.store && sparseWf 0 m.hbm

theorem State.memoryWf_frame (s : State) : s.memoryWf = s.frame.wf := rfl

/-- A command may lead from frame `m` to frame `n`: the memories stay canonical, and the queue stays. -/
structure Frame.Allows (m n : Frame) : Prop where
  wf : m.wf = true → n.wf = true
  pending : n.pending = m.pending

@[simp] theorem Frame.allows_self (m : Frame) : m.Allows m := ⟨id, rfl⟩

@[simp] theorem Frame.allows_ite (m : Frame) (c : Prop) [Decidable c] (n k : Frame) :
    m.Allows (if c then n else k) ↔ (c → m.Allows n) ∧ (¬ c → m.Allows k) := by
  split <;> simp [*]

/-- The store may be replaced by one that is canonical too. -/
theorem Frame.Allows.store {m n : Frame} (h : m.Allows n) {x : Sparse Byte}
    (hx : sparseWf 0 n.store = true → sparseWf 0 x = true) : m.Allows ⟨x, n.hbm, n.pending⟩ := by
  refine ⟨fun hm => ?_, h.pending⟩
  obtain ⟨hstore, hhbm⟩ := Bool.and_eq_true_iff.1 (h.wf hm)
  exact Bool.and_eq_true_iff.2 ⟨hx hstore, hhbm⟩

/-- HBM may be replaced by one that is canonical too. -/
theorem Frame.Allows.hbm {m n : Frame} (h : m.Allows n) {x : Sparse Byte}
    (hx : sparseWf 0 n.hbm = true → sparseWf 0 x = true) : m.Allows ⟨n.store, x, n.pending⟩ := by
  refine ⟨fun hm => ?_, h.pending⟩
  obtain ⟨hstore, hhbm⟩ := Bool.and_eq_true_iff.1 (h.wf hm)
  exact Bool.and_eq_true_iff.2 ⟨hstore, hx hhbm⟩

/-- An empty memory is canonical. -/
theorem Frame.Allows.emptyStore {m n : Frame} (h : m.Allows n) : m.Allows ⟨[], n.hbm, n.pending⟩ := h.store fun _ => rfl

theorem Frame.Allows.emptyHbm {m n : Frame} (h : m.Allows n) : m.Allows ⟨n.store, [], n.pending⟩ := h.hbm fun _ => rfl

/-! ### Reading the frame -/

@[simp] theorem frame_mk (fuses boot clk host arb parts kprs stations fields net store banks hbm mlv recov pwr mgmt life out
    freeCtr pending) :
    (State.mk fuses boot clk host arb parts kprs stations fields net store banks hbm mlv recov pwr mgmt life out freeCtr
      pending).frame = ⟨store, hbm.mem, pending⟩ := by rfl

@[simp] theorem frame_eta (s : State) : Frame.mk s.store s.hbm.mem s.pending = s.frame := by rfl

@[simp] theorem frame_ite (c : Prop) [Decidable c] (s t : State) :
    (if c then s else t).frame = if c then s.frame else t.frame := apply_ite _ _ _ _

/-! ### Folds -/

@[simp] theorem State.forAll_frame {α : Type} (s : State) (l : List α) {f : State → α → State}
    (hf : ∀ s a, (f s a).frame = s.frame) : (s.forAll l f).frame = s.frame := foldl_keeps State.frame f hf l s

/-- A fold leads to an allowed frame where each of its steps does. -/
theorem foldl_allowed {m : Frame} {α : Type} {s : State} {l : List α} {f : State → α → State} (h : m.Allows s.frame)
    (hf : ∀ s a, m.Allows s.frame → m.Allows (f s a).frame) : m.Allows (l.foldl f s).frame :=
  List.foldlRecOn (motive := fun s => m.Allows s.frame) l f h fun s h a _ => hf s a h

theorem State.forAll_allowed {m : Frame} {α : Type} {s : State} {l : List α} {f : State → α → State}
    (h : m.Allows s.frame) (hf : ∀ s a, m.Allows s.frame → m.Allows (f s a).frame) :
    m.Allows (s.forAll l f).frame := foldl_allowed h hf

/-- Writing entry by entry keeps the canonical form. -/
theorem sparseWf_foldl_sset {α β : Type} [DecidableEq α] (d : α) (g : β → Nat) (v : β → α) (l : List β)
    {m : Sparse α} (h : sparseWf d m = true) : sparseWf d (l.foldl (fun m b => sset d m (g b) (v b)) m) = true :=
  List.foldlRecOn (motive := fun m => sparseWf d m = true) l _ h fun m hm b _ => sparseWf_sset d m (g b) (v b) hm

end Sys2Proof.Machine
end

section
/-! SUPPORT. The operations that leave the frame as it is: they write neither memory, and not the queue. One rule for each, in
the order of the model's files. -/

namespace Sys2Proof.Machine

section Frames
variable (s : State)

/-! ### Parts of the state, completions and leases (R457 to R465, R473) -/

@[simp] theorem State.setPart_frame (p x) : (s.setPart p x).frame = s.frame := by rfl
@[simp] theorem State.modPart_frame (p f) : (s.modPart p f).frame = s.frame := by rfl
@[simp] theorem State.setKpr_frame (k x) : (s.setKpr k x).frame = s.frame := by rfl
@[simp] theorem State.modKpr_frame (k f) : (s.modKpr k f).frame = s.frame := by rfl
@[simp] theorem State.modKpart_frame (k p f) : (s.modKpart k p f).frame = s.frame := by rfl
@[simp] theorem State.setStation_frame (i x) : (s.setStation i x).frame = s.frame := by rfl
@[simp] theorem State.modStation_frame (i f) : (s.modStation i f).frame = s.frame := by rfl
@[simp] theorem State.setField_frame (f x) : (s.setField f x).frame = s.frame := by rfl
@[simp] theorem State.modField_frame (i f) : (s.modField i f).frame = s.frame := by rfl
@[simp] theorem State.setBank_frame (i x) : (s.setBank i x).frame = s.frame := by rfl
@[simp] theorem State.modBank_frame (i f) : (s.modBank i f).frame = s.frame := by rfl
@[simp] theorem State.modStack_frame (i f) : (s.modStack i f).frame = s.frame := by rfl
@[simp] theorem State.modTier_frame (i f) : (s.modTier i f).frame = s.frame := by rfl
@[simp] theorem State.modPort_frame (i f) : (s.modPort i f).frame = s.frame := by rfl
@[simp] theorem State.modCtx_frame (i f) : (s.modCtx i f).frame = s.frame := by rfl
@[simp] theorem State.modRegion_frame (i f) : (s.modRegion i f).frame = s.frame := by rfl
@[simp] theorem State.modRing_frame (q f) : (s.modRing q f).frame = s.frame := by rfl
@[simp] theorem State.modDq_frame (i f) : (s.modDq i f).frame = s.frame := by rfl
@[simp] theorem State.emit_frame (o) : (s.emit o).frame = s.frame := by rfl
@[simp] theorem State.draw_frame : s.draw.2.frame = s.frame := by rfl
@[simp] theorem State.writeSlot_frame (q c) : (s.writeSlot q c).frame = s.frame := by rfl

@[simp] theorem State.postWaiting_frame (q c) : (s.postWaiting q c).1.frame = s.frame := by
  rw [State.postWaiting_same]
  rfl

@[simp] theorem State.postRing0_frame (c) : (s.postRing0 c).frame = s.frame := by simp [State.postRing0]
@[simp] theorem State.postLater_frame (q c) : (s.postLater q c).frame = s.frame := by simp [State.postLater]
@[simp] theorem State.postReserved_frame (q c) : (s.postReserved q c).frame = s.frame := by simp [State.postReserved]
@[simp] theorem State.event_frame (j result) : (s.event j result).frame = s.frame := by simp [State.event]
@[simp] theorem State.lifeRecord_frame (type subject body) : (s.lifeRecord type subject body).frame = s.frame := by rfl
@[simp] theorem State.modWear_frame (f g) : (s.modWear f g).frame = s.frame := by rfl
@[simp] theorem State.setHolder_frame (r w) : (s.setHolder r w).frame = s.frame := by simp [State.setHolder]
@[simp] theorem State.giveLease_frame (r w) : (s.giveLease r w).frame = s.frame := by simp [State.giveLease]
@[simp] theorem State.changeLease_frame (r w) : (s.changeLease r w).frame = s.frame := by simp [State.changeLease]
@[simp] theorem State.refuseLease_frame : s.refuseLease.frame = s.frame := by rfl

/-! ### Links of the station networks -/

@[simp] theorem State.modLink_frame (i f) : (s.modLink i f).frame = s.frame := by rfl

/-! ### Operands and banks of a station -/

@[simp] theorem State.serveHeld_frame (owner) : (s.serveHeld owner).frame = s.frame := by
  unfold State.serveHeld
  dsimp only
  split
  · simp
  · refine State.forAll_frame _ _ fun s a => ?_
    split
    · simp
    · split <;> simp

/-! ### Links, cells and messages (R361 to R392) -/

@[simp] theorem State.modMlv_frame (f) : (s.modMlv f).frame = s.frame := by rfl
@[simp] theorem State.sendControl_frame (p lctype body) : (s.sendControl p lctype body).frame = s.frame := by rfl

@[simp] theorem State.pumpPort_frame (p n) : (State.pumpPort p n s).frame = s.frame := by
  rw [State.pumpPort_same]
  rfl

@[simp] theorem State.dealTo_frame (p c) : (s.dealTo p c).frame = s.frame := by simp [State.dealTo]
@[simp] theorem State.dealAgain_frame (p c) : (s.dealAgain p c).frame = s.frame := by simp [State.dealAgain]

@[simp] theorem State.pumpCtx_frame (i cls n) : (State.pumpCtx i cls n s).frame = s.frame := by
  rw [State.pumpCtx_same]
  rfl

@[simp] theorem State.pump_frame (i cls) : (s.pump i cls).frame = s.frame := by simp [State.pump]

@[simp] theorem State.send_frame (i cls msg head pay data) : (s.send i cls msg head pay data).frame = s.frame := by
  simp [State.send]

@[simp] theorem State.sendCpl_frame (i e) : (s.sendCpl i e).frame = s.frame := by simp [State.sendCpl]
@[simp] theorem State.replyPeer_frame (c csn e) : (s.replyPeer c csn e).frame = s.frame := by simp [State.replyPeer]

@[simp] theorem State.reply_frame (first dest c csn r) : (s.reply first dest c csn r).frame = s.frame := by
  unfold State.reply
  dsimp only
  split <;> simp

@[simp] theorem State.mgmtDone_frame (c) : (s.mgmtDone c).frame = s.frame := by simp [State.mgmtDone]
@[simp] theorem State.finish_frame (c csn r) : (s.finish c csn r).frame = s.frame := by simp [State.finish]
@[simp] theorem State.accept_frame (c csn) : (s.accept c csn).frame = s.frame := by simp [State.accept]

@[simp] theorem State.final_frame (csn r) : (s.final csn r).frame = s.frame := by
  unfold State.final
  split <;> simp

@[simp] theorem State.deliver_frame (c addr kind data) : (s.deliver c addr kind data).frame = s.frame := by
  unfold State.deliver
  split <;> simp

@[simp] theorem State.sendBare_frame (i p cls msg seq ack) : (s.sendBare i p cls msg seq ack).frame = s.frame := by
  simp [State.sendBare]

@[simp] theorem State.sendHello_frame (i) : (s.sendHello i).frame = s.frame := by
  unfold State.sendHello
  split <;> simp

@[simp] theorem State.forgetPeer_frame (i) : (s.forgetPeer i).frame = s.frame := by rfl
@[simp] theorem State.purge_frame (i) : (s.purge i).frame = s.frame := by simp [State.purge]
@[simp] theorem State.openCtx_frame (i) : (s.openCtx i).frame = s.frame := by simp [State.openCtx]
@[simp] theorem State.pumpAll_frame (i) : (s.pumpAll i).frame = s.frame := by simp [State.pumpAll]

@[simp] theorem State.receiveHello_frame (i incarnation partnerCtx) :
    (s.receiveHello i incarnation partnerCtx).frame = s.frame := by
  unfold State.receiveHello
  dsimp only
  split <;> simp

@[simp] theorem State.dropCtx_frame (i st) : (s.dropCtx i st).frame = s.frame := by simp [State.dropCtx]
@[simp] theorem State.took_frame (i cls n) : (s.took i cls n).frame = s.frame := by rfl
@[simp] theorem State.msgError_frame (i) : (s.msgError i).frame = s.frame := by rfl

@[simp] theorem State.sendNullCell_frame (i cls n) : (s.sendNullCell i cls n).frame = s.frame := by
  unfold State.sendNullCell
  dsimp only
  split <;> simp

@[simp] theorem State.sendAck_frame (i cls) : (s.sendAck i cls).frame = s.frame := by simp [State.sendAck]

@[simp] theorem State.ackCells_frame (i cls ack valid credit) : (s.ackCells i cls ack valid credit).frame = s.frame := by
  simp [State.ackCells]

@[simp] theorem State.requeue_frame (p) : (s.requeue p).frame = s.frame := by
  unfold State.requeue
  dsimp only
  refine State.forAll_frame _ _ fun s a => ?_
  split
  · simp
  · split <;> simp

@[simp] theorem State.portLife_frame (p f) : (s.portLife p f).frame = s.frame := by rfl
@[simp] theorem State.countResend_frame (p) : (s.countResend p).frame = s.frame := by rfl
@[simp] theorem State.countDown_frame (p) : (s.countDown p).frame = s.frame := by rfl
@[simp] theorem State.portDown_frame (p) : (s.portDown p).frame = s.frame := by simp [State.portDown]
@[simp] theorem State.startTraining_frame (p) : (s.startTraining p).frame = s.frame := by simp [State.startTraining]
@[simp] theorem State.sendLive_frame (p) : (s.sendLive p).frame = s.frame := by rfl
@[simp] theorem State.returnHop_frame (p cls) : (s.returnHop p cls).frame = s.frame := by rfl
@[simp] theorem State.grantLink_frame (p) : (s.grantLink p).frame = s.frame := by rfl
@[simp] theorem State.trainFail_frame (p) : (s.trainFail p).frame = s.frame := by rfl

@[simp] theorem State.lackCells_frame (p lack) : (s.lackCells p lack).frame = s.frame := by
  unfold State.lackCells
  split <;> simp

@[simp] theorem State.controlWord_frame (p word lctype top) {eff : State → Nat → State}
    (heff : ∀ s w, (eff s w).frame = s.frame) : (s.controlWord p word lctype top eff).frame = s.frame := by
  simp [State.controlWord, heff]

@[simp] theorem State.liveWord_frame (p w) : (s.liveWord p w).frame = s.frame := by rfl
@[simp] theorem State.creditWord_frame (p w) : (s.creditWord p w).frame = s.frame := by simp [State.creditWord]
@[simp] theorem State.resendFrom_frame (p nlsn) : (s.resendFrom p nlsn).frame = s.frame := by simp [State.resendFrom]
@[simp] theorem State.lnak_frame (p) : (s.lnak p).frame = s.frame := by simp [State.lnak]
@[simp] theorem State.creditViolation_frame (i) : (s.creditViolation i).frame = s.frame := by simp [State.creditViolation]

@[simp] theorem State.placeCell_frame (i cls seq msg payload) : (s.placeCell i cls seq msg payload).1.frame = s.frame := by
  unfold State.placeCell
  extract_lets k d
  split
  · split
    · simp
    · split <;> simp
  · split <;> simp

@[simp] theorem State.ackFields_frame (i w) : (s.ackFields i w).frame = s.frame := by simp [State.ackFields]

@[simp] theorem State.checkCell_frame (p w payload) : (s.checkCell p w payload).frame = s.frame := by
  unfold State.checkCell
  dsimp only
  split
  · simp
  · split
    · simp
    · split
      · split <;> simp
      · split
        · simp
        · split
          · simp
          · split <;> simp

@[simp] theorem State.receiveCell_frame (p symbols correctable frame) :
    (s.receiveCell p symbols correctable frame).frame = s.frame := by
  simp [State.receiveCell]

/-! ### The queue of operations (R172 to R180) -/

@[simp] theorem State.modCore_frame (st f) : (s.modCore st f).frame = s.frame := by rfl

@[simp] theorem State.recordTile_frame (p id seq tile) : (s.recordTile p id seq tile).frame = s.frame := by
  unfold State.recordTile
  split
  · split <;> simp
  · simp

@[simp] theorem State.sendTiles_frame (p st e n) : (State.sendTiles p st e n s).frame = s.frame := by
  induction n generalizing s with
  | zero => rfl
  | succ n ih =>
    unfold State.sendTiles
    dsimp only
    split
    · rfl
    · simp [ih]

@[simp] theorem State.putTiles_frame (p st id tiles) : (s.putTiles p st id tiles).frame = s.frame := by
  unfold State.putTiles
  split <;> simp

/-! ### Pages, their components and the stage (R303 to R306, R331 to R335) -/

@[simp] theorem State.modOpage_frame (k p g f) : (s.modOpage k p g f).frame = s.frame := by rfl
@[simp] theorem State.finalAll_frame (op p r) : (s.finalAll op p r).frame = s.frame := by simp [State.finalAll]

@[simp] theorem State.pullPage_frame (k p g comps) : (s.pullPage k p g comps).frame = s.frame := by
  unfold State.pullPage
  dsimp only
  split <;> simp

@[simp] theorem State.beginTransfer_frame (port n r) : (s.beginTransfer port n r).frame = s.frame := by rfl
@[simp] theorem State.transfer_frame (port n r) : (s.transfer port n r).frame = s.frame := by simp [State.transfer]

@[simp] theorem State.serveTier_frame (port n) : (State.serveTier port n s).frame = s.frame := by
  induction n generalizing s with
  | zero => rfl
  | succ n ih =>
    unfold State.serveTier
    dsimp only
    split <;> simp [ih]

@[simp] theorem State.transferEnded_frame (port r) : (s.transferEnded port r).frame = s.frame := by simp [State.transferEnded]
@[simp] theorem State.loseComp_frame (k p g c) : (s.loseComp k p g c).frame = s.frame := by simp [State.loseComp]
@[simp] theorem State.startFetch_frame (k p g c) : (s.startFetch k p g c).frame = s.frame := by simp [State.startFetch]

@[simp] theorem State.need_frame (k p g c) : (s.need k p g c).1.frame = s.frame := by
  unfold State.need
  split <;> simp

@[simp] theorem State.needAll_frame (k p g cs) : (s.needAll k p g cs).1.frame = s.frame := by
  unfold State.needAll
  exact List.foldlRecOn (motive := fun r : State × Bool => r.1.frame = s.frame) _ _ rfl fun r h c _ => by simpa using h

@[simp] theorem State.restoreFromHusk_frame (k p g) : (s.restoreFromHusk k p g).frame = s.frame := by
  simp [State.restoreFromHusk]

@[simp] theorem State.copyMismatch_frame (k p g v requester) : (s.copyMismatch k p g v requester).frame = s.frame := by
  simp [State.copyMismatch]

@[simp] theorem State.servePage_frame (k p g v requester) : (s.servePage k p g v requester).frame = s.frame := by
  unfold State.servePage
  dsimp only
  split <;> simp

@[simp] theorem State.serveWaiting_frame (k p g) : (s.serveWaiting k p g).frame = s.frame := by simp [State.serveWaiting]

@[simp] theorem State.requestPage_frame (k p g v requester) : (s.requestPage k p g v requester).frame = s.frame := by
  simp [State.requestPage]

@[simp] theorem State.gatherPage_frame (p eval g v) : (s.gatherPage p eval g v).frame = s.frame := by
  unfold State.gatherPage
  dsimp only
  split
  · simp
  · split
    · simp
    · split <;> simp

@[simp] theorem State.gather_frame (p eval v) : (s.gather p eval v).frame = s.frame := by simp [State.gather]
@[simp] theorem State.regather_frame (p eval g) : (s.regather p eval g).frame = s.frame := by simp [State.regather]

@[simp] theorem State.pageRequest_frame (i head) : (s.pageRequest i head).frame = s.frame := by
  unfold State.pageRequest
  dsimp only
  split
  · simp
  · split <;> simp

@[simp] theorem State.pageArrives_frame (i head data) : (s.pageArrives i head data).frame = s.frame := by
  unfold State.pageArrives
  dsimp only
  split
  · simp
  · split <;> simp

@[simp] theorem State.startEvict_frame (k p g c) : (s.startEvict k p g c).frame = s.frame := by simp [State.startEvict]
@[simp] theorem State.tierDone_frame (p) : (s.tierDone p).frame = s.frame := by simp [State.tierDone]

@[simp] theorem State.fetchComplete_frame (k p g c data) : (s.fetchComplete k p g c data).frame = s.frame := by
  simp [State.fetchComplete]

@[simp] theorem State.evictComplete_frame (k p g c) : (s.evictComplete k p g c).frame = s.frame := by simp [State.evictComplete]

@[simp] theorem State.portLost_frame (k p t) : (s.portLost k p t).frame = s.frame := by
  unfold State.portLost
  dsimp only
  rw [State.tierDone_frame]
  split
  · refine State.forAll_frame _ _ fun s a => ?_
    split
    · simp
    · refine State.forAll_frame _ _ fun s a => ?_
      split <;> simp
  · rw [State.modKpart_frame, State.modKpr_frame]
    refine State.forAll_frame _ _ fun s a => ?_
    split
    · simp
    · refine State.forAll_frame _ _ fun s a => ?_
      split <;> simp

@[simp] theorem State.uioTimeout_frame (t request) : (s.uioTimeout t request).frame = s.frame := by simp [State.uioTimeout]

/-! ### Operations on tiles -/

@[simp] theorem State.stationError_frame (st code) : (s.stationError st code).frame = s.frame := by rfl
@[simp] theorem State.beginOp_frame (st e) : (s.beginOp st e).frame = s.frame := by rfl
@[simp] theorem State.dropEntry_frame (st id) : (s.dropEntry st id).frame = s.frame := by rfl
@[simp] theorem State.askRemote_frame (p st e tiles) : (s.askRemote p st e tiles).frame = s.frame := by simp [State.askRemote]
@[simp] theorem State.addCycles_frame (st product exchange) : (s.addCycles st product exchange).frame = s.frame := by rfl
@[simp] theorem State.countBusy_frame (st t) : (s.countBusy st t).frame = s.frame := by rfl
@[simp] theorem State.countAllBusy_frame (st) : (s.countAllBusy st).frame = s.frame := by rfl

@[simp] theorem State.loadImages_frame (p st e) : (s.loadImages p st e).frame = s.frame := by
  unfold State.loadImages
  dsimp only
  refine State.forAll_frame _ _ fun s a => ?_
  split <;> simp

@[simp] theorem State.settleLambs_frame (st) : (s.settleLambs st).frame = s.frame := by rfl
@[simp] theorem State.runLamb_frame (p st e lamb) : (s.runLamb p st e lamb).frame = s.frame := by simp [State.runLamb]

@[simp] theorem State.startLambs_frame (p st) : (s.startLambs p st).frame = s.frame := by
  unfold State.startLambs
  split <;> simp

@[simp] theorem effFence_frame (_p st e) : (effFence s _p st e).frame = s.frame := by rfl
@[simp] theorem effPip_frame (_p st e) : (effPip s _p st e).frame = s.frame := by simp [effPip]

/-! ### Stations and their streams (R156 to R185) -/

@[simp] theorem State.takeReplay_frame (st) : (s.takeReplay st).frame = s.frame := by
  unfold State.takeReplay
  split <;> simp

@[simp] theorem State.fetch_frame (st) : (s.fetch st).frame = s.frame := by
  unfold State.fetch
  split <;> simp

@[simp] theorem State.keepProbe_frame (st) : (s.keepProbe st).frame = s.frame := by rfl
@[simp] theorem State.letGo_frame (sts) : (s.letGo sts).frame = s.frame := by simp [State.letGo]
@[simp] theorem State.restartOver_frame (f) : (s.restartOver f).frame = s.frame := by simp [State.restartOver]
@[simp] theorem State.endHalt_frame (st) : (s.endHalt st).frame = s.frame := by simp [State.endHalt]
@[simp] theorem State.endProbe_frame (p) : (s.endProbe p).frame = s.frame := by simp [State.endProbe]
@[simp] theorem State.progress_frame (p) : (s.progress p).frame = s.frame := by simp [State.progress]

@[simp] theorem State.emitCredit_frame (st stream n) : (s.emitCredit st stream n).frame = s.frame := by
  unfold State.emitCredit
  split <;> simp

@[simp] theorem State.returnCredits_frame (st stream n) : (s.returnCredits st stream n).frame = s.frame := by
  simp [State.returnCredits]

@[simp] theorem State.consume_frame (p st e) : (s.consume p st e).frame = s.frame := by simp [State.consume]
@[simp] theorem State.retireFlock_frame (st) : (s.retireFlock st).frame = s.frame := by simp [State.retireFlock]
@[simp] theorem State.closePass_frame (p st) : (s.closePass p st).frame = s.frame := by simp [State.closePass]

@[simp] theorem State.retire_frame (st id) : (s.retire st id).frame = s.frame := by
  unfold State.retire
  split
  · simp
  · split <;> simp

@[simp] theorem State.emptyRings_frame (st) : (s.emptyRings st).frame = s.frame := by simp [State.emptyRings]

@[simp] theorem State.creditReturn_frame (st stream dest n) : (s.creditReturn st stream dest n).frame = s.frame := by
  unfold State.creditReturn
  split
  · simp
  · split <;> simp

@[simp] theorem State.arrayWhole_frame (st) : (s.arrayWhole st).frame = s.frame := by simp [State.arrayWhole]

@[simp] theorem State.arrayLamb_frame (st lamb) : (s.arrayLamb st lamb).frame = s.frame := by
  unfold State.arrayLamb
  split
  · simp
  · dsimp only
    split <;> simp

/-! ### Husks and buddies (R419 to R430) -/

@[simp] theorem State.modHpage_frame (k p g f) : (s.modHpage k p g f).frame = s.frame := by rfl

@[simp] theorem State.giveCredits_frame (n l) : (State.giveCredits n l s).frame = s.frame := by
  induction l generalizing n s with
  | nil => rfl
  | cons q l ih => simp [State.giveCredits, ih]

@[simp] theorem State.returnHeld_frame (k) : (s.returnHeld k).frame = s.frame := by simp [State.returnHeld]
@[simp] theorem State.withholdSlice_frame (i k) : (s.withholdSlice i k).frame = s.frame := by simp [State.withholdSlice]

@[simp] theorem State.toBuddy_frame (k msg head data) : (s.toBuddy k msg head data).frame = s.frame := by
  unfold State.toBuddy
  split <;> simp

@[simp] theorem State.sendGrad_frame (k p g grad) : (s.sendGrad k p g grad).frame = s.frame := by simp [State.sendGrad]
@[simp] theorem State.sendNull_frame (k p g) : (s.sendNull k p g).frame = s.frame := by simp [State.sendNull]

@[simp] theorem State.sendPage_frame (i p g v comps stamped img) : (s.sendPage i p g v comps stamped img).frame = s.frame := by
  simp [State.sendPage]

@[simp] theorem State.mirrorPage_frame (k p g) : (s.mirrorPage k p g).frame = s.frame := by
  unfold State.mirrorPage
  dsimp only
  split <;> simp

@[simp] theorem State.sendRecord_frame (k p g v d) : (s.sendRecord k p g v d).frame = s.frame := by
  unfold State.sendRecord
  split <;> simp

@[simp] theorem State.huskUpdate_frame (k p g S) : (s.huskUpdate k p g S).frame = s.frame := by simp [State.huskUpdate]
@[simp] theorem State.huskNull_frame (k p g) : (s.huskNull k p g).frame = s.frame := by simp [State.huskNull]
@[simp] theorem State.huskServe_frame (k p) : (s.huskServe k p).frame = s.frame := by simp [State.huskServe]
@[simp] theorem State.huskCommit_frame (p) : (s.huskCommit p).frame = s.frame := by simp [State.huskCommit]
@[simp] theorem State.sendSched_frame (p) : (s.sendSched p).frame = s.frame := by simp [State.sendSched]

/-! ### The synchronisation network (R242 to R247) -/

@[simp] theorem State.modSync_frame (node ch f) : (s.modSync node ch f).frame = s.frame := by rfl
@[simp] theorem State.awaitsOver_frame (p node ch) : (s.awaitsOver p node ch).frame = s.frame := by simp [State.awaitsOver]

@[simp] theorem State.resultPasses_frame (p node ch value) : (s.resultPasses p node ch value).frame = s.frame := by
  simp [State.resultPasses]

@[simp] theorem State.nodeReady_frame (p node ch) : (s.nodeReady p node ch).frame = s.frame := by simp [State.nodeReady]

@[simp] theorem State.nonfiniteLevel_frame (node member value) : (s.nonfiniteLevel node member value).frame = s.frame := by
  simp [State.nonfiniteLevel]

@[simp] theorem State.moveLeaf_frame (st old new) : (s.moveLeaf st old new).frame = s.frame := by
  unfold State.moveLeaf
  split <;> simp

/-! ### The order of a step (R20 to R46) -/

@[simp] theorem State.chooseRoutes_frame (p) : (s.chooseRoutes p).frame = s.frame := by rfl
@[simp] theorem State.leaveLayout_frame (f p) : (s.leaveLayout f p).frame = s.frame := by rfl
@[simp] theorem State.loseLayout_frame (f p) : (s.loseLayout f p).frame = s.frame := by rfl
@[simp] theorem State.offRoutes_frame (p) : (s.offRoutes p).frame = s.frame := by simp [State.offRoutes]

@[simp] theorem State.releaseHold_frame (p) : (s.releaseHold p).frame = s.frame := by
  unfold State.releaseHold
  split <;> simp

@[simp] theorem State.stepEvent_frame (j p) : (s.stepEvent j p).frame = s.frame := by simp [State.stepEvent]
@[simp] theorem State.eachKpr_frame (p f) : (s.eachKpr p f).frame = s.frame := by simp [State.eachKpr]
@[simp] theorem State.heldGone_frame (p) : (s.heldGone p).frame = s.frame := by simp [State.heldGone]
@[simp] theorem State.clearNet_frame (p) : (s.clearNet p).frame = s.frame := by rfl
@[simp] theorem State.dropWafer_frame (p) : (s.dropWafer p).frame = s.frame := by simp [State.dropWafer]
@[simp] theorem State.computeStart_frame (p) : (s.computeStart p).frame = s.frame := by simp [State.computeStart]
@[simp] theorem State.beginStep_frame (p n micro) : (s.beginStep p n micro).frame = s.frame := by simp [State.beginStep]

@[simp] theorem State.sumUp_frame (i step herd kind recs) : (s.sumUp i step herd kind recs).frame = s.frame := by
  simp [State.sumUp]

@[simp] theorem State.answer_frame (p child r) : (s.answer p child r).frame = s.frame := by
  unfold State.answer
  split <;> simp

@[simp] theorem State.dropStep_frame (p) : (s.dropStep p).frame = s.frame := by simp [State.dropStep]

@[simp] theorem State.restorePage_frame (k p g) : (s.restorePage k p g).frame = s.frame := by
  unfold State.restorePage
  dsimp only
  split <;> simp

@[simp] theorem applyRollback_frame (p r) : (applyRollback s p r).frame = s.frame := by simp [applyRollback]

@[simp] theorem State.scheduledFetch_frame (p) : (s.scheduledFetch p).frame = s.frame := by
  unfold State.scheduledFetch
  refine State.forAll_frame _ _ fun s a => ?_
  split <;> simp

/-! ### Buckets and reductions (R310 to R322) -/

@[simp] theorem State.runReduction_frame (k p g) : (s.runReduction k p g).frame = s.frame := by
  unfold State.runReduction
  dsimp only
  split <;> simp

@[simp] theorem State.takeSlice_frame (k p g rank data) : (s.takeSlice k p g rank data).frame = s.frame := by
  simp [State.takeSlice]

@[simp] theorem State.bucketDone_frame (k p b) : (s.bucketDone k p b).frame = s.frame := by simp [State.bucketDone]
@[simp] theorem State.compareBucket_frame (k p b) : (s.compareBucket k p b).frame = s.frame := by simp [State.compareBucket]

@[simp] theorem State.sendSlice_frame (k p b i) : (s.sendSlice k p b i).frame = s.frame := by
  unfold State.sendSlice
  dsimp only
  split
  · simp
  · split
    · simp
    · split
      · simp
      · split <;> simp

@[simp] theorem State.sendPages_frame (k p b n) : (State.sendPages k p b n s).frame = s.frame := by
  induction n generalizing s with
  | zero => rfl
  | succ n ih => simp [State.sendPages, ih]

@[simp] theorem State.sendAmax_frame (k p) : (s.sendAmax k p).frame = s.frame := by
  unfold State.sendAmax
  dsimp only
  split
  · simp
  · refine State.forAll_frame _ _ fun s a => ?_
    split <;> simp

@[simp] theorem State.sendReady_frame (k p) : (s.sendReady k p).frame = s.frame := by
  unfold State.sendReady
  dsimp only
  split
  · rw [State.sendAmax_frame]
    refine foldl_keeps State.frame _ (fun s a => ?_) _ _
    split
    · split <;> simp
    · simp
  · refine foldl_keeps State.frame _ (fun s a => ?_) _ _
    split
    · split <;> simp
    · simp

@[simp] theorem State.convertTile_frame (k p b stream seq data) : (s.convertTile k p b stream seq data).frame = s.frame := by
  unfold State.convertTile
  dsimp only
  split <;> simp

@[simp] theorem State.startPark_frame (k p) : (s.startPark k p).frame = s.frame := by
  unfold State.startPark
  dsimp only
  split
  · simp
  · split <;> simp

@[simp] theorem State.takeIn_frame (k p b) : (s.takeIn k p b).frame = s.frame := by simp [State.takeIn]
@[simp] theorem State.tryAdmit_frame (k p b) : (s.tryAdmit k p b).frame = s.frame := by simp [State.tryAdmit]

@[simp] theorem State.bucketError_frame (k p stream) : (s.bucketError k p stream).frame = s.frame := by
  unfold State.bucketError
  dsimp only
  split <;> simp

@[simp] theorem State.bucketTile_frame (k p bucket stream seq data) :
    (s.bucketTile k p bucket stream seq data).frame = s.frame := by
  unfold State.bucketTile
  dsimp only
  split <;> simp

@[simp] theorem State.sliceAcked_frame (k p bucket g) : (s.sliceAcked k p bucket g).frame = s.frame := by
  unfold State.sliceAcked
  split <;> simp

@[simp] theorem State.sliceArrives_frame (i head data) : (s.sliceArrives i head data).frame = s.frame := by
  unfold State.sliceArrives
  dsimp only
  split
  · simp
  · split <;> simp

@[simp] theorem State.readParked_frame (k p b g who) : (s.readParked k p b g who).frame = s.frame := by simp [State.readParked]

@[simp] theorem State.parkedPage_frame (k p g data) : (s.parkedPage k p g data).frame = s.frame := by
  unfold State.parkedPage
  dsimp only
  split <;> simp

@[simp] theorem State.sliceRequested_frame (i head) : (s.sliceRequested i head).frame = s.frame := by
  unfold State.sliceRequested
  dsimp only
  split
  · simp
  · split
    · simp
    · split <;> simp

@[simp] theorem State.amaxArrives_frame (i head) : (s.amaxArrives i head).frame = s.frame := by
  unfold State.amaxArrives
  dsimp only
  split
  · simp
  · split <;> simp

@[simp] theorem State.amaxReport_frame (st t v) : (s.amaxReport st t v).frame = s.frame := by
  unfold State.amaxReport
  split <;> simp

@[simp] theorem State.remirrorPage_frame (k p g) : (s.remirrorPage k p g).frame = s.frame := by simp [State.remirrorPage]
@[simp] theorem State.sendStepAgain_frame (k p g) : (s.sendStepAgain k p g).frame = s.frame := by simp [State.sendStepAgain]
@[simp] theorem State.writeScales_frame (p g) : (s.writeScales p g).frame = s.frame := by simp [State.writeScales]
@[simp] theorem State.compareCopy_frame (k p g d) : (s.compareCopy k p g d).frame = s.frame := by simp [State.compareCopy]

/-! ### Faults of the wafer (R393 to R418) -/

@[simp] theorem State.setRemap_frame (st r) : (s.setRemap st r).frame = s.frame := by rfl
@[simp] theorem State.updateRemap_frame (st r) : (s.updateRemap st r).frame = s.frame := by rfl
@[simp] theorem State.modBankBind_frame (st g) : (s.modBankBind st g).frame = s.frame := by rfl

@[simp] theorem State.logFaultAt_frame (time f cause outcome st prow pcol) :
    (s.logFaultAt time f cause outcome st prow pcol).frame = s.frame := by rfl

@[simp] theorem State.logFault_frame (f cause outcome st prow pcol) :
    (s.logFault f cause outcome st prow pcol).frame = s.frame := by rfl

@[simp] theorem State.spareTaken_frame (f before) : (s.spareTaken f before).frame = s.frame := by simp [State.spareTaken]
@[simp] theorem State.cutPacket_frame (gx gy) : (s.cutPacket gx gy).frame = s.frame := by simp [State.cutPacket]
@[simp] theorem State.fenceCore_frame (st retest) : (s.fenceCore st retest).frame = s.frame := by simp [State.fenceCore]
@[simp] theorem State.rebind_frame (st r) : (s.rebind st r).frame = s.frame := by simp [State.rebind]
@[simp] theorem State.setMoved_frame (st prow pcol) : (s.setMoved st prow pcol).frame = s.frame := by simp [State.setMoved]

@[simp] theorem State.startFresh_frame (st) : (s.startFresh st).frame = s.frame := by
  unfold State.startFresh
  dsimp only
  rw [State.restartOver_frame]
  split <;> simp

@[simp] theorem State.bindFresh_frame (st prow pcol) : (s.bindFresh st prow pcol).frame = s.frame := by simp [State.bindFresh]
@[simp] theorem State.endReset_frame (l) : (s.endReset l).frame = s.frame := by simp [State.endReset]
@[simp] theorem State.letFillGo_frame (l) : (s.letFillGo l).frame = s.frame := by simp [State.letFillGo]
@[simp] theorem State.dropFills_frame (f but) : (s.dropFills f but).frame = s.frame := by simp [State.dropFills]
@[simp] theorem State.foundBad_frame (f prow pcol word) : (s.foundBad f prow pcol word).frame = s.frame := by rfl
@[simp] theorem State.readFinds_frame (owner words) : (s.readFinds owner words).frame = s.frame := by simp [State.readFinds]
@[simp] theorem State.ownReadBad_frame (st words) : (s.ownReadBad st words).frame = s.frame := by simp [State.ownReadBad]
@[simp] theorem State.restoreStation_frame (p st) : (s.restoreStation p st).frame = s.frame := by rfl

@[simp] theorem State.nextFill_frame (f) : (s.nextFill f).frame = s.frame := by
  unfold State.nextFill
  split <;> simp

@[simp] theorem State.useAlternates_frame (p site) : (s.useAlternates p site).frame = s.frame := by
  unfold State.useAlternates
  split
  · simp
  · split
    · simp
    · split <;> simp

@[simp] theorem State.markHome_frame (st) : (s.markHome st).frame = s.frame := by simp [State.markHome]

@[simp] theorem State.fieldRestart_frame (f) : (s.fieldRestart f).frame = s.frame := by
  unfold State.fieldRestart
  dsimp only
  split <;> simp

/-! ### Routers and reduction trees (R217 to R240) -/

@[simp] theorem State.holdReads_frame (owner region tile members) :
    (s.holdReads owner region tile members).frame = s.frame := by
  simp [State.holdReads]

@[simp] theorem State.respond_frame (p owner region d tile merged members data) :
    (s.respond p owner region d tile merged members data).frame = s.frame := by
  unfold State.respond
  split <;> simp

@[simp] theorem State.setWindows_frame (owner l) : (s.setWindows owner l).frame = s.frame := by rfl

@[simp] theorem State.tileRequest_frame (owner m2 region tile) : (s.tileRequest owner m2 region tile).frame = s.frame := by
  unfold State.tileRequest
  split
  · simp
  · dsimp only
    split
    · simp
    · split
      · simp
      · split <;> simp

@[simp] theorem State.bankRequest_frame (owner requester region tile count space bad) :
    (s.bankRequest owner requester region tile count space bad).frame = s.frame := by
  simp [State.bankRequest]

@[simp] theorem State.closeWindow_frame (owner region tile) : (s.closeWindow owner region tile).frame = s.frame := by
  unfold State.closeWindow
  dsimp only
  split <;> simp

@[simp] theorem State.syncPost_frame (node member head value) : (s.syncPost node member head value).frame = s.frame := by
  unfold State.syncPost
  dsimp only
  split <;> simp

@[simp] theorem State.syncResult_frame (node head value) : (s.syncResult node head value).frame = s.frame := by
  unfold State.syncResult
  dsimp only
  split <;> simp

@[simp] theorem State.unrepairable_frame (gx gy port) : (s.unrepairable gx gy port).frame = s.frame := by rfl
@[simp] theorem State.badFlit_frame (bulk gx gy port) : (s.badFlit bulk gx gy port).frame = s.frame := by simp [State.badFlit]

@[simp] theorem State.correctTrack_frame (bulk gx gy port track) : (s.correctTrack bulk gx gy port track).frame = s.frame := by
  simp [State.correctTrack]

@[simp] theorem State.discard_frame (gx gy) : (s.discard gx gy).frame = s.frame := by rfl
@[simp] theorem State.routerError_frame (gx gy w) : (s.routerError gx gy w).frame = s.frame := by rfl
@[simp] theorem State.freeBuffer_frame (w) : (s.freeBuffer w).frame = s.frame := by rfl

@[simp] theorem State.sendCopy_frame (i w c) : (s.sendCopy i w c).1.frame = s.frame := by
  unfold State.sendCopy
  dsimp only
  split <;> split <;> (try split) <;> simp

@[simp] theorem State.drain_frame (n l) : (State.drain n l s).frame = s.frame := by
  induction n generalizing l s with
  | zero => rfl
  | succ n ih =>
    cases l with
    | nil => rfl
    | cons r rs =>
      unfold State.drain
      split
      · simp [ih]
      · split
        · exact ih _ _
        · split
          · rfl
          · exact (ih _ _).trans (State.sendCopy_frame _ _ _ _)

@[simp] theorem State.flow_frame (rs) : (s.flow rs).frame = s.frame := by simp [State.flow]

@[simp] theorem State.arriveAt_frame (bulk gx gy port a) : (s.arriveAt bulk gx gy port a).frame = s.frame := by
  simp [State.arriveAt]

@[simp] theorem State.freeWay_frame (bulk gx gy port) : (s.freeWay bulk gx gy port).frame = s.frame := by simp [State.freeWay]

@[simp] theorem State.intake_frame (bulk gx gy port w a outs booked) :
    (s.intake bulk gx gy port w a outs booked).frame = s.frame := by
  simp [State.intake]

@[simp] theorem State.dropPartial_frame (i w) : (s.dropPartial i w).frame = s.frame := by simp [State.dropPartial]

@[simp] theorem State.finishPacket_frame (i w length) : (s.finishPacket i w length).frame = s.frame := by
  simp [State.finishPacket]

@[simp] theorem State.receive_frame (bulk gx gy port a) : (s.receive bulk gx gy port a).frame = s.frame := by
  unfold State.receive
  dsimp only
  split
  · simp
  · split
    · simp
    · split
      · simp
      · split
        · simp
        · split <;> simp

@[simp] theorem State.routerPacket_frame (bulk gx gy port a) : (s.routerPacket bulk gx gy port a).frame = s.frame := by
  simp [State.routerPacket]

@[simp] theorem State.resumeLink_frame (bulk gx gy port) : (s.resumeLink bulk gx gy port).frame = s.frame := by
  simp [State.resumeLink]

@[simp] theorem State.truncate_frame (gx gy port) : (s.truncate gx gy port).frame = s.frame := by
  unfold State.truncate
  split <;> simp

@[simp] theorem State.takeAlternates_frame : s.takeAlternates.frame = s.frame := by
  unfold State.takeAlternates
  refine (State.forAll_frame _ _ fun s f => ?_).trans (by simp)
  exact State.forAll_frame _ _ fun s d => by simp

@[simp] theorem State.releaseHeld_frame : s.releaseHeld.frame = s.frame := by simp [State.releaseHeld]
@[simp] theorem State.modNode_frame (i f) : (s.modNode i f).frame = s.frame := by rfl
@[simp] theorem State.freePlace_frame (p n input) : (s.freePlace p n input).frame = s.frame := by simp [State.freePlace]

@[simp] theorem State.combine_frame (p tree e k l) : (State.combine p tree e k l s).frame = s.frame := by
  induction k generalizing l s with
  | zero => rfl
  | succ k ih =>
    cases l with
    | nil => rfl
    | cons site rest =>
      unfold State.combine
      dsimp only
      split <;> simp [ih]

@[simp] theorem State.combineFrom_frame (p tree e site) : (s.combineFrom p tree e site).frame = s.frame := by
  simp [State.combineFrom]

@[simp] theorem State.contribute_frame (p tree site input seq micro off data) :
    (s.contribute p tree site input seq micro off data).frame = s.frame := by
  unfold State.contribute
  dsimp only
  split <;> simp

@[simp] theorem State.creditsBack_frame (st stream dest n) : (s.creditsBack st stream dest n).frame = s.frame := by
  unfold State.creditsBack
  dsimp only
  split <;> simp

/-! ### The store wafer (R267 to R278) -/

@[simp] theorem State.bandFall_frame (f) : (s.bandFall f).frame = s.frame := by simp [State.bandFall]
@[simp] theorem State.copyDone_frame (st bad) : (s.copyDone st bad).frame = s.frame := by simp [State.copyDone]

/-! ### The step fence -/

@[simp] theorem State.rotate_frame (st prow pcol) : (s.rotate st prow pcol).frame = s.frame := by rfl
@[simp] theorem State.returnRested_frame (f) : (s.returnRested f).frame = s.frame := by simp [State.returnRested]

@[simp] theorem State.rotateField_frame (f) : (s.rotateField f).frame = s.frame := by
  unfold State.rotateField
  dsimp only
  split
  · simp
  · split
    · simp
    · split
      · simp
      · split <;> simp

/-! ### Fences, takeover and replay (R431 to R450) -/

@[simp] theorem State.modRecov_frame (f) : (s.modRecov f).frame = s.frame := by rfl
@[simp] theorem State.setUnrecoverable_frame : s.setUnrecoverable.frame = s.frame := by simp [State.setUnrecoverable]

@[simp] theorem State.peerSend_frame (i opcode params) : (s.peerSend i opcode params).frame = s.frame := by
  simp [State.peerSend]

@[simp] theorem State.selfFence_frame : s.selfFence.frame = s.frame := by simp [State.selfFence]
@[simp] theorem State.ownerFenced_frame (f) : (s.ownerFenced f).frame = s.frame := by simp [State.ownerFenced]
@[simp] theorem State.installStations_frame (p) : (s.installStations p).frame = s.frame := by simp [State.installStations]

@[simp] theorem State.startTakeover_frame (f g) : (s.startTakeover f g).frame = s.frame := by
  unfold State.startTakeover
  split
  · simp
  · split
    · simp
    · dsimp only
      split <;> simp

@[simp] theorem State.secondFailure_frame (f) : (s.secondFailure f).frame = s.frame := by simp [State.secondFailure]
@[simp] theorem State.openPartner_frame (e) : (s.openPartner e).frame = s.frame := by simp [State.openPartner]
@[simp] theorem State.openPartners_frame (p) : (s.openPartners p).frame = s.frame := by simp [State.openPartners]
@[simp] theorem State.closeCtx_frame (i) : (s.closeCtx i).frame = s.frame := by simp [State.closeCtx]
@[simp] theorem State.openStandbyCtx_frame (e) : (s.openStandbyCtx e).frame = s.frame := by simp [State.openStandbyCtx]

@[simp] theorem State.openStandby_frame (c) : (s.openStandby c).frame = s.frame := by
  unfold State.openStandby
  refine (State.forAll_frame _ _ fun s m => ?_).trans (by simp)
  split <;> simp

@[simp] theorem State.closeStandby_frame : s.closeStandby.frame = s.frame := by simp [State.closeStandby]
@[simp] theorem State.lackAll_frame : s.lackAll.frame = s.frame := by simp [State.lackAll]
@[simp] theorem State.claimAll_frame : s.claimAll.frame = s.frame := by simp [State.claimAll]
@[simp] theorem State.takeId_frame (f) : (s.takeId f).frame = s.frame := by simp [State.takeId]

@[simp] theorem State.giveUpTakeover_frame : s.giveUpTakeover.frame = s.frame := by
  unfold State.giveUpTakeover
  split <;> simp

@[simp] theorem State.pullRange_frame (i p first n comps) : (s.pullRange i p first n comps).frame = s.frame := by
  simp [State.pullRange]

@[simp] theorem State.requestPageSlices_frame (k p g) : (s.requestPageSlices k p g).frame = s.frame := by
  unfold State.requestPageSlices
  dsimp only
  split
  · simp
  · refine State.forAll_frame _ _ fun s a => ?_
    split <;> simp

@[simp] theorem State.requestSlices_frame (p) : (s.requestSlices p).frame = s.frame := by simp [State.requestSlices]

@[simp] theorem State.pullAll_frame : s.pullAll.frame = s.frame := by
  unfold State.pullAll
  dsimp only
  rw [State.modRecov_frame, State.forAll_frame _ _ State.requestSlices_frame]
  refine State.forAll_frame _ _ fun s p => State.forAll_frame _ _ fun s k => ?_
  split <;> simp

@[simp] theorem State.reduceAgain_frame (k p g) : (s.reduceAgain k p g).frame = s.frame := by
  unfold State.reduceAgain
  dsimp only
  rw [State.requestPageSlices_frame]
  split <;> simp

@[simp] theorem State.installSched_frame (k p id bs) : (s.installSched k p id bs).frame = s.frame := by
  simp [State.installSched]

@[simp] theorem State.pulledW_frame (p) : (s.pulledW p).frame = s.frame := by
  unfold State.pulledW
  extract_lets x n s₁ s₂ s₃
  have hsched : s₂.frame = s.frame := by
    unfold s₂
    split
    · simp [s₁]
    · refine (State.forAll_frame _ _ fun s k => ?_).trans (by simp [s₁])
      split <;> simp
  refine (State.forAll_frame _ _ fun s k => by simp).trans ?_
  unfold s₃
  split <;> simp [hsched]

@[simp] theorem State.pullProgress_frame : s.pullProgress.frame = s.frame := by simp [State.pullProgress]

@[simp] theorem State.takeoverProgress_frame : s.takeoverProgress.frame = s.frame := by
  unfold State.takeoverProgress
  split <;> simp

@[simp] theorem State.recompute_frame (p) : (s.recompute p).frame = s.frame := by simp [State.recompute]
@[simp] theorem State.buddyOpened_frame (k p) : (s.buddyOpened k p).frame = s.frame := by simp [State.buddyOpened]

@[simp] theorem State.replayPull_frame (p key i) : (s.replayPull p key i).frame = s.frame := by
  unfold State.replayPull
  dsimp only
  split <;> simp

@[simp] theorem State.servePull_frame (i k p first n comps) : (s.servePull i k p first n comps).frame = s.frame := by
  unfold State.servePull
  dsimp only
  rw [State.send_frame]
  split
  · split
    · rfl
    · refine State.forAll_frame _ _ fun s g => ?_
      split <;> simp
  · refine (State.forAll_frame _ _ fun s r => by simp).trans ?_
    split
    · rfl
    · refine State.forAll_frame _ _ fun s g => ?_
      split <;> simp

@[simp] theorem State.mirrorArrives_frame (k p g v header data) : (s.mirrorArrives k p g v header data).frame = s.frame := by
  simp [State.mirrorArrives]

@[simp] theorem State.schedArrives_frame (i k p head data) : (s.schedArrives i k p head data).frame = s.frame := by
  simp [State.schedArrives]

@[simp] theorem State.noteArrives_frame (i k p head) : (s.noteArrives i k p head).frame = s.frame := by simp [State.noteArrives]

@[simp] theorem State.snoop_frame (i head data) : (s.snoop i head data).frame = s.frame := by
  unfold State.snoop
  split <;> simp

@[simp] theorem State.replayPulls_frame (p key) : (s.replayPulls p key).frame = s.frame := by
  unfold State.replayPulls
  dsimp only
  refine State.forAll_frame _ _ fun s a => ?_
  split <;> simp

@[simp] theorem State.replayVariant_frame (p) : (s.replayVariant p).frame = s.frame := by
  unfold State.replayVariant
  dsimp only
  split
  · simp
  · split <;> simp

@[simp] theorem State.startReplay_frame (p csn key step plan mask) :
    (s.startReplay p csn key step plan mask).frame = s.frame := by
  simp [State.startReplay]

/-! ### HBM and the slow tier (R282 to R300) -/

@[simp] theorem State.absentAccess_frame (a write) : (s.absentAccess a write).frame = s.frame := by
  unfold State.absentAccess
  dsimp only
  split <;> simp

@[simp] theorem State.clearAbsent_frame : s.clearAbsent.frame = s.frame := by rfl
@[simp] theorem State.refill_frame (stk) : (s.refill stk).frame = s.frame := by rfl
@[simp] theorem State.regCfg_frame (src stk p v) : (s.regCfg src stk p v).frame = s.frame := by simp [State.regCfg]
@[simp] theorem State.clearRegs_frame (p) : (s.clearRegs p).frame = s.frame := by simp [State.clearRegs]
@[simp] theorem State.installRegs_frame (p) : (s.installRegs p).frame = s.frame := by simp [State.installRegs]
@[simp] theorem State.kprLife_frame (k f) : (s.kprLife k f).frame = s.frame := by rfl
@[simp] theorem State.burstFixed_frame (stk a) : (s.burstFixed stk a).frame = s.frame := by rfl
@[simp] theorem State.countBad_frame (stk) : (s.countBad stk).frame = s.frame := by rfl
@[simp] theorem State.burstBad_frame (a) : (s.burstBad a).frame = s.frame := by rfl

@[simp] theorem State.poisonedRead_frame (k o) : (s.poisonedRead k o).frame = s.frame := by
  unfold State.poisonedRead
  split <;> simp

@[simp] theorem State.burstFound_frame (stk a owner) : (s.burstFound stk a owner).frame = s.frame := by
  unfold State.burstFound
  split <;> simp

@[simp] theorem State.strayWrite_frame (k p j data) : (s.strayWrite k p j data).frame = s.frame := by
  unfold State.strayWrite
  dsimp only
  split
  · split <;> simp
  · split <;> simp
  · split <;> simp
  · split <;> simp
  · simp

@[simp] theorem State.hostInto_frame (a data) : (s.hostInto a data).frame = s.frame := by
  unfold State.hostInto
  refine State.forAll_frame _ _ fun s a => ?_
  simp

@[simp] theorem State.hbmRefresh_frame (stk) : (s.hbmRefresh stk).frame = s.frame := by simp [State.hbmRefresh]
@[simp] theorem State.modeFall_frame (stk) : (s.modeFall stk).frame = s.frame := by rfl

@[simp] theorem State.hbmScrub_frame (stk fixed bad) : (s.hbmScrub stk fixed bad).frame = s.frame := by
  unfold State.hbmScrub
  dsimp only
  split
  · simp
  · rw [State.modStack_frame]
    split <;> simp

/-! ### Power, clocks and heat (R477 to R503) -/

@[simp] theorem State.modPwr_frame (f) : (s.modPwr f).frame = s.frame := by rfl
@[simp] theorem State.setClk_frame (c) : (s.setClk c).frame = s.frame := by rfl
@[simp] theorem State.halfClock_frame (east code) : (s.halfClock east code).frame = s.frame := by rfl
@[simp] theorem State.setTherm_frame (east code) : (s.setTherm east code).frame = s.frame := by rfl
@[simp] theorem State.setVin_frame (a b) : (s.setVin a b).frame = s.frame := by rfl
@[simp] theorem State.grantAll_frame : s.grantAll.frame = s.frame := by simp [State.grantAll]

@[simp] theorem State.powerEvaluation_frame (measures powers) : (s.powerEvaluation measures powers).frame = s.frame := by
  simp [State.powerEvaluation]

@[simp] theorem State.issueSample_frame (i p) : (s.issueSample i p).frame = s.frame := by rfl
@[simp] theorem State.throttle_frame (f) : (s.throttle f).frame = s.frame := by rfl
@[simp] theorem State.regionRecord_frame (i) : (s.regionRecord i).frame = s.frame := by rfl

@[simp] theorem State.refreshBurst_frame (f prow pcol) : (s.refreshBurst f prow pcol).frame = s.frame := by
  simp [State.refreshBurst]

@[simp] theorem State.capStep_frame (f) : (s.capStep f).frame = s.frame := by rfl
@[simp] theorem State.stageExit_frame (f) : (s.stageExit f).frame = s.frame := by simp [State.stageExit]
@[simp] theorem State.fieldOn_frame (f) : (s.fieldOn f).frame = s.frame := by rfl

/-! ### Registers as they read (R15, R456) -/

@[simp] theorem State.modArb_frame (f) : (s.modArb f).frame = s.frame := by rfl
@[simp] theorem State.modHost_frame (f) : (s.modHost f).frame = s.frame := by rfl
@[simp] theorem State.modMgmt_frame (f) : (s.modMgmt f).frame = s.frame := by rfl
@[simp] theorem State.modLife_frame (f) : (s.modLife f).frame = s.frame := by rfl

/-- What a read of the register clears lies outside the frame (R15). -/
def Reg.Quiet (r : Reg) : Prop := ∀ c ∈ r.rc, ∀ s : State, (c.2.2 s).frame = s.frame

/-- A place holds no register, or one whose read leaves the frame. -/
def PlaceQuiet (r : Option Reg) : Prop := ∀ x ∈ r, x.Quiet

@[simp] theorem placeQuiet_none : PlaceQuiet none := fun _ h => nomatch h

@[simp] theorem placeQuiet_some (r : Reg) : PlaceQuiet (some r) ↔ r.Quiet := by simp [PlaceQuiet]

@[simp] theorem placeQuiet_ite (c : Prop) [Decidable c] (a b : Option Reg) :
    PlaceQuiet (if c then a else b) ↔ (c → PlaceQuiet a) ∧ (¬ c → PlaceQuiet b) := by
  split <;> simp [*]

@[simp] theorem Reg.quiet_mk (v : Nat) (rc : List (Nat × Nat × (State → State))) :
    Reg.Quiet ⟨v, rc⟩ ↔ ∀ c ∈ rc, ∀ s : State, (c.2.2 s).frame = s.frame := .rfl

theorem State.arbReg_quiet : s.arbReg.Quiet := by simp [State.arbReg]
theorem State.linkReg_quiet : s.linkReg.Quiet := by simp [State.linkReg]
theorem State.netCounts_quiet (f) : (s.netCounts f).Quiet := by simp [State.netCounts]
theorem State.storeCountsReg_quiet (f) : (s.storeCountsReg f).Quiet := by simp [State.storeCountsReg]
theorem State.faultLogReg_quiet (f) : (s.faultLogReg f).Quiet := by
  unfold State.faultLogReg
  split <;> simp
theorem State.schedReg_quiet (st) : (s.schedReg st).Quiet := by simp [State.schedReg]
theorem State.cyclesReg_quiet (st) : (s.cyclesReg st).Quiet := by simp [State.cyclesReg]
theorem State.errCounts_quiet (k) : (s.errCounts k).Quiet := by simp [State.errCounts]
theorem State.regCount_quiet (k p) : (s.regCount k p).Quiet := by simp [State.regCount]
theorem State.redCounts_quiet (k) : (s.redCounts k).Quiet := by simp [State.redCounts]
theorem State.digestCounts_quiet (k) : (s.digestCounts k).Quiet := by simp [State.digestCounts]
theorem State.probesReg_quiet (k) : (s.probesReg k).Quiet := by simp [State.probesReg]
theorem State.tierCounts_quiet (k) : (s.tierCounts k).Quiet := by simp [State.tierCounts]
theorem State.portCounts_quiet (p) : (s.portCounts p).Quiet := by simp [State.portCounts]
theorem State.powerReg_quiet : s.powerReg.Quiet := by simp [State.powerReg]
theorem State.clkReg_quiet : s.clkReg.Quiet := by simp [State.clkReg]
theorem State.mgmtReg_quiet : s.mgmtReg.Quiet := by simp [State.mgmtReg]
theorem State.identityReg_quiet : s.identityReg.Quiet := by simp [State.identityReg]

theorem State.fieldReg_quiet (f o) : PlaceQuiet (s.fieldReg f o) := by
  simp [State.fieldReg, s.netCounts_quiet f, s.storeCountsReg_quiet f, s.faultLogReg_quiet f]

theorem State.stationReg_quiet (st o) : PlaceQuiet (s.stationReg st o) := by
  simp [State.stationReg, s.schedReg_quiet st, s.cyclesReg_quiet st]

theorem State.stackReg_quiet (stk o) : PlaceQuiet (s.stackReg stk o) := by
  simp [State.stackReg, s.errCounts_quiet stk, s.regCount_quiet stk]

theorem State.tierReg_quiet (t) : PlaceQuiet (s.tierReg t) := by
  simp [State.tierReg]

theorem State.kprReg_quiet (k o) : PlaceQuiet (s.kprReg k o) := by
  unfold State.kprReg
  simp only [placeQuiet_ite, placeQuiet_some, placeQuiet_none, Reg.quiet_mk, s.redCounts_quiet, s.digestCounts_quiet,
    s.probesReg_quiet, s.tierCounts_quiet, List.not_mem_nil, false_imp_iff, implies_true, true_and, and_true]
  intros
  split <;> simp

theorem State.portReg_quiet (p o) : PlaceQuiet (s.portReg p o) := by
  simp [State.portReg, s.portCounts_quiet p]

theorem State.mlvReg_quiet (o) : PlaceQuiet (s.mlvReg o) := by
  simp [State.mlvReg]

theorem State.pwrReg_quiet (o) : PlaceQuiet (s.pwrReg o) := by
  simp [State.pwrReg, s.powerReg_quiet, s.clkReg_quiet]

theorem State.secReg_quiet (o) : PlaceQuiet (s.secReg o) := by
  simp [State.secReg, s.mgmtReg_quiet, s.identityReg_quiet]

theorem State.moduleReg_quiet (o) : PlaceQuiet (s.moduleReg o) := by
  unfold State.moduleReg
  simp only [placeQuiet_ite, placeQuiet_some, placeQuiet_none, Reg.quiet_mk, s.arbReg_quiet, s.linkReg_quiet, List.not_mem_nil,
    false_imp_iff, implies_true, true_and, and_true]
  refine fun _ _ => ⟨fun _ => ?_, fun _ _ _ _ _ _ _ _ => ?_⟩ <;> split <;> simp

theorem State.bar0_quiet (o) : PlaceQuiet (s.bar0 o) := by
  simp [State.bar0, s.moduleReg_quiet, s.fieldReg_quiet, s.stationReg_quiet, s.stackReg_quiet, s.tierReg_quiet, s.kprReg_quiet,
    s.portReg_quiet, s.mlvReg_quiet, s.pwrReg_quiet, s.secReg_quiet]

@[simp] theorem State.readBar0_frame (offset size) : (s.readBar0 offset size).2.frame = s.frame := by
  unfold State.readBar0
  split
  · dsimp only
    split
    · rfl
    · next r hr =>
      have hquiet : r.Quiet := s.bar0_quiet _ r hr
      refine List.foldlRecOn (motive := fun t : State => t.frame = s.frame) _ _ rfl fun t h c hc => ?_
      exact (hquiet c (List.mem_of_mem_filter hc) t).trans h
  · rfl

/-! ### Start-up and resets (R504 to R519) -/

@[simp] theorem State.modBoot_frame (f) : (s.modBoot f).frame = s.frame := by rfl

@[simp] theorem State.holdField_frame (f cause) : (s.holdField f cause).frame = s.frame := by
  unfold State.holdField
  split
  · simp
  · dsimp only
    split <;> simp

@[simp] theorem State.recordStart_frame : s.recordStart.frame = s.frame := by rfl
@[simp] theorem State.readyRecovery_frame (reason ms) : (s.readyRecovery reason ms).frame = s.frame := by rfl
@[simp] theorem State.ready_frame (ms) : (s.ready ms).frame = s.frame := by simp [State.ready]
@[simp] theorem State.readyDry_frame (ms) : (s.readyDry ms).frame = s.frame := by simp [State.readyDry]
@[simp] theorem State.linkTrained_frame : s.linkTrained.frame = s.frame := by rfl

@[simp] theorem State.imageHeld_frame (img) : (s.imageHeld img).frame = s.frame := by
  unfold State.imageHeld
  split
  · split
    · simp
    · dsimp only
      split
      · rw [State.final_frame, State.modBoot_frame]
        split <;> simp
      · rw [State.modBoot_frame]
        split <;> simp
  · simp

/-! ### Management, telemetry and lifetime records (R520 to R543) -/

@[simp] theorem State.sample_frame (place) : (s.sample place).frame = s.frame := by
  unfold State.sample
  split <;> simp

@[simp] theorem State.setTelem_frame (src t) : (s.setTelem src t).frame = s.frame := by rfl

@[simp] theorem State.sendSnapshot_frame (src tag forced) : (s.sendSnapshot src tag forced).frame = s.frame := by
  unfold State.sendSnapshot
  dsimp only
  split <;> simp

@[simp] theorem State.snapshotDue_frame (src busy) : (s.snapshotDue src busy).frame = s.frame := by simp [State.snapshotDue]
@[simp] theorem State.countPowered_frame : s.countPowered.frame = s.frame := by simp [State.countPowered]
@[simp] theorem State.wearSecond_frame (f centiamps) : (s.wearSecond f centiamps).frame = s.frame := by simp [State.wearSecond]
@[simp] theorem State.writeCounters_frame (ok) : (s.writeCounters ok).frame = s.frame := by simp [State.writeCounters]

theorem State.takeIndex_frame {i : Nat} {t : State} (h : s.takeIndex = some (i, t)) : t.frame = s.frame := by
  unfold State.takeIndex at h
  dsimp only at h
  split at h
  · cases h
  · cases h
    simp

theorem State.attest_frame {nonce report : List Byte} {t : State} (h : s.attest nonce = some (report, t)) :
    t.frame = s.frame := by
  obtain ⟨q, hq, he⟩ := Option.map_eq_some_iff.1 h
  obtain rfl : q.2 = t := congrArg Prod.snd he
  exact (State.takeIndex_frame _ hq).trans s.countPowered_frame

@[simp] theorem State.attRequest_frame (i head) : (s.attRequest i head).frame = s.frame := by
  unfold State.attRequest
  dsimp only
  split
  · simp
  · split
    · simp
    · next report t hatt => simp [State.attest_frame _ hatt]

@[simp] theorem State.calibrate_frame (sensor) : (s.calibrate sensor).frame = s.frame := by simp [State.calibrate]
@[simp] theorem State.mgmtDataIn_frame (tag data) : (s.mgmtDataIn tag data).frame = s.frame := by simp [State.mgmtDataIn]
@[simp] theorem State.portReset_frame : s.portReset.frame = s.frame := by simp [State.portReset]

/-! ### The commands of the catalogue (R461 to R468) -/

@[simp] theorem State.hostData_frame (c addr data) : (s.hostData c addr data).frame = s.frame := by
  unfold State.hostData
  split <;> simp

@[simp] theorem State.ringDelete_frame (q) : (s.ringDelete q).frame = s.frame := by simp [State.ringDelete]
@[simp] theorem State.closePlanCtxs_frame (p) : (s.closePlanCtxs p).frame = s.frame := by simp [State.closePlanCtxs]
@[simp] theorem State.clearPart_frame (p) : (s.clearPart p).frame = s.frame := by simp [State.clearPart]
@[simp] theorem State.stepBegin_frame (csn c) : (s.stepBegin csn c).frame = s.frame := by simp [State.stepBegin]

@[simp] theorem State.evalClose_frame (p) : (s.evalClose p).frame = s.frame := by
  unfold State.evalClose
  split <;> simp

@[simp] theorem State.extendSpill_frame (n) : (s.extendSpill n).frame = s.frame := by simp [State.extendSpill]

@[simp] theorem State.scaleBytes_frame (p t) : (s.scaleBytes p t).2.frame = s.frame := by
  unfold State.scaleBytes
  split
  · rfl
  · exact List.foldlRecOn (motive := fun r : List Byte × State => r.2.frame = s.frame) _ _ rfl fun r h _ _ => h

@[simp] theorem State.spareRelease_frame : s.spareRelease.frame = s.frame := by simp [State.spareRelease]

@[simp] theorem State.diagReplay_frame (csn c) : (s.diagReplay csn c).frame = s.frame := by
  unfold State.diagReplay
  dsimp only
  split
  · simp
  · split <;> simp

@[simp] theorem State.fwUpdate_frame (csn c) : (s.fwUpdate csn c).frame = s.frame := by rfl

@[simp] theorem State.enter_frame (c) : (s.enter c).frame = s.frame := by
  unfold State.enter
  split <;> simp

@[simp] theorem State.refuse_frame (c status) : (s.refuse c status).frame = s.frame := by simp [State.refuse]
@[simp] theorem State.refuseBusy_frame (c) : (s.refuseBusy c).frame = s.frame := by simp [State.refuseBusy]

/-! ### The ends of long commands -/

@[simp] theorem State.flightData_frame (f addr data) : (s.flightData f addr data).frame = s.frame := by simp [State.flightData]

@[simp] theorem State.loadPages_frame (p n l r) : (State.loadPages p n l r).1.frame = r.1.frame := by
  induction l generalizing r with
  | nil => rfl
  | cons g gs ih =>
    obtain ⟨s, data, first, kept⟩ := r
    unfold State.loadPages
    dsimp only
    split <;> simp [ih]

@[simp] theorem State.pagesLoaded_frame (csn data) : (s.pagesLoaded csn data).frame = s.frame := by
  unfold State.pagesLoaded
  split
  · simp
  · dsimp only
    split
    · simp
    · split <;> simp

@[simp] theorem State.nanRead_frame (p n) : (s.nanRead p n).frame = s.frame := by
  unfold State.nanRead
  split
  · simp
  · refine State.forAll_frame _ _ fun s a => ?_
    split <;> simp

@[simp] theorem State.readReady_frame (p n) : (s.readReady p n).1.frame = s.frame := by
  unfold State.readReady
  refine List.foldlRecOn (motive := fun r : State × Bool => r.1.frame = s.frame) _ _ rfl fun r h g _ => ?_
  dsimp only
  split
  · exact h
  · simpa using h

@[simp] theorem State.pagesRead_frame (csn) : (s.pagesRead csn).frame = s.frame := by
  unfold State.pagesRead
  split <;> simp

@[simp] theorem State.storeRead_frame (csn) : (s.storeRead csn).frame = s.frame := by
  unfold State.storeRead
  split
  · simp
  · dsimp only
    split
    · simp
    · split <;> simp

@[simp] theorem State.spareConfigured_frame (csn images) : (s.spareConfigured csn images).frame = s.frame := by
  unfold State.spareConfigured
  split
  · simp
  · dsimp only
    split
    · simp
    · split <;> simp

/-! ### Rings and data queues (R453 to R460) -/

@[simp] theorem State.doorbell_frame (q v f) : (s.doorbell q v f).frame = s.frame := by simp [State.doorbell]
@[simp] theorem State.sqTail_frame (q v) : (s.sqTail q v).frame = s.frame := by simp [State.sqTail]
@[simp] theorem State.cqHead_frame (q v) : (s.cqHead q v).frame = s.frame := by simp [State.cqHead]
@[simp] theorem State.ringCtl0_frame (v) : (s.ringCtl0 v).frame = s.frame := by simp [State.ringCtl0]

@[simp] theorem State.postFinal_frame (q) : (s.postFinal q).frame = s.frame := by
  unfold State.postFinal
  split <;> simp

@[simp] theorem State.linkReset_frame : s.linkReset.frame = s.frame := by simp [State.linkReset]

@[simp] theorem State.dqDoorbell_frame (p q v) : (s.dqDoorbell p q v).frame = s.frame := by
  unfold State.dqDoorbell
  dsimp only
  split
  · simp
  · split
    · simp
    · split
      · simp
      · split <;> simp

@[simp] theorem State.inputTile_frame (p q tile) : (s.inputTile p q tile).frame = s.frame := by
  unfold State.inputTile
  dsimp only
  split <;> simp

@[simp] theorem State.recordOut_frame (p q e) : (s.recordOut p q e).frame = s.frame := by
  unfold State.recordOut
  dsimp only
  split
  · simp
  · split <;> simp

@[simp] theorem State.outputTile_frame (p q tile) : (s.outputTile p q tile).frame = s.frame := by
  unfold State.outputTile
  dsimp only
  split <;> simp

@[simp] theorem State.present_frame (c) : (s.present c).frame = s.frame := by rfl

@[simp] theorem State.stopTier_frame (p g cs write) : (s.stopTier p g cs write).frame = s.frame := by
  unfold State.stopTier
  split <;> simp

/-! ### Register writes (R456, R473) -/

@[simp] theorem State.overMesh_frame (o size type) : (s.overMesh o size type).frame = s.frame := by
  unfold State.overMesh
  split <;> simp

@[simp] theorem State.answerRead_frame (o size) : (s.answerRead o size).frame = s.frame := by simp [State.answerRead]
@[simp] theorem State.readRegister_frame (o size) : (s.readRegister o size).frame = s.frame := by simp [State.readRegister]
@[simp] theorem State.serveReads_frame : s.serveReads.frame = s.frame := by simp [State.serveReads]
@[simp] theorem State.portEnable_frame (p on) : (s.portEnable p on).frame = s.frame := by simp [State.portEnable]
@[simp] theorem State.portRetrain_frame (p) : (s.portRetrain p).frame = s.frame := by simp [State.portRetrain]

@[simp] theorem State.portCtrl_frame (src p) {f : State → State} (hf : ∀ s, (f s).frame = s.frame) :
    (s.portCtrl src p f).frame = s.frame := by
  simp [State.portCtrl, hf]

@[simp] theorem State.guarded_frame (ok) {f : State → State} (hf : ∀ s, (f s).frame = s.frame) :
    (s.guarded ok f).frame = s.frame := by
  simp [State.guarded, hf]

@[simp] theorem State.writeModule_frame (src o m3 v) : (s.writeModule src o m3 v).frame = s.frame := by
  unfold State.writeModule
  split
  · simp
  · split
    · simp
    · split
      · simp
      · split
        · simp
        · split
          · simp
          · split
            · dsimp only
              split <;> simp
            · simp

@[simp] theorem State.writeField_frame (src f o m4 v) : (s.writeField src f o m4 v).frame = s.frame := by
  simp [State.writeField]

@[simp] theorem State.writeStation_frame (st o m3 v) : (s.writeStation st o m3 v).frame = s.frame := by
  simp [State.writeStation]

@[simp] theorem State.writeStack_frame (src stk o m4 v) : (s.writeStack src stk o m4 v).frame = s.frame := by
  simp [State.writeStack]

@[simp] theorem State.writeKpr_frame (src k o v) : (s.writeKpr src k o v).frame = s.frame := by simp [State.writeKpr]

@[simp] theorem State.writeSystem_frame (src o m3 v) : (s.writeSystem src o m3 v).frame = s.frame := by
  unfold State.writeSystem
  dsimp only
  split
  · rw [State.guarded_frame]
    simp
  · simp

@[simp] theorem State.writePlace_frame (src o m3 v) : (s.writePlace src o m3 v).frame = s.frame := by simp [State.writePlace]

@[simp] theorem State.writeRegister_frame (src offset size v) : (s.writeRegister src offset size v).frame = s.frame := by
  simp [State.writeRegister]

@[simp] theorem idleTick_frame : (idleTick s).frame = s.frame := by
  unfold idleTick
  dsimp only
  split <;> simp

end Frames

end Sys2Proof.Machine
end

section
/-! SUPPORT. The operations that write the store or HBM, and those that use them: each leads to a frame that is allowed. A store
or HBM is written byte by byte, copied, or emptied, and each keeps the canonical form. -/

namespace Sys2Proof.Machine

section Writers
variable {m : Frame} {s : State} (h : m.Allows s.frame)
include h

/-! ### Operands and banks of a station -/

@[simp] theorem State.writeBank_allowed (st off data) : m.Allows (s.writeBank st off data).frame := by
  have hwrite : m.Allows ⟨writeBytes s.store (s.storeAddr st off) data, s.hbm.mem, s.pending⟩ :=
    h.store (sparseWf_writeBytes _ _ _)
  unfold State.writeBank
  dsimp only
  split <;> simpa using hwrite

/-! ### The queue of operations (R172 to R180) -/

@[simp] theorem State.writeImages_allowed (p st r images) : m.Allows (s.writeImages p st r images).frame := by
  unfold State.writeImages
  dsimp only
  split
  · split <;> simp [h]
  · split
    · simp [h]
    · refine foldl_allowed (by simp [h]) fun s a h => ?_
      simp [h]
  · simp [h]
  · simp [h]

@[simp] theorem State.writeResult_allowed (p st e cls r scale xs) : m.Allows (s.writeResult p st e cls r scale xs).frame := by
  unfold State.writeResult
  dsimp only
  split
  · simp [h]
  · split <;> simp [h]

/-! ### Operations on tiles -/

@[simp] theorem State.writeOut_allowed (p st tile block) : m.Allows (s.writeOut p st tile block).frame := by
  unfold State.writeOut
  dsimp only
  split <;> simp [h]

@[simp] theorem State.writeOutResident_allowed (p st keep) : m.Allows (s.writeOutResident p st keep).frame := by
  unfold State.writeOutResident
  split <;> simp [h]

@[simp] theorem runTmul_allowed (p st e) : m.Allows (runTmul s p st e).frame := by
  unfold runTmul
  dsimp only
  split
  · simp [h]
  · refine State.forAll_allowed (by simp [h]) fun s a h => ?_
    simp [h]

@[simp] theorem runFlock_allowed (p st e) : m.Allows (runFlock s p st e).frame := by
  unfold runFlock
  simp [h]

@[simp] theorem effTmul_allowed (p st e) : m.Allows (effTmul s p st e).frame := by
  unfold effTmul
  simp [h]

@[simp] theorem effTepi_allowed (p st e) : m.Allows (effTepi s p st e).frame := by
  unfold effTepi
  dsimp only
  split
  · refine State.forAll_allowed (by simp [h]) fun s a h => ?_
    simp [h]
  · simp [h]

@[simp] theorem effMove_allowed (p st e) : m.Allows (effMove s p st e).frame := by
  unfold effMove
  dsimp only
  split
  · apply State.writeImages_allowed
    split <;> simp [h]
  · simp [h]

@[simp] theorem effVec_allowed (p st e) : m.Allows (effVec s p st e).frame := by
  unfold effVec
  simp [h]

@[simp] theorem effFun_allowed (p st e) : m.Allows (effFun s p st e).frame := by
  unfold effFun
  simp [h]

@[simp] theorem effScale_allowed (p st e) : m.Allows (effScale s p st e).frame := by
  unfold effScale
  simp [h]

@[simp] theorem writeAcc_allowed (p st e tile) : m.Allows (writeAcc s p st e tile).frame := by
  unfold writeAcc
  dsimp only
  split <;> split
  · simp [h]
  · exact State.forAll_allowed (by simp [h]) fun s a h => by simp [h]
  · simp [h]
  · exact State.forAll_allowed (by simp [h]) fun s a h => by simp [h]

@[simp] theorem readAcc_allowed (p st e tile) : m.Allows (readAcc s p st e tile).frame := by
  unfold readAcc
  dsimp only
  split
  · apply State.writeImages_allowed
    rw [State.modCore_frame]
    split <;> simp [h]
  · simp [h]

@[simp] theorem effAcc_allowed (p st e) : m.Allows (effAcc s p st e).frame := by
  unfold effAcc
  dsimp only
  split
  · split <;> simp [h]
  · split <;> simp [h]

/-! ### Stations and their streams (R156 to R185) -/

@[simp] theorem State.endMeasure_allowed (p st) : m.Allows (s.endMeasure p st).frame := by
  unfold State.endMeasure
  split
  · exact h
  · rw [State.modStation_frame]
    exact h.store fun hs => sparseWf_foldl_sset _ _ _ _ (sparseWf_filter _ _ _ hs)

theorem State.issue_allowed (st id code) {eff : State → Nat → OpEntry → State}
    (heff : ∀ s p e, m.Allows s.frame → m.Allows (eff s p e).frame) :
    m.Allows (s.issue st id code eff).frame := by
  unfold State.issue
  dsimp only
  split
  · simp [h]
  · split
    · simp [h]
    · simp [h, heff]

@[simp] theorem State.shadowImages_allowed (p st interim) : m.Allows (s.shadowImages p st interim).frame := by
  unfold State.shadowImages
  dsimp only
  rw [State.modCore_frame]
  split
  · rw [State.addCycles_frame]
    split <;> simp [h]
  · split <;> simp [h]

@[simp] theorem State.bindMigrated_allowed (st) : m.Allows (s.bindMigrated st).frame := by
  have hcopy : ∀ (l : Sparse Byte) (g : Nat × Byte → Nat) (p : Nat × Byte → Bool),
      m.Allows ⟨l.foldl (fun m c => sset 0 m (g c) c.2) (s.store.filter p), s.hbm.mem, s.pending⟩ := fun l g p =>
    h.store fun hs => sparseWf_foldl_sset _ _ _ _ (sparseWf_filter _ _ p hs)
  unfold State.bindMigrated
  dsimp only
  split
  · split <;> simpa using hcopy _ _ _
  · exact h

@[simp] theorem State.completeShadow_allowed (st) : m.Allows (s.completeShadow st).frame := by
  unfold State.completeShadow
  extract_lets s₀
  have hs₀ : m.Allows s₀.frame := by simpa [s₀] using h
  split
  · next p w _ _ =>
    split
    · simp [hs₀]
    · extract_lets x fence s₁ s₂ s₃ copy area s₄ op again s₅ s₆ s₇
      have hs₁ : m.Allows s₁.frame := by
        unfold s₁
        split <;> simp [hs₀]
      have hs₄ : m.Allows s₄.frame := by simp [s₄, s₃, s₂, hs₁]
      have hs₇ : m.Allows s₇.frame := by simp [s₇, s₆, s₅, hs₄]
      simpa using hs₇
  · exact hs₀

@[simp] theorem State.writeRing_allowed (p st e seq data) : m.Allows (s.writeRing p st e seq data).frame := by
  unfold State.writeRing
  split <;> simp [h]

@[simp] theorem State.acceptTile_allowed (p st e data) : m.Allows (s.acceptTile p st e data).frame := by
  unfold State.acceptTile
  simp [h]

@[simp] theorem State.streamTile_allowed (st stream seq data) : m.Allows (s.streamTile st stream seq data).frame := by
  unfold State.streamTile
  dsimp only
  split
  · simp [h]
  · split
    · simp [h]
    · split
      · simp [h]
      · split
        · split <;> simp [h]
        · simp [h]

/-! ### Husks and buddies (R419 to R430) -/

theorem State.huskMessage_allowed (i n head ok) {eff : State → Nat → Nat → State}
    (heff : ∀ s k p, m.Allows s.frame → m.Allows (eff s k p).frame) :
    m.Allows (s.huskMessage i n head ok eff).frame := by
  unfold State.huskMessage
  dsimp only
  split
  · simp [h]
  · split <;> simp [h, heff]

/-! ### The order of a step (R20 to R46) -/

@[simp] theorem State.initBank_allowed (i) : m.Allows (s.initBank i).frame := by
  rw [State.initBank, State.modBank_frame]
  exact h.store (sparseWf_filter _ _ _)

@[simp] theorem State.eraseField_allowed (f) : m.Allows (s.eraseField f).frame := h.store (sparseWf_filter _ _ _)

@[simp] theorem State.fieldOff_allowed (f) : m.Allows (s.fieldOff f).frame := by
  unfold State.fieldOff
  dsimp only
  split <;> simp [h]

@[simp] theorem State.offAtFence_allowed (p) : m.Allows (s.offAtFence p).frame := by
  unfold State.offAtFence
  refine State.forAll_allowed (by simp [h]) fun s a h => ?_
  simp [h]

@[simp] theorem State.settle_allowed (p) : m.Allows (s.settle p).frame := by
  unfold State.settle
  simp [h]

@[simp] theorem State.offWhenIdle_allowed (f) : m.Allows (s.offWhenIdle f).frame := by
  unfold State.offWhenIdle
  split
  · simp [h]
  · split <;> simp [h]

@[simp] theorem State.rollbackLocal_allowed (p) : m.Allows (s.rollbackLocal p).frame := by
  unfold State.rollbackLocal
  simp [h]

@[simp] theorem State.commitPip_allowed (p) : m.Allows (s.commitPip p).frame := by
  unfold State.commitPip
  dsimp only
  split <;> simp [h]

theorem State.takeResult_allowed {apply : State → Nat → RoundResult → State} (p r)
    (happly : ∀ s p r, m.Allows s.frame → m.Allows (apply s p r).frame) :
    m.Allows (State.takeResult apply s p r).frame := by
  simp [State.takeResult, h, happly]

theorem State.runRound_allowed {apply : State → Nat → RoundResult → State} (p step kind)
    (happly : ∀ s p r, m.Allows s.frame → m.Allows (apply s p r).frame) :
    m.Allows (State.runRound apply s p step kind).frame := by
  unfold State.runRound
  extract_lets x self kids mark
  have hmark : m.Allows (mark s).frame := by simpa [mark] using h
  split
  · exact h
  · extract_lets ready recs
    split
    · exact h
    · split
      · exact State.takeResult_allowed hmark _ _ happly
      · split <;> simp [h, hmark]

theorem State.post_allowed {apply : State → Nat → RoundResult → State} (p kind own)
    (happly : ∀ s p r, m.Allows s.frame → m.Allows (apply s p r).frame) :
    m.Allows (State.post apply s p kind own).frame := by
  unfold State.post
  extract_lets step stale s₁ s₂
  have hs₁ : m.Allows s₁.frame := by simp [s₁, h]
  split
  · exact happly _ _ _ hs₁
  · split
    · exact hs₁
    · exact State.runRound_allowed (by simpa [s₂] using hs₁) _ _ _ happly

theorem State.childPost_allowed {apply : State → Nat → RoundResult → State} (p step kind child recs)
    (happly : ∀ s p r, m.Allows s.frame → m.Allows (apply s p r).frame) :
    m.Allows (State.childPost apply s p step kind child recs).frame := by
  unfold State.childPost
  split
  · simp [h]
  · exact State.runRound_allowed (by simpa using h) _ _ _ happly

@[simp] theorem applyCommit_allowed (p r) : m.Allows (applyCommit s p r).frame := by
  unfold applyCommit
  simp [h]

@[simp] theorem State.shares_allowed (p) : m.Allows (s.shares p).frame := by
  unfold State.shares
  split
  · exact h
  · extract_lets ks s₁
    have hs₁ : m.Allows s₁.frame := State.forAll_allowed h fun s k h => by simp [h]
    split
    · exact State.post_allowed (by simpa using hs₁) p 1 none fun s p r h => by simp [h]
    · exact hs₁

@[simp] theorem State.beginCommit_allowed (p null S) : m.Allows (s.beginCommit p null S).frame := by
  unfold State.beginCommit
  simp [h]

@[simp] theorem applyVerdict_allowed (p r) : m.Allows (applyVerdict s p r).frame := by
  unfold applyVerdict
  simp [h]

@[simp] theorem State.gate_allowed (p) : m.Allows (s.gate p).frame := by
  unfold State.gate
  dsimp only
  split
  · exact State.post_allowed (by simpa using h) p 0 _ fun s p r h => by simp [h]
  · exact h

@[simp] theorem applyChoice_allowed (p r) : m.Allows (applyChoice s p r).frame := by
  unfold applyChoice
  simp [h]

@[simp] theorem State.startRollback_allowed (p cause) : m.Allows (s.startRollback p cause).frame :=
  State.post_allowed (by simpa using h) p 2 none fun s p r h => by simp [h]

@[simp] theorem State.rollbackDone_allowed (p) : m.Allows (s.rollbackDone p).frame := by
  unfold State.rollbackDone
  dsimp only
  split <;> simp [h]

@[simp] theorem State.rollbackWafer_allowed (p) : m.Allows (s.rollbackWafer p).frame := by
  unfold State.rollbackWafer
  simp [h]

omit h in
theorem roundApply_allowed (kind) : ∀ s p r, m.Allows s.frame → m.Allows (roundApply kind s p r).frame := by
  intro s p r h
  unfold roundApply
  split <;> simp [h]

@[simp] theorem State.sumUpArrives_allowed (i head data) : m.Allows (s.sumUpArrives i head data).frame := by
  unfold State.sumUpArrives
  split
  · exact h
  · dsimp only
    split
    · simp [h]
    · exact State.childPost_allowed (by simpa using h) _ _ _ _ _ (roundApply_allowed _)

@[simp] theorem State.sumDownArrives_allowed (i head) : m.Allows (s.sumDownArrives i head).frame := by
  unfold State.sumDownArrives
  split
  · exact h
  · dsimp only
    split
    · simp [h]
    · exact State.takeResult_allowed (by simpa using h) _ _ (roundApply_allowed _)

/-! ### Buckets and reductions (R310 to R322) -/

@[simp] theorem State.checkReduced_allowed (p) : m.Allows (s.checkReduced p).frame := by
  unfold State.checkReduced
  simp [h]

@[simp] theorem State.pageReduced_allowed (k p g) : m.Allows (s.pageReduced k p g).frame := by
  unfold State.pageReduced
  dsimp only
  split
  · simp [h]
  · apply State.checkReduced_allowed
    split <;> simp [h]

@[simp] theorem State.pageClean_allowed (k p g) : m.Allows (s.pageClean k p g).frame := by
  unfold State.pageClean
  simp [h]

@[simp] theorem State.compareRecord_allowed (k p g) : m.Allows (s.compareRecord k p g).frame := by
  unfold State.compareRecord
  dsimp only
  split
  · split <;> simp [h]
  · simp [h]

@[simp] theorem State.pageCommit_allowed (k p g) : m.Allows (s.pageCommit k p g).frame := by
  unfold State.pageCommit
  simp [h]

/-! ### Faults of the wafer (R393 to R418) -/

@[simp] theorem State.fieldRollback_allowed (f) : m.Allows (s.fieldRollback f).frame := by
  unfold State.fieldRollback
  split <;> simp [h]

@[simp] theorem State.loseFor_allowed (f p) : m.Allows (s.loseFor f p).frame := by
  unfold State.loseFor
  simp [h]

@[simp] theorem State.fieldLoss_allowed (f cause st prow pcol) : m.Allows (s.fieldLoss f cause st prow pcol).frame := by
  unfold State.fieldLoss
  split
  · simp [h]
  · dsimp only
    refine State.forAll_allowed (by simp [h]) fun s a h => ?_
    simp [h]

theorem State.withSpare_allowed (st prow pcol) {k : State → Nat → State}
    (hk : ∀ s i, m.Allows s.frame → m.Allows (k s i).frame) : m.Allows (s.withSpare st prow pcol k).frame := by
  unfold State.withSpare
  dsimp only
  split
  · exact hk _ _ h
  · simp [h]

@[simp] theorem State.coreFault_allowed (st cause retest receiver) : m.Allows (s.coreFault st cause retest receiver).frame := by
  unfold State.coreFault
  dsimp only
  split
  · exact h
  · exact State.withSpare_allowed (by simpa using h) _ _ _ fun s i h => by simp [h]

@[simp] theorem State.breakFill_allowed (l cause prow pcol) : m.Allows (s.breakFill l cause prow pcol).frame := by
  unfold State.breakFill
  dsimp only
  split
  · simp [h]
  · exact State.withSpare_allowed (by simpa using h) _ _ _ fun s i h => by simp [h]

@[simp] theorem State.fillFault_allowed (st cause) : m.Allows (s.fillFault st cause).frame := by
  unfold State.fillFault
  split <;> simp [h]

@[simp] theorem State.ownFill_allowed (st cause) : m.Allows (s.ownFill st cause).frame := by
  unfold State.ownFill
  simp [h]

@[simp] theorem State.fillComplete_allowed (f) : m.Allows (s.fillComplete f).frame := by
  unfold State.fillComplete
  split
  · simp [h]
  · dsimp only
    split <;> simp [h]

@[simp] theorem State.retarget_allowed (f) : m.Allows (s.retarget f).frame :=
  State.forAll_allowed h fun _ _ h => State.withSpare_allowed h _ _ _ fun s i h => by simp [h]

@[simp] theorem State.bindNewBank_allowed (st i homeDead) : m.Allows (s.bindNewBank st i homeDead).frame := by
  unfold State.bindNewBank
  simp [h]

@[simp] theorem State.routerLost_allowed (st row col cause) : m.Allows (s.routerLost st row col cause).frame := by
  unfold State.routerLost
  dsimp only
  split
  · exact h
  · split
    · exact State.withSpare_allowed (by simpa using h) _ _ _ fun s i h => by simp [h]
    · simp [h]

@[simp] theorem State.routerFault_allowed (st cause) : m.Allows (s.routerFault st cause).frame := by
  unfold State.routerFault
  extract_lets f row col before s₁ s₂ hit s₃ s₄
  have hs₃ : m.Allows s₃.frame := by simp [s₃, s₂, s₁, h]
  have hs₄ : m.Allows s₄.frame := by
    unfold s₄
    split <;> simp [hs₃]
  split
  · exact h
  · split
    · simp [h]
    · split
      · simp [s₂, s₁, h]
      · rw [State.spareTaken_frame]
        exact State.retarget_allowed (State.forAll_allowed hs₄ fun s t h => by simp [h]) _

@[simp] theorem State.rebindStation_allowed (st) : m.Allows (s.rebindStation st).frame := by
  unfold State.rebindStation
  dsimp only
  split
  · simp [h]
  · split <;> simp [h]

@[simp] theorem State.rebindField_allowed (f) : m.Allows (s.rebindField f).frame := by
  unfold State.rebindField
  dsimp only
  refine State.forAll_allowed (by simp [h]) fun s a h => ?_
  simp [h]

@[simp] theorem State.fieldReady_allowed (test) : m.Allows (s.fieldReady test).frame := by
  unfold State.fieldReady
  extract_lets f s₁ s₂ clk s₃ s₄ s₅
  have hs₄ : m.Allows s₄.frame := by simp [s₄, s₃, s₂, s₁, h]
  have hs₅ : m.Allows s₅.frame := State.rebindField_allowed hs₄ f
  split
  · split <;> simp [hs₅]
  · exact h

@[simp] theorem State.gapFault_allowed (st p stream) : m.Allows (s.gapFault st p stream).frame := by
  unfold State.gapFault
  split <;> simp [h]

/-! ### The store wafer (R267 to R278) -/

@[simp] theorem State.retireRow_allowed (f prow pcol sub row) : m.Allows (s.retireRow f prow pcol sub row).frame := by
  unfold State.retireRow
  dsimp only
  split
  · simp [h]
  · split <;> simp [h]

@[simp] theorem State.correctRow_allowed (f prow pcol sub row words) :
    m.Allows (s.correctRow f prow pcol sub row words).frame := by
  unfold State.correctRow
  simp [h]

@[simp] theorem State.correctWriteback_allowed (f prow pcol word) : m.Allows (s.correctWriteback f prow pcol word).frame := by
  unfold State.correctWriteback
  simp [h]

@[simp] theorem State.scrubBlock_allowed (f prow pcol fixed bad) : m.Allows (s.scrubBlock f prow pcol fixed bad).frame := by
  unfold State.scrubBlock
  simp [h]

@[simp] theorem State.zeroWord_allowed (f prow pcol word) : m.Allows (s.zeroWord f prow pcol word).frame := by
  rw [State.zeroWord, State.modBank_frame]
  exact h.store (sparseWf_writeBytes _ _ _)

@[simp] theorem State.poisonWord_allowed (f prow pcol word rewritten) :
    m.Allows (s.poisonWord f prow pcol word rewritten).frame := by
  unfold State.poisonWord
  simp [h]

@[simp] theorem State.replayWord_allowed (st i word) : m.Allows (s.replayWord st i word).frame := by
  unfold State.replayWord
  simp [h]

@[simp] theorem State.mendWord_allowed (p st f prow pcol word) : m.Allows (s.mendWord p st f prow pcol word).frame := by
  unfold State.mendWord
  dsimp only
  split <;> simp [h]

@[simp] theorem State.wordRecovered_allowed (f prow pcol word) : m.Allows (s.wordRecovered f prow pcol word).frame := by
  unfold State.wordRecovered
  dsimp only
  apply State.retireRow_allowed
  split <;> simp [h]

@[simp] theorem State.recoverWord_allowed (f prow pcol word) : m.Allows (s.recoverWord f prow pcol word).frame := by
  unfold State.recoverWord
  dsimp only
  split
  · simp [h]
  · split
    · simp [h]
    · split <;> simp [h]

@[simp] theorem State.retireRecovered_allowed (st) : m.Allows (s.retireRecovered st).frame := by
  unfold State.retireRecovered
  dsimp only
  split
  · simp [h]
  · refine State.forAll_allowed (by simp [h]) fun s a h => ?_
    simp [h]

@[simp] theorem State.bankFault_allowed (st) : m.Allows (s.bankFault st).frame := by
  unfold State.bankFault
  dsimp only
  split
  · exact h
  · exact State.withSpare_allowed (by simp [h]) _ _ _ fun s i h => by simp [h]

/-! ### The step fence -/

@[simp] theorem State.stepFence_allowed (p) : m.Allows (s.stepFence p).frame := by
  unfold State.stepFence
  extract_lets x bad s₁ s₂ s₃ s₄ s₅ s₆
  have hs₃ : m.Allows s₃.frame := by simp [s₃, s₂, s₁, h]
  have hs₆ : m.Allows s₆.frame := by simp [s₆, s₅, s₄, hs₃]
  split
  · exact h
  · simp [hs₆]

/-! ### Fences, takeover and replay (R431 to R450) -/

@[simp] theorem State.buddyFenced_allowed (f) : m.Allows (s.buddyFenced f).frame := by
  unfold State.buddyFenced
  dsimp only
  refine State.forAll_allowed (by simp [h]) fun s a h => ?_
  refine State.forAll_allowed (by simp [h]) fun s a h => ?_
  refine State.forAll_allowed (by simp [h]) fun s a h => ?_
  simp [h]

@[simp] theorem State.moduleFence_allowed (f g came) : m.Allows (s.moduleFence f g came).frame := by
  unfold State.moduleFence
  simp [h]

@[simp] theorem State.detectFence_allowed (f) : m.Allows (s.detectFence f).frame := by
  unfold State.detectFence
  simp [h]

@[simp] theorem State.fatalFault_allowed : m.Allows s.fatalFault.frame := by
  unfold State.fatalFault
  simp [h]

@[simp] theorem State.watchdogFence_allowed : m.Allows s.watchdogFence.frame := by
  unfold State.watchdogFence
  simp [h]

@[simp] theorem State.ctxLost_allowed (i) : m.Allows (s.ctxLost i).frame := by
  unfold State.ctxLost
  simp [h]

@[simp] theorem State.resumeRollbacks_allowed : m.Allows s.resumeRollbacks.frame := by
  unfold State.resumeRollbacks
  refine State.forAll_allowed (by simp [h]) fun s a h => ?_
  split <;> simp [h]

@[simp] theorem State.rejoin_allowed (g) : m.Allows (s.rejoin g).frame := by
  unfold State.rejoin
  simp [h]

@[simp] theorem State.spareAdmit_allowed (f g standby csn came) : m.Allows (s.spareAdmit f g standby csn came).frame := by
  unfold State.spareAdmit
  simp [h]

@[simp] theorem State.ctxOpened_allowed (i) : m.Allows (s.ctxOpened i).frame := by
  refine State.forAll_allowed h fun s p h => ?_
  extract_lets x again s₁ s₂ self s₃ s₄ s₅
  have hs₁ : m.Allows s₁.frame := by
    unfold s₁
    split <;> simp [again, h]
  have hs₂ : m.Allows s₂.frame := by
    unfold s₂
    split
    · simp [again, hs₁]
    · exact hs₁
  have hs₃ : m.Allows s₃.frame := by
    unfold s₃
    split
    · refine State.forAll_allowed hs₂ fun s r h => ?_
      split
      · simp [h]
      · exact State.runRound_allowed h _ _ _ (roundApply_allowed _)
    · exact hs₂
  have hs₄ : m.Allows s₄.frame := by
    unfold s₄
    split <;> simp [hs₃]
  have hs₅ : m.Allows s₅.frame := by
    unfold s₅
    split
    · split <;> simp [hs₄]
    · exact hs₄
  split <;> simp [hs₅]

theorem State.withContexts_allowed {f : State → State}
    (hf : m.Allows s.frame → m.Allows (f s).frame) : m.Allows (s.withContexts f).frame := by
  simp only [State.withContexts, State.takeoverProgress_frame]
  exact State.forAll_allowed (hf h) fun s i h => by simp [h]

@[simp] theorem State.ownPage_allowed (k p g v comps header stamped data) :
    m.Allows (s.ownPage k p g v comps header stamped data).frame := by
  unfold State.ownPage
  simp [h]

@[simp] theorem State.huskPageArrives_allowed (k p head data) : m.Allows (s.huskPageArrives k p head data).frame := by
  unfold State.huskPageArrives
  dsimp only
  split
  · simp [h]
  · split
    · split <;> simp [h]
    · simp [h]

@[simp] theorem State.leaveReplay_allowed (p matched) : m.Allows (s.leaveReplay p matched).frame := by
  unfold State.leaveReplay
  simp [h]

@[simp] theorem State.stopReplay_allowed (csn) : m.Allows (s.stopReplay csn).frame := by
  unfold State.stopReplay
  split <;> simp [h]

@[simp] theorem State.endReplay_allowed (csn) : m.Allows (s.endReplay csn).frame := by
  unfold State.endReplay
  split <;> simp [h]

/-! ### HBM and the slow tier (R282 to R300) -/

@[simp] theorem State.writeHbm_allowed (a data) : m.Allows (s.writeHbm a data).frame := h.hbm (sparseWf_writeBytes _ _ _)

@[simp] theorem State.hostAccess_allowed (q) : m.Allows (s.hostAccess q).frame := by
  unfold State.hostAccess
  split <;> simp [h]

@[simp] theorem State.issueSlot_allowed (slot requests fixed bad) : m.Allows (s.issueSlot slot requests fixed bad).frame := by
  unfold State.issueSlot
  dsimp only
  split
  · simp [h]
  · split <;> simp [h]

/-! ### Power, clocks and heat (R477 to R503) -/

@[simp] theorem State.fieldReading_allowed (f t) : m.Allows (s.fieldReading f t).frame := by
  unfold State.fieldReading
  simp [h]

@[simp] theorem State.storeReading_allowed (f t) : m.Allows (s.storeReading f t).frame := by
  unfold State.storeReading
  simp [h]

@[simp] theorem State.stackReading_allowed (stk t) : m.Allows (s.stackReading stk t).frame := by
  unfold State.stackReading
  simp [h]

@[simp] theorem State.reading_allowed (code t) : m.Allows (s.reading code t).frame := by
  unfold State.reading
  simp [h]

@[simp] theorem State.dividerStep_allowed (east) : m.Allows (s.dividerStep east).frame := by
  unfold State.dividerStep
  dsimp only
  split
  · split
    · simp [h]
    · refine State.forAll_allowed (by simp [h]) fun s a h => ?_
      simp [h]
  · simp [h]

@[simp] theorem State.fieldTrip_allowed (f) : m.Allows (s.fieldTrip f).frame := by
  unfold State.fieldTrip
  simp [h]

/-! ### Start-up and resets (R504 to R519) -/

@[simp] theorem State.coldReset_allowed (kind cause) : m.Allows (s.coldReset kind cause).frame := by
  unfold State.coldReset
  extract_lets p clk s₁
  have hs₁ : m.Allows s₁.frame := h.emptyStore.emptyHbm
  exact State.forAll_allowed hs₁ fun s f h => by simp [h]

@[simp] theorem State.warmReset_allowed (cause) : m.Allows (s.warmReset cause).frame := by
  unfold State.warmReset
  extract_lets states off ctx p s₁ s₂ s₃
  have hs₁ : m.Allows s₁.frame := h.emptyStore
  have hs₂ : m.Allows s₂.frame := State.forAll_allowed hs₁ fun s f h => by simp [h]
  have hs₃ : s₃.frame = s₂.frame := by simp [s₃]
  exact State.forAll_allowed (by simpa [hs₃] using hs₂) fun s f h => by simp [h]

@[simp] theorem State.beginReset_allowed (kind cause) : m.Allows (s.beginReset kind cause).frame := by
  unfold State.beginReset
  split <;> simp [h]

@[simp] theorem State.rebindFrom_allowed (f prow pcol) : m.Allows (s.rebindFrom f prow pcol).frame := by
  unfold State.rebindFrom
  dsimp only
  split <;> simp [h]

@[simp] theorem State.failCore_allowed (i) : m.Allows (s.failCore i).frame := by
  unfold State.failCore
  simp [h]

@[simp] theorem State.failRouter_allowed (i) : m.Allows (s.failRouter i).frame := by
  unfold State.failRouter
  simp [h]

@[simp] theorem State.failSite_allowed (i) : m.Allows (s.failSite i).frame := by
  unfold State.failSite
  simp [h]

@[simp] theorem State.failUnit_allowed (u) : m.Allows (s.failUnit u).frame := by
  unfold State.failUnit
  simp [h]

@[simp] theorem State.relink_allowed : m.Allows s.relink.frame := by
  unfold State.relink
  dsimp only
  split
  · simp [h]
  · apply State.resumeRollbacks_allowed
    split <;> simp [h]

@[simp] theorem State.readyNormal_allowed (ms failed) : m.Allows (s.readyNormal ms failed).frame := by
  have hfailed : m.Allows (s.forAll failed State.failUnit).frame := State.forAll_allowed h fun s i h => by simp [h]
  simp [State.readyNormal, hfailed]

@[simp] theorem State.bringupReady_allowed (flashOk ms failed) : m.Allows (s.bringupReady flashOk ms failed).frame := by
  unfold State.bringupReady
  split <;> simp [h]

@[simp] theorem State.stageTimeout_allowed (u) : m.Allows (s.stageTimeout u).frame := by
  unfold State.stageTimeout
  simp [h]

@[simp] theorem State.switchOff_allowed : m.Allows s.switchOff.frame := by
  unfold State.switchOff
  simp [h]

@[simp] theorem State.powerUp_allowed (cause) : m.Allows (s.powerUp cause).frame := by
  unfold State.powerUp
  simp [h]

@[simp] theorem State.afterUpdate_allowed (good) : m.Allows (s.afterUpdate good).frame := by
  unfold State.afterUpdate
  split <;> simp [h]

@[simp] theorem State.programDone_allowed (success) : m.Allows (s.programDone success).frame := by
  unfold State.programDone
  split
  · split <;> simp [h]
  · simp [h]

@[simp] theorem State.efuseTrip_allowed (i) : m.Allows (s.efuseTrip i).frame := by
  unfold State.efuseTrip
  simp [h]

@[simp] theorem State.clockLoss_allowed : m.Allows s.clockLoss.frame := by
  unfold State.clockLoss
  simp [h]

/-! ### The commands of the catalogue (R461 to R468) -/

theorem done_allowed {f : Nat → State → State} (csn c)
    (hf : ∀ n s, m.Allows s.frame → m.Allows (f n s).frame) : m.Allows (done f csn c s).frame := by
  simp [done, hf, h]

theorem doneFirst_allowed {f : Nat → State → State} (csn c)
    (hf : ∀ n s, m.Allows s.frame → m.Allows (f n s).frame) : m.Allows (doneFirst f csn c s).frame := by
  simp [doneFirst, hf, h]

@[simp] theorem State.resetCommand_allowed (n) : m.Allows (s.resetCommand n).frame := by
  unfold State.resetCommand
  dsimp only
  split <;> simp [h]

@[simp] theorem State.dissolve_allowed (p) : m.Allows (s.dissolve p).frame := by
  unfold State.dissolve
  dsimp only
  refine State.forAll_allowed (by simp [h]) fun s a h => ?_
  simp [h]

theorem accepted_allowed {f : Nat → State → State} (csn c)
    (hf : ∀ n s, m.Allows s.frame → m.Allows (f n s).frame) : m.Allows (accepted f csn c s).frame := by
  simp [accepted, hf, h]

@[simp] theorem State.choose_allowed (p choice) : m.Allows (s.choose p choice).frame :=
  State.post_allowed (by simpa using h) p 3 _ fun s p r h => by simp [h]

@[simp] theorem State.resumeKpr_allowed (p k) : m.Allows (s.resumeKpr p k).frame := by
  unfold State.resumeKpr
  dsimp only
  split
  · simp [h]
  · refine State.forAll_allowed (by simp [h]) fun s a h => ?_
    simp [h]

@[simp] theorem State.commitResume_allowed (csn c) : m.Allows (s.commitResume csn c).frame := by
  unfold State.commitResume
  extract_lets n p s₁ ks s₂ waits s₃ s₄
  have hs₃ : m.Allows s₃.frame := by simp [s₃, s₂, s₁, h]
  have hs₄ : m.Allows s₄.frame := State.shares_allowed (State.forAll_allowed hs₃ fun s k h => by simp [h]) p
  split
  · simp [s₁, h]
  · split <;> simp [hs₄]

@[simp] theorem State.fieldPower_allowed (f action) : m.Allows (s.fieldPower f action).frame := by
  unfold State.fieldPower
  split <;> simp [h]

end Writers

/-- What a row of the catalogue does leads to a frame that is allowed wherever the row begins from one. -/
def CatRow.Sound (r : CatRow) : Prop :=
  ∀ (m : Frame) (csn : Nat) (c : Cmd) (s : State), m.Allows s.frame → m.Allows (r.eff csn c s).frame

theorem catNop_sound : catNop.Sound := fun m csn c s h => by simp [catNop, done, h]
theorem catAttach_sound : catAttach.Sound := fun m csn c s h => by simp [catAttach, done, h]
theorem catSetId_sound : catSetId.Sound := fun m csn c s h => by simp [catSetId, done, h]
theorem catRingCreate_sound : catRingCreate.Sound := fun m csn c s h => by simp [catRingCreate, done, h]
theorem catRingDelete_sound : catRingDelete.Sound := fun m csn c s h => by simp [catRingDelete, doneFirst, h]
theorem catLeaseTake_sound : catLeaseTake.Sound := fun m csn c s h => by simp [catLeaseTake, h]
theorem catLeaseRelease_sound : catLeaseRelease.Sound := fun m csn c s h => by simp [catLeaseRelease, doneFirst, h]
theorem catReset_sound : catReset.Sound := fun m csn c s h => by simp [catReset, doneFirst, h]
theorem catEventConfig_sound : catEventConfig.Sound := fun m csn c s h => by simp [catEventConfig, h]
theorem catPartCreate_sound : catPartCreate.Sound := fun m csn c s h => by simp [catPartCreate, h]
theorem catPartDissolve_sound : catPartDissolve.Sound := fun m csn c s h => by simp [catPartDissolve, done, h]
theorem catPlanLoad_sound : catPlanLoad.Sound := fun m csn c s h => by simp [catPlanLoad, accepted, h]
theorem catTableLoad_sound : catTableLoad.Sound := fun m csn c s h => by
  unfold catTableLoad
  dsimp only
  split <;> simp [h]
theorem catCtxOpen_sound : catCtxOpen.Sound := fun m csn c s h => by simp [catCtxOpen, done, h]
theorem catCtxClose_sound : catCtxClose.Sound := fun m csn c s h => by simp [catCtxClose, done, h]
theorem catDqCreate_sound : catDqCreate.Sound := fun m csn c s h => by simp [catDqCreate, done, h]
theorem catDqDelete_sound : catDqDelete.Sound := fun m csn c s h => by simp [catDqDelete, done, h]
theorem storeRow_sound (opcode reads) : (storeRow opcode reads).Sound := fun m csn c s h => by simp [storeRow, accepted, h]
theorem catStepBegin_sound : catStepBegin.Sound := fun m csn c s h => by simp [catStepBegin, h]
theorem catEvalOpen_sound : catEvalOpen.Sound := fun m csn c s h => by simp [catEvalOpen, accepted, h]
theorem catEvalClose_sound : catEvalClose.Sound := fun m csn c s h => by simp [catEvalClose, accepted, h]
theorem choiceRow_sound (opcode choice) : (choiceRow opcode choice).Sound := fun m csn c s h => by simp [choiceRow, accepted, h]
theorem catCommitResume_sound : catCommitResume.Sound := fun m csn c s h => by simp [catCommitResume, h]
theorem catPageLoad_sound : catPageLoad.Sound := fun m csn c s h => by simp [catPageLoad, accepted, h]
theorem catPageRead_sound : catPageRead.Sound := fun m csn c s h => by
  refine State.forAll_allowed (by simpa using h) fun s g h => ?_
  split <;> simp [h]
theorem catScaleRead_sound : catScaleRead.Sound := fun m csn c s h => by simp [catScaleRead, h]
theorem catScaleWrite_sound : catScaleWrite.Sound := fun m csn c s h => by simp [catScaleWrite, done, h]
theorem catTierEvict_sound : catTierEvict.Sound := fun m csn c s h => by
  simp only [catTierEvict, accepted, State.tierDone_frame]
  refine State.forAll_allowed (by simpa using h) fun s g h => ?_
  split <;> simp [h]
theorem catTierFetch_sound : catTierFetch.Sound := fun m csn c s h => by
  simp only [catTierFetch, accepted, State.tierDone_frame]
  refine State.forAll_allowed (by simpa using h) fun s g h => ?_
  split <;> simp [h]
theorem catModuleFence_sound : catModuleFence.Sound := fun m csn c s h => by simp [catModuleFence, h]
theorem catSpareAdmit_sound : catSpareAdmit.Sound := fun m csn c s h => by simp [catSpareAdmit, h]
theorem catSpareConfig_sound : catSpareConfig.Sound := fun m csn c s h => by simp [catSpareConfig, accepted, h]
theorem catSpareRelease_sound : catSpareRelease.Sound := fun m csn c s h => by simp [catSpareRelease, done, h]
theorem catDiagReplay_sound : catDiagReplay.Sound := fun m csn c s h => by simp [catDiagReplay, h]
theorem catPowerGrants_sound : catPowerGrants.Sound := fun m csn c s h => by simp [catPowerGrants, h]
theorem catHalfClock_sound : catHalfClock.Sound := fun m csn c s h => by simp [catHalfClock, done, h]
theorem catFieldPower_sound : catFieldPower.Sound := fun m csn c s h => by simp [catFieldPower, doneFirst, h]
theorem catThermalLimits_sound : catThermalLimits.Sound := fun m csn c s h => by simp [catThermalLimits, h]
theorem catTelemetryConfig_sound : catTelemetryConfig.Sound := fun m csn c s h => by simp [catTelemetryConfig, h]
theorem catSnapshot_sound : catSnapshot.Sound := fun m csn c s h => by simp [catSnapshot, h]
theorem catLifeRead_sound : catLifeRead.Sound := fun m csn c s h => by simp [catLifeRead, h]
theorem catAttest_sound : catAttest.Sound := fun m csn c s h => by
  unfold catAttest
  dsimp only
  split
  · simp [h]
  · next hatt => simp [State.attest_frame _ hatt, h]
theorem catFwUpdate_sound : catFwUpdate.Sound := fun m csn c s h => by simp [catFwUpdate, h]
theorem catIdRead_sound : catIdRead.Sound := fun m csn c s h => by simp [catIdRead, h]

theorem catalogue_sound : ∀ r ∈ catalogue, r.Sound := by
  simp only [catalogue, List.forall_mem_cons]
  exact ⟨catNop_sound, catAttach_sound, catSetId_sound, catRingCreate_sound, catRingDelete_sound, catLeaseTake_sound,
    catLeaseRelease_sound, catReset_sound, catEventConfig_sound, catPartCreate_sound, catPartDissolve_sound, catPlanLoad_sound,
    catTableLoad_sound, catCtxOpen_sound, catCtxClose_sound, catDqCreate_sound, catDqDelete_sound, storeRow_sound _ _,
    storeRow_sound _ _, catStepBegin_sound, catEvalOpen_sound, catEvalClose_sound, choiceRow_sound _ _, choiceRow_sound _ _,
    catCommitResume_sound, catPageLoad_sound, catPageRead_sound, catScaleRead_sound, catScaleWrite_sound, catTierEvict_sound,
    catTierFetch_sound, catModuleFence_sound, catSpareAdmit_sound, catSpareConfig_sound, catSpareRelease_sound,
    catDiagReplay_sound, catPowerGrants_sound, catHalfClock_sound, catFieldPower_sound, catThermalLimits_sound,
    catTelemetryConfig_sound, catSnapshot_sound, catLifeRead_sound, catAttest_sound, catFwUpdate_sound, catIdRead_sound,
    fun _ h => nomatch h⟩

theorem catRow_sound {opcode : Nat} {r : CatRow} (h : catRow opcode = some r) : r.Sound :=
  catalogue_sound r (List.mem_of_find?_eq_some h)

section Commands
variable {m : Frame} {s : State} (h : m.Allows s.frame)
include h

@[simp] theorem State.execute_allowed (c csn) : m.Allows (s.execute c csn).frame := by
  unfold State.execute
  split
  · exact h
  · next r hr =>
    dsimp only
    split
    · simp [h]
    · exact catRow_sound hr m csn c s h

@[simp] theorem State.apply_allowed (c) : m.Allows (s.apply c).frame := by
  unfold State.apply
  simp [h]

theorem State.admitCommand_allowed (c) {go : State → State}
    (hgo : ∀ s, m.Allows s.frame → m.Allows (go s).frame) : m.Allows (s.admitCommand c go).frame := by
  unfold State.admitCommand
  split
  · exact h
  · split
    · simp [h]
    · simp [h, hgo]

@[simp] theorem runCommand_allowed (opcode c) : m.Allows (runCommand opcode c s).frame :=
  State.admitCommand_allowed h _ fun s h => by simp [h]

/-! ### The ends of long commands -/

@[simp] theorem State.installPlan_allowed (p plan start) : m.Allows (s.installPlan p plan start).frame := by
  unfold State.installPlan
  extract_lets old off s₁ x s₂ s₃ s₄ s₅ s₆ s₇
  have hs₅ : s₅.frame = s.frame := by simp [s₅, s₄, s₃, s₂, s₁]
  have hs₇ : s₇.frame = s.frame := by simp [s₇, s₆, hs₅]
  exact State.settle_allowed (by simpa [hs₇] using h) p

@[simp] theorem State.planLoaded_allowed (csn image) : m.Allows (s.planLoaded csn image).frame := by
  unfold State.planLoaded
  split
  · simp [h]
  · dsimp only
    split
    · simp [h]
    · split <;> simp [h]

@[simp] theorem State.storeWritten_allowed (csn data) : m.Allows (s.storeWritten csn data).frame := by
  unfold State.storeWritten
  split <;> simp [h]

/-! ### Rings and data queues (R453 to R460) -/

@[simp] theorem State.readBuffer_allowed (c) : m.Allows (s.readBuffer c).frame := by
  unfold State.readBuffer
  split
  · split <;> simp [h]
  · simp [h]

@[simp] theorem State.fetchCommand_allowed (q entry data) : m.Allows (s.fetchCommand q entry data).frame := by
  unfold State.fetchCommand
  dsimp only
  split
  · exact h
  · exact State.admitCommand_allowed (by simpa using h) _ fun s h => by simp [h]

@[simp] theorem State.peerCommand_allowed (i seq entry) : m.Allows (s.peerCommand i seq entry).frame := by
  unfold State.peerCommand
  dsimp only
  split
  · exact h
  · split
    · simp [h]
    · exact State.admitCommand_allowed (by simpa using h) _ fun s h => by simp [h]

@[simp] theorem State.mgmtCommand_allowed (tag entry) : m.Allows (s.mgmtCommand tag entry).frame :=
  State.admitCommand_allowed h _ fun s h => by simp [h]

@[simp] theorem State.arbitrate_allowed : m.Allows s.arbitrate.frame := by
  unfold State.arbitrate
  split
  · simp [h]
  · split
    dsimp only
    refine State.forAll_allowed (by simp [h]) fun s a h => ?_
    split
    · simp [h]
    · split <;> simp [h]

@[simp] theorem State.stopWork_allowed (c) : m.Allows (s.stopWork c).frame := by
  unfold State.stopWork
  dsimp only
  split <;> simp [h]

@[simp] theorem State.timeout_allowed (csn) : m.Allows (s.timeout csn).frame := by
  unfold State.timeout
  split <;> simp [h]

/-! ### Every row -/

/-- R180, R403: a report by its code, and by whether the station is fenced. -/
theorem exec_stationErrorReport_allowed (st report) : Answers (.stationErrorReport st report) s fun t => m.Allows t.frame := by
  refine ⟨_, rfl, ?_⟩
  extract_lets code s₁ gap
  have hs₁ : m.Allows s₁.frame := by simp [s₁, h]
  split
  · simp [h]
  · split
    · split <;> simp [hs₁]
    · split
      · simp [hs₁]
      · split
        · exact hs₁
        · split
          · split <;> simp [hs₁]
          · simp [hs₁]

/-- R479: as the reference returns, a module that waits for it powers up. -/
theorem exec_refRestored_allowed : Answers .refRestored s fun t => m.Allows t.frame := by
  have hup : ∀ t : State, t.frame = s.frame → m.Allows (t.powerUp 6).frame := fun t ht => by simp [ht, h]
  refine ⟨_, rfl, ?_⟩
  split
  · exact h
  · extract_lets clk s₁
    split
    · simp only [frame_mk, frame_eta]
      exact hup s₁ rfl
    · exact h

/-- Every row answers a state that the frame allows: most rows carry out one operation, others choose among operations
by the state. -/
theorem exec_allowed (c : Instr) : Answers c s fun t => m.Allows t.frame := by
  cases c
  case tmul | tepi | tload | tstore | tsend | trecv | tvec | tfun | tacc | tscale | tfence =>
    exact ⟨_, rfl, State.issue_allowed h _ _ _ fun s p e h => by simp [h]⟩
  case huskNull | huskSched | huskProg | huskPull | huskPage | huskCmp | huskEnd =>
    exact ⟨_, rfl, State.huskMessage_allowed h _ _ _ _ fun s k p h => by simp [h]⟩
  case cellReceive | hello | helloSend => exact ⟨_, rfl, State.withContexts_allowed h fun h => by simp [h]⟩
  case fldFaultLogRead | opFetch | promotion | opRetire | watchdog | fillTransfer | admitWaitExpiry | takeoverBlocked =>
    refine ⟨_, rfl, ?_⟩
    split <;> simp [h]
  case tpip st id =>
    refine ⟨_, rfl, ?_⟩
    split
    · exact h
    · exact State.issue_allowed h _ _ _ fun s p e h => by simp [h]
  case huskGrad ctx head data =>
    refine ⟨_, rfl, State.huskMessage_allowed h _ _ _ _ fun s k p h => ?_⟩
    dsimp only
    split
    · exact h
    · split
      · split <;> simp [h]
      · simp [h]
  case sensorRead readings => exact ⟨_, rfl, State.forAll_allowed h fun s q h => by simp [h]⟩
  case evalStaged p =>
    refine ⟨_, rfl, ?_⟩
    dsimp only
    split <;> simp [h]
  case evalCloseDone p =>
    refine ⟨_, rfl, ?_⟩
    dsimp only
    split <;> simp [h]
  case tmulYield | tmulResume =>
    refine ⟨_, rfl, ?_⟩
    split
    · exact h
    · dsimp only
      split <;> simp [h]
  case bucketAdmit k p =>
    refine ⟨_, rfl, ?_⟩
    split
    · exact h
    · split <;> simp [h]
  case trainingPhaseDone port =>
    refine ⟨_, rfl, ?_⟩
    dsimp only
    split
    · exact h
    · split <;> split <;> simp [h]
  case stationErrorReport st report => exact exec_stationErrorReport_allowed h st report
  case refRestored => exact exec_refRestored_allowed h
  all_goals exact ⟨_, rfl, by simp [h]⟩

end Commands

end Sys2Proof.Machine
end

section
/-! The statement that every step keeps the memories in canonical form, and what it is derived from. -/

namespace Sys2Proof.Machine

/-- What a command leads to from a state, is allowed by the state's frame. -/
theorem exec_allows {c : Instr} {s t : State} (h : exec c s = .next t) : s.frame.Allows t.frame := by
  obtain ⟨u, hu, hallows⟩ := exec_allowed s.frame.allows_self c
  obtain rfl : u = t := Host.Outcome.next.inj (hu.symm.trans h)
  exact hallows

/-- No command changes the queue. -/
theorem exec_pending {c : Instr} {s t : State} (h : exec c s = .next t) : t.pending = s.pending := (exec_allows h).pending

theorem exec_memoryWf {c : Instr} {s t : State} (hs : s.memoryWf = true) (h : exec c s = .next t) : t.memoryWf = true :=
  (exec_allows h).wf hs

theorem idleTick_memoryWf {s : State} (hs : s.memoryWf = true) : (idleTick s).memoryWf = true := by
  rw [State.memoryWf_frame, idleTick_frame]
  exact hs

/-- Settles O59: an idle tick leaves the memories; a command leads to a frame that its state's allows. -/
theorem stepKeepsMemory : Obligations.StepKeepsMemory := by
  unfold Obligations.StepKeepsMemory
  intro s t hs hstep
  unfold step at hstep
  split at hstep
  · obtain rfl := Host.Outcome.next.inj hstep
    exact idleTick_memoryWf hs
  · next c rest _ =>
    have hrest : ({ s with pending := rest } : State).memoryWf = true := hs
    exact exec_memoryWf hrest hstep

end Sys2Proof.Machine
end

section
/-! SUPPORT. The sites of the store wafer and the recovery of a word: what each operation does where no station's bank lies. -/

namespace Sys2Proof.Machine

/-! ### Sites -/

/-- R263: a site within the module. -/
theorem siteOk_of_lt {f prow pcol : Nat} (hf : f < 64) (hprow : prow < 24) (hpcol : pcol < 25) :
    siteOk f prow pcol = true := by
  simp [siteOk, hf, hprow, hpcol]

/-- The station of a site depends on the fields alone. -/
theorem State.siteStation_congr {s t : State} (h : t.fields = s.fields) (f prow pcol : Nat) :
    t.siteStation f prow pcol = s.siteStation f prow pcol := by
  simp only [State.siteStation, State.bankBind, State.field, h]

/-- The partition of a field row depends on the partitions alone. -/
theorem State.fieldPart_congr {s t : State} (h : t.parts = s.parts) (f : Nat) : t.fieldPart f = s.fieldPart f := by
  simp only [State.fieldPart, State.rowPart, State.part, h]

/-! ### Row retirement (R273) -/

/-- With a spare row left in its sub-bank, a row is retired to it. -/
theorem State.retireRow_of_spare (s : State) (f prow pcol sub row : Nat)
    (h : 0 < (s.bank (bankIdx f prow pcol)).spareRows sub) : s.retireRow f prow pcol sub row
      = ((s.modBank (bankIdx f prow pcol) fun b =>
          { b with retired := b.retired ++ [(sub, row)], corrections := sset [] b.corrections (16 * row + sub) [] }).modField f
        fun x => { x with rowsRetired := satAdd 16 x.rowsRetired 1 }).modWear f fun w =>
          { w with retired := satAdd 32 w.retired 1 } := by
  rw [State.retireRow, if_pos h]

theorem State.bank_retireRow_of_spare (s : State) (f prow pcol sub row : Nat)
    (h : 0 < (s.bank (bankIdx f prow pcol)).spareRows sub) :
    (s.retireRow f prow pcol sub row).bank (bankIdx f prow pcol) = { s.bank (bankIdx f prow pcol) with
      retired := (s.bank (bankIdx f prow pcol)).retired ++ [(sub, row)]
      corrections := sset [] (s.bank (bankIdx f prow pcol)).corrections (16 * row + sub) [] } := by
  rw [s.retireRow_of_spare f prow pcol sub row h]
  simp only [State.modWear_others, State.modField_others, State.bank_modBank_same]

/-! ### Uncorrectable words (R274 to R276) -/

/-- A word that is not found uncorrectable, or that a replay rewrites, is left alone. -/
theorem State.recoverWord_alone (s : State) (f prow pcol word : Nat)
    (hpoison : (s.bank (bankIdx f prow pcol)).poison.contains word = false)
    (halone : (s.bank (bankIdx f prow pcol)).bad.contains word = false
      ∨ (s.bank (bankIdx f prow pcol)).replaying.contains word = true) : s.recoverWord f prow pcol word = s := by
  unfold State.recoverWord
  rw [if_neg (ne_true_of_eq_false hpoison), if_pos (by simpa using halone)]

/-- A poisoned word that has been read rolls the step back. -/
theorem State.recoverWord_poisoned (s : State) (f prow pcol word : Nat)
    (hpoison : (s.bank (bankIdx f prow pcol)).poison.contains word = true) :
    s.recoverWord f prow pcol word = if s.poisonRead f prow pcol then s.fieldRollback f else s := by
  unfold State.recoverWord
  rw [if_pos hpoison]

/-- An uncorrectable word of a site that holds no station's bank is rewritten as zero bytes, and its row is retired. -/
theorem State.recoverWord_of_no_station (s : State) (f prow pcol word : Nat)
    (hpoison : (s.bank (bankIdx f prow pcol)).poison.contains word = false)
    (hbad : (s.bank (bankIdx f prow pcol)).bad.contains word = true)
    (hreplay : (s.bank (bankIdx f prow pcol)).replaying.contains word = false)
    (hsite : s.siteStation f prow pcol = none) : s.recoverWord f prow pcol word
      = (s.zeroWord f prow pcol word).retireRow f prow pcol (wordSub word) (wordRow word) := by
  have hsite' : (s.zeroWord f prow pcol word).siteStation f prow pcol = none :=
    (State.siteStation_congr rfl f prow pcol).trans hsite
  unfold State.recoverWord
  rw [if_neg (ne_true_of_eq_false hpoison), if_neg (by rw [hbad, hreplay]; decide), hsite]
  dsimp only
  rw [State.wordRecovered, hsite']

theorem State.zeroWord_bank (s : State) (f prow pcol word : Nat) :
    (s.zeroWord f prow pcol word).bank (bankIdx f prow pcol) = { s.bank (bankIdx f prow pcol) with
      bad := (s.bank (bankIdx f prow pcol)).bad.filter (· ≠ word)
      epoch := insertOnce (word / 32) (s.bank (bankIdx f prow pcol)).epoch } := State.bank_modBank_same _ _ _

/-- The word's eight bytes are written as zero. -/
theorem State.zeroWord_store (s : State) (f prow pcol word : Nat) : (s.zeroWord f prow pcol word).store
    = writeBytes s.store (2 ^ 24 * bankIdx f prow pcol + 8 * word) (List.replicate 8 0) := rfl

theorem exec_wordRecovery (s : State) (f prow pcol word : Nat) (hf : f < 64) (hprow : prow < 24) (hpcol : pcol < 25) :
    exec (.wordRecovery f prow pcol word) s = .next (s.recoverWord f prow pcol word) :=
  congrArg Host.Outcome.next (if_pos (siteOk_of_lt hf hprow hpcol))

end Sys2Proof.Machine
end

section
/-! The statement about the recovery of a word, from what its operations do. -/

namespace Sys2Proof.Machine

/-- Settles O31: by the word's case, as the field controller reads it. -/
theorem wordRecovery : Obligations.WordRecovery := by
  unfold Obligations.WordRecovery
  intro s f prow pcol word hf hprow hpcol i a
  rw [exec_wordRecovery s f prow pcol word hf hprow hpcol]
  refine ⟨fun hpoison halone => ?alone, fun hpoison => ?poisoned, fun hpoison hbad hreplay hsite hspare => ?zeroed⟩
  case alone => rw [s.recoverWord_alone f prow pcol word hpoison halone]
  case poisoned => rw [s.recoverWord_poisoned f prow pcol word hpoison]
  case zeroed =>
    have hzero := s.zeroWord_bank f prow pcol word
    have hspare' : 0 < ((s.zeroWord f prow pcol word).bank (bankIdx f prow pcol)).spareRows (wordSub word) := by
      rw [hzero]
      exact hspare
    have hbank := (s.zeroWord f prow pcol word).bank_retireRow_of_spare f prow pcol (wordSub word) (wordRow word) hspare'
    have hrow := (s.zeroWord f prow pcol word).retireRow_of_spare f prow pcol (wordSub word) (wordRow word) hspare'
    rw [hzero] at hbank
    refine ⟨_, exec_wordRecovery s f prow pcol word hf hprow hpcol, ?_⟩
    rw [s.recoverWord_of_no_station f prow pcol word hpoison hbad hreplay hsite]
    refine ⟨fun j hj => ?inside, fun j hj => ?outside, ?found, congrArg Bank.retired hbank, ?_, ?_, ?_⟩
    case inside =>
      rw [hrow]
      exact (sget_writeBytes_inside s.store a _ j (by simpa using hj)).trans (List.getElem_replicate _)
    case outside =>
      rw [hrow]
      exact sget_writeBytes_outside s.store a _ j (by simpa using hj)
    case found =>
      rw [show Bank.bad (State.bank _ i) = _ from congrArg Bank.bad hbank]
      simp
    all_goals
      rw [hrow]
      rfl

end Sys2Proof.Machine
end

section
/-! SUPPORT. The upkeep of the store wafer's banks: refresh, correction and scrub, one lemma for each case. -/

namespace Sys2Proof.Machine

/-! ### Refresh (R267, R268) -/

/-- R267: what a burst does but for the throttle: the band rises to that of the latest reading. -/
def State.riseBand (s : State) (f : Nat) : State := s.modField f fun x => { x with band := max x.band x.nextBand }

/-- R267: the bursts of a bank are counted around its 16 turns. -/
def Bank.nextBurst (b : Bank) : Bank := { b with burst := (b.burst + 1) % 16 }

/-- R269: a field that enters band 3 in stage 0 is throttled. -/
theorem State.refreshBurst_throttles (s : State) (f prow pcol : Nat) (hband : (s.field f).band < 3)
    (hnext : (s.field f).nextBand = 3) (hstage : (s.region f).stage = 0) :
    s.refreshBurst f prow pcol = ((s.riseBand f).throttle f).modBank (bankIdx f prow pcol) Bank.nextBurst := by
  unfold State.refreshBurst
  dsimp only
  rw [if_pos ⟨by simp [hband, hnext], by simpa using hstage⟩]
  rfl

/-- Any other field is not. -/
theorem State.refreshBurst_plain (s : State) (f prow pcol : Nat)
    (h : 3 ≤ (s.field f).band ∨ (s.field f).nextBand ≠ 3 ∨ (s.region f).stage ≠ 0) :
    s.refreshBurst f prow pcol = (s.riseBand f).modBank (bankIdx f prow pcol) Bank.nextBurst := by
  unfold State.refreshBurst
  dsimp only
  rw [if_neg]
  · rfl
  · simp only [State.modField_others, decide_eq_true_eq]
    rintro ⟨⟨hband, hnext⟩, hstage⟩
    omega

/-- R268: the lower threshold of a band that can fall. -/
theorem bandFloor_eq {b : Nat} (hb : 0 < b) : bandFloor b = if b = 1 then 55 else if b = 2 then 70 else 85 := by
  match b with
  | 1 => rfl
  | 2 => rfl
  | n + 3 => simp [bandFloor]

/-- R268: 2 K below the lower threshold the band falls by one. -/
theorem State.bandFall_falls (s : State) (f : Nat) (hband : 0 < (s.field f).band)
    (htemp : (s.field f).storeTemp + 2 ≤ bandFloor (s.field f).band) :
    s.bandFall f = s.modField f fun x => { x with band := x.band - 1, nextBand := min x.nextBand (x.band - 1) } := by
  unfold State.bandFall
  dsimp only
  rw [if_pos ⟨hband, htemp⟩]

theorem State.bandFall_zero (s : State) (f : Nat) (h : (s.field f).band = 0) : s.bandFall f = s := by
  simp [State.bandFall, h]

/-! ### Corrected words (R271, R273) -/

/-- The times of the corrections of a row within the last 2^24 store cycles, with one of now. -/
def State.correctionTimes (s : State) (i sub row : Nat) : List Nat :=
  (insertOnce s.clk.rootTime (sget [] (s.bank i).corrections (16 * row + sub))).filter
    fun t => decide (s.clk.rootTime ≤ t + 2 ^ 24 * 8)

/-- The correction of words of a row, as it is counted. -/
def State.countCorrected (s : State) (f i sub row words : Nat) : State :=
  ((s.modField f fun x => { x with storeCorrected := satAdd 16 x.storeCorrected words }).modWear f fun w =>
    { w with corrected := satAdd 64 w.corrected words }).modBank i fun b =>
      { b with corrections := sset [] b.corrections (16 * row + sub) (s.correctionTimes i sub row) }

/-- Below the third event the row is counted and no more. -/
theorem State.correctRow_counts (s : State) (f prow pcol sub row words : Nat)
    (h : (s.correctionTimes (bankIdx f prow pcol) sub row).length < 3) :
    s.correctRow f prow pcol sub row words = s.countCorrected f (bankIdx f prow pcol) sub row words :=
  if_neg (Nat.not_le_of_lt h)

theorem State.countCorrected_spareRows (s : State) (f i sub row words j : Nat) :
    ((s.countCorrected f i sub row words).bank i).spareRows j = (s.bank i).spareRows j := by
  simp [State.countCorrected, Bank.spareRows]

/-- At the third event the row is retired too. -/
theorem State.correctRow_retires (s : State) (f prow pcol sub row words : Nat)
    (h : 3 ≤ (s.correctionTimes (bankIdx f prow pcol) sub row).length)
    (hspare : 0 < (s.bank (bankIdx f prow pcol)).spareRows sub) : s.correctRow f prow pcol sub row words
      = (((s.countCorrected f (bankIdx f prow pcol) sub row words).modBank (bankIdx f prow pcol) fun b =>
          { b with retired := b.retired ++ [(sub, row)], corrections := sset [] b.corrections (16 * row + sub) [] }).modField f
        fun x => { x with rowsRetired := satAdd 16 x.rowsRetired 1 }).modWear f fun w =>
          { w with retired := satAdd 32 w.retired 1 } := by
  have hcounted : 0 < ((s.countCorrected f (bankIdx f prow pcol) sub row words).bank (bankIdx f prow pcol)).spareRows sub := by
    rwa [State.countCorrected_spareRows]
  exact (if_pos h).trans (State.retireRow_of_spare _ _ _ _ _ _ hcounted)

/-- A word that scrub found corrected is written back. -/
theorem State.correctWriteback_found (s : State) (f prow pcol word : Nat)
    (h : word ∈ (s.bank (bankIdx f prow pcol)).writeBack) : s.correctWriteback f prow pcol word
      = s.modBank (bankIdx f prow pcol) fun b => { b with writeBack := b.writeBack.filter (· ≠ word) } := by
  unfold State.correctWriteback
  dsimp only
  rw [if_pos (by simpa using h)]

/-- A word that a read corrected counts in its row. -/
theorem State.correctWriteback_read (s : State) (f prow pcol word : Nat)
    (h : word ∉ (s.bank (bankIdx f prow pcol)).writeBack) :
    s.correctWriteback f prow pcol word = s.correctRow f prow pcol (bits word 9 6) (bits word 20 10) 1 :=
  if_neg (by simpa using h)

/-! ### Scrub (R272) -/

/-- Scrub does not run where it is off or its bank is busy. -/
theorem State.scrubBlock_idle (s : State) (f prow pcol : Nat) (fixed bad : List Nat)
    (h : (s.field f).scrubEn = false ∨ s.bankBusy f prow pcol = true) : s.scrubBlock f prow pcol fixed bad = s := by
  rw [State.scrubBlock, if_pos h]

/-- A clean block before the last moves the scrub of its bank to the next. -/
theorem State.scrubBlock_clean (s : State) (f prow pcol : Nat) (hen : (s.field f).scrubEn = true)
    (hbusy : s.bankBusy f prow pcol = false) (hpos : (s.bank (bankIdx f prow pcol)).scrubPos + 1 < scrubBlocks) :
    s.scrubBlock f prow pcol [] [] = s.modBank (bankIdx f prow pcol) fun b => { b with scrubPos := b.scrubPos + 1 } := by
  have hlast : decide (scrubBlocks ≤ (s.bank (bankIdx f prow pcol)).scrubPos + 1) = false := by simpa using hpos
  unfold State.scrubBlock
  dsimp only
  rw [if_neg (by simp [hen, hbusy]), hlast]
  simp only [List.eraseDups_nil, List.filter_nil, if_true, State.forAll, List.foldl_nil, Bool.false_and, Bool.false_eq_true,
    if_false]
  exact State.modBank_congr _ _ _ _ rfl

/-! ### The commands at a site -/

section Sites
variable (s : State) {f prow pcol : Nat} (hf : f < 64) (hprow : prow < 24) (hpcol : pcol < 25)
include hf hprow hpcol

theorem exec_refreshBurst : exec (.refreshBurst f prow pcol) s = .next (s.refreshBurst f prow pcol) :=
  congrArg Host.Outcome.next (if_pos (siteOk_of_lt hf hprow hpcol))

theorem exec_storeCorrectWriteback (word : Nat) :
    exec (.storeCorrectWriteback f prow pcol word) s = .next (s.correctWriteback f prow pcol word) :=
  congrArg Host.Outcome.next (if_pos (siteOk_of_lt hf hprow hpcol))

theorem exec_scrubBlock (fixed bad : List Nat) :
    exec (.scrubBlock f prow pcol fixed bad) s = .next (s.scrubBlock f prow pcol fixed bad) :=
  congrArg Host.Outcome.next (if_pos (siteOk_of_lt hf hprow hpcol))

theorem exec_scrubOverdue (fixed bad : List Nat) :
    exec (.scrubOverdue f prow pcol fixed bad) s = .next (s.scrubBlock f prow pcol fixed bad) :=
  congrArg Host.Outcome.next (if_pos (siteOk_of_lt hf hprow hpcol))

end Sites

theorem exec_storeBandFall (s : State) (f : Nat) : exec (.storeBandFall f) s = .next (s.bandFall f) := rfl

end Sys2Proof.Machine
end

section
/-! The statement about the upkeep of the store wafer, from the cases of its operations. -/

namespace Sys2Proof.Machine

/-- Settles O30: refresh, correction and scrub, each by its cases. -/
theorem storeUpkeep : Obligations.StoreUpkeep := by
  unfold Obligations.StoreUpkeep
  refine ⟨fun s f prow pcol => ?refresh, fun s f prow pcol word hf hprow hpcol => ?correction,
    fun s f prow pcol fixed bad hf hprow hpcol => ?scrub⟩
  case refresh =>
    refine ⟨fun hf hprow hpcol => ?burst, fun hband htemp => ?falls, fun hband => ?stays⟩
    case burst =>
      have hexec := exec_refreshBurst s hf hprow hpcol
      exact ⟨fun hplain => hexec.trans (congrArg _ (s.refreshBurst_plain f prow pcol hplain)),
        fun hband hnext hstage => hexec.trans (congrArg _ (s.refreshBurst_throttles f prow pcol hband hnext hstage))⟩
    case falls =>
      rw [exec_storeBandFall, s.bandFall_falls f hband (htemp.trans_eq (bandFloor_eq hband).symm)]
    case stays => rw [exec_storeBandFall, s.bandFall_zero f hband]
  case correction =>
    have hexec := exec_storeCorrectWriteback s hf hprow hpcol word
    refine ⟨fun hfound => ?found, fun hread => ⟨fun hfew => ?counted, fun hthird hspare => ?retired⟩⟩
    case found => exact hexec.trans (congrArg _ (s.correctWriteback_found f prow pcol word hfound))
    all_goals rw [hexec, s.correctWriteback_read f prow pcol word hread]
    case counted => exact congrArg _ (s.correctRow_counts f prow pcol _ _ 1 hfew)
    case retired => exact congrArg _ (s.correctRow_retires f prow pcol _ _ 1 hthird hspare)
  case scrub =>
    have hblock := exec_scrubBlock s hf hprow hpcol
    have hoverdue := exec_scrubOverdue s hf hprow hpcol
    refine ⟨fun hidle => ?idle, fun hen hbusy hpos => ?clean⟩
    case idle =>
      have hsame := s.scrubBlock_idle f prow pcol fixed bad hidle
      exact ⟨(hblock _ _).trans (congrArg _ hsame), (hoverdue _ _).trans (congrArg _ hsame)⟩
    case clean =>
      have hnext := s.scrubBlock_clean f prow pcol hen hbusy hpos
      exact ⟨(hblock _ _).trans (congrArg _ hnext), (hoverdue _ _).trans (congrArg _ hnext)⟩

end Sys2Proof.Machine
end

section
/-! SUPPORT. A lost bank and the bank that its station is bound to instead, in a field of no partition; the copy of a migration;
the host's accesses to HBM. -/

namespace Sys2Proof.Machine

/-! ### What a bank's loss concerns -/

/-- What the loss of a station's bank concerns: the partitions and Keepers that it leaves, the store and the banks' states, and
where the station and its bank lie. -/
structure Placement where
  parts : Sparse Part
  kprs : Sparse Kpr
  store : Sparse Byte
  banks : Sparse Bank
  bind : BankBind
  remap : Remap

def State.placement (s : State) (st : Nat) : Placement :=
  ⟨s.parts, s.kprs, s.store, s.banks, s.bankBind st, s.remapOf st⟩

/-- A change of a field that leaves where its stations and banks lie. -/
theorem State.modField_placement (s : State) (f st : Nat) (g : Field → Field) (hbanks : ∀ x, (g x).banks = x.banks)
    (hremap : ∀ x, (g x).remap = x.remap) : (s.modField f g).placement st = s.placement st := by
  simp only [State.placement, State.bankBind, State.remapOf, State.modField_others,
    s.field_modField_keeps (·.banks) f _ g hbanks, s.field_modField_keeps (·.remap) f _ g hremap]

@[simp] theorem State.modStation_placement (s : State) (i st : Nat) (g : Station → Station) :
    (s.modStation i g).placement st = s.placement st := rfl

@[simp] theorem State.modWear_placement (s : State) (f st : Nat) (g : Wear → Wear) :
    (s.modWear f g).placement st = s.placement st := rfl

@[simp] theorem State.emit_placement (s : State) (o : Out) (st : Nat) : (s.emit o).placement st = s.placement st := rfl

@[simp] theorem State.lifeRecord_placement (s : State) (type subject st : Nat) (body : List Byte) :
    (s.lifeRecord type subject body).placement st = s.placement st := rfl

@[simp] theorem State.postWaiting_placement (s : State) (q st : Nat) (c : Completion) :
    (s.postWaiting q c).1.placement st = s.placement st := by
  rw [s.postWaiting_same]
  rfl

@[simp] theorem State.event_placement (s : State) (j result st : Nat) : (s.event j result).placement st = s.placement st := by
  unfold State.event
  extract_lets c s'
  have hs' : s'.placement st = s.placement st := by
    unfold s'
    split
    · dsimp only
      split <;> exact s.postWaiting_placement _ _ _
    · rfl
  split
  · split <;> exact hs'
  · exact hs'

@[simp] theorem State.spareTaken_placement (s : State) (f before st : Nat) :
    (s.spareTaken f before).placement st = s.placement st := by
  unfold State.spareTaken
  dsimp only
  split <;> simp

@[simp] theorem State.logFault_placement (s : State) (f cause outcome i prow pcol st : Nat) :
    (s.logFault f cause outcome i prow pcol).placement st = s.placement st := by
  unfold State.logFault State.logFaultAt
  rw [State.lifeRecord_placement]
  refine s.modField_placement f st _ (fun x => ?_) fun x => ?_
  all_goals split <;> rfl

@[simp] theorem State.restartOver_placement (s : State) (f st : Nat) : (s.restartOver f).placement st = s.placement st := by
  unfold State.restartOver
  split
  · exact s.modField_placement f st _ (fun _ => rfl) fun _ => rfl
  · rfl

@[simp] theorem State.startFresh_placement (s : State) (i st : Nat) : (s.startFresh i).placement st = s.placement st := by
  unfold State.startFresh
  dsimp only
  split <;> simp

theorem State.setRemap_placement (s : State) (st : Nat) (r : Remap) :
    (s.setRemap st r).placement st = { s.placement st with remap := r } := by
  simp [State.placement, State.setRemap, State.bankBind, State.remapOf]

theorem State.modBankBind_placement (s : State) (st : Nat) (g : BankBind → BankBind) :
    (s.modBankBind st g).placement st = { s.placement st with bind := g (s.bankBind st) } := by
  simp [State.placement, State.modBankBind, State.bankBind, State.remapOf, smod]

/-- A newly initialised bank reads zero throughout. -/
theorem State.initBank_placement (s : State) (i st : Nat) : (s.initBank i).placement st = { s.placement st with
    store := (s.placement st).store.filter fun c => c.1 / 2 ^ 24 ≠ i
    banks := smod {} (s.placement st).banks i Bank.init } := rfl

theorem State.modBank_placement (s : State) (i st : Nat) (g : Bank → Bank) :
    (s.modBank i g).placement st = { s.placement st with banks := smod {} (s.placement st).banks i g } := rfl

/-- A byte of a bank that a filter of the store drops reads zero. -/
theorem sget_filter_bank (m : Sparse Byte) (i a : Nat) : sget 0 (m.filter fun c => c.1 / 2 ^ 24 ≠ i) a
    = if a / 2 ^ 24 = i then 0 else sget 0 m a := by
  split
  · next h =>
    refine sget_of_not_mem 0 _ a fun e he hea => ?_
    have hkept : ¬ e.1 / 2 ^ 24 = i := by simpa using (List.mem_filter.1 he).2
    exact hkept (hea ▸ h)
  · next h => exact sget_filter_kept 0 m _ a fun v => by simpa using h

theorem sget_smod {α : Type} [DecidableEq α] (d : α) (m : Sparse α) (i j : Nat) (f : α → α) :
    sget d (smod d m i f) j = if j = i then f (sget d m i) else sget d m j := by
  split
  · next h => rw [h, smod, sget_sset_same]
  · next h => exact sget_sset_other _ _ _ _ _ h

/-- A station's bank `i` is lost, and the station is bound to the spare core of row `j` with the new bank `new`. -/
def Placement.move (x : Placement) (i new j : Nat) : Placement :=
  { x with
    store := (x.store.filter fun c => c.1 / 2 ^ 24 ≠ i).filter fun c => c.1 / 2 ^ 24 ≠ new
    banks := smod {} (smod {} (smod {} x.banks i Bank.init) i fun b => { b with lost := true }) new Bank.init
    bind := { bprow := j, bpcol := 24, moved := true }
    remap := { x.remap with prow := j, pcol := 24, moved := true } }

theorem Placement.move_store_dropped (x : Placement) (i new j a : Nat) (h : a / 2 ^ 24 = i ∨ a / 2 ^ 24 = new) :
    sget 0 (x.move i new j).store a = 0 := by
  rw [Placement.move, sget_filter_bank, sget_filter_bank]
  split
  · rfl
  · next hnew => rw [if_pos (h.resolve_right hnew)]

theorem Placement.move_store_kept (x : Placement) (i new j a : Nat) (hi : a / 2 ^ 24 ≠ i) (hnew : a / 2 ^ 24 ≠ new) :
    sget 0 (x.move i new j).store a = sget 0 x.store a := by
  rw [Placement.move, sget_filter_bank, sget_filter_bank, if_neg hnew, if_neg hi]

/-- The new bank is a newly initialised one. -/
theorem Placement.move_bank_new (x : Placement) (i new j : Nat) : ∃ b : Bank, sget {} (x.move i new j).banks new = b.init :=
  ⟨_, (sget_smod _ _ _ _ _).trans (if_pos rfl)⟩

/-- The lost bank is emptied. -/
theorem Placement.move_bank_lost (x : Placement) (i new j : Nat) (h : i ≠ new) :
    sget {} (x.move i new j).banks i = { (sget {} x.banks i).init with lost := true } := by
  rw [Placement.move, sget_smod, if_neg h, sget_smod, if_pos rfl, sget_smod, if_pos rfl]

theorem Placement.move_bank_bad (x : Placement) (i new j : Nat) : (sget {} (x.move i new j).banks i).bad = [] := by
  by_cases h : i = new
  · obtain ⟨b, hb⟩ := x.move_bank_new i new j
    rw [h] at hb ⊢
    rw [hb]
    rfl
  · rw [x.move_bank_lost i new j h]
    rfl

/-! ### A new bank (R263, R278) -/

/-- The place of a station in a field of no partition changes with no effect on a tree. -/
theorem State.rebind_placement (s : State) (st : Nat) (r : Remap) (hpart : s.stPart st = none) :
    (s.rebind st r).placement st = { s.placement st with remap := r } := by
  have hpart' : (s.updateRemap st r).stPart st = none := (State.fieldPart_congr rfl _).trans hpart
  rw [State.rebind, State.moveLeaf, hpart']
  exact s.setRemap_placement st r

/-- The fills of a field, the running one first. -/
def Field.fills (x : Field) : List Fill := x.fill.toList ++ x.queued

/-- With no fill to drop, dropping them leaves every station's place. -/
theorem State.dropFills_placement (s : State) (f st : Nat) (but : Option Nat) (hfills : (s.field f).fills = []) :
    (s.dropFills f but).placement st = s.placement st := by
  unfold State.dropFills
  dsimp only
  rw [show (s.field f).fill.toList ++ (s.field f).queued = [] from hfills]
  simp only [State.forAll, List.foldl_nil]
  exact s.modField_placement f st _ (fun _ => rfl) fun _ => rfl

theorem State.fieldRollback_of_no_part (s : State) (f : Nat) (h : s.fieldPart f = none) : s.fieldRollback f = s := by
  rw [State.fieldRollback, h]

/-- A station of a field of no partition and with no fill is bound to a spare core with a newly initialised bank. -/
theorem State.bindNewBank_placement (s : State) (st i : Nat) (homeDead : Bool) (hpart : s.stPart st = none)
    (hfills : (s.field (stField st)).fills = []) :
    (s.bindNewBank st i homeDead).placement st = { s.placement st with
      store := s.store.filter fun c => c.1 / 2 ^ 24 ≠ bankIdx (stField st) i 24
      banks := smod {} s.banks (bankIdx (stField st) i 24) Bank.init
      bind := { bprow := i, bpcol := 24, moved := true }
      remap := { s.remapOf st with prow := i, pcol := 24, moved := true, homeDead := homeDead } } := by
  unfold State.bindNewBank
  extract_lets f s₁ r s₂ s₃
  have h₁ : s₁.placement st = s.placement st := s.dropFills_placement f st _ hfills
  have hpart₁ : s₁.stPart st = none := (State.fieldPart_congr (congrArg Placement.parts h₁) _).trans hpart
  have h₃ := calc ((s₃.startFresh st).modWear f fun w => { w with bound := satAdd 16 w.bound 1 }).placement st
    _ = s₃.placement st := by rw [State.modWear_placement, State.startFresh_placement]
    _ = _ := by
      rw [State.initBank_placement, State.modBankBind_placement, s₁.rebind_placement st _ hpart₁, h₁]
  rw [State.fieldRollback_of_no_part _ _ ((State.fieldPart_congr (congrArg Placement.parts h₃) _).trans hpart), h₃,
    show r = s.remapOf st from congrArg Placement.remap h₁]
  rfl

/-- The state in which a station's bank has been lost, and its site with it (R413). -/
def State.loseBank (s : State) (st : Nat) : State :=
  ((s.initBank (s.stBank st)).modBank (s.stBank st) fun b => { b with lost := true }).modField (stField st) fun x =>
    { x with badSites := insertOnce (s.stBank st % 600) x.badSites }

theorem State.loseBank_placement (s : State) (st : Nat) : (s.loseBank st).placement st = { s.placement st with
    store := s.store.filter fun c => c.1 / 2 ^ 24 ≠ s.stBank st
    banks := smod {} (smod {} s.banks (s.stBank st) Bank.init) (s.stBank st) fun b => { b with lost := true } } := by
  rw [State.loseBank, State.modField_placement, State.modBank_placement, State.initBank_placement]
  · rfl
  all_goals exact fun _ => rfl

/-- The log of a fault leaves every field's fills. -/
theorem State.logFault_fills (s : State) (f cause outcome st prow pcol i : Nat) :
    ((s.logFault f cause outcome st prow pcol).field i).fills = (s.field i).fills := by
  unfold State.logFault State.logFaultAt
  simp only [State.lifeRecord_others]
  refine s.field_modField_keeps Field.fills f i _ fun x => ?_
  split <;> rfl

theorem State.loseBank_fills (s : State) (st i : Nat) : ((s.loseBank st).field i).fills = (s.field i).fills :=
  State.field_modField_keeps Field.fills _ _ _ _ fun _ => rfl

/-- The choice of a spare core depends on the fields alone. -/
theorem State.chooseSpare_congr {s t : State} (h : t.fields = s.fields) (f row : Nat) (homeDead : Bool) :
    t.chooseSpare f row homeDead = s.chooseSpare f row homeDead := by
  simp only [State.chooseSpare, State.legOk, State.deadSite, State.field, h]

/-- R278: the station of a lost bank is bound to the spare core that is chosen. -/
theorem State.bankFault_of_spare (s : State) (st j : Nat) (hstate : (s.field (stField st)).state = .inService)
    (hspare : (s.loseBank st).chooseSpare (stField st) (stRow st) (s.remapOf st).homeDead = some j) : s.bankFault st
      = (((s.loseBank st).logFault (stField st) 9 2 st (s.remapOf st).prow (s.remapOf st).pcol).bindNewBank st j
        (s.remapOf st).homeDead).spareTaken (stField st) (s.field (stField st)).freeSpares := by
  have hremap : (s.loseBank st).remapOf st = s.remapOf st := congrArg Placement.remap (s.loseBank_placement st)
  rw [State.bankFault, if_neg (not_not_intro hstate)]
  change (s.loseBank st).withSpare st _ _ _ = _
  rw [State.withSpare, hremap, hspare]

/-- R278: what the loss of a bank leaves, in a field of no partition and with no fill. -/
theorem State.bankFault_placement (s : State) (st j : Nat) (hstate : (s.field (stField st)).state = .inService)
    (hpart : s.stPart st = none)
    (hspare : (s.loseBank st).chooseSpare (stField st) (stRow st) (s.remapOf st).homeDead = some j)
    (hfills : (s.field (stField st)).fills = []) :
    (s.bankFault st).placement st = (s.placement st).move (s.stBank st) (bankIdx (stField st) j 24) j := by
  rw [s.bankFault_of_spare st j hstate hspare, State.spareTaken_placement]
  generalize hlogged : (s.loseBank st).logFault (stField st) 9 2 st (s.remapOf st).prow (s.remapOf st).pcol = t
  have ht : t.placement st = _ := hlogged ▸ (State.logFault_placement _ _ _ _ _ _ _ _).trans (s.loseBank_placement st)
  have hfills' : (t.field (stField st)).fills = [] := by
    rw [← hlogged, State.logFault_fills, State.loseBank_fills, hfills]
  rw [t.bindNewBank_placement st j _ ((State.fieldPart_congr (congrArg Placement.parts ht) _).trans hpart) hfills', ht]
  have hstore : t.store = _ := congrArg Placement.store ht
  have hbanks : t.banks = _ := congrArg Placement.banks ht
  have hremap : t.remapOf st = _ := congrArg Placement.remap ht
  rw [hstore, hbanks, hremap]
  rfl

theorem State.bankFault_out_of_service (s : State) (st : Nat) (h : (s.field (stField st)).state ≠ .inService) :
    s.bankFault st = s := by
  rw [State.bankFault, if_pos h]

/-! ### Migration (R274, R277) -/

theorem State.foundBad_bankBind (s : State) (f prow pcol word st : Nat) :
    (s.foundBad f prow pcol word).bankBind st = s.bankBind st := by
  unfold State.foundBad
  exact congrArg Placement.bind (s.modField_placement f st
    (fun x => { x with uncorrectable := satAdd 16 x.uncorrectable 1 }) (fun _ => rfl) fun _ => rfl)

/-- Reads that find words leave where every bank lies. -/
theorem State.readFinds_bankBind (s : State) (owner st : Nat) (words : List Nat) :
    (s.readFinds owner words).bankBind st = s.bankBind st :=
  foldl_keeps (·.bankBind st) _ (fun t w => t.foundBad_bankBind _ _ _ w st) _ s

theorem State.readFinds_nil (s : State) (owner : Nat) : s.readFinds owner [] = s := by
  simp [State.readFinds, State.forAll]

/-- A complete copy of a migrating bank without uncorrectable words is noted. -/
theorem State.copyDone_clean (s : State) (st : Nat) (hmigrating : (s.bankBind st).migrating = true)
    (hbad : (s.bank (s.stBank st)).bad = []) : s.copyDone st [] = s.modBankBind st fun b => { b with copied := true } := by
  simp only [State.copyDone, State.readFinds_nil, ite_self, hmigrating, hbad, List.isEmpty_nil, Bool.and_self, if_true]

/-- A copy whose bank has uncorrectable words is not. -/
theorem State.copyDone_finds (s : State) (st : Nat) (bad : List Nat) (hmigrating : (s.bankBind st).migrating = true)
    (hcopied : (s.bankBind st).copied = false) (hbad : ((s.readFinds st bad).bank (s.stBank st)).bad ≠ []) :
    s.copyDone st bad = s.readFinds st bad := by
  have hplace : (s.readFinds st bad).stBank st = s.stBank st := by
    rw [State.stBank, State.readFinds_bankBind, State.stBank]
  unfold State.copyDone
  simp only [hmigrating, hcopied, Bool.not_false, Bool.and_self, if_true, hplace]
  rw [if_neg (by simp [hbad])]

/-- A bank that does not migrate is left as it was. -/
theorem State.copyDone_still (s : State) (st : Nat) (bad : List Nat) (hstill : (s.bankBind st).migrating = false) :
    s.copyDone st bad = s := by
  simp only [State.copyDone, hstill, Bool.false_and, Bool.false_eq_true, if_false]

/-! ### The commands -/

theorem exec_migrationCopyDone (f : Nat) (copy : CopyEnd) (s : State) :
    exec (.migrationCopyDone f copy) s = .next (s.copyDone (fieldStation f copy.station) copy.bad) := rfl

theorem exec_bankControllerFault (f k : Nat) (s : State) :
    exec (.bankControllerFault f k) s = .next (s.bankFault (fieldStation f k)) := rfl

/-! ### Host accesses (R283, R284, R295) -/

/-- R283: the host's accesses to a stack that is present wait for an issue slot. -/
theorem exec_hostMemRead_present (s : State) (addr len : Nat) (h : s.stackPresent (hbmStack (addr % 2 ^ 42)) = true) :
    exec (.hostMemRead addr len) s = .next (s.modStack (hbmStack (addr % 2 ^ 42)) fun x =>
      { x with queue := x.queue ++ [{ part := none, bytes := len, addr := addr % 2 ^ 42 }] }) :=
  congrArg Host.Outcome.next (if_pos h)

theorem exec_hostMemWrite_present (s : State) (addr : Nat) (data : List Byte)
    (h : s.stackPresent (hbmStack (addr % 2 ^ 42)) = true) :
    exec (.hostMemWrite addr data) s = .next (s.modStack (hbmStack (addr % 2 ^ 42)) fun x =>
      { x with queue := x.queue ++
        [{ part := none, bytes := data.length, addr := addr % 2 ^ 42, data := some data, write := true }] }) :=
  congrArg Host.Outcome.next (if_pos h)

/-- R284: those to a stack that is absent are logged; a read answers zero, poisoned. -/
theorem exec_hostMemRead_absent (s : State) (addr len : Nat) (h : s.stackPresent (hbmStack (addr % 2 ^ 42)) = false) :
    exec (.hostMemRead addr len) s = .next ((s.absentAccess (addr % 2 ^ 42) false).emit (.readData 0 true)) :=
  congrArg Host.Outcome.next (if_neg (ne_true_of_eq_false h))

theorem exec_hostMemWrite_absent (s : State) (addr : Nat) (data : List Byte)
    (h : s.stackPresent (hbmStack (addr % 2 ^ 42)) = false) :
    exec (.hostMemWrite addr data) s = .next (s.absentAccess (addr % 2 ^ 42) true) :=
  congrArg Host.Outcome.next (if_neg (ne_true_of_eq_false h))

end Sys2Proof.Machine
end

section
/-! The statement about lost banks, migration and the host's accesses to HBM, from the cases of their operations. -/

namespace Sys2Proof.Machine

/-- Settles O32: the copy of a migration and the loss of a bank by their cases, the loss by what it leaves of the placement; the
host's accesses by whether their stack is present. -/
theorem banksAndHostMemory : Obligations.BanksAndHostMemory := by
  unfold Obligations.BanksAndHostMemory
  refine ⟨fun s f k => ?banks, fun s addr len data => ?host⟩
  case banks =>
    intro st i
    refine ⟨fun hmigrating hbad => ?clean, fun bad hmigrating hcopied hbad => ?finds, fun bad hstill => ?still,
      fun hstate => ?outOfService, fun hstate hpart j hspare hfill hqueued => ?lost⟩
    case clean => exact (exec_migrationCopyDone f _ s).trans (congrArg _ (s.copyDone_clean st hmigrating hbad))
    case finds => exact (exec_migrationCopyDone f _ s).trans (congrArg _ (s.copyDone_finds st bad hmigrating hcopied hbad))
    case still => exact (exec_migrationCopyDone f _ s).trans (congrArg _ (s.copyDone_still st bad hstill))
    case outOfService => exact (exec_bankControllerFault f k s).trans (congrArg _ (s.bankFault_out_of_service st hstate))
    case lost =>
      have hchosen : (s.loseBank st).chooseSpare (stField st) (stRow st) (s.remapOf st).homeDead = some j :=
        (State.chooseSpare_congr (by rfl) _ _ _).trans hspare
      have hplace := s.bankFault_placement st j hstate hpart hchosen (by simp [Field.fills, hfill, hqueued])
      refine ⟨_, exec_bankControllerFault f k s, ?_⟩
      obtain ⟨b, hnew⟩ := (s.placement st).move_bank_new i (bankIdx (stField st) j 24) j
      rw [← congrArg Placement.banks hplace] at hnew
      refine ⟨fun a ha => ?dropped, fun a hi hnew => ?kept, fun hi => ?emptied, ?bad, congrArg Bank.bad hnew,
        congrArg Bank.poison hnew, congrArg Bank.epoch hnew, congrArg Placement.bind hplace,
        congrArg (·.remap.moved) hplace, congrArg (·.remap.prow) hplace, congrArg (·.remap.pcol) hplace,
        congrArg Placement.parts hplace, congrArg Placement.kprs hplace⟩
      case dropped =>
        exact (congrArg (sget 0 ·.store a) hplace).trans ((s.placement st).move_store_dropped i _ j a ha)
      case kept =>
        exact (congrArg (sget 0 ·.store a) hplace).trans ((s.placement st).move_store_kept i _ j a hi hnew)
      case emptied =>
        exact congrArg Bank.lost
          ((congrArg (sget {} ·.banks i) hplace).trans ((s.placement st).move_bank_lost i _ j hi))
      case bad =>
        exact (congrArg (fun x : Placement => (sget {} x.banks i).bad) hplace).trans ((s.placement st).move_bank_bad i _ j)
  case host =>
    intro a stk log
    exact ⟨fun hpresent => ⟨exec_hostMemRead_present s addr len hpresent, exec_hostMemWrite_present s addr data hpresent⟩,
      fun habsent => ⟨exec_hostMemRead_absent s addr len habsent, exec_hostMemWrite_absent s addr data habsent⟩⟩

end Sys2Proof.Machine
end

section
/-! SUPPORT. Settings of a partition's regulator (R297, R298): who may write one, which are refused, and what one that is taken
sets. -/

namespace Sys2Proof.Machine

/-- R297: the rules that a refused setting breaks; those of its ENABLE come together. -/
theorem regRefused_iff (v others : Nat) : regRefused v others = true ↔ bits v 15 8 < bits v 7 0
    ∨ (bit v 24 = true ∧ (bits v 15 8 = 0 ∨ bits v 23 16 = 0 ∨ 216 < others + bits v 7 0)) ∨ bits v 63 25 ≠ 0 := by
  simp only [regRefused, Bool.or_eq_true, Bool.and_eq_true, decide_eq_true_eq, beq_iff_eq]
  tauto

/-- R298: each bucket of a setting that is taken is clamped to the cap of the new BURST. -/
theorem Stack.setReg_eq (x : Stack) (p v : Nat) : x.setReg p v = x.modReg p fun r =>
    { r with
      guarantee := BitVec.ofNat 8 (bits v 7 0), ceiling := BitVec.ofNat 8 (bits v 15 8)
      burst := BitVec.ofNat 8 (bits v 23 16), enable := bit v 24
      guaranteeTokens := min r.guaranteeTokens (bits v 23 16 * 4096 * 96)
      ceilingTokens := min r.ceilingTokens (bits v 23 16 * 4096 * 96) } := by
  have hburst : (BitVec.ofNat 8 (bits v 23 16)).toNat = bits v 23 16 := by
    rw [BitVec.toNat_ofNat]
    exact Nat.mod_mod _ _
  simp only [Stack.setReg, Regulator.clamp, Regulator.cap, hburst]

theorem exec_hbmRegCfgWrite (src : Source) (stk p : Nat) (value : BitVec 64) (s : State) :
    exec (.hbmRegCfgWrite src stk p value) s = .next (s.regCfg src stk p value.toNat) := rfl

section Setting
variable (s : State) (src : Source) {stk p : Nat} (v : Nat) (hpresent : s.stackPresent stk = true) (hp : p < 8)
include hpresent hp

/-- R298: a sender that does not hold the partition's lease is refused. -/
theorem State.regCfg_unheld (hheld : s.holds src p = false) : s.regCfg src stk p v = s.refuseLease := by
  rw [State.regCfg, if_neg (by simp [hpresent, hp]), if_pos hheld]

/-- From the holder the setting itself decides. -/
theorem State.regCfg_held (hheld : s.holds src p = true) : s.regCfg src stk p v
    = if regRefused v ((s.stack stk).guarantees p) then s.modStack stk fun x => { x with regReject := true }
      else (s.refill stk).modStack stk fun x => x.setReg p v := by
  rw [State.regCfg, if_neg (by simp [hpresent, hp]), if_neg (by simp [hheld])]

end Setting

end Sys2Proof.Machine
end

section
/-! SUPPORT. The slow tier (R300, R304 to R306): the end of a fetch and of an eviction, timeouts and the link, one lemma for
each case. -/

namespace Sys2Proof.Machine

/-! ### The end of a transfer -/

/-- Waiting transfers that begin leave the fuses. -/
theorem State.serveTier_fuses (port n : Nat) (s : State) : (State.serveTier port n s).fuses = s.fuses := by
  induction n generalizing s with
  | zero => rfl
  | succ n ih =>
    unfold State.serveTier
    dsimp only
    split
    · split
      · exact ih _
      · rfl
    · rfl

theorem State.transferEnded_past (s : State) (port : Nat) (r : UioTransfer) : (s.transferEnded port r).past = s.past :=
  congrArg (·.pastVersions) (State.serveTier_fuses port _ _)

/-! ### Fetches (R304, R306) -/

/-- R306: the digests kept of a component. -/
def OwnedPage.keptDigests (pg : OwnedPage) (c : Nat) : List (Nat × BitVec 128) := pg.slowDigest.filter fun d => d.1 / 16 == c

/-- R304: the data of a component rests in HBM again, and what the fetch needed is forgotten. -/
def OwnedPage.install (pg : OwnedPage) (P c : Nat) (data : List Byte) : OwnedPage :=
  { pg.setResid c .hbm with
    body := setComp P pg.frozen pg.body c data, refetched := pg.refetched.filter (· ≠ c)
    slowDigest := pg.slowDigest.filter fun d => d.1 / 16 ≠ c }

/-- R306: a digest mismatch is counted. -/
def State.countDigestFail (s : State) (k : Nat) : State :=
  s.modKpr k fun y => { y with digestFails := satAdd 16 y.digestFails 1 }

/-- Data that no fetch awaits has no effect. -/
theorem State.fetchComplete_unasked (s : State) (k p g c : Nat) (data : List Byte) (h : (s.opage k p g).resid c ≠ .fetch) :
    s.fetchComplete k p g c data = s := by
  rw [State.fetchComplete, if_pos (.inl h)]

section Fetch
variable (s : State) {k p g c : Nat} (data : List Byte) (hfetch : (s.opage k p g).resid c = .fetch)
  (hmissing : (s.opage k p g).missing.contains c = false)
include hfetch hmissing

/-- Data with the kept digests is installed. -/
theorem State.fetchComplete_agrees (hkept : (s.opage k p g).keptDigests c = mibDigests c data) :
    s.fetchComplete k p g c data
      = (((((s.modOpage k p g (·.install s.past c data)).modKpr k fun y =>
          { y with fetches := satAdd 24 y.fetches 1 }).transferEnded ((s.part p).slowPort g) ⟨k, p, g, c, false⟩).serveWaiting
            k p g).tierDone p) := by
  rw [State.fetchComplete, if_neg (not_or.2 ⟨not_not.2 hfetch, ne_true_of_eq_false hmissing⟩)]
  exact if_pos hkept

/-- Other data is counted; whether the component has been fetched twice decides. -/
theorem State.fetchComplete_differs (hkept : (s.opage k p g).keptDigests c ≠ mibDigests c data) :
    s.fetchComplete k p g c data
      = if (s.opage k p g).refetched.contains c then
          ((s.countDigestFail k).transferEnded ((s.part p).slowPort g) ⟨k, p, g, c, false⟩).loseComp k p g c
        else (((s.countDigestFail k).modOpage k p g fun y => { y with refetched := insertOnce c y.refetched }).transferEnded
          ((s.part p).slowPort g) ⟨k, p, g, c, false⟩).transfer ((s.part p).slowPort g) (uioRequests data)
            ⟨k, p, g, c, false⟩ := by
  rw [State.fetchComplete, if_neg (not_or.2 ⟨not_not.2 hfetch, ne_true_of_eq_false hmissing⟩)]
  exact if_neg hkept

end Fetch

/-! ### Evictions (R305) -/

/-- An eviction whose writes are done leaves the component in the slow tier alone. -/
theorem State.evictComplete_evicting (s : State) (k p g c : Nat) (h : (s.opage k p g).resid c = .evict) :
    s.evictComplete k p g c = ((s.transferEnded ((s.part p).slowPort g) ⟨k, p, g, c, true⟩).modOpage k p g fun y =>
      { y.setResid c .slow with body := setComp s.past y.frozen y.body c [] }).tierDone p := by
  unfold State.evictComplete
  dsimp only
  rw [h, if_neg (by simp), if_neg (by simp), State.transferEnded_past]

/-- Of a component that rests there already only the transfer ends. -/
theorem State.evictComplete_slow (s : State) (k p g c : Nat) (h : (s.opage k p g).resid c = .slow) :
    s.evictComplete k p g c = s.transferEnded ((s.part p).slowPort g) ⟨k, p, g, c, true⟩ := by
  unfold State.evictComplete
  dsimp only
  rw [h, if_neg (by simp), if_pos (by simp)]

/-! ### Timeouts (R300) -/

/-- R300: the first timeout of a request: it is counted, and the request is noted as sent again. -/
def TierPort.retry (y : TierPort) (request : UioRequest) : TierPort :=
  { y with timeouts := satAdd 16 y.timeouts 1, retried := request :: y.retried }

/-- R300: its second: it is counted, and the port is down without its transfers. -/
def TierPort.giveUp (y : TierPort) : TierPort :=
  { y with timeouts := satAdd 16 y.timeouts 1, down := true, transfers := [], waiting := [] }

/-- A request that times out first is sent again. -/
theorem State.uioTimeout_first (s : State) (t : Nat) (request : UioRequest) (hpresent : s.tierPresent t = true)
    (hfirst : (s.tierPort t).retried.contains request = false) : s.uioTimeout t request
      = (s.modTier t (·.retry request)).emit
        (.uio (t + 1) request.transfer.page request.transfer.comp request.transfer.write) := by
  unfold State.uioTimeout
  simp only [hpresent, hfirst, Bool.not_true, Bool.false_eq_true, if_false, Bool.or_false]
  rfl

/-- One that times out again takes the port down, and the pages of every Keeper of a partition with it. -/
theorem State.uioTimeout_again (s : State) (t : Nat) (request : UioRequest) (hpresent : s.tierPresent t = true)
    (hagain : (s.tierPort t).retried.contains request = true) : s.uioTimeout t request
      = (s.modTier t TierPort.giveUp).forAll (List.range 8) fun s p =>
          s.forAll (s.part p).keepers fun s k => s.portLost k p t := by
  unfold State.uioTimeout
  simp only [hpresent, hagain, Bool.not_true, Bool.false_eq_true, if_false, if_true, Bool.or_true]
  rfl

/-- Without Keepers in any partition only the port is down. -/
theorem State.uioTimeout_again_alone (s : State) (t : Nat) (request : UioRequest) (hpresent : s.tierPresent t = true)
    (hagain : (s.tierPort t).retried.contains request = true) (hkeepers : ∀ q < 8, (s.part q).keepers = []) :
    s.uioTimeout t request = s.modTier t TierPort.giveUp := by
  rw [s.uioTimeout_again t request hpresent hagain]
  refine State.forAll_unchanged _ _ _ fun q hq => ?_
  have hnone : ((s.modTier t TierPort.giveUp).part q).keepers = [] := hkeepers q (List.mem_range.1 hq)
  rw [hnone]
  rfl

/-! ### The commands -/

theorem exec_slowFetchComplete_page (k p g : Nat) {c : Nat} (hc : c < 3) (data : List Byte) (s : State) :
    exec (.slowFetchComplete k p g c data) s = .next (s.fetchComplete k p g c data) :=
  congrArg Host.Outcome.next (if_neg (Nat.ne_of_lt hc))

theorem exec_evictComplete (k p g c : Nat) (s : State) :
    exec (.evictComplete k p g c) s = .next (s.evictComplete k p g c) := rfl

theorem exec_uioTimeout (t : Nat) (request : UioRequest) (s : State) :
    exec (.uioTimeout t request) s = .next (s.uioTimeout t request) := rfl

/-- R300: the link of a port that is present comes up, and the port is down no more. -/
theorem exec_slowTierLinkUp (t : Nat) (width : BitVec 2) (speed : Bool) (s : State) (hpresent : s.tierPresent t = true) :
    exec (.slowTierLinkUp t width speed) s = .next (s.modTier t fun y =>
      { y with linkUp := true, width := width, speed := speed, down := false, retried := [] }) :=
  congrArg Host.Outcome.next (if_pos hpresent)

end Sys2Proof.Machine
end

section
/-! The statements about HBM's regulators and the slow tier, from the cases of their operations. -/

namespace Sys2Proof.Machine

/-- Settles O33: the lease of the partition decides first, and then the rules of a setting. -/
theorem regulators : Obligations.Regulators := by
  unfold Obligations.Regulators
  intro s src stk p value hpresent hp v g c en bad
  have hbad : regRefused v ((s.stack stk).guarantees p) = true ↔ bad := regRefused_iff v _
  have hcase := s.regCfg_held src v hpresent hp
  refine ⟨fun hheld => ?unheld, fun hheld h => ?refused, fun hheld h => ?taken⟩
  case unheld => rw [exec_hbmRegCfgWrite, s.regCfg_unheld src v hpresent hp hheld]
  case refused => rw [exec_hbmRegCfgWrite, hcase hheld, if_pos (hbad.2 h)]
  case taken =>
    rw [exec_hbmRegCfgWrite, hcase hheld, if_neg (mt hbad.1 h)]
    exact congrArg _ (State.modStack_congr _ stk _ _ (Stack.setReg_eq _ p v))

/-- Settles O39: the residency of the component decides what the end of a transfer does, then its digests; a timeout, by whether
the request was sent again before. -/
theorem slowTier : Obligations.SlowTier := by
  unfold Obligations.SlowTier
  intro s k p g c data hc x pg kept fetch write fails
  have hexec := exec_slowFetchComplete_page k p g hc data s
  refine ⟨fun hfetch hmissing hkept => ?agrees, fun hfetch hmissing hkept hfirst => ?again,
    fun hfetch hmissing hkept htwice => ?lost, fun hevict => ?evicted, fun hslow => ⟨?unasked, ?ended⟩,
    fun t request hpresent hfirst => ?retried, fun t request hpresent hagain hkeepers => ?down,
    fun t width speed hpresent => exec_slowTierLinkUp t width speed s hpresent⟩
  case agrees => exact hexec.trans (congrArg _ (s.fetchComplete_agrees data hfetch hmissing hkept))
  case again =>
    have hdiffers := s.fetchComplete_differs data hfetch hmissing hkept
    exact hexec.trans (congrArg _ (hdiffers.trans (if_neg (ne_true_of_eq_false hfirst))))
  case lost =>
    have hdiffers := s.fetchComplete_differs data hfetch hmissing hkept
    exact hexec.trans (congrArg _ (hdiffers.trans (if_pos htwice)))
  case evicted => rw [exec_evictComplete, s.evictComplete_evicting k p g c hevict]
  case unasked =>
    exact hexec.trans (congrArg _ (s.fetchComplete_unasked k p g c data (hslow.trans_ne (by decide))))
  case ended => rw [exec_evictComplete, s.evictComplete_slow k p g c hslow]
  case retried => exact (exec_uioTimeout t request s).trans (congrArg _ (s.uioTimeout_first t request hpresent hfirst))
  case down =>
    exact (exec_uioTimeout t request s).trans (congrArg _ (s.uioTimeout_again_alone t request hpresent hagain hkeepers))

end Sys2Proof.Machine
end

section
/-! SUPPORT. Rules of the commit of a page and of the comparison of its record with the buddy's (R304, R326, R327, R345, R348),
one lemma for each case. -/

namespace Sys2Proof.Machine

/-! ### Components at hand (R304) -/

/-- R304: components that rest in HBM are ready, and nothing begins for them. -/
theorem State.needAll_hbm (s : State) (k p g : Nat) (cs : List Nat) (h : ∀ c ∈ cs, (s.opage k p g).resid c = .hbm) :
    s.needAll k p g cs = (s, true) := by
  unfold State.needAll
  induction cs with
  | nil => rfl
  | cons c cs ih =>
    obtain ⟨hc, hcs⟩ := List.forall_mem_cons.1 h
    have hneed : s.need k p g c = (s, true) := by simp only [State.need, hc]
    rw [List.foldl_cons, hneed]
    exact ih hcs

/-! ### Commit of a page (R345, R348) -/

/-- R345: the commit of page `g` is due, and nothing that it waits for is missing. -/
structure State.CommitDue (s : State) (k p g : Nat) : Prop where
  phase : (s.part p).phase = .commit
  noRollback : (s.part p).rollback = none
  running : (s.kpart k p).cstate = .running
  owner : s.ownerKpr p g = some k
  stamp : (s.opage k p g).body.stamp = (s.part p).step
  present : (s.opage k p g).awaitingHusk = false
  complete : (s.opage k p g).missing = []
  inOrder : s.inOrder k p g = true
  reduced : s.reductionDone k p = true
  window : (s.opage k p g).pre.isSome = true ∨ (s.kpart k p).window < 16
  inHbm : ∀ c ∈ [0, 1, 2], (s.opage k p g).resid c = .hbm

/-- R345 C2: the page keeps its pre-image. -/
def State.withPreimage (s : State) (k p g : Nat) (old : PageBody) : State :=
  s.modOpage k p g fun y => { y with pre := some old, cstate := .preimage }

/-- R345 C3, C4: the page is stamped at n + 1 with its spill records placed, and its record goes to the buddy; a null update is
told first. -/
def State.stampPage (s : State) (k p g : Nat) (old : PageBody) (null : Bool) : State :=
  let x := s.part p
  let r := s.nextBody k p g old
  let j := r.body.head
  let first := sget 0 (s.kpart k p).spillUsed j
  let full := s.nextSaturates k p g old
  let c := s.modKpart k p fun y =>
    { y with
      spillUsed := sset 0 y.spillUsed j (first + (sget {} r.body.deltas j).spill.length), done := y.done + 1, spillFull := false
      saturate := y.saturate || full }
  let c := (c.modOpage k p g fun y =>
    { y with body := r.body.spillFrom first, cstate := .stamped, slowValid := [] }).writeScales p g
  let c := if null then c.sendNull k p g else c
  c.toBuddy k 0x47 (cmpHead (x.step + 1) x.herdId g r.body.digest) []

/-- R345 C5: a stamped page is CLEAN where its buddy takes no part, and else compared. -/
def State.settlePage (s : State) (k p g : Nat) : State :=
  if !s.buddyUp k || (s.kpart k p).remirrorLeft.contains g then s.pageClean k p g
  else (s.serveWaiting k p g).compareRecord k p g

theorem State.settlePage_alone (s : State) (k p g : Nat)
    (h : s.buddyUp k = false ∨ (s.kpart k p).remirrorLeft.contains g = true) : s.settlePage k p g = s.pageClean k p g :=
  if_pos (by rcases h with h | h <;> simp only [h, Bool.not_false, Bool.true_or, Bool.or_true])

theorem State.settlePage_buddy (s : State) (k p g : Nat) (hup : s.buddyUp k = true)
    (hleft : (s.kpart k p).remirrorLeft.contains g = false) :
    s.settlePage k p g = (s.serveWaiting k p g).compareRecord k p g :=
  if_neg (by simp only [hup, hleft, Bool.not_true, Bool.or_false, Bool.false_eq_true, not_false_eq_true])

/-- R345, R348: with its pre-image kept, the update of a page that is due fails, waits for spill records, or is stamped. -/
theorem State.pageCommit_due (s : State) {k p g : Nat} (h : s.CommitDue k p g) :
    let old := (s.opage k p g).pre.getD (s.opage k p g).body
    let b := s.withPreimage k p g old
    let r := b.nextBody k p g old
    s.pageCommit k p g =
      if r.nonfinite then
        (b.modKpart k p fun y => { y with wbNonfinite := true, cstate := .rollback }).startRollback p .writeBack
      else if b.spillFree k p r.body.head < (sget {} r.body.deltas r.body.head).spill.length then
        (b.modKpart k p fun y => { y with cstate := .heldSpill, spillFull := true }).huskServe k p
      else
        ((b.stampPage k p g old ((s.part p).isNull (s.opage k p g))).settlePage k p g).huskServe k p := by
  have hturn : ¬ ((s.part p).phase ≠ .commit ∨ (s.part p).rollback.isSome ∨ (s.kpart k p).cstate ≠ .running
      ∨ s.ownerKpr p g ≠ some k ∨ (s.opage k p g).body.stamp ≠ (s.part p).step ∨ s.inOrder k p g = false) := by
    simp [h.phase, h.noRollback, h.running, h.owner, h.stamp, h.inOrder]
  have hfree : ¬ ((s.opage k p g).awaitingHusk = true ∨ (s.opage k p g).missing ≠ []
      ∨ ((s.part p).nullCommit = false ∧ s.reductionDone k p = false)
      ∨ ((s.opage k p g).pre.isNone ∧ 16 ≤ (s.kpart k p).window)) := by
    rintro (habsent | hlost | ⟨-, hreducing⟩ | ⟨hnone, hfull⟩)
    · exact ne_true_of_eq_false h.present habsent
    · exact hlost h.complete
    · exact ne_true_of_eq_false hreducing h.reduced
    · rcases h.window with hsome | hroom
      · exact ne_true_of_eq_false (Option.isSome_eq_false_iff.2 hnone) hsome
      · exact absurd hfull (Nat.not_le.2 hroom)
  unfold State.pageCommit
  rw [if_neg hturn, if_neg hfree, s.needAll_hbm k p g _ h.inHbm]
  rfl

theorem exec_pageCommit (k p g : Nat) (s : State) : exec (.pageCommit k p g) s = .next (s.pageCommit k p g) := rfl

/-! ### Comparison of records (R326, R327) -/

theorem State.opage_modKpr (s : State) (k p g : Nat) (f : Kpr → Kpr) (h : ∀ y, (f y).part p = y.part p) :
    (s.modKpr k f).opage k p g = s.opage k p g :=
  congrArg (KprPart.page · g) (s.kpart_modKpr k p f h)

/-- A page that is not stamped is not compared yet. -/
theorem State.compareRecord_unstamped (s : State) (k p g : Nat) (h : (s.opage k p g).cstate ≠ .stamped) :
    s.compareRecord k p g = s := by
  unfold State.compareRecord
  dsimp only
  split
  · exact absurd ‹_› h
  · rfl

/-- R326: the buddy's record of the page has come. -/
def State.withBuddyRec (s : State) (k p g : Nat) (d : BitVec 256) : State := s.modOpage k p g fun y => { y with buddyRec := some d }

theorem State.opage_withBuddyRec (s : State) (k p g : Nat) (d : BitVec 256) :
    (s.withBuddyRec k p g d).opage k p g = { s.opage k p g with buddyRec := some d } := s.opage_modOpage_same k p g _

/-- R327: a record of the page is kept as disputed, and another is awaited. -/
def OwnedPage.dispute (y : OwnedPage) (d : BitVec 256) : OwnedPage := { y with disputed := some d, buddyRec := none }

/-- R327: a buddy's record that differs is counted and kept as disputed. -/
def State.disputed (s : State) (k p g : Nat) (d : BitVec 256) : State :=
  (s.modKpr k fun y => { y with buddyFails := satAdd 16 y.buddyFails 1 }).modOpage k p g (·.dispute d)

theorem State.opage_disputed (s : State) (k p g : Nat) (d : BitVec 256) :
    (s.disputed k p g d).opage k p g = (s.opage k p g).dispute d := by
  unfold State.disputed
  rw [State.opage_modOpage_same, State.opage_modKpr]
  exact fun _ => rfl

/-- A first record decides by its equality with the stamped page's. -/
theorem State.compareRecord_first (s : State) (k p g : Nat) (d : BitVec 256) (hstamped : (s.opage k p g).cstate = .stamped)
    (hrec : (s.opage k p g).buddyRec = some d) (hfirst : (s.opage k p g).disputed = none) :
    s.compareRecord k p g = if d = (s.opage k p g).body.digest then s.pageClean k p g
      else (s.disputed k p g d).sendStepAgain k p g := by
  simp only [State.compareRecord, hstamped, hrec, hfirst, State.disputed, OwnedPage.dispute]

/-- R327: a disputed page is computed again at the buddy from what the owner computes it from. -/
theorem State.sendStepAgain_disputed (s : State) (k p g : Nat) (d e : BitVec 256) :
    ((s.withBuddyRec k p g d).disputed k p g e).sendStepAgain k p g
      = if (s.part p).isNull (s.opage k p g) then ((s.withBuddyRec k p g d).disputed k p g e).sendNull k p g
        else ((s.withBuddyRec k p g d).disputed k p g e).sendGrad k p g ((s.opage k p g).grad.getD []) := by
  unfold State.sendStepAgain
  rw [State.opage_disputed, State.opage_withBuddyRec]
  rfl

/-- A copy's record is that of a CLEAN page at its owner. -/
theorem State.copyRecord_eq_true {s : State} {k p g v : Nat} (h : s.copyRecord k p g v = true) :
    s.ownerKpr p g = some k ∧ (s.opage k p g).cstate = .clean := by
  unfold State.copyRecord at h
  simp only [Bool.and_eq_true, beq_iff_eq] at h
  obtain ⟨⟨⟨howner, hclean⟩, -⟩, -⟩ := h
  exact ⟨howner, hclean⟩

theorem State.copyRecord_of_stamped (s : State) (k p g v : Nat) (h : (s.opage k p g).cstate = .stamped) :
    s.copyRecord k p g v = false :=
  Bool.eq_false_iff.2 fun hcopy => absurd (h.symm.trans (State.copyRecord_eq_true hcopy).2) (by decide)

theorem State.copyRecord_of_not_owner (s : State) (k p g v : Nat) (h : s.ownerKpr p g ≠ some k) : s.copyRecord k p g v = false :=
  Bool.eq_false_iff.2 fun hcopy => h (State.copyRecord_eq_true hcopy).1

/-- R326, R427: what a digest record of version `v` does at a Keeper, by what the Keeper is to the page. -/
def State.recordArrives (s : State) (k p g v : Nat) (d : BitVec 256) : State :=
  if s.copyRecord k p g v then s.compareCopy k p g d
  else if s.ownerKpr p g = some k then (s.withBuddyRec k p g d).compareRecord k p g
  else s.modHpage k p g fun h => { h with compared := h.pending.any fun side => side.body.digest == d }

theorem State.recordArrives_copy (s : State) (k p g v : Nat) (d : BitVec 256) (h : s.copyRecord k p g v = true) :
    s.recordArrives k p g v d = s.compareCopy k p g d := if_pos h

theorem State.recordArrives_owner (s : State) (k p g v : Nat) (d : BitVec 256) (hcopy : s.copyRecord k p g v = false)
    (howner : s.ownerKpr p g = some k) : s.recordArrives k p g v d = (s.withBuddyRec k p g d).compareRecord k p g :=
  (if_neg (ne_true_of_eq_false hcopy)).trans (if_pos howner)

/-- At the owner a record of a page that is not stamped is kept. -/
theorem State.recordArrives_unstamped (s : State) (k p g v : Nat) (d : BitVec 256) (hcopy : s.copyRecord k p g v = false)
    (howner : s.ownerKpr p g = some k) (h : (s.opage k p g).cstate ≠ .stamped) :
    s.recordArrives k p g v d = s.withBuddyRec k p g d := by
  rw [s.recordArrives_owner k p g v d hcopy howner]
  refine State.compareRecord_unstamped _ k p g ?_
  rw [State.opage_withBuddyRec]
  exact h

/-- R326, R327: at the owner the first record of a stamped page is compared with the page's own. -/
theorem State.recordArrives_stamped (s : State) (k p g v : Nat) (d : BitVec 256) (howner : s.ownerKpr p g = some k)
    (hstamped : (s.opage k p g).cstate = .stamped) (hfirst : (s.opage k p g).disputed = none) :
    s.recordArrives k p g v d =
      if d = (s.opage k p g).body.digest then (s.withBuddyRec k p g d).pageClean k p g
      else ((s.withBuddyRec k p g d).disputed k p g d).sendStepAgain k p g := by
  have hpage := s.opage_withBuddyRec k p g d
  rw [s.recordArrives_owner k p g v d (s.copyRecord_of_stamped k p g v hstamped) howner,
    (s.withBuddyRec k p g d).compareRecord_first k p g d (by rw [hpage]; exact hstamped) (by rw [hpage])
      (by rw [hpage]; exact hfirst), hpage]

/-- R427: away from the owner a record is compared with the pending side. -/
theorem State.recordArrives_buddy (s : State) (k p g v : Nat) (d : BitVec 256) (h : s.ownerKpr p g ≠ some k) :
    s.recordArrives k p g v d
      = s.modHpage k p g fun h => { h with compared := h.pending.any fun side => side.body.digest == d } :=
  (if_neg (ne_true_of_eq_false (s.copyRecord_of_not_owner k p g v h))).trans (if_neg h)

/-- R390: the partition that a digest record may name: its page is in range, and its version is that of the running commit or of a
copy. -/
def State.recordFits (s : State) (k head p : Nat) (x : Part) : Bool :=
  (x.range (bits head 75 48)).isSome
    && ((x.phase == .gate || x.phase == .commit || x.phase == .flipWait) && bits head 39 0 == x.step + 1
      || s.copyRecord k p (bits head 75 48) (bits head 39 0))

/-- A record that fits a partition arrives there. -/
theorem exec_huskCmp_fits (i head p : Nat) (s : State) (ho : (s.ctx i).state = .opened)
    (hp : (s.took i 3 1).herdPart (bits head 47 40) (s.recordFits (s.ctx i).kpr head) = some p) :
    exec (.huskCmp i head) s = .next ((s.took i 3 1).recordArrives (s.ctx i).kpr p (bits head 75 48) (bits head 39 0)
      (BitVec.ofNat 256 (bits head 383 128))) :=
  congrArg Host.Outcome.next (s.huskMessage_named i 1 head p (s.recordFits · head) (fun t k p =>
    t.recordArrives k p (bits head 75 48) (bits head 39 0) (BitVec.ofNat 256 (bits head 383 128))) ho hp)

end Sys2Proof.Machine
end

section
/-! The statement about the commit of a page and the comparison of its record, from the cases of their operations. -/

namespace Sys2Proof.Machine

/-- Settles O37: a page that is due by its update's outcome and by its buddy; a record by what the Keeper is to its page. -/
theorem commit : Obligations.Commit := by
  unfold Obligations.Commit
  refine ⟨?page, ?record⟩
  case page =>
    intro s k p g x pg hphase hroll hrun howner hstamp hpresent hcomplete horder hreduced hwindow hW hM hD old b r need
    have hhbm : ∀ c ∈ [0, 1, 2], pg.resid c = .hbm := by
      simp only [List.forall_mem_cons, List.not_mem_nil, false_imp_iff, implies_true, and_true]
      exact ⟨hW, hM, hD⟩
    have hdue := s.pageCommit_due
      ⟨hphase, hroll, hrun, howner, hstamp, hpresent, hcomplete, horder, hreduced, hwindow, hhbm⟩
    refine ⟨fun hbad => ?nonfinite, fun hfinite hfew => ?held, fun hfinite hroom => ?stamped⟩
    case nonfinite => exact congrArg Host.Outcome.next (hdue.trans (if_pos hbad))
    case held =>
      exact congrArg Host.Outcome.next (hdue.trans ((if_neg (ne_true_of_eq_false hfinite)).trans (if_pos hfew)))
    case stamped =>
      have hsettle := hdue.trans ((if_neg (ne_true_of_eq_false hfinite)).trans (if_neg (Nat.not_lt.2 hroom)))
      intro j first full c₁ c₂ c₃ c₄ c
      refine ⟨fun halone => ?clean, fun hup hleft => ?compared⟩
      case clean => exact congrArg Host.Outcome.next (hsettle.trans (congrArg (·.huskServe k p) (c.settlePage_alone k p g halone)))
      case compared =>
        exact congrArg Host.Outcome.next (hsettle.trans (congrArg (·.huskServe k p) (c.settlePage_buddy k p g hup hleft)))
  case record =>
    intro s i head p ho k b g d ok hp pg c
    rw [exec_huskCmp_fits i head p s ho hp]
    refine ⟨fun howner hunstamped hcopy => ?kept, fun hcopy => ⟨fun heq => ?copySame, fun hne => ?copyDiffers⟩,
      fun howner hstamped hfirst heq => ?clean, fun howner hstamped hfirst hne => ?disputed, fun howner => ?buddy⟩
    case kept => exact congrArg _ (b.recordArrives_unstamped k p g _ d hcopy howner hunstamped)
    case copySame => exact congrArg _ ((b.recordArrives_copy k p g _ d hcopy).trans (if_pos heq))
    case copyDiffers => exact congrArg _ ((b.recordArrives_copy k p g _ d hcopy).trans (if_neg hne))
    case clean => exact congrArg _ ((b.recordArrives_stamped k p g _ d howner hstamped hfirst).trans (if_pos heq))
    case disputed =>
      have hagain := (b.recordArrives_stamped k p g (bits head 39 0) d howner hstamped hfirst).trans (if_neg hne)
      exact congrArg _ (hagain.trans (b.sendStepAgain_disputed k p g d d))
    case buddy => exact congrArg _ (b.recordArrives_buddy k p g _ d howner)

end Sys2Proof.Machine
end

section
/-! SUPPORT. Little-endian bytes, the sizes of the CRCs, and the fields of hop words, link control words and cells' frames (R367 to R369). -/

namespace Sys2Proof.Machine

/-! ### Little-endian bytes -/

@[simp] theorem length_leBytes (n x : Nat) : (leBytes n x).length = n := by
  induction n generalizing x with
  | zero => rfl
  | succ n ih => rw [leBytes, List.length_cons, ih]

theorem leNat_leBytes (n x : Nat) (h : x < 256 ^ n) : leNat (leBytes n x) = x := by
  induction n generalizing x with
  | zero => rw [Nat.lt_one_iff.1 h]; rfl
  | succ n ih =>
    have hq : x / 256 < 256 ^ n := Nat.div_lt_of_lt_mul (by rwa [Nat.mul_comm, ← Nat.pow_succ])
    rw [leBytes, leNat, ih _ hq, BitVec.toNat_ofNat]
    omega

theorem take_leBytes (m n x : Nat) (h : m ≤ n) : (leBytes n x).take m = leBytes m x := by
  induction m generalizing n x with
  | zero => rfl
  | succ m ih =>
    obtain ⟨n, rfl⟩ := Nat.exists_eq_add_of_lt h
    rw [show m + n + 1 = (m + n) + 1 from rfl, leBytes, List.take_succ_cons, ih _ _ (Nat.le_add_right m n)]
    rfl

theorem drop_leBytes (m n x : Nat) : (leBytes (m + n) x).drop m = leBytes n (x / 256 ^ m) := by
  induction m generalizing x with
  | zero => rw [Nat.zero_add, Nat.pow_zero, Nat.div_one, List.drop_zero]
  | succ m ih =>
    rw [show m + 1 + n = (m + n) + 1 by omega, leBytes, List.drop_succ_cons, ih, Nat.div_div_eq_div_mul,
      Nat.pow_succ, Nat.mul_comm]

/-- Bytes of a number depend on its low bits alone. -/
theorem leBytes_congr (n x y : Nat) (h : x % 256 ^ n = y % 256 ^ n) : leBytes n x = leBytes n y := by
  induction n generalizing x y with
  | zero => rfl
  | succ n ih =>
    have hlow : x % 256 = y % 256 := by
      rw [← Nat.mod_mod_of_dvd x (Dvd.intro_left (256 ^ n) rfl), ← Nat.mod_mod_of_dvd y (Dvd.intro_left (256 ^ n) rfl)]
      exact congrArg (· % 256) h
    have hhigh : x / 256 % 256 ^ n = y / 256 % 256 ^ n := by
      rw [Nat.pow_succ, Nat.mul_comm] at h
      rw [← Nat.mod_mul_right_div_self, ← Nat.mod_mul_right_div_self, h]
    rw [leBytes, leBytes, hlow, ih _ _ hhigh]

/-! ### CRCs (R367, R368) -/

theorem crcStep_lt (poly width crc : Nat) (hw : 0 < width) (hpoly : poly < 2 ^ width) (h : crc < 2 ^ width) :
    crcStep poly width crc < 2 ^ width := by
  unfold crcStep
  split
  · exact Nat.xor_lt_two_pow (Nat.mod_lt _ (Nat.two_pow_pos _)) hpoly
  · next hbit =>
    obtain ⟨w, rfl⟩ := Nat.exists_eq_succ_of_ne_zero hw.ne'
    simp only [Nat.succ_eq_add_one, Nat.add_sub_cancel, Nat.testBit_eq_decide_div_mod_eq, decide_eq_true_eq] at hbit h ⊢
    rw [Nat.pow_succ] at h ⊢
    have hd : crc / 2 ^ w < 2 := Nat.div_lt_of_lt_mul h
    have hz : crc / 2 ^ w = 0 := by
      generalize crc / 2 ^ w = top at hbit hd
      omega
    have := (Nat.div_eq_zero_iff_lt (Nat.two_pow_pos w)).1 hz
    omega

theorem crcBytes_lt (poly width init : Nat) (bs : List Byte) (hw : 8 ≤ width) (hpoly : poly < 2 ^ width)
    (h : init < 2 ^ width) : crcBytes poly width init bs < 2 ^ width := by
  have hbyte (b : Byte) : b.toNat * 2 ^ (width - 8) < 2 ^ width := by
    have : 2 ^ width = 2 ^ 8 * 2 ^ (width - 8) := by rw [← Nat.pow_add]; congr 1; omega
    rw [this]
    exact Nat.mul_lt_mul_of_pos_right b.isLt (Nat.two_pow_pos _)
  refine List.foldlRecOn (motive := fun c => c < 2 ^ width) bs _ h fun c hc b _ => ?_
  exact List.foldlRecOn (motive := fun c => c < 2 ^ width) _ _ (Nat.xor_lt_two_pow hc (hbyte b)) fun c hc _ _ =>
    crcStep_lt poly width c (by omega) hpoly hc

theorem crc16_lt (bs : List Byte) : crc16 bs < 2 ^ 16 := crcBytes_lt _ _ _ bs (by decide) (by decide) (by decide)

/-- The first `k` bits reversed reach into the top `k` places alone. -/
theorem revBits_upTo (w n k : Nat) (h : k ≤ w) :
    (List.range k).foldl (fun a i => if n.testBit i then a + 2 ^ (w - 1 - i) else a) 0 + 2 ^ (w - k) ≤ 2 ^ w := by
  induction k with
  | zero => simp
  | succ k ih =>
    have hk := ih (Nat.le_of_succ_le h)
    have hsplit : 2 ^ (w - k) = 2 ^ (w - 1 - k) + 2 ^ (w - (k + 1)) := by
      rw [show w - k = (w - 1 - k) + 1 by omega, show w - (k + 1) = w - 1 - k by omega, Nat.pow_succ, Nat.mul_two]
    rw [List.range_succ, List.foldl_append, List.foldl_cons, List.foldl_nil]
    have hplace := Nat.two_pow_pos (w - 1 - k)
    split <;> omega

theorem revBits_lt (w n : Nat) : revBits w n < 2 ^ w := by
  have h := revBits_upTo w n w le_rfl
  rw [Nat.sub_self, Nat.pow_zero] at h
  exact h

theorem crc32c_lt (bs : List Byte) : crc32c bs < 2 ^ 32 := Nat.xor_lt_two_pow (revBits_lt 32 _) (by decide)

/-! ### Hop words (R367) -/

section HopWord
variable (ftype lsn lack rest : Nat) (hf : ftype < 8) (hl : lsn < 4096) (hk : lack < 4096)
include hf hl hk

theorem hopWord_lt : hopWord ftype lsn lack < 2 ^ 64 := by
  have := crc16_lt (leBytes 6 (ftype + 2 ^ 3 + lsn * 2 ^ 4 + lack * 2 ^ 16))
  simp only [hopWord]
  omega

/-- The fields of a hop word, below what follows it. -/
theorem hopWord_fields :
    bits (hopWord ftype lsn lack + rest * 2 ^ 64) 2 0 = ftype ∧ (hopWord ftype lsn lack + rest * 2 ^ 64).testBit 3 = true
      ∧ bits (hopWord ftype lsn lack + rest * 2 ^ 64) 15 4 = lsn ∧ bits (hopWord ftype lsn lack + rest * 2 ^ 64) 27 16 = lack
      ∧ bits (hopWord ftype lsn lack + rest * 2 ^ 64) 47 28 = 0 := by
  simp only [hopWord, bits, Nat.shiftRight_eq_div_pow, Nat.testBit_eq_decide_div_mod_eq, decide_eq_true_eq]
  omega

/-- The check of a hop word holds, whatever follows it. -/
theorem hopWord_check (n : Nat) (hn : 6 ≤ n) :
    crc16 ((leBytes n (hopWord ftype lsn lack + rest * 2 ^ 64)).take 6)
      = bits (hopWord ftype lsn lack + rest * 2 ^ 64) 63 48 := by
  have hcrc := crc16_lt (leBytes 6 (ftype + 2 ^ 3 + lsn * 2 ^ 4 + lack * 2 ^ 16))
  have hlow : leBytes 6 (hopWord ftype lsn lack + rest * 2 ^ 64) = leBytes 6 (ftype + 2 ^ 3 + lsn * 2 ^ 4 + lack * 2 ^ 16) :=
    leBytes_congr _ _ _ (by simp only [hopWord]; omega)
  rw [take_leBytes 6 n _ hn, hlow]
  simp only [hopWord, bits, Nat.shiftRight_eq_div_pow]
  omega

theorem hopWord_above : (hopWord ftype lsn lack + rest * 2 ^ 64) / 2 ^ 64 = rest := by
  have := hopWord_lt ftype lsn lack hf hl hk
  omega

end HopWord

/-- Fields above the hop word are those of the number that begins there. -/
theorem bits_above (h rest hi lo : Nat) (hr : h / 2 ^ 64 = rest) : bits h (64 + hi) (64 + lo) = bits rest hi lo := by
  rw [bits, bits, Nat.shiftRight_eq_div_pow, Nat.shiftRight_eq_div_pow, Nat.pow_add, ← Nat.div_div_eq_div_mul, hr,
    show 64 + hi + 1 - (64 + lo) = hi + 1 - lo by omega]

/-! ### Link control words (R369) -/

theorem Port.controlFrame_eq (x : Port) (lctype body : Nat) :
    x.controlFrame lctype body
      = hopWord 0 0 x.rxLsn + (lctype + body * 2 ^ 8 + crc16 (leBytes 22 (lctype + body * 2 ^ 8)) * 2 ^ 176) * 2 ^ 64 := by
  simp only [Port.controlFrame]
  omega

/-- A link control word that a port sends has sound check words, its type and its body. -/
theorem Port.controlFrame_fields (x : Port) (lctype body : Nat) (hx : x.rxLsn < 4096) (ht : lctype < 256)
    (hb : body < 2 ^ 168) :
    wordSound (x.controlFrame lctype body) = true ∧ bits (x.controlFrame lctype body) 2 0 = 0
      ∧ (x.controlFrame lctype body).testBit 3 = true ∧ bits (x.controlFrame lctype body) 27 16 = x.rxLsn
      ∧ bits (x.controlFrame lctype body) 71 64 = lctype ∧ bits (x.controlFrame lctype body) 239 72 = body := by
  have hcrc := crc16_lt (leBytes 22 (lctype + body * 2 ^ 8))
  have hsum := x.controlFrame_eq lctype body
  generalize hrest : lctype + body * 2 ^ 8 + crc16 (leBytes 22 (lctype + body * 2 ^ 8)) * 2 ^ 176 = rest at hsum
  have habove := hopWord_above 0 0 x.rxLsn rest (by decide) (by decide) hx
  have hcheck := hopWord_check 0 0 x.rxLsn rest (by decide) (by decide) hx 32 (by decide)
  obtain ⟨htype, hvalid, -, hlack, -⟩ := hopWord_fields 0 0 x.rxLsn rest (by decide) (by decide) hx
  rw [← hsum] at habove hcheck htype hvalid hlack
  have hlctype : bits (x.controlFrame lctype body) 71 64 = lctype := by
    rw [bits_above _ _ 7 0 habove, ← hrest, bits, Nat.shiftRight_eq_div_pow]
    omega
  have hbody : bits (x.controlFrame lctype body) 239 72 = body := by
    rw [bits_above _ _ 175 8 habove, ← hrest, bits, Nat.shiftRight_eq_div_pow]
    omega
  have hbodyCheck : crc16 (((leBytes 32 (x.controlFrame lctype body)).drop 8).take 22)
      = bits (x.controlFrame lctype body) 255 240 := by
    have hlow : leBytes 22 (x.controlFrame lctype body / 256 ^ 8) = leBytes 22 (lctype + body * 2 ^ 8) :=
      leBytes_congr _ _ _ (by rw [show 256 ^ 8 = 2 ^ 64 by decide, habove, ← hrest]; omega)
    rw [drop_leBytes 8 24, take_leBytes 22 24 _ (by decide), hlow, bits_above _ _ 191 176 habove, ← hrest, bits,
      Nat.shiftRight_eq_div_pow]
    omega
  refine ⟨?_, htype, hvalid, hlack, hlctype, hbody⟩
  rw [wordSound, hcheck, hbodyCheck, beq_self_eq_true, beq_self_eq_true, Bool.and_self]

/-! ### Cells' frames (R368) -/

/-- The header of a cell from bit 64 on. -/
def Ctx.headerWord (c : Ctx) (self cls msg seq ack : Nat) (pay : Bool) : Nat :=
  cls + b2n pay * 2 ^ 3 + msg * 2 ^ 4 + c.partner * 2 ^ 12 + c.partnerKpr * 2 ^ 24 + self * 2 ^ 27 + c.kpr * 2 ^ 39
    + (if msg = 1 then 0 else c.partnerCtx) * 2 ^ 42 + seq * 2 ^ 54 + ack * 2 ^ 102

theorem Ctx.header_eq (c : Ctx) (self cls msg seq ack : Nat) (pay : Bool) :
    c.header self cls msg seq ack pay = c.headerWord self cls msg seq ack pay * 2 ^ 64 := by
  simp only [Ctx.header, Ctx.headerWord]
  omega

/-- Every field of a cell's header fits its place (R368). -/
structure Ctx.HeaderFits (c : Ctx) (self cls msg seq ack : Nat) : Prop where
  self : self < 4096
  cls : cls < 8
  msg : msg < 256
  seq : seq < 2 ^ 48
  ack : ack < 2 ^ 58
  partner : c.partner < 4096
  partnerKpr : c.partnerKpr < 8
  kpr : c.kpr < 8
  partnerCtx : c.partnerCtx < 4096

/-- The fields of a cell's header, below what follows it. -/
theorem Ctx.headerWord_fields (c : Ctx) (self cls msg seq ack check : Nat) (pay : Bool)
    (hfit : c.HeaderFits self cls msg seq ack) (hcheck : check < 2 ^ 32) :
    let w := c.headerWord self cls msg seq ack pay + check * 2 ^ 160
    c.headerWord self cls msg seq ack pay < 2 ^ 160 ∧ bits w 191 160 = check
      ∧ bits w 2 0 = cls ∧ w.testBit 3 = pay ∧ bits w 11 4 = msg ∧ bits w 23 12 = c.partner ∧ bits w 26 24 = c.partnerKpr
      ∧ bits w 38 27 = self ∧ bits w 41 39 = c.kpr ∧ bits w 53 42 = (if msg = 1 then 0 else c.partnerCtx) ∧ bits w 101 54 = seq
      ∧ bits w 159 102 = ack := by
  intro w
  obtain ⟨hself, hcls, hmsg, hseq, hack, hpartner, hpk, hk, hctx⟩ := hfit
  have hdest : (if msg = 1 then 0 else c.partnerCtx) < 4096 := by split <;> omega
  have hpay : b2n pay < 2 := by cases pay <;> decide
  have hpay' : pay = decide (b2n pay = 1) := by cases pay <;> rfl
  simp only [w, Ctx.headerWord, bits, Nat.shiftRight_eq_div_pow, Nat.testBit_eq_decide_div_mod_eq]
  generalize (if msg = 1 then 0 else c.partnerCtx) = dest at hdest ⊢
  generalize b2n pay = v at hpay hpay' ⊢
  subst hpay'
  refine ⟨?_, ?_, ?_, decide_eq_decide.2 ?_, ?_, ?_, ?_, ?_, ?_, ?_, ?_, ?_⟩ <;> omega

/-- A cell's frame: its hop word, its header, and the check over header and payload. -/
theorem Port.cellFrame_eq (x : Port) (lsn w : Nat) (cell : TxCell) (hw : cell.head = w * 2 ^ 64) :
    x.cellFrame lsn cell
      = hopWord 1 lsn x.rxLsn + (w + crc32c (leBytes 20 w ++ cell.payload) * 2 ^ 160) * 2 ^ 64 := by
  rw [Port.cellFrame, hw, Nat.mul_div_cancel w (Nat.two_pow_pos 64)]
  omega

section FrameBytes
variable (h : Nat) (payload : List Byte)

theorem take_frame (n : Nat) (hn : n ≤ 32) : (leBytes 32 h ++ payload).take n = (leBytes 32 h).take n :=
  List.take_append_of_le_length (by rw [length_leBytes]; exact hn)

theorem drop_frame : (leBytes 32 h ++ payload).drop 32 = payload :=
  List.drop_left' (length_leBytes 32 h)

theorem header_frame : ((leBytes 32 h ++ payload).drop 8).take 20 = leBytes 20 (h / 2 ^ 64) := by
  rw [List.drop_append_of_le_length (by rw [length_leBytes]; decide), drop_leBytes 8 24,
    List.take_append_of_le_length (by rw [length_leBytes]; decide), take_leBytes 20 24 _ (by decide), show 256 ^ 8 = 2 ^ 64 by decide]

end FrameBytes

end Sys2Proof.Machine
end

section
/-! SUPPORT. What cells, acknowledgements and fences leave of the contexts, and the contexts that a change opens (R380, R435). -/

namespace Sys2Proof.Machine

/-! ### Operations of a port leave the contexts (R367 to R375) -/

@[simp] theorem State.pumpPort_ctxs (p n : Nat) (s : State) : (State.pumpPort p n s).mlv.ctxs = s.mlv.ctxs := by
  induction n generalizing s with
  | zero => rfl
  | succ n ih =>
    unfold State.pumpPort
    dsimp only
    split
    · rfl
    · split
      · rfl
      · exact ih _

@[simp] theorem State.dealTo_ctxs (s : State) (p : Nat) (c : TxCell) : (s.dealTo p c).mlv.ctxs = s.mlv.ctxs :=
  State.pumpPort_ctxs p _ _

theorem State.dealTo_ctx (s : State) (p j : Nat) (c : TxCell) : (s.dealTo p c).ctx j = s.ctx j := by
  rw [State.ctx, State.dealTo_ctxs, State.ctx]

/-- A fold over the state keeps what each of its steps keeps. -/
theorem State.forAll_keeps {α β : Type} (part : State → β) (s : State) (l : List α) (f : State → α → State)
    (hf : ∀ s a, part (f s a) = part s) : part (s.forAll l f) = part s := foldl_keeps part f hf l s

/-! ### A context but for its classes -/

/-- A context without what its classes hold. -/
def Ctx.bare (c : Ctx) : Ctx := { c with classes := [] }

theorem Ctx.state_of_bare {c d : Ctx} (h : c.bare = d.bare) : c.state = d.state := by
  change c.bare.state = d.bare.state
  rw [h]

theorem State.modCtx_bare (s : State) (i j : Nat) (f : Ctx → Ctx) (hf : ∀ c, (f c).bare = c.bare) :
    ((s.modCtx i f).ctx j).bare = (s.ctx j).bare := by
  rw [State.ctx_modCtx]
  split
  · next hj => rw [hj, hf]
  · rfl

theorem State.modCls_bare (s : State) (i j cls : Nat) (f : CtxClass → CtxClass) :
    ((s.modCtx i fun c => c.modCls cls f).ctx j).bare = (s.ctx j).bare := s.modCtx_bare i j _ fun _ => rfl

theorem State.pumpCtx_bare (i cls n j : Nat) (s : State) : ((State.pumpCtx i cls n s).ctx j).bare = (s.ctx j).bare := by
  induction n generalizing s with
  | zero => rfl
  | succ n ih =>
    unfold State.pumpCtx
    dsimp only
    split
    · split
      · rw [ih, State.dealTo_ctx, State.modCls_bare]
      · rfl
    · rfl

theorem State.pump_bare (s : State) (i cls j : Nat) : ((s.pump i cls).ctx j).bare = (s.ctx j).bare :=
  State.pumpCtx_bare i cls _ j s

theorem State.pumpAll_bare (s : State) (i j : Nat) : ((s.pumpAll i).ctx j).bare = (s.ctx j).bare :=
  s.forAll_keeps (fun s => (s.ctx j).bare) _ _ fun s c => s.pump_bare i c j

theorem State.send_bare (s : State) (i cls msg j : Nat) (head data : List Byte) (pay : Bool) :
    ((s.send i cls msg head pay data).ctx j).bare = (s.ctx j).bare := by
  unfold State.send
  rw [State.pump_bare, State.modCls_bare]
  rfl

theorem State.reply_bare (s : State) (first : Bool) (dest k j : Nat) (c : Cmd) (r : Res) :
    ((s.reply first dest c k r).ctx j).bare = (s.ctx j).bare := by
  by_cases hp : c.packet.src = .peer
  · simp only [State.reply, hp, State.replyPeer, State.sendCpl]
    split
    · exact State.send_bare _ _ _ _ j _ _ _
    · exact State.send_bare _ _ _ _ j _ _ _
  · rw [s.reply_same first dest c k r hp]
    rfl

theorem State.mgmtDone_ctx (s : State) (c : Cmd) (j : Nat) : (s.mgmtDone c).ctx j = s.ctx j := by
  unfold State.mgmtDone
  split <;> rfl

theorem State.final_bare (s : State) (csn j : Nat) (r : Res) : ((s.final csn r).ctx j).bare = (s.ctx j).bare := by
  unfold State.final
  split
  · rfl
  · rw [State.mgmtDone_ctx]
    split
    · rfl
    · rw [State.reply_bare]
      rfl

theorem State.releaseHold_bare (s : State) (p j : Nat) : ((s.releaseHold p).ctx j).bare = (s.ctx j).bare := by
  unfold State.releaseHold
  split
  · rfl
  · rw [State.final_bare]
    exact State.forAll_keeps (fun s => (s.ctx j).bare) _ _ _ fun _ _ => rfl

theorem State.selfFence_bare (s : State) (j : Nat) : (s.selfFence.ctx j).bare = (s.ctx j).bare := by
  unfold State.selfFence
  split
  · rfl
  · refine (State.forAll_keeps (fun s => (s.ctx j).bare) _ _ _ fun s p => ?_).trans ?_
    · exact s.releaseHold_bare p j
    · exact State.forAll_keeps (fun s => (s.ctx j).bare) _ _ _ fun _ _ => rfl

/-! ### Contexts that a change opens (R380, R437) -/

theorem State.withContexts_congr (s : State) (f g : State → State) (h : f s = g s) : s.withContexts f = s.withContexts g := by
  unfold State.withContexts
  rw [h]

/-- A change that opens no context is followed by the takeover's progress alone. -/
theorem State.withContexts_quiet (s : State) (f : State → State)
    (h : ∀ j, ((f s).ctx j).state = .opened → (s.ctx j).state = .opened) : s.withContexts f = (f s).takeoverProgress := by
  have hnone : (((f s).mlv.ctxs.map (·.1)).filter fun i => ((f s).ctx i).state == .opened && (s.ctx i).state ≠ .opened) = [] :=
    List.filter_eq_nil_iff.2 fun j _ hj => by
      simp only [Bool.and_eq_true, beq_iff_eq, decide_eq_true_eq] at hj
      exact hj.2 (h j hj.1)
  unfold State.withContexts
  dsimp only
  rw [hnone]
  rfl

end Sys2Proof.Machine
end

section
/-! SUPPORT. What a port does with a frame: its link checks in their order, and the checks of a cell's fields (R372, R379, R390). -/

namespace Sys2Proof.Machine

/-! ### Discarded cells, and the fence of an isolated module (R372, R435) -/

/-- The answer to a discarded cell: none within 1,800 root periods of the last for the LSN that is still expected. -/
theorem State.lnak_eq (s : State) (p : Nat) :
    s.lnak p = if (s.port p).lnakAt.any fun t => decide (s.clk.rootTime < t + 1800) then s
      else (s.emit (.control p ((s.port p).controlFrame 3 (s.port p).rxLsn))).modPort p fun x =>
        { x with lnakAt := some s.clk.rootTime } := by
  unfold State.lnak
  cases (s.port p).lnakAt with
  | none => rfl
  | some t =>
    simp only [Option.any_some, decide_eq_true_eq]
    by_cases h : t + 1800 ≤ s.clk.rootTime
    · rw [if_pos h, if_neg (Nat.not_lt.2 h)]
      rfl
    · rw [if_neg h, if_pos (Nat.lt_of_not_le h)]

/-- R435: a module that has become isolated fences itself. -/
def State.fenceIfIsolated (s : State) : State := if s.isolated then s.selfFence else s

theorem State.fenceIfIsolated_bare (s : State) (j : Nat) : (s.fenceIfIsolated.ctx j).bare = (s.ctx j).bare := by
  unfold State.fenceIfIsolated
  split
  · exact s.selfFence_bare j
  · rfl

theorem State.lnak_ctx (s : State) (p j : Nat) : (s.lnak p).ctx j = s.ctx j := by
  rw [State.lnak_eq]
  split <;> rfl

/-! ### Link checks (R372, R390) -/

/-- The link checks that a frame passes: its hop word's, its length, and that over header and payload. -/
def FrameSound (frame : List Byte) : Prop :=
  crc16 (frame.take 6) = bits (leNat (frame.take 32)) 63 48 ∧ (frame.length = 32 ∨ frame.length = 544)
    ∧ crc32c ((frame.drop 8).take 20 ++ frame.drop 32) = bits (leNat (frame.take 32)) 255 224

theorem not_frameSound (frame : List Byte) : ¬ FrameSound frame ↔
    crc16 (frame.take 6) ≠ bits (leNat (frame.take 32)) 63 48 ∨ (frame.length ≠ 32 ∧ frame.length ≠ 544)
      ∨ crc32c ((frame.drop 8).take 20 ++ frame.drop 32) ≠ bits (leNat (frame.take 32)) 255 224 := by
  rw [FrameSound, not_and_or, not_and_or, not_or]

/-- A correctable frame's corrected symbols are counted. -/
def State.corrected (s : State) (p symbols : Nat) : State :=
  if symbols = 0 then s else
    (s.modPort p fun x =>
      { x with
        fecCorrected := satAdd 32 x.fecCorrected 1
        symbols := (s.clk.rootTime, min 15 symbols) :: x.recentSymbols s.clk.rootTime }).portLife p fun l =>
          { l with corrected := satAdd 64 l.corrected 1 }

theorem State.corrected_ctx (s : State) (p symbols j : Nat) : (s.corrected p symbols).ctx j = s.ctx j := by
  unfold State.corrected
  split <;> rfl

theorem State.corrected_selfId (s : State) (p symbols : Nat) : (s.corrected p symbols).selfId = s.selfId := by
  unfold State.corrected
  split <;> rfl

theorem State.corrected_rxLsn (s : State) (p symbols : Nat) : ((s.corrected p symbols).port p).rxLsn = (s.port p).rxLsn := by
  unfold State.corrected
  split
  · rfl
  · change ((s.modPort p _).port p).rxLsn = _
    rw [State.port_modPort_same]

/-- An expected frame's LSN is followed by the next. -/
def State.expectNext (s : State) (p : Nat) : State :=
  s.modPort p fun x => { x with rxLsn := (x.rxLsn + 1) % 4096, lnakAt := none }

section Frame
variable (s : State) (p symbols : Nat) (frame : List Byte) (hup : (s.port p).state = .up)
include hup

theorem State.receiveCell_uncorrectable :
    s.receiveCell p symbols false frame
      = ((s.modPort p fun x => { x with fecUncorrectable := satAdd 16 x.fecUncorrectable 1 }).portLife p fun l =>
          { l with uncorrectable := satAdd 64 l.uncorrectable 1 }).lnak p := by
  simp only [State.receiveCell, hup, ne_eq, not_true_eq_false, if_false, Bool.not_false, if_true]

theorem State.receiveCell_unsound (h : ¬ FrameSound frame) :
    s.receiveCell p symbols true frame = (s.corrected p symbols).lnak p := by
  have hbad := (not_frameSound frame).1 h
  simp only [State.receiveCell, hup, ne_eq, not_true_eq_false, if_false, Bool.not_true, Bool.false_eq_true]
  exact if_pos hbad

theorem State.receiveCell_unexpected (h : FrameSound frame)
    (hd : seqAhead 12 (s.port p).rxLsn (bits (leNat (frame.take 32)) 15 4) ≠ 0) :
    s.receiveCell p symbols true frame
      = if 2048 ≤ seqAhead 12 (s.port p).rxLsn (bits (leNat (frame.take 32)) 15 4) then s.corrected p symbols
        else (s.corrected p symbols).lnak p := by
  have hgood := fun hbad => (not_frameSound frame).2 hbad h
  rw [← s.corrected_rxLsn p symbols] at hd ⊢
  simp only [State.receiveCell, hup, ne_eq, not_true_eq_false, if_false, Bool.not_true, Bool.false_eq_true]
  exact (if_neg hgood).trans (if_pos hd)

theorem State.receiveCell_expected (h : FrameSound frame)
    (hd : seqAhead 12 (s.port p).rxLsn (bits (leNat (frame.take 32)) 15 4) = 0)
    (hack : (leNat (frame.take 32)).testBit 3 = false) :
    s.receiveCell p symbols true frame
      = (if bits (leNat (frame.take 32)) 2 0 = 1 ∧ bits (leNat (frame.take 32)) 66 64 < 5 then
            ((s.corrected p symbols).expectNext p).returnHop p (bits (leNat (frame.take 32)) 66 64)
          else (s.corrected p symbols).expectNext p).checkCell p (leNat (frame.take 32)) (frame.drop 32) := by
  have hgood := fun hbad => (not_frameSound frame).2 hbad h
  rw [← s.corrected_rxLsn p symbols] at hd
  simp only [State.receiveCell, hup, ne_eq, not_true_eq_false, if_false, Bool.not_true, Bool.false_eq_true]
  refine (if_neg hgood).trans ((if_neg (not_not_intro hd)).trans ?_)
  rw [if_neg (ne_true_of_eq_false hack)]
  rfl

end Frame

/-! ### Checks of a cell's fields (R390) -/

section Fields
variable (s : State) (p h : Nat) (payload : List Byte)

theorem State.checkCell_otherType (ht : bits h 2 0 ≠ 1) :
    s.checkCell p h payload = s.modMlv fun m => { m with hdrErr := satAdd 16 m.hdrErr 1 } := if_pos (.inl ht)

variable (ht : bits h 2 0 = 1) (hr : bits h 47 28 = 0) (hc : bits h 66 64 < 5)
  (hp : decide (payload.length = 512) = h.testBit 67)
include ht hr hc hp

theorem State.checkCell_fields_fit :
    ¬ (bits h 2 0 ≠ 1 ∨ bits h 47 28 ≠ 0 ∨ 5 ≤ bits h 66 64 ∨ decide (payload.length = 512) ≠ h.testBit 67) := by
  rintro (hbad | hbad | hbad | hbad)
  · exact hbad ht
  · exact hbad hr
  · exact Nat.not_le.2 hc hbad
  · exact hbad hp

theorem State.checkCell_misrouted (hdest : bits h 87 76 ≠ s.selfId ∨ bits h 90 88 ≠ p / 8) :
    s.checkCell p h payload = s.modMlv fun m => { m with misrouted := satAdd 16 m.misrouted 1 } :=
  (if_neg (State.checkCell_fields_fit h payload ht hr hc hp)).trans (if_pos hdest)

variable (hid : bits h 87 76 = s.selfId) (hk : bits h 90 88 = p / 8) (hmsg : bits h 75 68 ≠ 1)
include hid hk hmsg

/-- A cell other than a HELLO that is for this Keeper. -/
theorem State.checkCell_here :
    s.checkCell p h payload
      = if (s.ctx (bits h 117 106)).state ≠ .opened ∨ (s.ctx (bits h 117 106)).partner ≠ bits h 102 91
            ∨ (s.ctx (bits h 117 106)).partnerKpr ≠ bits h 105 103 ∨ (s.ctx (bits h 117 106)).kpr ≠ p / 8 then
          s.modMlv fun m => { m with ctxErr := satAdd 16 m.ctxErr 1 }
        else if !msgValid (bits h 66 64) (bits h 75 68) (h.testBit 67) then s.modMlv fun m => { m with hdrErr := satAdd 16 m.hdrErr 1 }
        else
          let (s, kept) := if bits h 75 68 = 0 then (s, true)
            else s.placeCell (bits h 117 106) (bits h 66 64) (bits h 165 118) (bits h 75 68) payload
          if kept then s.ackFields (bits h 117 106) h else s :=
  (if_neg (State.checkCell_fields_fit h payload ht hr hc hp)).trans
    ((if_neg (not_or.2 ⟨not_not_intro hid, not_not_intro hk⟩)).trans (if_neg hmsg))

theorem State.checkCell_otherCtx
    (hctx : (s.ctx (bits h 117 106)).state ≠ .opened ∨ (s.ctx (bits h 117 106)).partner ≠ bits h 102 91
      ∨ (s.ctx (bits h 117 106)).partnerKpr ≠ bits h 105 103 ∨ (s.ctx (bits h 117 106)).kpr ≠ p / 8) :
    s.checkCell p h payload = s.modMlv fun m => { m with ctxErr := satAdd 16 m.ctxErr 1 } :=
  (s.checkCell_here p h payload ht hr hc hp hid hk hmsg).trans (if_pos hctx)

variable (ho : (s.ctx (bits h 117 106)).state = .opened) (hpartner : (s.ctx (bits h 117 106)).partner = bits h 102 91)
  (hpk : (s.ctx (bits h 117 106)).partnerKpr = bits h 105 103) (hkpr : (s.ctx (bits h 117 106)).kpr = p / 8)
  (hvalid : msgValid (bits h 66 64) (bits h 75 68) (h.testBit 67) = true)
include ho hpartner hpk hkpr hvalid

theorem State.checkCell_null (hnull : bits h 75 68 = 0) :
    s.checkCell p h payload = s.ackFields (bits h 117 106) h := by
  rw [s.checkCell_here p h payload ht hr hc hp hid hk hmsg]
  rw [hnull] at hvalid
  simp only [ho, hpartner, hpk, hkpr, hvalid, hnull, ne_eq, not_true_eq_false, or_self, if_false, Bool.not_true,
    Bool.false_eq_true, if_true]

theorem State.checkCell_placed (hdata : bits h 75 68 ≠ 0) :
    s.checkCell p h payload
      = (fun q : State × Bool => if q.2 then q.1.ackFields (bits h 117 106) h else q.1)
          (s.placeCell (bits h 117 106) (bits h 66 64) (bits h 165 118) (bits h 75 68) payload) := by
  rw [s.checkCell_here p h payload ht hr hc hp hid hk hmsg]
  simp only [ho, hpartner, hpk, hkpr, hvalid, hdata, ne_eq, not_true_eq_false, or_self, if_false, Bool.not_true,
    Bool.false_eq_true]

end Fields

theorem State.ackFields_inRange (s : State) (i h : Nat) (hc : bits h 217 215 < 5) :
    s.ackFields i h = s.ackCells i (bits h 217 215) (bits h 213 166) (h.testBit 214) (bits h 223 218) := if_pos hc

/-! ### The row -/

theorem exec_cellReceive (s : State) (p symbols : Nat) (ok : Bool) (frame : List Byte) :
    exec (.cellReceive p symbols ok frame) s
      = .next (s.withContexts fun s => (s.receiveCell p symbols ok frame).fenceIfIsolated) := rfl

/-- A frame that leaves the contexts opens none. -/
theorem exec_cellReceive_quiet (s t : State) (p symbols : Nat) (ok : Bool) (frame : List Byte)
    (h : s.receiveCell p symbols ok frame = t) (hctx : ∀ j, t.ctx j = s.ctx j) :
    exec (.cellReceive p symbols ok frame) s = .next t.fenceIfIsolated.takeoverProgress := by
  rw [exec_cellReceive, State.withContexts_quiet, h]
  intro j hj
  rwa [h, Ctx.state_of_bare (t.fenceIfIsolated_bare j), hctx] at hj

end Sys2Proof.Machine
end

section
/-! The statement about frames: what a port sends, and what it does with what it receives. -/

namespace Sys2Proof.Machine

/-- A cell's frame passes the checks of its receiver, which finds in it what the sender put there. -/
theorem Port.cellFrame_fields (x : Port) (c : Ctx) (self cls msg seq ack lsn : Nat) (cell : TxCell) (hx : x.rxLsn < 4096)
    (hlsn : lsn < 4096) (hfit : c.HeaderFits self cls msg seq ack)
    (hhead : cell.head = c.header self cls msg seq ack (cell.payload ≠ [])) :
    let h := x.cellFrame lsn cell
    let frame := leBytes 32 h ++ cell.payload
    leNat (frame.take 32) = h ∧ crc16 (frame.take 6) = bits h 63 48
      ∧ crc32c ((frame.drop 8).take 20 ++ frame.drop 32) = bits h 255 224
      ∧ bits h 2 0 = 1 ∧ bits h 15 4 = lsn ∧ h.testBit 3 = true ∧ bits h 27 16 = x.rxLsn ∧ bits h 47 28 = 0
      ∧ bits h 66 64 = cls ∧ h.testBit 67 = decide (cell.payload ≠ []) ∧ bits h 75 68 = msg
      ∧ bits h 87 76 = c.partner ∧ bits h 90 88 = c.partnerKpr ∧ bits h 102 91 = self ∧ bits h 105 103 = c.kpr
      ∧ bits h 117 106 = (if msg = 1 then 0 else c.partnerCtx) ∧ bits h 165 118 = seq ∧ bits h 223 166 = ack := by
  intro h frame
  have hsum : h = hopWord 1 lsn x.rxLsn + _ * 2 ^ 64 := x.cellFrame_eq lsn _ cell (hhead.trans (c.header_eq _ _ _ _ _ _))
  obtain ⟨hlow, hcheck, hcls', hpay, hmsg', hpartner', hpk', hself', hk', hctx', hseq', hack'⟩ :=
    c.headerWord_fields self cls msg seq ack _ (cell.payload ≠ []) hfit
      (crc32c_lt (leBytes 20 (c.headerWord self cls msg seq ack (cell.payload ≠ [])) ++ cell.payload))
  generalize hw : c.headerWord self cls msg seq ack (cell.payload ≠ []) = w at *
  generalize hrest : w + crc32c (leBytes 20 w ++ cell.payload) * 2 ^ 160 = rest at *
  obtain ⟨htype, hvalid, hlsn', hlack, hres⟩ := hopWord_fields 1 lsn x.rxLsn rest (by decide) hlsn hx
  have habove := hopWord_above 1 lsn x.rxLsn rest (by decide) hlsn hx
  have hhop := hopWord_check 1 lsn x.rxLsn rest (by decide) hlsn hx 32 (by decide)
  rw [← hsum] at htype hvalid hlsn' hlack hres habove hhop
  have hcrc := crc32c_lt (leBytes 20 w ++ cell.payload)
  have hlt : h < 256 ^ 32 := by
    have := hopWord_lt 1 lsn x.rxLsn (by decide) hlsn hx
    omega
  have hheader : leBytes 20 rest = leBytes 20 w := leBytes_congr _ _ _ (by omega)
  refine ⟨?_, ?_, ?_, htype, hlsn', hvalid, hlack, hres, ?_, ?_, ?_, ?_, ?_, ?_, ?_, ?_, ?_, ?_⟩
  · rw [take_frame _ _ 32 (by decide), take_leBytes 32 32 _ le_rfl, leNat_leBytes 32 h hlt]
  · rw [take_frame _ _ 6 (by decide), hhop]
  · rw [drop_frame, header_frame, habove, hheader, bits_above h rest 191 160 habove, hcheck]
  · rw [bits_above h rest 2 0 habove, hcls']
  · rw [← habove, Nat.testBit_div_two_pow] at hpay
    exact hpay
  · rw [bits_above h rest 11 4 habove, hmsg']
  · rw [bits_above h rest 23 12 habove, hpartner']
  · rw [bits_above h rest 26 24 habove, hpk']
  · rw [bits_above h rest 38 27 habove, hself']
  · rw [bits_above h rest 41 39 habove, hk']
  · rw [bits_above h rest 53 42 habove, hctx']
  · rw [bits_above h rest 101 54 habove, hseq']
  · rw [bits_above h rest 159 102 habove, hack']

/-- Settles O43: a sent frame's fields are read back from their places; a received one by the first link check that it fails, and
the expected one by the first check of its fields. -/
theorem cellReceive : Obligations.CellReceive := by
  unfold Obligations.CellReceive
  refine ⟨fun x hx => ⟨?control, ?cell⟩, ?received⟩
  case control =>
    intro lctype body ht hb
    exact x.controlFrame_fields lctype body hx ht hb
  case cell =>
    intro c self cls msg seq ack lsn cell hlsn hself hcls hmsg hseq hack hpartner hpk hk hctx hhead
    exact x.cellFrame_fields c self cls msg seq ack lsn cell hx hlsn
      ⟨hself, hcls, hmsg, hseq, hack, hpartner, hpk, hk, hctx⟩ hhead
  case received =>
    intro s port symbols frame hup h payload nak sound d c after
    have hnak (t : State) : t.lnak port = nak t := t.lnak_eq port
    have hnakCtx (j : Nat) : (nak c).ctx j = s.ctx j := by
      rw [← hnak, State.lnak_ctx]
      exact s.corrected_ctx port symbols j
    refine ⟨?uncorrectable, fun hbad => ?unsound, fun hs hd => ?old, fun hs hd0 hd => ?ahead, fun hs hd hack => ?expected⟩
    case uncorrectable =>
      refine exec_cellReceive_quiet s _ port symbols false frame
        ((s.receiveCell_uncorrectable port symbols frame hup).trans (hnak _)) fun j => ?_
      rw [← hnak, State.lnak_ctx]
      rfl
    case unsound =>
      exact exec_cellReceive_quiet s _ port symbols true frame
        ((s.receiveCell_unsound port symbols frame hup hbad).trans (hnak _)) hnakCtx
    case old =>
      have hd0 : d ≠ 0 := by omega
      exact exec_cellReceive_quiet s c port symbols true frame
        ((s.receiveCell_unexpected port symbols frame hup hs hd0).trans (if_pos hd)) (s.corrected_ctx port symbols)
    case ahead =>
      exact exec_cellReceive_quiet s _ port symbols true frame
        ((s.receiveCell_unexpected port symbols frame hup hs hd0.ne').trans ((if_neg (Nat.not_le.2 hd)).trans (hnak _))) hnakCtx
    case expected =>
      intro a
      have hreceived := s.receiveCell_expected port symbols frame hup hs hd hack
      have hactx (j : Nat) : a.ctx j = s.ctx j := s.corrected_ctx port symbols j
      refine ⟨fun ht => ?otherType, fun ht hc hr hp => ?cellFits⟩
      case otherType =>
        rw [if_neg (not_and.2 fun h1 => absurd h1 ht)] at hreceived
        exact exec_cellReceive_quiet s _ port symbols true frame
          (hreceived.trans (State.checkCell_otherType _ port h payload ht)) hactx
      case cellFits =>
        intro b cls msg i
        rw [if_pos ⟨ht, hc⟩] at hreceived
        have hbctx (j : Nat) : b.ctx j = s.ctx j := hactx j
        have hself : b.selfId = s.selfId := s.corrected_selfId port symbols
        refine ⟨fun hdest => ?misrouted, fun hid hk hmsg => ⟨fun hother => ?otherCtx,
          fun ho hpartner hpk hkpr hvalid hcredit => ?ours⟩⟩
        case misrouted =>
          rw [← hself] at hdest
          exact exec_cellReceive_quiet s _ port symbols true frame
            (hreceived.trans (State.checkCell_misrouted b port h payload ht hr hc hp hdest)) hbctx
        case otherCtx =>
          rw [← hself] at hid
          rw [← hbctx] at hother
          exact exec_cellReceive_quiet s _ port symbols true frame
            (hreceived.trans (State.checkCell_otherCtx b port h payload ht hr hc hp hid hk hmsg hother)) hbctx
        case ours =>
          intro acked
          rw [← hself] at hid
          rw [← hbctx] at ho hpartner hpk hkpr
          refine ⟨fun hnull => ?null, fun hdata b' kept hplace => ?placed⟩
          case null =>
            have hacked := hreceived.trans ((State.checkCell_null b port h payload ht hr hc hp hid hk hmsg ho hpartner hpk hkpr
              hvalid hnull).trans (b.ackFields_inRange i h hcredit))
            exact congrArg Host.Outcome.next (s.withContexts_congr _ _ (congrArg State.fenceIfIsolated hacked))
          case placed =>
            have hplaced := hreceived.trans (State.checkCell_placed b port h payload ht hr hc hp hid hk hmsg ho hpartner hpk
              hkpr hvalid hdata)
            rw [hplace] at hplaced
            have hacked : (if kept then b'.ackFields i h else b') = if kept then acked b' else b' := by
              rw [b'.ackFields_inRange i h hcredit]
            exact congrArg Host.Outcome.next
              (s.withContexts_congr _ _ (congrArg State.fenceIfIsolated (hplaced.trans hacked)))

end Sys2Proof.Machine
end

section
/-! SUPPORT. Rules of acknowledgements, resends and HELLOs, and of the one context that a HELLO opens (R379 to R383, R432, R437). -/

namespace Sys2Proof.Machine

/-! ### Cells that wait (R379, R381) -/

/-- What each step of a fold keeps holds at its end. -/
theorem State.forAll_induction {α : Type} (P : State → Prop) (s : State) (l : List α) (f : State → α → State) (h : P s)
    (hf : ∀ s a, P s → P (f s a)) : P (s.forAll l f) := List.foldlRecOn (motive := P) l f h fun s hs a _ => hf s a hs

/-- A context without waiting cells has none to send. -/
theorem State.pumpAll_idle (s : State) (i : Nat) (h : ∀ cls, ((s.ctx i).cls cls).waiting = []) : s.pumpAll i = s :=
  s.forAll_unchanged _ _ fun cls _ => by
    rw [State.pump, h, List.length_nil, State.pumpCtx]

/-! ### Contexts that are listed once -/

/-- A context has one place in the table. -/
def State.listsOnce (s : State) (i : Nat) : Prop := (s.mlv.ctxs.map (·.1)).filter (· == i) = [i]

/-- A value that is not the default is listed once after its writing. -/
theorem keys_sset {α : Type} [DecidableEq α] (d : α) (m : Sparse α) (i : Nat) (v : α) (hv : v ≠ d) :
    ((sset d m i v).map (·.1)).filter (· == i) = [i] := by
  have hlow : ((m.filter fun e => decide (e.1 < i)).map (·.1)).filter (· == i) = [] := by
    simp only [List.filter_eq_nil_iff, List.mem_map, List.mem_filter, decide_eq_true_eq, beq_iff_eq]
    rintro _ ⟨e, ⟨-, he⟩, rfl⟩
    exact Nat.ne_of_lt he
  have hhigh : ((m.filter fun e => decide (i < e.1)).map (·.1)).filter (· == i) = [] := by
    simp only [List.filter_eq_nil_iff, List.mem_map, List.mem_filter, decide_eq_true_eq, beq_iff_eq]
    rintro _ ⟨e, ⟨-, he⟩, rfl⟩
    exact Nat.ne_of_gt he
  rw [sset, if_neg hv, List.map_append, List.map_append, List.filter_append, List.filter_append, hlow, hhigh]
  simp only [List.map_cons, List.map_nil, List.filter_cons, beq_self_eq_true, if_true, List.filter_nil, List.nil_append,
    List.append_nil]

/-- A context that a change leaves in service has one place in the table. -/
theorem State.modCtx_listsOnce (s : State) (i : Nat) (f : Ctx → Ctx) (h : (f (s.ctx i)).state = .opened) :
    (s.modCtx i f).listsOnce i :=
  keys_sset _ _ _ _ fun hdefault => by
    have := (congrArg (fun c : Ctx => c.state) hdefault).symm.trans h
    contradiction

theorem State.pumpCtx_listsOnce (i cls n : Nat) (s : State) (ho : (s.ctx i).state = .opened) (h : s.listsOnce i) :
    (State.pumpCtx i cls n s).listsOnce i := by
  induction n generalizing s with
  | zero => exact h
  | succ n ih =>
    unfold State.pumpCtx
    dsimp only
    split
    · split
      · refine ih _ ?_ ?_
        · rw [State.dealTo_ctx, Ctx.state_of_bare (State.modCls_bare _ _ _ _ _), ho]
        · unfold State.listsOnce
          rw [State.dealTo_ctxs]
          exact State.modCtx_listsOnce _ _ _ ho
      · exact h
    · exact h

theorem State.pumpAll_listsOnce (s : State) (i : Nat) (ho : (s.ctx i).state = .opened) (h : s.listsOnce i) :
    (s.pumpAll i).listsOnce i := by
  have hkept : ∀ t : State, (t.ctx i).state = .opened ∧ t.listsOnce i → ∀ cls,
      ((t.pump i cls).ctx i).state = .opened ∧ (t.pump i cls).listsOnce i := fun t ht cls =>
    ⟨(Ctx.state_of_bare (t.pump_bare i cls i)).trans ht.1, State.pumpCtx_listsOnce i cls _ t ht.1 ht.2⟩
  exact (State.forAll_induction (fun t => (t.ctx i).state = .opened ∧ t.listsOnce i) s _ _ ⟨ho, h⟩
    fun t cls ht => hkept t ht cls).2

/-- A change that opens one context is followed by what follows from it. -/
theorem State.withContexts_opensOne (s : State) (f : State → State) (i : Nat) (hnow : ((f s).ctx i).state = .opened)
    (hbefore : (s.ctx i).state ≠ .opened) (honce : (f s).listsOnce i)
    (hothers : ∀ j, j ≠ i → ((f s).ctx j).state = (s.ctx j).state) :
    s.withContexts f = ((f s).ctxOpened i).takeoverProgress := by
  have hone : (((f s).mlv.ctxs.map (·.1)).filter fun j => ((f s).ctx j).state == .opened && (s.ctx j).state ≠ .opened) = [i] := by
    rw [← honce]
    refine List.filter_congr fun j _ => ?_
    by_cases hj : j = i
    · rw [hj, hnow, decide_eq_true hbefore, beq_self_eq_true, beq_self_eq_true, Bool.and_self]
    · rw [hothers j hj, beq_eq_false_iff_ne.2 hj, Bool.and_eq_false_iff]
      by_cases ho : (s.ctx j).state = .opened
      · exact .inr (decide_eq_false (not_not_intro ho))
      · exact .inl (beq_eq_false_iff_ne.2 ho)
  unfold State.withContexts
  dsimp only
  rw [hone]
  rfl

/-! ### HELLOs (R380, R437) -/

theorem State.receiveHello_closed (s : State) (i inc pctx : Nat) (h : (s.ctx i).state = .closed) :
    s.receiveHello i inc pctx = s.modMlv fun m => { m with ctxErr := satAdd 16 m.ctxErr 1 } := by
  simp only [State.receiveHello, h]

/-- A HELLO as an OPENING context notes it. -/
def Ctx.noteHello (c : Ctx) (inc pctx : Nat) (st : CtxState) : Ctx :=
  { c with helloSeen := true, partnerInc := inc, partnerCtx := pctx, state := st }

theorem State.receiveHello_opening (s : State) (i inc pctx : Nat) (h : (s.ctx i).state = .opening) :
    s.receiveHello i inc pctx
      = (s.modCtx i fun c => c.noteHello inc pctx (if (s.ctx i).helloSent then .opened else .opening)).pumpAll i := by
  simp only [State.receiveHello, h]
  exact congrArg (State.pumpAll · i) (State.modCtx_congr _ _ _ _ rfl)

theorem State.sendBare_ctx (s : State) (i p cls msg seq ack j : Nat) : (s.sendBare i p cls msg seq ack).ctx j = s.ctx j :=
  s.dealTo_ctx p j _

theorem State.sendHello_noPort (s : State) (i : Nat) (h : s.bestPort (s.ctx i).kpr = none) : s.sendHello i = s := by
  simp only [State.sendHello, h]

theorem State.sendHello_unseen (s : State) (i q : Nat) (h : s.bestPort (s.ctx i).kpr = some q)
    (ho : (s.ctx i).state = .opening) (hseen : (s.ctx i).helloSeen = false) :
    s.sendHello i
      = (s.sendBare i q 4 1 (i + (s.ctx i).incarnation * 2 ^ 12) 0).modCtx i fun c =>
          { c with helloSent := true, state := .opening } := by
  simp only [State.sendHello, h]
  refine State.modCtx_congr _ _ _ _ ?_
  rw [State.sendBare_ctx, ho, hseen]
  rfl

theorem State.waiting_modCtx (s : State) (i : Nat) (f : Ctx → Ctx) (hf : ∀ c, (f c).classes = c.classes) (cls : Nat) :
    (((s.modCtx i f).ctx i).cls cls).waiting = ((s.ctx i).cls cls).waiting := by
  rw [State.ctx_modCtx_same, Ctx.cls, hf, ← Ctx.cls]

theorem exec_hello (i inc pctx : Nat) (s : State) :
    exec (.hello i inc pctx) s = .next (s.withContexts fun s => s.receiveHello i inc pctx) := rfl

theorem exec_helloSend (i : Nat) (s : State) (ho : (s.ctx i).state = .opening) :
    exec (.helloSend i) s = .next (s.withContexts fun s => (s.sendHello i).pumpAll i) :=
  congrArg Host.Outcome.next (s.withContexts_congr _ _ (if_pos ho))

/-- A HELLO that comes before this end has sent its own is noted. -/
theorem exec_hello_early (s : State) (i inc pctx : Nat) (ho : (s.ctx i).state = .opening) (hsent : (s.ctx i).helloSent = false)
    (hidle : ∀ cls, ((s.ctx i).cls cls).waiting = []) :
    exec (.hello i inc pctx) s = .next (s.modCtx i fun c => c.noteHello inc pctx .opening).takeoverProgress := by
  have hreceived : s.receiveHello i inc pctx = s.modCtx i fun c => c.noteHello inc pctx .opening := by
    rw [s.receiveHello_opening i inc pctx ho, hsent, if_neg Bool.false_ne_true]
    exact State.pumpAll_idle _ i fun cls =>
      (s.waiting_modCtx i (·.noteHello inc pctx .opening) (fun _ => rfl) cls).trans (hidle cls)
  rw [exec_hello, State.withContexts_quiet, hreceived]
  intro j hj
  rw [hreceived, State.ctx_modCtx] at hj
  split at hj
  · contradiction
  · exact hj

theorem exec_hello_closed (s : State) (i inc pctx : Nat) (h : (s.ctx i).state = .closed) :
    exec (.hello i inc pctx) s
      = .next (s.modMlv fun m => { m with ctxErr := satAdd 16 m.ctxErr 1 }).takeoverProgress := by
  rw [exec_hello, State.withContexts_quiet, s.receiveHello_closed i inc pctx h]
  intro j hj
  rwa [s.receiveHello_closed i inc pctx h] at hj

/-- A HELLO opens a context that has sent its own. -/
theorem exec_hello_opens (s : State) (i inc pctx : Nat) (ho : (s.ctx i).state = .opening) (hsent : (s.ctx i).helloSent = true) :
    ((s.receiveHello i inc pctx).ctx i).state = .opened ∧ ((s.receiveHello i inc pctx).ctx i).partnerInc = inc
      ∧ exec (.hello i inc pctx) s = .next ((s.receiveHello i inc pctx).ctxOpened i).takeoverProgress := by
  have hreceived := s.receiveHello_opening i inc pctx ho
  rw [hsent, if_pos rfl] at hreceived
  have hbare (j : Nat) : ((s.receiveHello i inc pctx).ctx j).bare
      = ((s.modCtx i fun c => c.noteHello inc pctx .opened).ctx j).bare := by
    rw [hreceived, State.pumpAll_bare]
  have hnoted := hbare i
  rw [State.ctx_modCtx_same] at hnoted
  have hopened : ((s.receiveHello i inc pctx).ctx i).state = .opened := Ctx.state_of_bare hnoted
  have honce : (s.receiveHello i inc pctx).listsOnce i := by
    rw [hreceived]
    refine State.pumpAll_listsOnce _ i ?_ (State.modCtx_listsOnce s i _ rfl)
    rw [State.ctx_modCtx_same]
    rfl
  have hothers (j : Nat) (hj : j ≠ i) : ((s.receiveHello i inc pctx).ctx j).state = (s.ctx j).state := by
    rw [Ctx.state_of_bare (hbare j), State.ctx_modCtx, if_neg hj]
  have hbefore : (s.ctx i).state ≠ .opened := by
    rw [ho]
    decide
  refine ⟨hopened, congrArg (fun c : Ctx => c.partnerInc) hnoted, ?_⟩
  rw [exec_hello, s.withContexts_opensOne _ i hopened hbefore honce hothers]

section HelloSend
variable (s : State) (i : Nat) (ho : (s.ctx i).state = .opening) (hidle : ∀ cls, ((s.ctx i).cls cls).waiting = [])
include ho hidle

theorem exec_helloSend_noPort (h : s.bestPort (s.ctx i).kpr = none) : exec (.helloSend i) s = .next s.takeoverProgress := by
  have hsame : (s.sendHello i).pumpAll i = s := by rw [s.sendHello_noPort i h, s.pumpAll_idle i hidle]
  rw [exec_helloSend i s ho, State.withContexts_quiet, hsame]
  intro j hj
  rwa [hsame] at hj

theorem exec_helloSend_port (q : Nat) (h : s.bestPort (s.ctx i).kpr = some q) (hseen : (s.ctx i).helloSeen = false) :
    exec (.helloSend i) s
      = .next ((s.sendBare i q 4 1 (i + (s.ctx i).incarnation * 2 ^ 12) 0).modCtx i fun c =>
          { c with helloSent := true, state := .opening }).takeoverProgress := by
  have hsent : (s.sendHello i).pumpAll i = s.sendHello i := by
    refine State.pumpAll_idle _ i fun cls => ?_
    rw [s.sendHello_unseen i q h ho hseen,
      State.waiting_modCtx _ i (fun c => { c with helloSent := true, state := .opening }) (fun _ => rfl) cls,
      State.sendBare_ctx]
    exact hidle cls
  rw [exec_helloSend i s ho, State.withContexts_quiet, hsent, s.sendHello_unseen i q h ho hseen]
  intro j hj
  rw [hsent, s.sendHello_unseen i q h ho hseen, State.ctx_modCtx] at hj
  split at hj
  · exact CtxState.noConfusion (show CtxState.opening = .opened from hj)
  · rwa [State.sendBare_ctx] at hj

end HelloSend

/-! ### Acknowledgements and resends (R382, R383, R432) -/

theorem exec_ackSend (i cls : Nat) (s : State) :
    exec (.ackSend i cls) s = .next (if (s.ctx i).state = .opened
      ∧ (((s.ctx i).cls cls).ackDue = true ∨ 0 < ((s.ctx i).cls cls).owed) then s.sendAck i cls else s) := rfl

theorem exec_watchNull (i : Nat) (s : State) :
    exec (.watchNull i) s
      = .next (if (s.ctx i).state = .opened ∧ (s.ctx i).watch = true then s.sendAck i 0 else s) := rfl

section Resend
variable (s : State) (i cls seq port : Nat) (x : TxCell) (later : List TxCell)
  (hlater : (((s.ctx i).cls cls).unacked.dropWhile fun x => x.seq ≠ seq) = x :: later)
include hlater

/-- A cell is resent on another port of its group that is UP, with the later ones of its class, at most three times. -/
theorem exec_cellResend_again (ho : (s.ctx i).state = .opened) (husable : (s.port port).usable = true)
    (hgroup : (s.portGroup (s.ctx i).kpr).contains port = true) (hfew : ((s.ctx i).cls cls).resends < 3) (hport : x.port ≠ port) :
    exec (.cellResend i cls seq port) s
      = .next ((x :: later).foldl (fun s x => s.dealAgain port x)
          ((s.modCtx i fun c => c.modCls cls fun k => { k with resends := k.resends + 1 }).modMlv fun m =>
            { m with retransmits := satAdd 16 m.retransmits (later.length + 1) })) := by
  change execCellResend i cls seq port s = _
  simp only [execCellResend, hlater]
  rw [if_pos ⟨ho, List.cons_ne_nil x later, hfew, husable, fun h => hport (Option.some.inj h), hgroup⟩]
  rfl

theorem exec_cellResend_spent (h : 3 ≤ ((s.ctx i).cls cls).resends ∨ x.port = port) :
    exec (.cellResend i cls seq port) s = .next s := by
  change execCellResend i cls seq port s = _
  simp only [execCellResend, hlater]
  rw [if_neg]
  rintro ⟨-, -, hfew, -, hport, -⟩
  exact h.elim (Nat.not_le.2 hfew) fun h => hport (congrArg some h)

end Resend

end Sys2Proof.Machine
end

section
/-! The statement about the contexts: acknowledgements, resends and HELLOs. -/

namespace Sys2Proof.Machine

/-- Settles O42: each row by its condition; a HELLO by the state of its context, which is the one that it opens. -/
theorem contexts : Obligations.Contexts := by
  unfold Obligations.Contexts
  refine ⟨?cells, ?hellos⟩
  case cells =>
    intro s i cls ho c k ack
    have hack (cls : Nat) : s.sendAck i cls = ack cls := rfl
    refine ⟨fun hdue => ?owed, fun hnot hnone => ?nothing, fun hwatch => ?watched, fun seq port x later hlater husable hgroup =>
      ⟨fun hfew hport => exec_cellResend_again s i cls seq port x later hlater ho husable hgroup hfew hport,
        fun hspent => exec_cellResend_spent s i cls seq port x later hlater hspent⟩⟩
    case owed => rw [exec_ackSend, if_pos ⟨ho, hdue⟩, hack]
    case nothing =>
      rw [exec_ackSend, if_neg]
      rintro ⟨-, hdue | howed⟩
      · exact Bool.false_ne_true (hnot.symm.trans hdue)
      · exact Nat.not_lt.2 (Nat.le_of_eq hnone) howed
    case watched => rw [exec_watchNull, if_pos ⟨ho, hwatch⟩, hack]
  case hellos =>
    intro s i inc pctx c
    refine ⟨fun ho hsent hidle => exec_hello_early s i inc pctx ho hsent hidle,
      fun ho hseen hidle => ⟨fun q hport => exec_helloSend_port s i ho hidle q hport hseen,
        fun hnone => exec_helloSend_noPort s i ho hidle hnone⟩,
      fun hclosed => exec_hello_closed s i inc pctx hclosed, fun ho hsent => ?opens⟩
    case opens =>
      obtain ⟨hopened, hinc, hexec⟩ := exec_hello_opens s i inc pctx ho hsent
      exact ⟨_, hexec, _, hopened, hinc, rfl⟩

end Sys2Proof.Machine
end

section
/-! SUPPORT. Rules of admission, of the fetch of a ring's entry, and of an arbitration cycle (R454, R457, R463, R470, R471). -/

namespace Sys2Proof.Machine

/-! ### Admission (R463, R525) -/

/-- A new command that its source can bring comes to checks 1 to 7. -/
theorem State.admitCommand_checked (s : State) (c : Cmd) (go : State → State) (hb : s.canBring c.packet = true)
    (hr : s.repeated c.packet = none) (hm : c.packet.src = .mgmt → s.mgmt.outstanding < 8) :
    s.admitCommand c go
      = if (s.enter c.packet).precheck c ≠ 0 then (s.enter c.packet).refuse c ((s.enter c.packet).precheck c)
        else go (s.enter c.packet) := by
  have hroom : ¬ (c.packet.src = .mgmt ∧ 8 ≤ s.mgmt.outstanding) := fun h => Nat.not_le.2 (hm h.1) h.2
  simp only [State.admitCommand, hb, hr, hroom, Bool.true_eq_false, if_false]

theorem State.admitCommand_passes (s : State) (c : Cmd) (go : State → State) (hb : s.canBring c.packet = true)
    (hr : s.repeated c.packet = none) (hm : c.packet.src = .mgmt → s.mgmt.outstanding < 8)
    (hp : (s.enter c.packet).precheck c = 0) : s.admitCommand c go = go (s.enter c.packet) :=
  (s.admitCommand_checked c go hb hr hm).trans (if_neg (not_not_intro hp))

theorem State.admitCommand_refused (s : State) (c : Cmd) (go : State → State) (hb : s.canBring c.packet = true)
    (hr : s.repeated c.packet = none) (hm : c.packet.src = .mgmt → s.mgmt.outstanding < 8)
    (hp : (s.enter c.packet).precheck c ≠ 0) :
    s.admitCommand c go = (s.enter c.packet).refuse c ((s.enter c.packet).precheck c) :=
  (s.admitCommand_checked c go hb hr hm).trans (if_pos hp)

/-- A ninth command of the port is turned away. -/
theorem State.admitCommand_busy (s : State) (c : Cmd) (go : State → State) (hb : s.canBring c.packet = true)
    (hsrc : c.packet.src = .mgmt) (hfull : 8 ≤ s.mgmt.outstanding) : s.admitCommand c go = s.refuseBusy c := by
  have hr : s.repeated c.packet = none := if_neg (by rw [hsrc]; decide)
  simp only [State.admitCommand, hb, hr, hsrc, hfull, Bool.true_eq_false, if_false, and_self, if_true]

/-! ### The fetch of a ring's entry (R454, R457) -/

/-- The entry at SQ_HEAD is read, and the turn is the ring's. -/
def State.fetched (s : State) (q : Nat) : State :=
  ((s.emit (.rdCurr ((s.ring q).sqb.toNat + 64 * (s.ring q).sqHead) 64)).modRing q fun r =>
    { r with sqHead := (r.sqHead + 1) % 2 ^ r.size }).modHost fun h => { h with turn := q }

theorem State.modHost_ring (s : State) (q : Nat) (f : HostIf → HostIf) (hf : ∀ h, (f h).rings = h.rings) :
    (s.modHost f).ring q = s.ring q := by
  rw [State.ring, State.modHost, hf, State.ring]

/-- The ring of a fetched entry keeps room for its completion. -/
theorem State.fetched_canBring (s : State) (q : Nat) (entry : BitVec 512) (data : List Byte) :
    (s.fetched q).canBring (cmdOf entry .host q 0 0 0 data).packet = s.canBring (cmdOf entry .host q 0 0 0 data).packet := by
  have hring : (s.fetched q).ring q = { s.ring q with sqHead := ((s.ring q).sqHead + 1) % 2 ^ (s.ring q).size } := by
    rw [State.fetched, State.modHost_ring, State.ring_modRing_same]
    · rfl
    · exact fun _ => rfl
  change ((s.fetched q).boot.stage == .ready && (decide (q < 64) && ((s.fetched q).ring q).enable
    && decide (0 < ((s.fetched q).ring q).free) && decide (((s.fetched q).ring q).finals.length < 256))) = _
  rw [hring]
  rfl

/-! ### Packets of peers and of the enclosure manager (R389, R524, R525) -/

theorem exec_peerCmd (i seq : Nat) (entry : BitVec 512) (s : State)
    (hb : s.canBring (cmdOf entry .peer 0 i seq 0 []).packet = true)
    (hnone : ∀ d ∈ s.arb.presented, d.packet.src ≠ .peer) :
    exec (.peerCmd i seq entry) s
      = .next ((s.took i 1 1).admitCommand (cmdOf entry .peer 0 i seq 0 []) fun s => s.present (cmdOf entry .peer 0 i seq 0 [])) := by
  have hfresh : s.arb.presented.any (fun d => d.packet.src == .peer && d.packet.ctx == i && d.packet.seq == seq) ≠ true := by
    rw [Ne, List.any_eq_true]
    rintro ⟨d, hd, hsame⟩
    simp only [Bool.and_eq_true, beq_iff_eq] at hsame
    exact hnone d hd hsame.1.1
  exact congrArg Host.Outcome.next ((if_neg fun h => Bool.false_ne_true (h.symm.trans hb)).trans (if_neg hfresh))

/-- Taking a command's cell leaves its context in service. -/
theorem State.took_canBring (s : State) (i seq : Nat) (entry : BitVec 512) (hready : s.boot.stage = .ready)
    (ho : (s.ctx i).state = .opened) : (s.took i 1 1).canBring (cmdOf entry .peer 0 i seq 0 []).packet = true := by
  have hopen : ((s.took i 1 1).ctx i).state = .opened := (Ctx.state_of_bare (s.modCls_bare i i 1 _)).trans ho
  change ((s.took i 1 1).boot.stage == .ready && ((s.took i 1 1).ctx i).state == .opened) = true
  rw [hopen, show (s.took i 1 1).boot.stage = .ready from hready]
  rfl

/-- What the data-in buffer holds under a TAG is the data of its packet. -/
theorem exec_mgmtCommand (tag : BitVec 8) (entry : BitVec 512) (data : List Byte) (s : State)
    (hdata : s.mgmt.dataIn = some (tag, data)) :
    exec (.mgmtCommand tag entry) s
      = .next (s.admitCommand (cmdOf entry .mgmt 0 0 0 tag data) fun s => s.present (cmdOf entry .mgmt 0 0 0 tag data)) := by
  refine congrArg Host.Outcome.next ?_
  simp only [State.mgmtCommand, hdata, if_true]

theorem exec_mgmtCommand_someData (tag : BitVec 8) (entry : BitVec 512) (s : State) :
    ∃ data, exec (.mgmtCommand tag entry) s
      = .next (s.admitCommand (cmdOf entry .mgmt 0 0 0 tag data) fun s => s.present (cmdOf entry .mgmt 0 0 0 tag data)) :=
  ⟨_, rfl⟩

theorem State.canBring_mgmt (s : State) (c : Packet) (hsrc : c.src = .mgmt) (hready : s.boot.stage = .ready) :
    s.canBring c = true := by
  simp only [State.canBring, hsrc, hready, beq_self_eq_true, Bool.and_self]

/-! ### The rows that fetch -/

theorem exec_commandFetch_otherTurn (q : Nat) (entry : BitVec 512) (data : List Byte) (s : State) (h : s.nextRing ≠ some q) :
    exec (.commandFetch q entry data) s = .next s := congrArg Host.Outcome.next (if_pos (.inl h))

theorem exec_commandFetch (q : Nat) (entry : BitVec 512) (data : List Byte) (s : State)
    (hb : s.canBring (cmdOf entry .host q 0 0 0 data).packet = true) (h : s.nextRing = some q) :
    exec (.commandFetch q entry data) s
      = .next ((s.fetched q).admitCommand (cmdOf entry .host q 0 0 0 data) fun s =>
          (s.readBuffer (cmdOf entry .host q 0 0 0 data)).present (cmdOf entry .host q 0 0 0 data)) := by
  refine congrArg Host.Outcome.next (if_neg ?_)
  rintro (hturn | hno)
  · exact hturn h
  · exact Bool.false_ne_true (hno.symm.trans hb)

/-! ### The arbitration cycle (R470, R471) -/

/-- A command that loses to the one with CSN `w`. -/
def State.supersede (s : State) (c : Cmd) (k w : Nat) : State :=
  (s.modArb fun a => { a with superseded := satAdd 12 a.superseded 1 }).finish c k { status := 0x4001, result := w }

/-- What a command of a cycle comes to, under its CSN: it is carried out, or it loses to another. -/
def State.takeFate (s : State) (f : (Cmd × Nat) × Option Nat) : State :=
  if s.boot.stage ≠ .ready then s
  else
    let s := s.modArb fun a => { a with lastCsn := f.1.2 }
    match f.2 with
    | some w => s.supersede f.1.1 f.1.2 w
    | none => s.execute f.1.1 f.1.2

theorem State.takeFate_loses (s : State) (c : Cmd) (k w : Nat) (h : s.boot.stage = .ready) :
    s.takeFate ((c, k), some w) = (s.modArb fun a => { a with lastCsn := k }).supersede c k w :=
  if_neg (not_not_intro h)

theorem State.takeFate_wins (s : State) (c : Cmd) (k : Nat) (h : s.boot.stage = .ready) :
    s.takeFate ((c, k), none) = (s.modArb fun a => { a with lastCsn := k }).execute c k :=
  if_neg (not_not_intro h)

theorem State.arbitrate_eq (s : State) (cmds left : List Cmd) (hready : s.boot.stage = .ready)
    (h : takeLanes s.arb.presented [] = (cmds, left)) :
    s.arbitrate = ((withCsns cmds s.nextCsn).map fun q => (q, s.winner (withCsns cmds s.nextCsn) q.1)).foldl State.takeFate
      (s.modArb fun a => { a with presented := left }) := by
  simp only [State.arbitrate, hready, h, ne_eq, not_true_eq_false, if_false]
  rfl

/-- No command contradicts one of its own sender. -/
theorem State.contradict_self (s : State) (c : Cmd) : s.contradict c c = false := by
  rw [State.contradict, bne_self_eq_false, Bool.false_and, Bool.false_and, Bool.false_and]

/-- A command alone in its cycle takes the next CSN and is carried out. -/
theorem State.arbitrate_alone (s : State) (c : Cmd) (hready : s.boot.stage = .ready) (h : s.arb.presented = [c]) :
    s.arbitrate = (s.modArb fun a => { a with presented := [], lastCsn := s.nextCsn }).execute c s.nextCsn := by
  have hlanes : takeLanes s.arb.presented [] = ([c], []) := by rw [h]; rfl
  have hwinner : s.winner [(c, s.nextCsn)] c = none := by
    simp only [State.winner, List.find?, s.contradict_self, Bool.false_and, Option.map_none]
  rw [s.arbitrate_eq _ _ hready hlanes]
  simp only [withCsns, List.map_cons, List.map_nil, hwinner, List.foldl_cons, List.foldl_nil]
  exact State.takeFate_wins _ c s.nextCsn hready

section Pair
variable (s : State) (m h : Cmd) (hready : s.boot.stage = .ready) (hp : s.arb.presented = [m, h])
  (hm : m.packet.src = .mgmt) (hh : h.packet.src = .host)

include hm hh in
/-- The manager's command comes before a ring's. -/
theorem takeLanes_pair : takeLanes [m, h] [] = ([m, h], []) := by
  have hlm : m.lane = 0 := by simp only [Cmd.lane, hm]
  have hlh : h.lane = 1 + h.packet.ring := by simp only [Cmd.lane, hh]
  have hne : (m.lane == h.lane) = false := beq_eq_false_iff_ne.2 (by omega)
  have hafter : ¬ h.lane < m.lane := by omega
  simp only [takeLanes, List.any_nil, insertLane, List.any_cons, hne, Bool.or_false, hafter, if_false, Bool.false_eq_true]

include hm hh in
/-- The host's command wins but where the manager's or the host's is one that the manager wins. -/
theorem State.beats_pair :
    (s.beats m h = (m.managerWins || h.managerWins)) ∧ (s.beats h m = !(m.managerWins || h.managerWins)) := by
  have hcomm : (h.managerWins || m.managerWins) = (m.managerWins || h.managerWins) := Bool.or_comm _ _
  simp only [State.beats, hm, hh, hcomm]
  cases (m.managerWins || h.managerWins) <;> exact ⟨rfl, rfl⟩

include hready hp hm hh in
/-- A cycle of the manager's command and one of the host. -/
theorem State.arbitrate_pair (hlast : s.arb.lastCsn < 2 ^ 32 - 2) :
    s.arbitrate = (((s.modArb fun a => { a with presented := [] }).takeFate
      ((m, s.arb.lastCsn + 1), s.winner [(m, s.arb.lastCsn + 1), (h, s.arb.lastCsn + 1 + 1)] m)).takeFate
        ((h, s.arb.lastCsn + 1 + 1), s.winner [(m, s.arb.lastCsn + 1), (h, s.arb.lastCsn + 1 + 1)] h)) := by
  have hlanes : takeLanes s.arb.presented [] = ([m, h], []) := by rw [hp, takeLanes_pair m h hm hh]
  have hnext : s.nextCsn = s.arb.lastCsn + 1 := if_neg (by omega)
  have hlater : ¬ s.arb.lastCsn + 1 = 2 ^ 32 - 1 := by omega
  rw [s.arbitrate_eq _ _ hready hlanes, hnext]
  simp only [withCsns, hlater, if_false, List.map_cons, List.map_nil, List.foldl_cons, List.foldl_nil]

variable (hmh : s.contradict m h = true) (hhm : s.contradict h m = true)
include hm hh hmh hhm

theorem State.winner_host (k : Nat) (h1 : m.managerWins = false) (h2 : h.managerWins = false) :
    s.winner [(m, k), (h, k + 1)] m = some (k + 1) ∧ s.winner [(m, k), (h, k + 1)] h = none := by
  obtain ⟨hbm, hbh⟩ := s.beats_pair m h hm hh
  rw [h1, h2] at hbm hbh
  simp only [State.winner, List.find?, s.contradict_self, hmh, hhm, hbm, hbh, Bool.false_and, Bool.and_self, Bool.and_false,
    Bool.or_self, Bool.not_false, Option.map_some, Option.map_none, and_self]

theorem State.winner_mgmt (k : Nat) (h1 : m.managerWins = true ∨ h.managerWins = true) :
    s.winner [(m, k), (h, k + 1)] m = none ∧ s.winner [(m, k), (h, k + 1)] h = some k := by
  obtain ⟨hbm, hbh⟩ := s.beats_pair m h hm hh
  rw [Bool.or_eq_true_iff.2 h1] at hbm hbh
  simp only [State.winner, List.find?, s.contradict_self, hmh, hhm, hbm, hbh, Bool.false_and, Bool.and_self, Bool.and_false,
    Bool.not_true, Option.map_some, Option.map_none, and_self]

end Pair

end Sys2Proof.Machine
end

section
/-! The statement about the fetch, the checks and the arbitration of commands. -/

namespace Sys2Proof.Machine

/-- Settles O3: a fetched or received command by the first check that fails; a cycle of two by whose command wins. -/
theorem arbitration : Obligations.Arbitration := by
  unfold Obligations.Arbitration
  refine ⟨⟨?fetch, fun s q entry data h => exec_commandFetch_otherTurn q entry data s h⟩, ⟨?alone, ?pair⟩, ?peer, ?mgmt, ?busy⟩
  case fetch =>
    intro s q entry data c r f b hb hturn
    have hbf : f.canBring c.packet = true := (s.fetched_canBring q entry data).trans hb
    have hexec := exec_commandFetch q entry data s hb hturn
    exact ⟨fun hp => hexec.trans (congrArg _ (State.admitCommand_passes f c _ hbf rfl nofun hp)),
      fun hp => hexec.trans (congrArg _ (State.admitCommand_refused f c _ hbf rfl nofun hp))⟩
  case alone =>
    intro s c hready hp
    exact congrArg Host.Outcome.next (s.arbitrate_alone c hready hp)
  case pair =>
    intro s m h hready hp hm hh hmh hhm hlast n b lose
    have hpair := s.arbitrate_pair m h hready hp hm hh hlast
    have hfirst : (s.modArb fun a => { a with presented := [] }).boot.stage = .ready := hready
    refine ⟨fun h1 h2 hstill => ?hostWins, fun h1 hstill => ?mgmtWins⟩
    case hostWins =>
      obtain ⟨hwm, hwh⟩ := s.winner_host m h hm hh hmh hhm n h1 h2
      rw [hwm, hwh, State.takeFate_loses _ m n (n + 1) hfirst] at hpair
      exact congrArg Host.Outcome.next (hpair.trans (State.takeFate_wins _ h (n + 1) hstill))
    case mgmtWins =>
      obtain ⟨hwm, hwh⟩ := s.winner_mgmt m h hm hh hmh hhm n h1
      rw [hwm, hwh, State.takeFate_wins _ m n hfirst] at hpair
      exact congrArg Host.Outcome.next (hpair.trans (State.takeFate_loses _ h (n + 1) n hstill))
  case peer =>
    intro s i seq entry c hready ho hnone hdone hp
    have hb : s.canBring c.packet = true := by
      change (s.boot.stage == .ready && (s.ctx i).state == .opened) = true
      rw [hready, ho]
      rfl
    have hr : (s.took i 1 1).repeated c.packet = none := by
      change (if c.packet.src = .peer then (s.arb.peerDone.find? _).map _ else none) = none
      rw [hdone]
      rfl
    exact (exec_peerCmd i seq entry s hb hnone).trans
      (congrArg _ (State.admitCommand_passes _ c _ (s.took_canBring i seq entry hready ho) hr nofun hp))
  case mgmt =>
    intro s tag entry data c b hready hdata hroom hp
    exact (exec_mgmtCommand tag entry data s hdata).trans
      (congrArg _ (s.admitCommand_passes c _ (s.canBring_mgmt _ rfl hready) rfl (fun _ => hroom) hp))
  case busy =>
    intro s tag entry hready hfull
    obtain ⟨data, hexec⟩ := exec_mgmtCommand_someData tag entry s
    rw [s.admitCommand_busy _ _ (s.canBring_mgmt _ rfl hready) rfl hfull] at hexec
    exact ⟨_, hexec, rfl, rfl, _, rfl, rfl, rfl⟩

end Sys2Proof.Machine
end

section
/-! SUPPORT. Rules of training, of link control words, of a port's timers and of its failures (R364, R365, R369 to R374, R390). -/

namespace Sys2Proof.Machine

/-! ### Training (R364, R365) -/

section Training
variable (s : State) (p : Nat) (ht : (s.port p).state = .training)
include ht

theorem exec_trainingPhaseDone_first (h : (s.port p).phase = 1) :
    exec (.trainingPhaseDone p) s = .next (s.modPort p fun x => { x with phase := 2 }) := by
  change execTrainingPhaseDone p s = _
  simp only [execTrainingPhaseDone, ht, h]
  exact congrArg Host.Outcome.next (s.modPort_congr _ _ _ (by simp only [h]; rfl))

/-- In T2 the receiver chooses PRECODE, a free value. -/
theorem exec_trainingPhaseDone_second (h : (s.port p).phase = 2) :
    exec (.trainingPhaseDone p) s = .next ({ s with freeCtr := s.freeCtr + 1 }.modPort p fun x =>
      { x with phase := 3, precode := (Config.freeValue s.freeCtr).getLsbD 0 }) := by
  change execTrainingPhaseDone p s = _
  simp only [execTrainingPhaseDone, ht, h]
  have hport : ({ s with freeCtr := s.freeCtr + 1 } : State).port p = s.port p := rfl
  exact congrArg Host.Outcome.next (State.modPort_congr { s with freeCtr := s.freeCtr + 1 } _ _ _
    (by simp only [hport, h, if_true]; rfl))

/-- T4 begins with LIVE and the grants of credits. -/
theorem exec_trainingPhaseDone_third (h : (s.port p).phase = 3) :
    exec (.trainingPhaseDone p) s
      = .next (((s.modPort p fun x => { x with phase := 4 }).sendLive p).grantLink p) := by
  change execTrainingPhaseDone p s = _
  simp only [execTrainingPhaseDone, ht, h]
  exact congrArg (fun t : State => Host.Outcome.next ((t.sendLive p).grantLink p))
    (s.modPort_congr _ _ _ (by simp only [h]; rfl))

/-- A failed training begins again; the third in a row leaves the port FAILED. -/
theorem exec_trainingTimeout_training :
    exec (.trainingTimeout p) s
      = .next ((s.portLife p fun l => { l with trainFails := satAdd 32 l.trainFails 1 }).modPort p fun x =>
          if x.trainFails < 2 then { x with trainFails := x.trainFails + 1, phase := 1 }
          else { x with trainFails := 3, phase := 0, state := .failed, retrain := false }) := by
  refine congrArg Host.Outcome.next ((if_pos ht).trans ?_)
  exact congrArg (State.modPort _ p) (funext fun x => if_congr (by omega) rfl rfl)

end Training

theorem exec_training_other (s : State) (p : Nat) (h : (s.port p).state ≠ .training) :
    exec (.trainingPhaseDone p) s = .next s ∧ exec (.trainingTimeout p) s = .next s :=
  ⟨congrArg Host.Outcome.next (if_pos (.inl h)), congrArg Host.Outcome.next (if_neg h)⟩

theorem exec_downRetrain_down (s : State) (p : Nat) (h : (s.port p).state = .down) :
    exec (.downRetrain p) s = .next (s.startTraining p) := congrArg Host.Outcome.next (if_pos h)

/-! ### Link control words (R369 to R373, R390) -/

section Words
variable (s : State) (p : Nat) (word : BitVec 256) (lctype top : Nat) (eff : State → Nat → State)
  (hlink : (s.port p).state = .up ∨ ((s.port p).state = .training ∧ (s.port p).phase = 4))
include hlink

/-- A word on a link that carries words: its check words, its fields, its hop acknowledgement, its effect. -/
theorem State.controlWord_linked :
    s.controlWord p word lctype top eff
      = if !wordSound word.toNat then s
        else if !wordFields word.toNat lctype top then s.modMlv fun m => { m with hdrErr := satAdd 16 m.hdrErr 1 }
        else eff (if bit word.toNat 3 then s.lackCells p (bits word.toNat 27 16) else s) word.toNat := by
  refine if_neg ?_
  rintro ⟨hup, htrain⟩
  exact hlink.elim hup htrain

theorem State.controlWord_unsound (h : wordSound word.toNat = false) : s.controlWord p word lctype top eff = s := by
  rw [s.controlWord_linked p word lctype top eff hlink, h]
  rfl

theorem State.controlWord_badFields (h : wordSound word.toNat = true) (hf : wordFields word.toNat lctype top = false) :
    s.controlWord p word lctype top eff = s.modMlv fun m => { m with hdrErr := satAdd 16 m.hdrErr 1 } := by
  rw [s.controlWord_linked p word lctype top eff hlink, h, hf]
  rfl

theorem State.controlWord_sound (h : wordSound word.toNat = true) (hf : wordFields word.toNat lctype top = true) :
    s.controlWord p word lctype top eff
      = eff (if bit word.toNat 3 then s.lackCells p (bits word.toNat 27 16) else s) word.toNat := by
  rw [s.controlWord_linked p word lctype top eff hlink, h, hf]
  rfl

/-- A sound word without a hop acknowledgement has its effect alone. -/
theorem State.controlWord_noLack (h : wordSound word.toNat = true) (hf : wordFields word.toNat lctype top = true)
    (hb : word.toNat.testBit 3 = false) : s.controlWord p word lctype top eff = eff s word.toNat := by
  rw [s.controlWord_sound p word lctype top eff hlink h hf, if_neg (ne_true_of_eq_false hb)]

end Words

theorem State.liveWord_up (s : State) (p w : Nat) (h : (s.port p).state = .up) :
    s.liveWord p w = s.modPort p fun x => { x with peerId := bits w 83 72, peerPort := bits w 94 87 } :=
  s.modPort_congr _ _ _ (if_neg fun ht => by rw [h] at ht; exact nomatch ht.1)

/-- The first LIVE of T4 brings the port UP. -/
theorem State.liveWord_training (s : State) (p w : Nat) (h : (s.port p).state = .training) (h4 : (s.port p).phase = 4) :
    s.liveWord p w = s.modPort p fun x =>
      { x with
        peerId := bits w 83 72, peerPort := bits w 94 87, state := .up, phase := 0, stalled := false, trainFails := 0
        retrain := false, retry := [], txLsn := 0, rxLsn := 0, lnakAt := none } :=
  s.modPort_congr _ _ _ (if_pos ⟨h, h4⟩)

/-! ### Timers and failures (R370, R371, R374) -/

section Timers
variable (s : State) (p : Nat)

theorem exec_timers_up (h : (s.port p).state = .up) :
    exec (.liveSend p) s = .next (s.sendLive p)
      ∧ exec (.lackSend p) s = .next (s.emit (.control p ((s.port p).controlFrame 2 0)))
      ∧ exec (.portDown p) s
        = .next ((((s.modPort p fun x => { x with state := .down }).countDown p).requeue p).modPort p Port.cleared) :=
  ⟨congrArg Host.Outcome.next (if_pos (.inl h)), congrArg Host.Outcome.next (if_pos h),
    congrArg Host.Outcome.next (if_pos h)⟩

/-- A port that is neither UP nor in training sends nothing on its timers and does not fail. -/
theorem exec_timers_out (hup : (s.port p).state ≠ .up) (ht : (s.port p).state ≠ .training) :
    exec (.liveSend p) s = .next s ∧ exec (.lackSend p) s = .next s ∧ exec (.portDown p) s = .next s
      ∧ exec (.portStall p) s = .next s :=
  ⟨congrArg Host.Outcome.next (if_neg (not_or.2 ⟨hup, fun h => ht h.1⟩)), congrArg Host.Outcome.next (if_neg hup),
    congrArg Host.Outcome.next (if_neg hup), congrArg Host.Outcome.next (if_neg fun h => hup h.1)⟩

theorem exec_portStall_stalls (h : (s.port p).state = .up) (hs : (s.port p).stalled = false) (hr : (s.port p).retry ≠ []) :
    exec (.portStall p) s = .next (((s.modPort p fun x => { x with stalled := true }).countResend p).requeue p) :=
  congrArg Host.Outcome.next (if_pos ⟨h, hs, hr⟩)

theorem exec_stallRetrain_stalled (h : (s.port p).state = .up) (hs : (s.port p).stalled = true) :
    exec (.stallRetrain p) s = .next ((s.startTraining p).countDown p) := congrArg Host.Outcome.next (if_pos ⟨h, hs⟩)

theorem exec_stallRetrain_other (hs : (s.port p).stalled = false) : exec (.stallRetrain p) s = .next s :=
  congrArg Host.Outcome.next (if_neg fun h => Bool.false_ne_true (hs.symm.trans h.2))

end Timers

end Sys2Proof.Machine
end

section
/-! The statement about the ports. -/

namespace Sys2Proof.Machine

/-- Settles O41: training by its phase; a word by its check words, its fields and its hop acknowledgement; a timer by the port's
state. -/
theorem ports : Obligations.Ports := by
  unfold Obligations.Ports
  refine ⟨?training, ?words, ?timers⟩
  case training =>
    intro s p x
    refine ⟨exec_trainingPhaseDone_first s p, exec_trainingPhaseDone_second s p, exec_trainingPhaseDone_third s p,
      exec_trainingTimeout_training s p, exec_training_other s p, fun hd hf => ?trains, fun hd hf => ?fenced⟩
    case trains =>
      have hup : (s.port p).state ≠ .up := fun h => nomatch hd.symm.trans h
      rw [exec_downRetrain_down s p hd, s.startTraining_notUp p hf hup]
    case fenced => rw [exec_downRetrain_down s p hd, s.startTraining_selfFenced p hf]
  case words =>
    intro s p word hup w
    have hlink : (s.port p).state = .up ∨ ((s.port p).state = .training ∧ (s.port p).phase = 4) := .inl hup
    refine ⟨fun h => ?unsound, fun h hf => ?badFields, fun h hb => ⟨fun hf => ?live, fun hf => ?lack, fun hf => ?lnak,
      fun hf => ?lcredit⟩, fun h hb hf => ?acknowledges, fun t ht h4 h hb hf => ?firstLive⟩
    case unsound =>
      exact ⟨congrArg Host.Outcome.next (s.controlWord_unsound p word 1 105 _ hlink h),
        congrArg Host.Outcome.next (s.controlWord_unsound p word 2 72 _ hlink h),
        congrArg Host.Outcome.next (s.controlWord_unsound p word 3 84 _ hlink h),
        congrArg Host.Outcome.next (s.controlWord_unsound p word 4 112 _ hlink h)⟩
    case badFields => exact congrArg Host.Outcome.next (s.controlWord_badFields p word 1 105 _ hlink h hf)
    case live =>
      exact congrArg Host.Outcome.next ((s.controlWord_noLack p word 1 105 _ hlink h hf hb).trans (s.liveWord_up p w hup))
    case lack => exact congrArg Host.Outcome.next (s.controlWord_noLack p word 2 72 _ hlink h hf hb)
    case lnak => exact congrArg Host.Outcome.next (s.controlWord_noLack p word 3 84 _ hlink h hf hb)
    case lcredit => exact congrArg Host.Outcome.next (s.controlWord_noLack p word 4 112 _ hlink h hf hb)
    case acknowledges =>
      exact congrArg Host.Outcome.next ((s.controlWord_sound p word 2 72 _ hlink h hf).trans (if_pos hb))
    case firstLive =>
      exact congrArg Host.Outcome.next
        ((t.controlWord_noLack p word 1 105 _ (.inr ⟨ht, h4⟩) h hf hb).trans (t.liveWord_training p w ht h4))
  case timers =>
    intro s p x
    refine ⟨exec_timers_up s p, fun hd => exec_timers_out s p ?_ ?_, exec_portStall_stalls s p, exec_stallRetrain_stalled s p,
      exec_stallRetrain_other s p⟩
    · exact fun h => nomatch hd.symm.trans h
    · exact fun h => nomatch hd.symm.trans h

end Sys2Proof.Machine
end

section
/-! SUPPORT. Rules of the detection of losses, of a spare's takeover and of the end of a replay (R383, R432, R433, R437, R438, R449,
R450). -/

namespace Sys2Proof.Machine

/-! ### Losses (R383, R432, R433) -/

section Losses
variable (s : State) (i cls : Nat)

theorem exec_contextLost (ho : (s.ctx i).state = .opened) (hu : ((s.ctx i).cls cls).unacked ≠ []) :
    exec (.contextLost i cls) s = .next (s.ctxLost i) := congrArg Host.Outcome.next (if_pos ⟨ho, hu⟩)

/-- Nothing is lost on a context out of service, nor where every cell was acknowledged. -/
theorem exec_contextLost_not (h : (s.ctx i).state ≠ .opened ∨ ((s.ctx i).cls cls).unacked = []) :
    exec (.contextLost i cls) s = .next s :=
  congrArg Host.Outcome.next (if_neg fun hlost => h.elim (fun hn => hn hlost.1) fun hnone => hlost.2 hnone)

theorem exec_watchLost (ho : (s.ctx i).state = .opened) (hw : (s.ctx i).watch = true) :
    exec (.watchLost i) s = .next (s.ctxLost i) := congrArg Host.Outcome.next (if_pos ⟨ho, hw⟩)

theorem exec_watchLost_not (hw : (s.ctx i).watch = false) : exec (.watchLost i) s = .next s :=
  congrArg Host.Outcome.next (if_neg fun h => Bool.false_ne_true (hw.symm.trans h.2))

/-- A module that is not self-fenced begins a fence at the next generation. -/
theorem State.detectFence_begins (f : Nat) (h : s.recov.selfFenced = false) :
    s.detectFence f = s.moduleFence f (s.gen f + 1) none := if_neg (ne_true_of_eq_false h)

theorem exec_reopenTimeout_lost (hl : (s.ctx i).state = .lost) (hw : (s.ctx i).watch = false) (hf : s.recov.selfFenced = false) :
    exec (.reopenTimeout i) s = .next (s.moduleFence (s.ctx i).partner (s.gen (s.ctx i).partner + 1) none) :=
  congrArg Host.Outcome.next ((if_pos ⟨.inl hl, hw⟩).trans (s.detectFence_begins _ hf))

theorem exec_reopenTimeout_opened (ho : (s.ctx i).state = .opened) : exec (.reopenTimeout i) s = .next s := by
  refine congrArg Host.Outcome.next (if_neg ?_)
  rintro ⟨hl | hop, -⟩
  · exact nomatch ho.symm.trans hl
  · exact nomatch ho.symm.trans hop

/-- A failed Keeper makes the module name itself. -/
theorem exec_keeperFailure (k : Nat) (hk : k < 8) (hid : s.idAssigned = true) (hf : s.recov.selfFenced = false) :
    exec (.keeperFailure k) s = .next (s.moduleFence s.selfId (s.gen s.selfId + 1) none) :=
  congrArg Host.Outcome.next ((if_pos hk).trans ((if_pos hid).trans (s.detectFence_begins _ hf)))

end Losses

/-! ### A spare's takeover (R437, R438) -/

section Takeover
variable (s : State) (f g : Nat) (htaking : s.recov.taking = some (f, g))
include htaking

theorem exec_admitWaitExpiry_of :
    exec (.admitWaitExpiry f) s
      = .next (if s.recov.role = .taking ∧ f = f ∧ s.selfId ≠ f then s.takeId f else s) := by
  change execAdmitWaitExpiry f s = _
  simp only [execAdmitWaitExpiry, htaking]

theorem exec_takeoverBlocked_of :
    exec .takeoverBlocked s
      = .next (if s.recov.role = .taking ∧ s.selfId = f ∧ s.recov.pull = 0 then
          (s.modRecov fun r => { r with takeoverBlocked := true }).event 5 1 else s) := by
  change execTakeoverBlocked s = _
  simp only [execTakeoverBlocked, htaking]

end Takeover

/-- A peer's completion on an OPENED context is taken; the first to this spare's own admission settles it. -/
theorem exec_peerCpl (s : State) (i head : Nat) (ho : (s.ctx i).state = .opened) :
    exec (.peerCpl i head) s
      = .next (if (s.took i 1 1).recov.role = .taking ∧ (s.took i 1 1).recov.admitOn = some i ∧ bits head 47 40 = 0x51 then
          if bits head 15 12 = 4 then ((s.took i 1 1).modRecov fun r => { r with admitOn := none }).giveUpTakeover
          else (s.took i 1 1).modRecov fun r => { r with admitOn := none }
        else s.took i 1 1) := congrArg Host.Outcome.next (if_neg (not_not_intro ho))

/-! ### The end of a replay (R449, R450) -/

/-- The Keepers of a partition have formed every bucket of the replayed step. -/
def State.bucketsFormed (s : State) (p : Nat) : Bool :=
  (s.part p).keepers.all fun k => ((s.part p).bucketsOf k).all fun b =>
    bkPages b ≤ ((s.kpart k p).bucket (bkNum b)).sent.length

/-- The running replay has done its step: one of the whole herd has committed it, another has formed its buckets. -/
def State.replayDone (s : State) (p : Nat) : Bool :=
  if (s.part p).herdReplay then (s.part p).phase == .idle && (s.part p).version == s.recov.replayStep + 1
  else s.bucketsFormed p && !(s.part p).beforeFence

section Replay
variable (s : State) (csn p : Nat) (hcmd : s.recov.replayCmd = some (p, csn))
include hcmd

theorem exec_diagReplayEnd (c : Nat) :
    exec (.diagReplayEnd c) s
      = .next (if csn ≠ c ∨ s.replayDone p = false ∨ s.recov.record ≠ [] then s
          else (s.leaveReplay p (!s.recov.replayMismatch && !s.recov.replayMissed)).final c {}) := by
  refine congrArg Host.Outcome.next ?_
  simp only [State.endReplay, hcmd]
  rfl

/-- A replay that has done its step and recorded nothing more leaves its partition and completes. -/
theorem exec_diagReplayEnd_ends (hdone : s.replayDone p = true) (hrecord : s.recov.record = []) :
    exec (.diagReplayEnd csn) s
      = .next ((s.leaveReplay p (!s.recov.replayMismatch && !s.recov.replayMissed)).final csn {}) := by
  rw [exec_diagReplayEnd s csn p hcmd csn, if_neg]
  rintro (h | h | h)
  · exact h rfl
  · exact Bool.false_ne_true (h.symm.trans hdone)
  · exact h hrecord

theorem exec_diagReplayEnd_goesOn (h : s.replayDone p = false ∨ s.recov.record ≠ []) :
    exec (.diagReplayEnd csn) s = .next s := by rw [exec_diagReplayEnd s csn p hcmd csn, if_pos (.inr h)]

theorem exec_diagReplayEnd_other (c : Nat) (h : c ≠ csn) : exec (.diagReplayEnd c) s = .next s := by
  rw [exec_diagReplayEnd s csn p hcmd c, if_pos (.inl h.symm)]

end Replay

end Sys2Proof.Machine
end

section
/-! The statements about losses, takeover and replay, and the sums of a herd. -/

namespace Sys2Proof.Machine

/-- Settles O44: each row by its condition; a fence begins at the next generation. -/
theorem lossDetection : Obligations.LossDetection := by
  unfold Obligations.LossDetection
  intro s i cls c
  exact ⟨exec_contextLost s i cls, exec_contextLost_not s i cls, exec_watchLost s i, exec_watchLost_not s i,
    exec_reopenTimeout_lost s i, exec_reopenTimeout_opened s i, exec_keeperFailure s⟩

/-- Settles O45: by whose ID the spare has and what it has pulled; a completion by whether it answers this spare's own admission;
the end of a replay by whether its step is done. -/
theorem takeoverAndReplay : Obligations.TakeoverAndReplay := by
  unfold Obligations.TakeoverAndReplay
  refine ⟨?takeover, ?replay⟩
  case takeover =>
    intro s i head f g htaking hrole
    have hexpiry := exec_admitWaitExpiry_of s f g htaking
    have hblocked := exec_takeoverBlocked_of s f g htaking
    refine ⟨fun hid => hexpiry.trans (congrArg _ (if_pos ⟨hrole, rfl, hid⟩)),
      fun hid => hexpiry.trans (congrArg _ (if_neg fun h => h.2.2 hid)),
      fun hid hpull => hblocked.trans (congrArg _ (if_pos ⟨hrole, hid, hpull⟩)),
      fun hpull => hblocked.trans (congrArg _ (if_neg fun h => hpull h.2.2)), fun ho => ?completion⟩
    case completion =>
      intro b answered
      have hexec := exec_peerCpl s i head ho
      refine ⟨fun hr hadmit hop => hexec.trans (congrArg _ (if_pos ⟨hr, hadmit, hop⟩)),
        fun hother => hexec.trans (congrArg _ (if_neg ?_))⟩
      rintro ⟨-, hadmit, hop⟩
      exact hother.elim (fun h => h hop) fun h => h hadmit
  case replay =>
    intro s csn p hcmd x formed matched
    have halone (h : x.herdReplay = false) : s.replayDone p = (formed && !x.beforeFence) :=
      if_neg (ne_true_of_eq_false h)
    have hherd (h : x.herdReplay = true) : s.replayDone p = (x.phase == .idle && x.version == s.recov.replayStep + 1) :=
      if_pos h
    refine ⟨fun h hformed hpast hrecord => ?formed, fun hrecord => exec_diagReplayEnd_goesOn s csn p hcmd (.inr hrecord),
      fun h hnot => ?forming, fun h hidle hversion hrecord => ?committed, fun h hnot => ?committing,
      fun c hc => exec_diagReplayEnd_other s csn p hcmd c hc⟩
    case formed =>
      exact exec_diagReplayEnd_ends s csn p hcmd (by rw [halone h, hformed, hpast]; rfl) hrecord
    case forming =>
      refine exec_diagReplayEnd_goesOn s csn p hcmd (.inl ?_)
      rw [halone h, Bool.and_eq_false_iff, Bool.not_eq_false']
      exact hnot
    case committed =>
      refine exec_diagReplayEnd_ends s csn p hcmd ?_ hrecord
      rw [hherd h, hidle, hversion, beq_self_eq_true, beq_self_eq_true, Bool.and_self]
    case committing =>
      refine exec_diagReplayEnd_goesOn s csn p hcmd (.inl ?_)
      rw [hherd h, Bool.and_eq_false_iff, beq_eq_false_iff_ne, beq_eq_false_iff_ne]
      exact hnot

/-- Settles O19: a sum by whether its fields fit a partition of the herd. -/
theorem herdSums : Obligations.HerdSums := by
  unfold Obligations.HerdSums
  intro s i head data ho step kind n up bytes recs upOk down r downOk
  have hup : s.sumUpArrives i head data = match up.herdPart (bits head 47 40) upOk with
      | none => up.msgError i
      | some p =>
        State.childPost (roundApply kind) up p step kind (((up.part p).rankOf (up.ctx i).partner).getD 0) recs :=
    if_neg (not_not_intro ho)
  have hdown : s.sumDownArrives i head = match down.herdPart (bits head 47 40) downOk with
      | none => down.msgError i
      | some p => State.takeResult (roundApply kind) down p r := if_neg (not_not_intro ho)
  refine ⟨fun p hp => ?childFits, fun hp => ?childUnfit, fun p hp => ?parentFits, fun hp => ?parentUnfit⟩
  case childFits => exact congrArg Host.Outcome.next (hup.trans (by rw [hp]))
  case childUnfit => exact congrArg Host.Outcome.next (hup.trans (by rw [hp]))
  case parentFits => exact congrArg Host.Outcome.next (hdown.trans (by rw [hp]))
  case parentUnfit => exact congrArg Host.Outcome.next (hdown.trans (by rw [hp]))

end Sys2Proof.Machine
end

section
/-! SUPPORT. What removing and forming a partition leaves, and rules of the commands of partitions, tables, data queues and contexts
(R380, R460, R465, R467, R497). -/

namespace Sys2Proof.Machine

/-! ### Events and leases (R465) -/

/-- The host's part of an event: it enters the ring of EVENT_CONFIG, or is counted as lost. -/
def State.eventToHost (s : State) (j : Nat) (c : Completion) : State :=
  if s.host.events.enable && s.host.events.mask.getLsbD j then
    if (s.postWaiting s.host.events.ring c).2 then (s.postWaiting s.host.events.ring c).1
    else { (s.postWaiting s.host.events.ring c).1 with
      host := { (s.postWaiting s.host.events.ring c).1.host with lostEvents := true } }
  else s

/-- The enclosure manager's part of an event: it enters the port's queue, or is counted as lost. -/
def State.eventToMgmt (s : State) (j : Nat) (c : Completion) : State :=
  if s.mgmt.events.enable && s.mgmt.events.mask.getLsbD j then
    if s.mgmt.queue.length < 64 then { s with mgmt := { s.mgmt with queue := s.mgmt.queue ++ [{ c with ring := 0 }] } }
    else { s with mgmt := { s.mgmt with eventsLost := satAdd 16 s.mgmt.eventsLost 1 } }
  else s

/-- An event is posted to the host and then to the enclosure manager. -/
theorem State.event_eq (s : State) (j result : Nat) : ∃ c, s.event j result = (s.eventToHost j c).eventToMgmt j c := ⟨_, rfl⟩

theorem State.eventToMgmt_same (s : State) (j : Nat) (c : Completion) :
    s.eventToMgmt j c = { s with mgmt := (s.eventToMgmt j c).mgmt } := by
  unfold State.eventToMgmt
  split
  · split <;> rfl
  · rfl

theorem State.eventToHost_same (s : State) (j : Nat) (c : Completion) :
    s.eventToHost j c = { s with host := (s.eventToHost j c).host, out := (s.eventToHost j c).out } := by
  unfold State.eventToHost
  split
  · rw [State.postWaiting_same]
    split <;> rfl
  · rfl

/-- An event changes the host interface, the port and the outputs alone. -/
theorem State.event_same (s : State) (j result : Nat) :
    s.event j result
      = { s with host := (s.event j result).host, mgmt := (s.event j result).mgmt, out := (s.event j result).out } := by
  obtain ⟨c, hc⟩ := s.event_eq j result
  rw [hc, State.eventToMgmt_same, State.eventToHost_same]

theorem State.postWaiting_queues (s : State) (q : Nat) (c : Completion) :
    (s.postWaiting q c).1.host.queues = s.host.queues := by
  unfold State.postWaiting
  dsimp only
  split
  · rfl
  · split
    · rfl
    · split <;> rfl

theorem State.event_queues (s : State) (j result : Nat) : (s.event j result).host.queues = s.host.queues := by
  obtain ⟨c, hc⟩ := s.event_eq j result
  rw [hc, State.eventToMgmt_same]
  change (s.eventToHost j c).host.queues = _
  unfold State.eventToHost
  split
  · split <;> exact s.postWaiting_queues _ c
  · rfl

theorem State.setHolder_same (s : State) (r w : Nat) : s.setHolder r w = { s with arb := (s.setHolder r w).arb } := by
  unfold State.setHolder
  split_ifs <;> rfl

theorem State.setHolder_holder (s : State) (r w : Nat) (hr : r < 8) : (s.setHolder r w).holder r = w := by
  rw [State.setHolder, if_pos hr, State.holder, if_pos hr]
  exact sget_sset_same _ _ _ _

/-- A change of a lease changes the arbiter, and what its event changes. -/
theorem State.changeLease_same (s : State) (r w : Nat) :
    s.changeLease r w
      = { s with
          arb := (s.changeLease r w).arb, host := (s.changeLease r w).host, mgmt := (s.changeLease r w).mgmt
          out := (s.changeLease r w).out } := by
  unfold State.changeLease State.giveLease
  split
  · rfl
  · rw [State.event_same, State.setHolder_same]

theorem State.changeLease_holder (s : State) (r w : Nat) (hr : r < 8) : (s.changeLease r w).holder r = w := by
  unfold State.changeLease State.giveLease
  split
  · assumption
  · rw [State.event_same]
    exact s.setHolder_holder r w hr

theorem State.changeLease_queues (s : State) (r w : Nat) : (s.changeLease r w).host.queues = s.host.queues := by
  unfold State.changeLease State.giveLease
  split
  · rfl
  · rw [State.event_queues, State.setHolder_same]

/-! ### Removing what a partition holds (R467) -/

/-- The partition's state at every Keeper is gone. -/
def State.clearKeepers (s : State) (p : Nat) : State := s.forAll (List.range 8) fun s k => s.modKpr k fun y => y.setPart p {}

theorem State.kpart_forgotten (s : State) (l : List Nat) (p k : Nat) :
    (s.forAll l fun s k => s.modKpr k fun y => y.setPart p {}).kpart k p = if k ∈ l then {} else s.kpart k p := by
  have hone (s : State) (j : Nat) :
      (s.modKpr j fun y => y.setPart p {}).kpart k p = if k = j then {} else s.kpart k p := by
    rw [State.kpart, State.kpr_modKpr]
    split
    · exact sget_sset_same _ _ _ _
    · rfl
  unfold State.forAll
  induction l generalizing s with
  | nil => rfl
  | cons j l ih =>
    rw [List.foldl_cons, ih, hone]
    by_cases hl : k ∈ l
    · rw [if_pos hl, if_pos (List.mem_cons_of_mem j hl)]
    · simp only [List.mem_cons, or_false, hl, if_false]

theorem State.clearKeepers_same (s : State) (p : Nat) : s.clearKeepers p = { s with kprs := (s.clearKeepers p).kprs } :=
  State.forAll_induction (fun t => t = { s with kprs := t.kprs }) s _ _ rfl fun t i ht => by
    rw [ht]
    rfl

theorem State.clearKeepers_kpart (s : State) (p k : Nat) (hk : k < 8) : (s.clearKeepers p).kpart k p = {} :=
  (s.kpart_forgotten (List.range 8) p k).trans (if_pos (List.mem_range.2 hk))

theorem State.clearPart_same (s : State) (p : Nat) :
    s.clearPart p
      = { s.clearKeepers p with stations := (s.clearPart p).stations, net := (s.clearPart p).net } := by
  have hkeepers : (s.forAll (List.range 8) fun s k => s.modKpr k fun y => y.setPart p {}) = s.clearKeepers p := rfl
  unfold State.clearPart
  rw [hkeepers]
  generalize s.clearKeepers p = t
  rfl

theorem State.clearRegs_same (s : State) (p : Nat) : s.clearRegs p = { s with hbm := (s.clearRegs p).hbm } :=
  State.forAll_induction (fun t => t = { s with hbm := t.hbm }) s _ _ rfl fun t i ht => by
    rw [ht]
    rfl

/-- What a partition holds at Keepers, at stations, in the networks and at the regulators is gone. -/
def State.cleared (s : State) (p : Nat) : State := (s.clearPart p).clearRegs p

/-- A removal changes Keepers, stations, networks and regulators alone. -/
theorem State.cleared_eq (s : State) (p : Nat) :
    ∃ stations net hbm, s.cleared p
      = { s with kprs := (s.clearKeepers p).kprs, stations := stations, net := net, hbm := hbm } := by
  refine ⟨(s.clearPart p).stations, (s.clearPart p).net, (s.cleared p).hbm, ?_⟩
  have hpart := s.clearPart_same p
  have hregs := (s.clearPart p).clearRegs_same p
  rw [s.clearKeepers_same p] at hpart
  rw [State.cleared, hregs]
  generalize (s.clearPart p).clearRegs p = t
  rw [hpart]

theorem State.kpart_congr {s t : State} (h : s.kprs = t.kprs) (k p : Nat) : s.kpart k p = t.kpart k p := by
  rw [State.kpart, State.kpr, h, ← State.kpr, ← State.kpart]

theorem State.cleared_kpart (s : State) (p k : Nat) (hk : k < 8) : (s.cleared p).kpart k p = {} := by
  obtain ⟨stations, net, hbm, h⟩ := s.cleared_eq p
  have hkprs : (s.cleared p).kprs = (s.clearKeepers p).kprs := by rw [h]
  rw [State.kpart_congr hkprs, s.clearKeepers_kpart p k hk]

theorem State.cleared_others (s : State) (p : Nat) :
    (s.cleared p).parts = s.parts ∧ (s.cleared p).host = s.host ∧ (s.cleared p).arb = s.arb
      ∧ (s.cleared p).fields = s.fields ∧ (s.cleared p).mlv = s.mlv := by
  obtain ⟨stations, net, hbm, h⟩ := s.cleared_eq p
  rw [h]
  exact ⟨rfl, rfl, rfl, rfl, rfl⟩

@[simp] theorem State.cleared_frame (s : State) (p : Nat) : (s.cleared p).frame = s.frame := by simp [State.cleared]

theorem State.part_congr {s t : State} (h : s.parts = t.parts) (q : Nat) : s.part q = t.part q := by
  rw [State.part, h, ← State.part]

/-! ### A partition as a command leaves it (R465, R467) -/

/-- The partition is `x`, and its lease is `w`'s. -/
def State.formAs (s : State) (p : Nat) (x : Part) (w : Nat) : State := (s.setPart p x).changeLease p w

theorem State.formAs_others (s : State) (p w : Nat) (x : Part) :
    (s.formAs p x w).parts = (s.setPart p x).parts ∧ (s.formAs p x w).kprs = s.kprs ∧ (s.formAs p x w).fields = s.fields
      ∧ (s.formAs p x w).mlv = s.mlv := by
  rw [State.formAs, State.changeLease_same]
  exact ⟨rfl, rfl, rfl, rfl⟩

theorem State.formAs_part (s : State) (p q w : Nat) (x : Part) :
    (s.formAs p x w).part q = if q = p then x else s.part q := by
  obtain ⟨hparts, -, -, -⟩ := s.formAs_others p w x
  rw [State.part_congr hparts, State.part_setPart]

theorem State.formAs_holder (s : State) (p w : Nat) (x : Part) (hp : p < 8) : (s.formAs p x w).holder p = w :=
  (s.setPart p x).changeLease_holder p w hp

theorem State.formAs_queues (s : State) (p w : Nat) (x : Part) : (s.formAs p x w).host.queues = s.host.queues :=
  (s.setPart p x).changeLease_queues p w

@[simp] theorem State.formAs_frame (s : State) (p w : Nat) (x : Part) : (s.formAs p x w).frame = s.frame := by
  simp [State.formAs]

/-! ### Dissolving a partition (R467, R497) -/

/-- The state with other links. -/
def State.withMlv (s : State) (m : Mlv) : State := { s with mlv := m }

theorem State.purge_kept (s : State) (i : Nat) (m : Mlv) : (s.purge i).withMlv m = s.withMlv m := by
  unfold State.purge
  exact State.forAll_keeps (·.withMlv m) s _ _ fun _ _ => rfl

/-- Closing the contexts of a plan changes the links alone. -/
theorem State.closePlanCtxs_kept (s : State) (p : Nat) (m : Mlv) : (s.closePlanCtxs p).withMlv m = s.withMlv m := by
  unfold State.closePlanCtxs
  exact State.forAll_keeps (·.withMlv m) s _ _ fun t i => t.purge_kept i m

theorem State.closePlanCtxs_others (s : State) (p : Nat) :
    (s.closePlanCtxs p).parts = s.parts ∧ (s.closePlanCtxs p).fields = s.fields := by
  have h := s.closePlanCtxs_kept p s.mlv
  have hparts : ((s.closePlanCtxs p).withMlv s.mlv).parts = (s.withMlv s.mlv).parts := by rw [h]
  have hfields : ((s.closePlanCtxs p).withMlv s.mlv).fields = (s.withMlv s.mlv).fields := by rw [h]
  exact ⟨hparts, hfields⟩

/-- The partition is removed, its data queues and its lease with it; its fields have not gone off yet. -/
def State.emptied (s : State) (p : Nat) : State :=
  (((s.closePlanCtxs p).cleared p).modHost fun h => { h with queues := h.queues.filter fun q => q.1 / 64 ≠ p }).formAs p {} 0

/-- A dissolved partition is removed, and then those of its fields that wait for it go off. -/
theorem State.dissolve_eq (s : State) (p : Nat) :
    s.dissolve p = (s.part p).fields.foldl State.offWhenIdle (s.emptied p) := by
  obtain ⟨hcleared, -⟩ := (s.closePlanCtxs p).cleared_others p
  obtain ⟨hclosed, -⟩ := s.closePlanCtxs_others p
  have hpart : ((s.closePlanCtxs p).cleared p).part p = s.part p := State.part_congr (hcleared.trans hclosed) p
  rw [← hpart]
  rfl

/-- What is left of a partition that is removed: nothing; and what a removal leaves: the other partitions, the fields, the memories. -/
def State.Removed (s : State) (p : Nat) (u : State) : Prop :=
  u.part p = {} ∧ u.holder p = 0 ∧ (∀ q, q ≠ p → u.part q = s.part q) ∧ (∀ e ∈ u.host.queues, e.1 / 64 ≠ p)
    ∧ (∀ k, k < 8 → u.kpart k p = {}) ∧ u.fields = s.fields ∧ u.store = s.store ∧ u.hbm.mem = s.hbm.mem

theorem State.emptied_removed (s : State) (p : Nat) (hp : p < 8) : s.Removed p (s.emptied p) := by
  obtain ⟨hclosedParts, hclosedFields⟩ := s.closePlanCtxs_others p
  obtain ⟨hparts, -, -, hfields, -⟩ := (s.closePlanCtxs p).cleared_others p
  have hframe : (s.emptied p).frame = s.frame := by simp [State.emptied, State.modHost]
  have hpart (q : Nat) : (s.emptied p).part q = if q = p then {} else s.part q := by
    rw [State.emptied, State.formAs_part]
    exact if_congr Iff.rfl rfl (State.part_congr (hparts.trans hclosedParts) q)
  obtain ⟨-, hkprs, hformFields, -⟩ := State.formAs_others
    (((s.closePlanCtxs p).cleared p).modHost fun h => { h with queues := h.queues.filter fun q => q.1 / 64 ≠ p }) p 0 {}
  refine ⟨(hpart p).trans (if_pos rfl), State.formAs_holder _ p 0 {} hp, fun q hq => (hpart q).trans (if_neg hq), ?queues,
    fun k hk => ?keepers, hformFields.trans (hfields.trans hclosedFields), congrArg Frame.store hframe,
    congrArg Frame.hbm hframe⟩
  case queues =>
    rw [State.emptied, State.formAs_queues]
    exact fun e he => of_decide_eq_true (List.mem_filter.1 he).2
  case keepers =>
    rw [State.emptied, State.kpart_congr hkprs]
    exact (s.closePlanCtxs p).cleared_kpart p k hk

/-! ### A held STEP_BEGIN of a partition that is formed again (R43) -/

theorem State.reply_wafer (s : State) (first : Bool) (dest k : Nat) (c : Cmd) (r : Res) :
    (s.reply first dest c k r).parts = s.parts ∧ (s.reply first dest c k r).fields = s.fields := by
  by_cases hp : c.packet.src = .peer
  · simp only [State.reply, hp, State.replyPeer, State.sendCpl]
    split <;> (rw [State.send_same]; exact ⟨rfl, rfl⟩)
  · rw [s.reply_same first dest c k r hp]
    exact ⟨rfl, rfl⟩

theorem State.mgmtDone_wafer (s : State) (c : Cmd) : (s.mgmtDone c).parts = s.parts ∧ (s.mgmtDone c).fields = s.fields := by
  unfold State.mgmtDone
  split <;> exact ⟨rfl, rfl⟩

theorem State.final_wafer (s : State) (csn : Nat) (r : Res) :
    (s.final csn r).parts = s.parts ∧ (s.final csn r).fields = s.fields := by
  unfold State.final
  split
  · exact ⟨rfl, rfl⟩
  · dsimp only
    rw [(State.mgmtDone_wafer _ _).1, (State.mgmtDone_wafer _ _).2]
    split
    · exact ⟨rfl, rfl⟩
    · exact State.reply_wafer _ _ _ _ _ _

/-- A released hold changes its partition, of which the rows stay. -/
theorem State.releaseHold_others (s : State) (p : Nat) :
    (∀ q, q ≠ p → (s.releaseHold p).part q = s.part q) ∧ ((s.releaseHold p).part p).rows = (s.part p).rows
      ∧ (s.releaseHold p).fields = s.fields := by
  unfold State.releaseHold
  split
  · exact ⟨fun _ _ => rfl, rfl, rfl⟩
  · dsimp only
    refine ⟨fun q hq => (State.part_congr (State.final_wafer _ _ _).1 q).trans ?_,
      (congrArg Part.rows (State.part_congr (State.final_wafer _ _ _).1 p)).trans ?_, (State.final_wafer _ _ _).2.trans ?_⟩
    · refine (State.forAll_keeps (fun t => t.part q) _ _ _ ?_).trans ?_
      · exact fun _ _ => rfl
      · rw [State.part_modPart, if_neg hq]
    · refine (State.forAll_keeps (fun t => (t.part p).rows) _ _ _ ?_).trans ?_
      · exact fun _ _ => rfl
      · rw [State.part_modPart_same]
    · exact State.forAll_keeps (fun t => t.fields) _ _ _ fun _ _ => rfl

/-! ### The rows (R380, R467) -/

theorem exec_partCreate (c : Packet) (s : State) : exec (.partCreate c) s = .next (runCommand catPartCreate.opcode c s) := rfl

theorem exec_partDissolve (c : Packet) (s : State) : exec (.partDissolve c) s = .next (runCommand catPartDissolve.opcode c s) := rfl

theorem parP_lt (n : Nat) : parP n < 8 := Nat.mod_lt _ (by decide)

theorem State.began_others (s : State) (c : Packet) :
    (s.began c).parts = s.parts ∧ (s.began c).fields = s.fields ∧ (s.began c).mlv = s.mlv := by
  rw [State.began_same]
  exact ⟨rfl, rfl, rfl⟩

@[simp] theorem State.began_frame (s : State) (c : Packet) : (s.began c).frame = s.frame := by
  rw [State.began_same]
  rfl

theorem State.finish_others (s : State) (c : Cmd) (k : Nat) (r : Res) (h : c.packet.src ≠ .peer) :
    (s.finish c k r).parts = s.parts ∧ (s.finish c k r).arb = s.arb ∧ (s.finish c k r).kprs = s.kprs
      ∧ (s.finish c k r).fields = s.fields ∧ (s.finish c k r).mlv = s.mlv := by
  rw [s.finish_same c k r h]
  exact ⟨rfl, rfl, rfl, rfl, rfl⟩

theorem State.holder_congr {s t : State} (h : s.arb = t.arb) (r : Nat) : s.holder r = t.holder r := by
  unfold State.holder
  rw [h]

/-- The partition that PART_CREATE forms. -/
def newPart (c : Packet) : Part := { formed := true, rows := BitVec.ofNat 8 (bits c.n 15 8) }

section PartCommands
variable (s : State) (c : Packet)

theorem exec_partCreate_unformed (hc : Passes catPartCreate c s) (hnot : (s.part (parP c.n)).formed = false) :
    exec (.partCreate c) s
      = .next ((((s.began c).cleared (parP c.n)).formAs (parP c.n) (newPart c) (srcHolder c.src)).finish ⟨0x10, c⟩ (s.csnOf c) {}) := by
  rw [exec_partCreate, runCommand_passes catPartCreate rfl c s hc]
  have hbegan : ¬ ((s.began c).part (parP c.n)).formed = true := by rw [State.began_part, hnot]; exact Bool.false_ne_true
  exact congrArg (fun t : State => Host.Outcome.next
    ((t.formAs (parP c.n) (newPart c) (srcHolder c.src)).finish ⟨0x10, c⟩ (s.csnOf c) {})) (if_neg hbegan)

theorem exec_partCreate_formed (hc : Passes catPartCreate c s) (hformed : (s.part (parP c.n)).formed = true) :
    exec (.partCreate c) s
      = .next (((((s.began c).releaseHold (parP c.n)).dissolve (parP c.n)).formAs (parP c.n) (newPart c) (srcHolder c.src)).finish
          ⟨0x10, c⟩ (s.csnOf c) {}) := by
  rw [exec_partCreate, runCommand_passes catPartCreate rfl c s hc]
  have hbegan : ((s.began c).part (parP c.n)).formed = true := by rw [State.began_part, hformed]
  exact congrArg (fun t : State => Host.Outcome.next
    ((t.formAs (parP c.n) (newPart c) (srcHolder c.src)).finish ⟨0x10, c⟩ (s.csnOf c) {})) (if_pos hbegan)

theorem exec_partDissolve_passes (hc : Passes catPartDissolve c s) :
    exec (.partDissolve c) s = .next (((s.began c).dissolve (parP c.n)).finish ⟨0x11, c⟩ (s.csnOf c) {}) := by
  rw [exec_partDissolve, runCommand_passes catPartDissolve rfl c s hc]
  rfl

end PartCommands

/-! ### Partitions after their commands -/

theorem Part.fields_congr {x y : Part} (h : x.rows = y.rows) : x.fields = y.fields := by
  rw [Part.fields, h, ← Part.fields]

/-- What is removed after a change that leaves the other partitions, the fields and the memories is removed from the state before. -/
theorem State.Removed.from_earlier {s t u : State} {p : Nat} (h : t.Removed p u) (hparts : ∀ q, q ≠ p → t.part q = s.part q)
    (hfields : t.fields = s.fields) (hframe : t.frame = s.frame) : s.Removed p u := by
  obtain ⟨hpart, hholder, hothers, hqueues, hkeepers, hf, hstore, hmem⟩ := h
  exact ⟨hpart, hholder, fun q hq => (hothers q hq).trans (hparts q hq), hqueues, hkeepers, hf.trans hfields,
    hstore.trans (congrArg Frame.store hframe), hmem.trans (congrArg Frame.hbm hframe)⟩

/-- A partition that PART_CREATE forms, and what it leaves. -/
theorem State.created_eq (s : State) (c : Packet) (hsrc : c.src ≠ .peer) (t : State)
    (ht : t = (((s.began c).cleared (parP c.n)).formAs (parP c.n) (newPart c) (srcHolder c.src)).finish ⟨0x10, c⟩ (s.csnOf c) {}) :
    t.part (parP c.n) = newPart c ∧ t.holder (parP c.n) = srcHolder c.src ∧ (∀ q, q ≠ parP c.n → t.part q = s.part q)
      ∧ (∀ k, k < 8 → t.kpart k (parP c.n) = {}) ∧ t.fields = s.fields ∧ t.store = s.store ∧ t.hbm.mem = s.hbm.mem
      ∧ t.mlv = s.mlv := by
  obtain ⟨hbParts, hbFields, hbMlv⟩ := s.began_others c
  obtain ⟨hcParts, -, -, hcFields, hcMlv⟩ := (s.began c).cleared_others (parP c.n)
  obtain ⟨-, hKprs, hFields, hMlv⟩ := ((s.began c).cleared (parP c.n)).formAs_others (parP c.n) (srcHolder c.src) (newPart c)
  obtain ⟨htParts, htArb, htKprs, htFields, htMlv⟩ := State.finish_others
    (((s.began c).cleared (parP c.n)).formAs (parP c.n) (newPart c) (srcHolder c.src)) ⟨0x10, c⟩ (s.csnOf c) {} hsrc
  rw [← ht] at htParts htArb htKprs htFields htMlv
  have hframe : t.frame = s.frame := by rw [ht]; simp
  have hpart (q : Nat) : t.part q = if q = parP c.n then newPart c else s.part q := by
    rw [State.part_congr htParts, State.formAs_part]
    exact if_congr Iff.rfl rfl (State.part_congr (hcParts.trans hbParts) q)
  refine ⟨(hpart _).trans (if_pos rfl), ?holder, fun q hq => (hpart q).trans (if_neg hq), fun k hk => ?keepers,
    htFields.trans (hFields.trans (hcFields.trans hbFields)), congrArg Frame.store hframe, congrArg Frame.hbm hframe,
    htMlv.trans (hMlv.trans (hcMlv.trans hbMlv))⟩
  case holder => rw [State.holder_congr htArb, State.formAs_holder _ _ _ _ (parP_lt c.n)]
  case keepers => rw [State.kpart_congr (htKprs.trans hKprs), State.cleared_kpart _ _ k hk]

/-- Removing a partition whose hold has been released. -/
theorem State.releaseHold_removed (s : State) (c : Packet) (p : Nat) (hp : p < 8) :
    s.Removed p (((s.began c).releaseHold p).emptied p) := by
  obtain ⟨hparts, -, hfields⟩ := (s.began c).releaseHold_others p
  refine (State.emptied_removed _ p hp).from_earlier (fun q hq => (hparts q hq).trans (s.began_part c q))
    (hfields.trans (s.began_others c).2.1) ?_
  rw [State.releaseHold_frame, State.began_frame]

theorem State.releaseHold_dissolve (s : State) (c : Packet) (p : Nat) :
    ((s.began c).releaseHold p).dissolve p
      = (s.part p).fields.foldl State.offWhenIdle (((s.began c).releaseHold p).emptied p) := by
  obtain ⟨-, hrows, -⟩ := (s.began c).releaseHold_others p
  rw [State.dissolve_eq, Part.fields_congr (hrows.trans (congrArg Part.rows (s.began_part c p)))]

/-! ### Tables and data queues (R460, R467) -/

theorem exec_tableLoad (c : Packet) (s : State) : exec (.tableLoad c) s = .next (runCommand catTableLoad.opcode c s) := rfl

theorem exec_dqCreate (c : Packet) (s : State) : exec (.dqCreate c) s = .next (runCommand catDqCreate.opcode c s) := rfl

theorem exec_dqDelete (c : Packet) (s : State) : exec (.dqDelete c) s = .next (runCommand catDqDelete.opcode c s) := rfl

section Tables
variable (s : State) (c : Packet) (hc : Passes catTableLoad c s)
include hc

/-- A pair without a fault enters the module's table store. -/
theorem exec_tableLoad_good (hgood : pairFault (c.bytes 8256) = none) :
    exec (.tableLoad c) s = .next
      ({ s.began c with
        hbm := { (s.began c).hbm with tables := sset [] (s.began c).hbm.tables (bits c.n 5 0) (c.bytes 8256) } }.finish
          ⟨0x14, c⟩ (s.csnOf c) {}) := by
  rw [exec_tableLoad, runCommand_passes catTableLoad rfl c s hc]
  simp only [catTableLoad, hgood]

theorem exec_tableLoad_bad (o : Nat) (hbad : pairFault (c.bytes 8256) = some o) :
    exec (.tableLoad c) s
      = .next ((s.began c).finish ⟨0x14, c⟩ (s.csnOf c) { status := 0x2004, result := o }) := by
  rw [exec_tableLoad, runCommand_passes catTableLoad rfl c s hc]
  simp only [catTableLoad, hbad]

end Tables

/-! ### Contexts after their commands (R380) -/

theorem State.purge_ctx (s : State) (i j : Nat) : (s.purge i).ctx j = s.ctx j := by
  unfold State.purge
  exact State.forAll_keeps (fun t => t.ctx j) s _ _ fun _ _ => rfl

/-- A context enters OPENING under its next incarnation, without classes of an earlier opening. -/
theorem State.openCtx_ctx (s : State) (i j : Nat) (hid : s.idAssigned = true) (hjoin : s.recov.awaitRejoin = false) :
    (s.openCtx i).ctx j
      = if j = i then
          { s.ctx i with
            state := .opening, incarnation := ((s.ctx i).incarnation + 1) % 65536, helloSent := false, helloSeen := false
            awaitHello := false, partnerCtx := 0, classes := (s.ctx i).freshClasses, violations := [] }
        else s.ctx j := by
  have hopens : ¬ (s.idAssigned = false ∨ s.recov.awaitRejoin = true) := by
    rw [hid, hjoin]
    decide
  rw [State.openCtx, if_neg hopens, State.ctx_modCtx, State.purge_ctx, State.purge_ctx]
  rfl

theorem State.closeCtx_ctx (s : State) (i j : Nat) :
    (s.closeCtx i).ctx j = if j = i then { incarnation := (s.ctx i).incarnation } else s.ctx j := by
  rw [State.closeCtx, State.ctx_modCtx, State.purge_ctx, State.purge_ctx]

theorem State.ctx_congr {s t : State} (h : s.mlv = t.mlv) (j : Nat) : s.ctx j = t.ctx j := by
  rw [State.ctx, h, ← State.ctx]

/-- One check passes where its status is 0. -/
theorem firstFail_single (ok : Bool) (n : Nat) (hn : n ≠ 0) (h : (firstFail [(ok, n)]).status = 0) : ok = true := by
  cases ok with
  | true => rfl
  | false => exact absurd h hn

theorem exec_ctxOpen (c : Packet) (s : State) : exec (.ctxOpen c) s = .next (runCommand catCtxOpen.opcode c s) := rfl

theorem exec_ctxClose (c : Packet) (s : State) : exec (.ctxClose c) s = .next (runCommand catCtxClose.opcode c s) := rfl

/-- The context as CTX_OPEN enters it, before it opens. -/
def Ctx.entered (x : Ctx) (n : Nat) : Ctx :=
  { incarnation := x.incarnation, kpr := bits n 14 12, partner := bits n 26 15, partnerKpr := bits n 29 27
    watch := bit n 30, snoop := bit n 31 }

section CtxCommands
variable (s : State) (c : Packet) (hsrc : c.src ≠ .peer)
include hsrc

theorem exec_ctxOpen_passes (hc : Passes catCtxOpen c s) : Answers (.ctxOpen c) s fun t => ∀ j,
    t.ctx j = if j = bits c.n 11 0 then
        { (s.ctx (bits c.n 11 0)).entered c.n with
          state := .opening, incarnation := ((s.ctx (bits c.n 11 0)).incarnation + 1) % 65536
          classes := ((s.ctx (bits c.n 11 0)).entered c.n).freshClasses }
      else s.ctx j := by
  have hctx (j : Nat) : (s.began c).ctx j = s.ctx j := State.ctx_congr (s.began_others c).2.2 j
  have hpre := firstFail_single _ _ (by decide) hc.2
  simp only [Bool.and_eq_true, Bool.not_eq_true'] at hpre
  obtain ⟨⟨⟨hid, hjoin⟩, -⟩, -⟩ := hpre
  refine ⟨(((s.began c).modCtx (bits c.n 11 0) (·.entered c.n)).openCtx (bits c.n 11 0)).finish ⟨0x15, c⟩ (s.csnOf c) {}, ?_,
    fun j => ?_⟩
  · rw [exec_ctxOpen, runCommand_passes catCtxOpen rfl c s hc]
    rfl
  · have hopen := ((s.began c).modCtx (bits c.n 11 0) (·.entered c.n)).openCtx_ctx (bits c.n 11 0) j hid hjoin
    rw [State.ctx_congr (State.finish_others _ ⟨0x15, c⟩ _ _ hsrc).2.2.2.2, hopen, State.ctx_modCtx_same, State.ctx_modCtx, hctx,
      hctx]
    split <;> rfl

theorem exec_ctxClose_passes (hc : Passes catCtxClose c s) (hshut : c.n.testBit 12 = false) :
    Answers (.ctxClose c) s fun t => ∀ j,
      t.ctx j = if j = bits c.n 11 0 then { incarnation := (s.ctx (bits c.n 11 0)).incarnation } else s.ctx j := by
  have hctx (j : Nat) : (s.began c).ctx j = s.ctx j := State.ctx_congr (s.began_others c).2.2 j
  refine ⟨((s.began c).closeCtx (bits c.n 11 0)).finish ⟨0x16, c⟩ (s.csnOf c) {}, ?_, fun j => ?_⟩
  · rw [exec_ctxClose, runCommand_passes catCtxClose rfl c s hc]
    exact congrArg (fun t : State => Host.Outcome.next (t.finish ⟨0x16, c⟩ (s.csnOf c) {}))
      (if_neg fun h => Bool.false_ne_true (hshut.symm.trans h.1))
  · rw [State.ctx_congr (State.finish_others _ ⟨0x16, c⟩ _ _ hsrc).2.2.2.2, State.closeCtx_ctx, hctx, hctx]

end CtxCommands

end Sys2Proof.Machine
end

section
/-! The statement about the commands of partitions, tables, data queues and contexts. -/

namespace Sys2Proof.Machine

/-- Settles O9: a partition is formed on what a removal leaves; each other command that passes has its row's effect, and its completion
leaves the contexts. -/
theorem partitionCommands : Obligations.PartitionCommands := by
  unfold Obligations.PartitionCommands
  refine ⟨?partitions, ?others⟩
  case partitions =>
    intro s c hsrc p k gone off
    refine ⟨fun hc hnot => ?forms, fun hc hformed => ?formsAgain, fun hc => ?dissolves⟩
    case forms => exact ⟨_, exec_partCreate_unformed s c hc hnot, s.created_eq c hsrc _ rfl⟩
    case formsAgain =>
      refine ⟨_, exec_partCreate_formed s c hc hformed, _, s.releaseHold_removed c p (parP_lt c.n), ?_⟩
      rw [s.releaseHold_dissolve c]
      rfl
    case dissolves =>
      have hremoved : s.Removed p ((s.began c).emptied p) := (State.emptied_removed _ p (parP_lt c.n)).from_earlier
        (fun q _ => s.began_part c q) (s.began_others c).2.1 (s.began_frame c)
      refine ⟨_, exec_partDissolve_passes s c hc, _, hremoved, ?_⟩
      rw [State.dissolve_eq, State.began_part]
      rfl
  case others =>
    intro s c hsrc b k n i
    refine ⟨fun hc hgood => ?table, fun off hc hbad => ?badTable, fun hc => ?queue, fun hc => ?noQueue, fun hc => ?opens,
      fun hc hshut => ?closes⟩
    case table => exact exec_tableLoad_good s c hc hgood
    case badTable => exact exec_tableLoad_bad s c hc off hbad
    case queue =>
      rw [exec_dqCreate, runCommand_passes catDqCreate rfl c s hc]
      rfl
    case noQueue =>
      rw [exec_dqDelete, runCommand_passes catDqDelete rfl c s hc]
      rfl
    case opens =>
      obtain ⟨t, hexec, hctx⟩ := exec_ctxOpen_passes s c hsrc hc
      have hi := (hctx i).trans (if_pos rfl)
      refine ⟨t, hexec, ?_⟩
      beta_reduce
      rw [hi]
      exact ⟨rfl, rfl, rfl, rfl, rfl, rfl, rfl, fun j hj => (hctx j).trans (if_neg hj)⟩
    case closes =>
      obtain ⟨t, hexec, hctx⟩ := exec_ctxClose_passes s c hsrc hc hshut
      exact ⟨t, hexec, (hctx i).trans (if_pos rfl), fun j hj => (hctx j).trans (if_neg hj)⟩

end Sys2Proof.Machine
end

section
/-! SUPPORT. What a step does with its queue, and rules of the doorbells and of ring 0's control register (R457 to R459). -/

namespace Sys2Proof.Machine

/-! ### One step -/

theorem step_front {c : Instr} {rest : List Instr} {s : State} (h : s.pending = c :: rest) :
    step s = exec c { s with pending := rest } := by
  simp only [step, h]

theorem step_idle {s : State} (h : s.pending = []) : step s = .next (idleTick s) := by
  simp only [step, h]

/-! ### Doorbells (R457 to R459) -/

theorem exec_cxlSqTail (q : Nat) (v : BitVec 32) (s : State) :
    exec (.cxlSqTail q v) s = .next (s.doorbell q (bits v.toNat 11 0) fun r => { r with sqTail := bits v.toNat 11 0 }) := rfl

theorem exec_cxlCqHead (q : Nat) (v : BitVec 32) (s : State) :
    exec (.cxlCqHead q v) s = .next (s.cqHead q (bits v.toNat 11 0)) := rfl

section Doorbell
variable (s : State) (q v : Nat) (f : Ring → Ring)

theorem State.doorbell_disabled (h : (s.ring q).enable = false) : s.doorbell q v f = s :=
  if_pos (.inr (.inr h))

variable (hready : s.boot.stage = .ready) (hq : q < 64) (hon : (s.ring q).enable = true)
include hready hq hon

theorem State.doorbell_enabled :
    s.doorbell q v f
      = if (s.ring q).entries ≤ v then s.modRing q fun r => { r with err := true } else s.modRing q f := by
  refine if_neg ?_
  rintro (hunserved | habove | hoff)
  · exact Bool.false_ne_true (hunserved.symm.trans (beq_iff_eq.2 hready))
  · exact Nat.not_lt.2 habove hq
  · exact Bool.false_ne_true (hoff.symm.trans hon)

theorem State.doorbell_below (h : v < (s.ring q).entries) : s.doorbell q v f = s.modRing q f :=
  (s.doorbell_enabled q v f hready hq hon).trans (if_neg (Nat.not_le.2 h))

theorem State.doorbell_above (h : (s.ring q).entries ≤ v) :
    s.doorbell q v f = s.modRing q fun r => { r with err := true } :=
  (s.doorbell_enabled q v f hready hq hon).trans (if_pos h)

end Doorbell

/-- A head that moves to `n`, past no more completions than there are, is `n`. -/
theorem Ring.head_moved (r : Ring) (n : Nat) (hhead : r.cqHead < r.entries) (hn : n < r.entries)
    (hused : (n + r.entries - r.cqHead) % r.entries ≤ r.used) :
    (r.cqHead + min ((n + r.entries - r.cqHead) % r.entries) r.used) % r.entries = n := by
  rw [Nat.min_eq_left hused, Nat.add_mod_mod, Nat.add_sub_cancel' (by omega), Nat.add_mod_right, Nat.mod_eq_of_lt hn]

/-! ### The control register of ring 0 (R459) -/

/-- What a write of its control register makes of ring 0. -/
def Ring.controlled (r : Ring) (v : Nat) : Ring :=
  if r.enable then { r with enable := v.testBit 0 }
  else if v.testBit 0 = false then { r with size := bits v 4 1, vector := bits v 10 5 }
  else if ringSizeOk (bits v 4 1) = false then { r with size := bits v 4 1, vector := bits v 10 5, err := true }
  else
    { enable := true, size := bits v 4 1, vector := bits v 10 5, sqb := r.sqb, cqb := r.cqb, err := r.err, finals := r.finals }

theorem exec_cxlRingCtl0Write (s : State) (v : BitVec 32) (hready : s.boot.stage = .ready) :
    exec (.cxlRingCtl0Write v) s = .next (s.modRing 0 fun r => r.controlled v.toNat) := by
  have hserved : ¬ s.cxlServed = false := by rw [State.cxlServed, hready]; decide
  exact congrArg Host.Outcome.next (if_neg hserved)

section Control
variable (r : Ring) (v : Nat)

theorem Ring.controlled_enabled (hon : r.enable = true) : r.controlled v = { r with enable := v.testBit 0 } := if_pos hon

variable (hoff : r.enable = false) (hset : v.testBit 0 = true)
include hoff hset

theorem Ring.controlled_disabled :
    r.controlled v
      = if ringSizeOk (bits v 4 1) = false then { r with size := bits v 4 1, vector := bits v 10 5, err := true }
        else
          { enable := true, size := bits v 4 1, vector := bits v 10 5, sqb := r.sqb, cqb := r.cqb, err := r.err
            finals := r.finals } :=
  (if_neg fun hon => Bool.false_ne_true (hoff.symm.trans hon)).trans
    (if_neg fun hclear => Bool.false_ne_true (hclear.symm.trans hset))

theorem Ring.controlled_starts (hlo : 4 ≤ bits v 4 1) (hhi : bits v 4 1 ≤ 12) :
    r.controlled v
      = { enable := true, size := bits v 4 1, vector := bits v 10 5, sqb := r.sqb, cqb := r.cqb, err := r.err
          finals := r.finals } := by
  have hok : ringSizeOk (bits v 4 1) = true := by rw [ringSizeOk, decide_eq_true hlo, decide_eq_true hhi]; rfl
  exact (r.controlled_disabled v hoff hset).trans (if_neg fun hno => Bool.false_ne_true (hno.symm.trans hok))

theorem Ring.controlled_refuses (hbad : bits v 4 1 < 4 ∨ 12 < bits v 4 1) :
    r.controlled v = { r with size := bits v 4 1, vector := bits v 10 5, err := true } := by
  have hno : ringSizeOk (bits v 4 1) = false := by
    rw [ringSizeOk, Bool.and_eq_false_iff, decide_eq_false_iff_not, decide_eq_false_iff_not]
    omega
  exact (r.controlled_disabled v hoff hset).trans (if_pos hno)

end Control

end Sys2Proof.Machine
end

section
/-! The statements about a step and its queue, and about the registers of the rings. -/

namespace Sys2Proof.Machine

/-- Settles O1: by the front of the queue. -/
theorem stepRunsFront : Obligations.StepRunsFront := by
  unfold Obligations.StepRunsFront
  exact ⟨fun c s => step_front (s := { s with pending := c :: s.pending }) rfl, fun s => step_idle⟩

/-- Settles O60: the front runs on the rest, and no command changes the queue. -/
theorem stepTakesFront : Obligations.StepTakesFront := by
  unfold Obligations.StepTakesFront
  intro c rest s t hfront hstep
  rw [step_front hfront] at hstep
  exact exec_pending hstep

/-- Settles O2: a doorbell by the ring and the index that it names; the control register by what it finds. -/
theorem ringRegisters : Obligations.RingRegisters := by
  unfold Obligations.RingRegisters
  refine ⟨?doorbells, ?control⟩
  case doorbells =>
    intro s q v hready hq n r
    refine ⟨fun hon hn => ?tail, fun hon hhead hn hused => ?head, fun hon hn => ⟨?tailErr, ?headErr⟩, fun hoff => ⟨?tailOff, ?headOff⟩⟩
    case tail => rw [exec_cxlSqTail, s.doorbell_below q n _ hready hq hon hn]
    case head =>
      rw [exec_cxlCqHead, State.cqHead, s.doorbell_below q n _ hready hq hon hn]
      refine congrArg Host.Outcome.next (s.modRing_congr q _ _ ?_)
      rw [r.head_moved n hhead hn hused]
    case tailErr => rw [exec_cxlSqTail, s.doorbell_above q n _ hready hq hon hn]
    case headErr => rw [exec_cxlCqHead, State.cqHead, s.doorbell_above q n _ hready hq hon hn]
    case tailOff => rw [exec_cxlSqTail, s.doorbell_disabled q n _ hoff]
    case headOff => rw [exec_cxlCqHead, State.cqHead, s.doorbell_disabled q n _ hoff]
  case control =>
    intro s v hready r size
    rw [exec_cxlRingCtl0Write s v hready]
    exact ⟨fun hoff hset hlo hhi =>
        congrArg Host.Outcome.next (s.modRing_congr 0 _ _ (r.controlled_starts v.toNat hoff hset hlo hhi)),
      fun hoff hset hbad => congrArg Host.Outcome.next (s.modRing_congr 0 _ _ (r.controlled_refuses v.toNat hoff hset hbad)),
      fun hon => congrArg Host.Outcome.next (s.modRing_congr 0 _ _ (r.controlled_enabled v.toNat hon))⟩

end Sys2Proof.Machine
end

section
/-! SUPPORT. The checks of R463 in their order, and what a command that passes or fails them tells. -/

namespace Sys2Proof.Machine

/-! ### Lists of checks -/

theorem firstFail_pass {ok : Bool} (n : Nat) (l : List (Bool × Nat)) (h : ok = true) :
    firstFail ((ok, n) :: l) = firstFail l := if_pos h

theorem firstFail_fail {ok : Bool} (n : Nat) (l : List (Bool × Nat)) (h : ok = false) :
    firstFail ((ok, n) :: l) = { status := n } := if_neg fun hok => Bool.false_ne_true (h.symm.trans hok)

/-- Where a list of checks whose statuses are not 0 gives status 0, every check passes. -/
theorem firstFail_status_zero {l : List (Bool × Nat)} (hl : ∀ e ∈ l, e.2 ≠ 0) (h : (firstFail l).status = 0) :
    ∀ e ∈ l, e.1 = true := by
  induction l with
  | nil => exact nofun
  | cons e l ih =>
    obtain ⟨ok, n⟩ := e
    cases ok with
    | false => exact absurd h (hl (false, n) List.mem_cons_self)
    | true => exact List.forall_mem_cons.2 ⟨rfl, ih (fun e he => hl e (List.mem_cons_of_mem _ he)) h⟩

/-! ### Checks 1 to 7 (R463) -/

/-- R461, R468: the source may send a command of the row. -/
def CatRow.maySend (r : CatRow) (op : Nat) (src : Source) : Bool :=
  if src = .peer then op / 16 == 5 && !r.hostOnly else !r.hostOnly || src == .host

/-- R466: the host has attached, or the command is one that needs no ATTACH. -/
def State.attachedFor (s : State) (op : Nat) (src : Source) : Bool :=
  src != .host || s.host.attached || op == 0x00 || op == 0x01

/-- The checks of a row in their order, with their statuses. -/
def CatRow.checks (r : CatRow) (s : State) (op : Nat) (q : Packet) : List (Bool × Nat) :=
  [ (r.maySend op q.src, 0x7002), (q.reserved == 0 && q.n ||| r.mask == r.mask, 0x2001), (s.attachedFor op q.src, 0x3003)
  , (r.lease s q.src q.n, 0x7001), (r.sourceOk q && r.range s q.src q.n, 0x2003), (r.present s q.n, 0x5001)]

theorem CatRow.checks_status (r : CatRow) (s : State) (op : Nat) (q : Packet) : ∀ e ∈ r.checks s op q, e.2 ≠ 0 := by
  simp [CatRow.checks]

theorem State.precheck_row (s : State) (op : Nat) (q : Packet) {r : CatRow} (hrow : catRow op = some r)
    (hmode : s.modeStatus ⟨op, q⟩ = 0) : s.precheck ⟨op, q⟩ = (firstFail (r.checks s op q)).status := by
  simp only [State.precheck, hmode, hrow, ne_eq, not_true_eq_false, if_false]
  rfl

/-- In normal mode nothing is turned away before the checks. -/
theorem State.modeStatus_normal (s : State) (c : Cmd) (hmode : s.boot.mode = 1) (hsound : s.boot.faulted = false) :
    s.modeStatus c = 0 := by
  simp [State.modeStatus, hmode, hsound]

theorem State.precheck_zero_mode {s : State} {c : Cmd} (h : s.precheck c = 0) : s.modeStatus c = 0 := by
  by_contra hne
  exact hne ((if_pos hne).symm.trans h)

/-- An admitted command passes every check of its row. -/
theorem Admitted.passes_checks {op : Nat} {c : Packet} {s : State} {r : CatRow} (h : Admitted op c s)
    (hrow : catRow op = some r) : ∀ e ∈ r.checks (s.enter c) op c, e.1 = true := by
  obtain ⟨-, -, -, hp⟩ := h
  refine firstFail_status_zero (r.checks_status _ op c) ?_
  rw [← State.precheck_row _ op c hrow (State.precheck_zero_mode hp), hp]

theorem Admitted.maySend {op : Nat} {c : Packet} {s : State} {r : CatRow} (h : Admitted op c s) (hrow : catRow op = some r) :
    r.maySend op c.src = true := h.passes_checks hrow _ List.mem_cons_self

theorem Admitted.range {op : Nat} {c : Packet} {s : State} {r : CatRow} (h : Admitted op c s) (hrow : catRow op = some r) :
    r.range (s.enter c) c.src c.n = true := by
  have hcheck : (r.sourceOk c && r.range (s.enter c) c.src c.n) = true :=
    h.passes_checks hrow (r.sourceOk c && r.range (s.enter c) c.src c.n, 0x2003) (by simp [CatRow.checks])
  exact (Bool.and_eq_true_iff.1 hcheck).2

/-- No peer sends a command but of the family of faults and spares (R389). -/
theorem Admitted.not_peer {op : Nat} {c : Packet} {s : State} {r : CatRow} (h : Admitted op c s) (hrow : catRow op = some r)
    (hfamily : op / 16 ≠ 5) : c.src ≠ .peer := by
  intro hsrc
  have hmay := h.maySend hrow
  rw [CatRow.maySend, if_pos hsrc, beq_eq_false_iff_ne.2 hfamily] at hmay
  exact Bool.false_ne_true hmay

theorem CatRow.maySend_iff (r : CatRow) (op : Nat) (src : Source) :
    r.maySend op src = true
      ↔ if src = .peer then op / 16 = 5 ∧ r.hostOnly = false else r.hostOnly = false ∨ src = .host := by
  unfold CatRow.maySend
  split <;> simp

theorem State.attachedFor_iff (s : State) (op : Nat) (src : Source) :
    s.attachedFor op src = true ↔ src ≠ .host ∨ s.host.attached = true ∨ op ≤ 1 := by
  have hop : op ≤ 1 ↔ op = 0 ∨ op = 1 := by omega
  simp [State.attachedFor, hop, or_assoc]

/-! ### What the state in which a command is checked shares with the one before (R458, R525) -/

theorem State.enter_same (s : State) (c : Packet) :
    s.enter c = { s with host := (s.enter c).host, mgmt := (s.enter c).mgmt } := by
  unfold State.enter
  cases c.src <;> rfl

theorem State.enter_attached (s : State) (c : Packet) : (s.enter c).host.attached = s.host.attached := by
  unfold State.enter
  cases c.src <;> rfl

/-! ### Refusals and failing preconditions -/

/-- A refused host command has its status in its reserved slot, and no more. -/
theorem State.refuse_host (s : State) (op : Nat) (c : Packet) (v : Nat) (hsrc : c.src = .host) :
    s.refuse ⟨op, c⟩ v
      = (if v = 0x7001 then s.refuseLease else s).postReserved c.ring
          ⟨BitVec.ofNat 16 v, c.cmdId, c.ring, false, BitVec.ofNat 8 op, 0, 0⟩ := by
  have hdone (t : State) : t.mgmtDone ⟨op, c⟩ = t := if_neg (by rw [hsrc]; decide)
  rw [State.refuse, hdone]
  simp only [State.reply, hsrc, if_true, Cmd.completion]
  rfl

end Sys2Proof.Machine
end

section
/-! The statement about the checks of commands. -/

namespace Sys2Proof.Machine

/-- Settles O6: a row's checks are a list of which the first that fails gives the status; a refusal only answers. -/
theorem commandChecks : Obligations.CommandChecks := by
  unfold Obligations.CommandChecks
  intro s c r hrow hmode hsound b v may attached
  have hboot : b.boot = s.boot := by
    change (s.enter c).boot = _
    rw [State.enter_same]
  have hv : v = (firstFail (r.checks b r.opcode c)).status :=
    b.precheck_row r.opcode c hrow (b.modeStatus_normal _ (by rw [hboot, hmode]) (by rw [hboot, hsound]))
  have hmay : r.maySend r.opcode c.src = true ↔ may := r.maySend_iff r.opcode c.src
  have hattached : b.attachedFor r.opcode c.src = true ↔ attached := by
    rw [State.attachedFor_iff, State.enter_attached]
  have hparams : (c.reserved == 0 && c.n ||| r.mask == r.mask) = true ↔ c.reserved = 0 ∧ c.n ||| r.mask = r.mask := by
    rw [Bool.and_eq_true, beq_iff_eq, beq_iff_eq]
  have hrest (hyes : may) (hres : c.reserved = 0) (hmask : c.n ||| r.mask = r.mask) :
      v = (firstFail ((r.checks b r.opcode c).drop 2)).status := by
    rw [hv, CatRow.checks, firstFail_pass _ _ (hmay.2 hyes), firstFail_pass _ _ (hparams.2 ⟨hres, hmask⟩)]
    rfl
  refine ⟨fun hnot => ?source, fun hyes hbad => ?params, fun hyes hres hmask => ⟨fun hnot => ?unattached, fun hatt hlease => ?lease,
    fun hatt hlease hrange => ?range, fun hatt hlease hrange => ?present⟩, fun hb hsrc hne hop => ?refused, fun hadm hop hpre => ?fails⟩
  case source => rw [hv, CatRow.checks, firstFail_fail _ _ (Bool.eq_false_iff.2 (mt hmay.1 hnot))]
  case params =>
    have hno : (c.reserved == 0 && c.n ||| r.mask == r.mask) = false := by
      refine Bool.eq_false_iff.2 fun hok => ?_
      obtain ⟨hres, hmask⟩ := hparams.1 hok
      exact hbad.elim (· hres) (· hmask)
    rw [hv, CatRow.checks, firstFail_pass _ _ (hmay.2 hyes), firstFail_fail _ _ hno]
  case unattached =>
    rw [hrest hyes hres hmask]
    exact congrArg Res.status (firstFail_fail _ _ (Bool.eq_false_iff.2 (mt hattached.1 hnot)))
  case lease =>
    rw [hrest hyes hres hmask]
    exact congrArg Res.status ((firstFail_pass _ _ (hattached.2 hatt)).trans (firstFail_fail _ _ hlease))
  case range =>
    rw [hrest hyes hres hmask]
    exact congrArg Res.status ((firstFail_pass _ _ (hattached.2 hatt)).trans ((firstFail_pass _ _ hlease).trans
      (firstFail_fail _ _ hrange)))
  case present =>
    rw [hrest hyes hres hmask]
    exact (congrArg Res.status ((firstFail_pass _ _ (hattached.2 hatt)).trans ((firstFail_pass _ _ hlease).trans
      (firstFail_pass _ _ hrange)))).trans (apply_ite Res.status _ _ _)
  case refused =>
    have hnew : s.repeated c = none := if_neg (by rw [hsrc]; decide)
    have hv11 : (s.enter c).precheck ⟨0x11, c⟩ = v := by rw [← hop]
    rw [exec_partDissolve, runCommand_refused _ c s hb hnew (fun h => absurd (hsrc.symm.trans h) (by decide)),
      State.refuse_host _ _ c _ hsrc]
    · rw [show catPartDissolve.opcode = 0x11 from rfl, hv11]
      rfl
    · exact fun hzero => hne (hv11.symm.trans hzero)
  case fails =>
    have hfails := runCommand_fails r hrow c s hadm hpre
    rw [hop] at hfails
    exact congrArg Host.Outcome.next hfails

end Sys2Proof.Machine
end

section
/-! SUPPORT. Rules of final completions, of time-outs and of the link reset (R453, R455, R458, R469), of repeated commands of peers
(R472), and of leases and RESET (R465, R466, R473, R513). -/

namespace Sys2Proof.Machine

/-! ### Final completions and time-outs (R458, R469) -/

theorem exec_finalCompletionPost (q : Nat) (s : State) : exec (.finalCompletionPost q) s = .next (s.postFinal q) := rfl

theorem exec_commandTimeout (csn : Nat) (s : State) : exec (.commandTimeout csn) s = .next (s.timeout csn) := rfl

/-- The oldest waiting completion takes a free slot of an enabled ring. -/
theorem State.postFinal_oldest (s : State) (q : Nat) (c : Completion) (rest : List Completion)
    (hfinals : (s.ring q).finals = c :: rest) (hon : (s.ring q).enable = true) (hfree : 0 < (s.ring q).free) :
    s.postFinal q = (s.modRing q fun r => { r with finals := rest }).writeSlot q c := by
  simp only [State.postFinal, hfinals, hon, hfree, and_self, if_true]

/-- The command with a CSN is in flight no more. -/
def State.landed (s : State) (csn : Nat) : State :=
  s.modArb fun a => { a with inflight := a.inflight.filter fun g => g.csn ≠ csn }

/-- A final completion ends the command's flight. -/
theorem State.final_flight (s : State) (csn : Nat) (f : InFlight) (r : Res) (hf : s.flight csn = some f) :
    s.final csn r
      = (if f.muted then s.landed csn else (s.landed csn).reply false f.dest f.cmd csn r).mgmtDone f.cmd := by
  have hlanded : ({ s with arb := { s.arb with inflight := s.arb.inflight.filter fun g => g.csn != csn } } : State)
      = s.landed csn := by
    have hother : (fun g : InFlight => g.csn != csn) = fun g => decide (g.csn ≠ csn) :=
      funext fun g => Bool.eq_iff_iff.2 (bne_iff_ne.trans decide_eq_true_iff.symm)
    rw [hother, State.landed, State.modArb]
  simp only [State.final, hf, hlanded]

section Timeout
variable (s : State) (csn : Nat) (f : InFlight) (hf : s.flight csn = some f)
include hf

theorem State.timeout_held (hop : f.cmd.opcode = 0x30) : s.timeout csn = s := by
  simp only [State.timeout, hf, hop, if_true]

/-- A command that is no STEP_BEGIN, no replay and no FW_UPDATE stops its work and completes. -/
theorem State.timeout_stops (hbegin : f.cmd.opcode ≠ 0x30) (hreplay : f.cmd.opcode ≠ 0x54) (hupdate : f.cmd.opcode ≠ 0x81) :
    s.timeout csn = (s.stopWork f.cmd).final csn { status := 0x6001 } := by
  simp only [State.timeout, hf, hbegin, hreplay, hupdate, false_and, if_false]

end Timeout

theorem State.stopWork_other (s : State) (c : Cmd) (h : c.opcode ∉ [0x31, 0x32, 0x44, 0x45]) : s.stopWork c = s := by
  simp only [List.mem_cons, not_or] at h
  obtain ⟨hopen, hclose, hevict, hfetch, -⟩ := h
  unfold State.stopWork
  dsimp only
  split
  · exact absurd ‹_› hevict
  · exact absurd ‹_› hfetch
  · exact absurd ‹_› hopen
  · exact absurd ‹_› hclose
  · rfl

/-- R469: a window that EVAL_CLOSE had begun to close stays open. -/
theorem State.stopWork_evalClose (s : State) (c : Cmd) (h : c.opcode = 0x32) :
    s.stopWork c
      = s.modPart (parP c.packet.n) fun x => { x with eval := x.eval.map fun w => { w with closing := false } } := by
  simp only [State.stopWork, h]

/-! ### The link reset (R453, R455) -/

/-- What a link reset leaves of the host interface and of the host's commands. -/
def State.unlinked (s : State) : State :=
  (s.modArb fun a =>
    { a with
      presented := a.presented.filter fun c => c.packet.src ≠ .host
      inflight := a.inflight.map fun f => if f.cmd.packet.src = .host then { f with muted := true } else f }).modHost fun h =>
    { h with rings := [], turn := 63, attached := false, reads := [], linkResets := satAdd 16 h.linkResets 1 }

theorem exec_cxlLinkReset (s : State) :
    exec .cxlLinkReset s = .next (if s.boot.stage == .ready then s.unlinked.linkTrained else s.unlinked) := rfl

/-- A link that trains draws one value, and changes its width and its rate alone. -/
theorem State.linkTrained_same (s : State) :
    s.linkTrained
      = { s with
          host := { s.host with width := s.linkTrained.host.width, speed := s.linkTrained.host.speed }
          freeCtr := s.freeCtr + 1 } := rfl

/-- Width and rate are among those that CXL-H supports. -/
theorem State.linkTrained_supported (s : State) :
    s.linkTrained.host.width.toNat ∈ [1, 2, 3] ∧ s.linkTrained.host.speed.toNat ∈ [1, 2, 3] := by
  have hcode (n : Nat) : (BitVec.ofNat 2 (1 + n % 3)).toNat ∈ [1, 2, 3] := by
    have hlt : n % 3 < 3 := Nat.mod_lt _ (by decide)
    rw [BitVec.toNat_ofNat, Nat.mod_eq_of_lt (by omega)]
    simp only [List.mem_cons, List.not_mem_nil]
    omega
  exact ⟨hcode _, hcode _⟩

/-- The state after a link reset, but for what training draws. -/
theorem State.unlinked_frame (s : State) :
    (∀ q, s.unlinked.ring q = {}) ∧ s.unlinked.host.attached = false
      ∧ s.unlinked.host.linkResets = satAdd 16 s.host.linkResets 1 ∧ s.unlinked.host.turn = 63
      ∧ (∀ f ∈ s.unlinked.arb.inflight, f.cmd.packet.src = .host → f.muted = true)
      ∧ s.unlinked.arb.inflight.length = s.arb.inflight.length := by
  refine ⟨fun _ => rfl, rfl, rfl, rfl, fun f hf hsrc => ?_, List.length_map _⟩
  obtain ⟨g, -, rfl⟩ := List.mem_map.1 hf
  by_cases hg : g.cmd.packet.src = .host
  · rw [if_pos hg]
  · rw [if_neg hg] at hsrc
    exact absurd hsrc hg

/-! ### A repeated command of a peer (R472) -/

/-- A peer's command that awaits no arbitration yet has its cell taken, and comes to admission. -/
theorem exec_peerCmd_fresh (i seq : Nat) (entry : BitVec 512) (s : State) (hready : s.boot.stage = .ready)
    (ho : (s.ctx i).state = .opened)
    (hnone : ∀ d ∈ s.arb.presented, ¬ (d.packet.src = .peer ∧ d.packet.ctx = i ∧ d.packet.seq = seq)) :
    exec (.peerCmd i seq entry) s
      = .next ((s.took i 1 1).admitCommand (cmdOf entry .peer 0 i seq 0 []) fun s => s.present (cmdOf entry .peer 0 i seq 0 [])) := by
  have hb : s.canBring (cmdOf entry .peer 0 i seq 0 []).packet = true := by
    change (s.boot.stage == .ready && (s.ctx i).state == .opened) = true
    rw [hready, ho]
    rfl
  have hfresh : s.arb.presented.any (fun d => d.packet.src == .peer && d.packet.ctx == i && d.packet.seq == seq) ≠ true := by
    rw [Ne, List.any_eq_true]
    rintro ⟨d, hd, hsame⟩
    simp only [Bool.and_eq_true, beq_iff_eq, and_assoc] at hsame
    exact hnone d hd hsame
  exact congrArg Host.Outcome.next ((if_neg fun h => Bool.false_ne_true (h.symm.trans hb)).trans (if_neg hfresh))

/-- A command that repeats an accepted one is answered with its completion. -/
theorem State.admitCommand_repeated (s : State) (c : Cmd) (go : State → State) (e : Nat) (hb : s.canBring c.packet = true)
    (hr : s.repeated c.packet = some e) : s.admitCommand c go = s.sendCpl c.packet.ctx e := by
  simp only [State.admitCommand, hb, hr, Bool.true_eq_false, if_false]

/-! ### Leases (R465, R466, R473) -/

theorem exec_leaseTake (c : Packet) (s : State) : exec (.leaseTake c) s = .next (runCommand catLeaseTake.opcode c s) := rfl

theorem exec_leaseRelease (c : Packet) (s : State) :
    exec (.leaseRelease c) s = .next (runCommand catLeaseRelease.opcode c s) := rfl

theorem State.setHolder_holders (s : State) (r w j : Nat) (hr : r ≤ 17) :
    (s.setHolder r w).holder j = if j = r then w else s.holder j := by
  have hentry (d : Nat) (m : Sparse Nat) (i i' : Nat) : sget d (sset d m i w) i' = if i' = i then w else sget d m i' := by
    split
    · next h => rw [h, sget_sset_same]
    · next h => exact sget_sset_other _ _ _ _ _ h
  by_cases hpart : r < 8
  · rw [State.setHolder, if_pos hpart]
    by_cases hj : j < 8
    · simp only [State.holder, hj, if_true, hentry]
    · rw [if_neg (show j ≠ r by omega)]
      simp only [State.holder, hj, if_false]
  by_cases hkpr : r < 16
  · rw [State.setHolder, if_neg hpart, if_pos hkpr]
    by_cases hj : 8 ≤ j ∧ j < 16
    · have hsame : j - 8 = r - 8 ↔ j = r := by omega
      simp only [State.holder, Nat.not_lt.2 hj.1, hj.2, if_true, if_false, hentry, hsame]
    · rw [if_neg (show j ≠ r by omega)]
      by_cases hlow : j < 8
      · simp only [State.holder, hlow, if_true]
      · simp only [State.holder, hlow, show ¬ j < 16 by omega, if_false]
  have hfixed (x y z : Nat) (h : x = y) : (if j < 8 then sget 0 s.arb.leasePart j else if j < 16 then z else x)
      = if j < 8 then sget 0 s.arb.leasePart j else if j < 16 then z else y := by rw [h]
  obtain rfl | rfl : r = 16 ∨ r = 17 := by omega
  · rcases eq_or_ne j 16 with rfl | hj
    · rfl
    · rw [if_neg hj]
      exact hfixed _ _ _ ((if_neg hj).trans (if_neg hj).symm)
  · rcases eq_or_ne j 17 with rfl | hj
    · rfl
    · rw [if_neg hj]
      exact hfixed _ _ _ (if_congr Iff.rfl rfl ((if_neg hj).trans (if_neg hj).symm))

theorem State.giveLease_holders (s : State) (r w j : Nat) (hr : r ≤ 17) :
    (s.giveLease r w).holder j = if j = r then w else s.holder j := by
  rw [State.giveLease, State.event_same]
  exact s.setHolder_holders r w j hr

theorem State.began_holder (s : State) (c : Packet) (r : Nat) : (s.began c).holder r = s.holder r := by
  rw [State.began_same]
  rfl

theorem State.finish_began_holder (s : State) (op k : Nat) (c : Packet) (r : Res) (j : Nat) (hsrc : c.src ≠ .peer) :
    ((s.began c).finish ⟨op, c⟩ k r).holder j = s.holder j :=
  (State.holder_congr (State.finish_others _ ⟨op, c⟩ k r hsrc).2.1 j).trans (s.began_holder c j)

/-! ### RESET (R466, R513) -/

theorem exec_reset (c : Packet) (s : State) : exec (.reset c) s = .next (runCommand catReset.opcode c s) := rfl

/-- A reset of the whole module begins, or is held until the update has programmed its image. -/
def State.wholeReset (s : State) (k : ResetKind) (cause : Nat) : State :=
  if s.boot.updateRunning then s.modBoot fun b => { b with heldReset := some k } else s.beginReset k cause

theorem State.resetCommand_warm (s : State) (n : Nat) (h : bits n 1 0 = 0) : s.resetCommand n = s.wholeReset .warm 1 := by
  unfold State.resetCommand
  rw [h]
  rfl

theorem State.resetCommand_cold (s : State) (n : Nat) (h : bits n 1 0 = 1) : s.resetCommand n = s.wholeReset .cold 2 := by
  unfold State.resetCommand
  rw [h]
  rfl

theorem State.resetCommand_field (s : State) (n : Nat) (h : bits n 1 0 = 2) :
    s.resetCommand n = s.fieldRestart (bits n 7 2) := by
  unfold State.resetCommand
  rw [h]
  rfl

theorem State.wholeReset_begins (s : State) (k : ResetKind) (cause : Nat) (h : s.boot.updateRunning = false) :
    s.wholeReset k cause = s.beginReset k cause := if_neg fun hruns => Bool.false_ne_true (h.symm.trans hruns)

theorem State.wholeReset_held (s : State) (k : ResetKind) (cause : Nat) (h : s.boot.updateRunning = true) :
    s.wholeReset k cause = s.modBoot fun b => { b with heldReset := some k } := if_pos h

end Sys2Proof.Machine
end

section
/-! The statements about completions and the link reset, repeated commands of peers, leases and RESET, and commands that take long. -/

namespace Sys2Proof.Machine

/-- Settles O4: a free slot takes the oldest completion; a time-out by what work it stops; the link reset by what it leaves. -/
theorem completionsAndLinkReset : Obligations.CompletionsAndLinkReset := by
  unfold Obligations.CompletionsAndLinkReset
  refine ⟨⟨?posts, ?timeouts⟩, ?linkReset⟩
  case posts =>
    intro s q c rest hfinals hon hfree
    rw [exec_finalCompletionPost, s.postFinal_oldest q c rest hfinals hon hfree]
  case timeouts =>
    intro s csn f hf
    refine ⟨fun hop => ?held, fun hop hmuted => ?other, fun hop hmuted => ?evalClose⟩
    case held => rw [exec_commandTimeout, s.timeout_held csn f hf hop]
    case other =>
      simp only [List.mem_cons, not_or] at hop
      obtain ⟨hbegin, hopen, hclose, hevict, hfetch, hreplay, hupdate, -⟩ := hop
      refine ⟨_, exec_commandTimeout csn s, ?_⟩
      rw [s.timeout_stops csn f hf hbegin hreplay hupdate, s.stopWork_other f.cmd (by simp [hopen, hclose, hevict, hfetch]),
        s.final_flight csn f _ hf, hmuted]
      rfl
    case evalClose =>
      have hbut (n : Nat) (hn : n ≠ 0x32) : f.cmd.opcode ≠ n := fun h => hn (h.symm.trans hop)
      intro b
      have hb : b.flight csn = some f := hf
      have hstop : s.stopWork f.cmd = b := s.stopWork_evalClose f.cmd hop
      rw [exec_commandTimeout, s.timeout_stops csn f hf (hbut _ (by decide)) (hbut _ (by decide)) (hbut _ (by decide)), hstop,
        b.final_flight csn f _ hb, hmuted]
      rfl
  case linkReset =>
    intro s
    obtain ⟨hrings, hattached, hresets, hturn, hmuted, hflights⟩ := s.unlinked_frame
    refine ⟨_, exec_cxlLinkReset s, ?_⟩
    split
    · rw [State.linkTrained_same]
      exact ⟨hrings, hattached, hresets, hturn, fun _ => s.unlinked.linkTrained_supported, hmuted, hflights, rfl, rfl, rfl, rfl,
        rfl, rfl, rfl, rfl, rfl, rfl⟩
    · next hunready =>
      exact ⟨hrings, hattached, hresets, hturn, fun hready => absurd (beq_iff_eq.2 hready) hunready, hmuted, hflights, rfl, rfl, rfl,
        rfl, rfl, rfl, rfl, rfl, rfl, rfl⟩

/-- Settles O5: admission finds the accepted command's completion, and sends it. -/
theorem peerRepeat : Obligations.PeerRepeat := by
  unfold Obligations.PeerRepeat
  intro s i seq bytes entry hready ho hnone hdone
  have hrepeated : (s.took i 1 1).repeated (cmdOf entry .peer 0 i seq 0 []).packet = some bytes :=
    congrArg (Option.map fun q : Nat × Nat × Nat => q.2.2) hdone
  rw [exec_peerCmd_fresh i seq entry s hready ho hnone,
    State.admitCommand_repeated _ _ _ bytes (s.took_canBring i seq entry hready ho) hrepeated]
  rfl

/-- Settles O8: a lease is given after the completion, which changes none; RESET by its kind. -/
theorem leasesAndReset : Obligations.LeasesAndReset := by
  unfold Obligations.LeasesAndReset
  refine ⟨?leases, ?reset⟩
  case leases =>
    intro s c r
    refine ⟨fun hc => ?take, fun hc => ?release, fun hadm hheld hother => ?taken⟩
    case take =>
      have hsrc := hc.1.not_peer rfl (by decide)
      have hr : r ≤ 17 := of_decide_eq_true (hc.1.range rfl)
      refine ⟨((s.began c).finish ⟨0x05, c⟩ (s.csnOf c) {}).giveLease r (srcHolder c.src), ?_, ?_, fun j hj => ?_⟩
      · rw [exec_leaseTake, runCommand_passes catLeaseTake rfl c s hc]
        rfl
      · rw [State.giveLease_holders _ _ _ _ hr, if_pos rfl]
      · rw [State.giveLease_holders _ _ _ _ hr, if_neg hj, s.finish_began_holder _ _ _ _ _ hsrc]
    case release =>
      have hsrc := hc.1.not_peer rfl (by decide)
      have hr : r ≤ 17 := of_decide_eq_true (hc.1.range rfl)
      refine ⟨((s.began c).finish ⟨0x06, c⟩ (s.csnOf c) {}).giveLease r 0, ?_, ?_, fun j hj => ?_⟩
      · rw [exec_leaseRelease, runCommand_passes catLeaseRelease rfl c s hc]
        rfl
      · rw [State.giveLease_holders _ _ _ _ hr, if_pos rfl]
      · rw [State.giveLease_holders _ _ _ _ hr, if_neg hj, s.finish_began_holder _ _ _ _ _ hsrc]
    case taken =>
      have hno : (s.began c).holdsEvery c.src [r] = false := by
        simp [State.holdsEvery, s.began_holder, hheld, hother]
      have hpre : catLeaseTake.pre (s.began c) c = { status := 0x3001 } := firstFail_fail _ _ hno
      rw [exec_leaseTake, runCommand_fails catLeaseTake rfl c s hadm (by rw [hpre]; decide), hpre]
      rfl
  case reset =>
    intro s c hc hsrc b
    have hexec : exec (.reset c) s = .next (b.resetCommand c.n) := by
      rw [exec_reset, runCommand_passes catReset rfl c s hc]
      rfl
    have hupdate : b.boot.updateRunning = s.boot.updateRunning := by
      change ((s.began c).finish ⟨0x07, c⟩ (s.csnOf c) {}).boot.updateRunning = _
      rw [State.finish_same _ ⟨0x07, c⟩ _ _ hsrc, State.began_same]
    rw [hexec]
    refine ⟨fun hkind => ?field, fun hkind hidle => ?warm, fun hkind hidle => ?cold, fun hkind hruns => ?held⟩
    case field => rw [b.resetCommand_field c.n hkind]
    case warm =>
      rw [b.resetCommand_warm c.n hkind, b.wholeReset_begins _ _ (hupdate.trans hidle)]
      rfl
    case cold =>
      rw [b.resetCommand_cold c.n hkind, b.wholeReset_begins _ _ (hupdate.trans hidle)]
      rfl
    case held =>
      rw [b.resetCommand_warm c.n hkind, b.wholeReset_held _ _ (hupdate.trans hruns)]
      rfl

/-- Settles O10: each row's effect is its acceptance; that of FW_UPDATE begins the update. -/
theorem longCommandsAccepted : Obligations.LongCommandsAccepted := by
  unfold Obligations.LongCommandsAccepted
  intro s c b k acc
  refine ⟨fun hc => ?plan, fun hc => ?storeWrite, fun hc => ?storeRead, fun hc => ?page, fun hc => ?spare, fun hc => ?update⟩
  case plan => exact congrArg Host.Outcome.next (runCommand_passes catPlanLoad rfl c s hc)
  case storeWrite => exact congrArg Host.Outcome.next (runCommand_passes catStoreWrite rfl c s hc)
  case storeRead => exact congrArg Host.Outcome.next (runCommand_passes catStoreRead rfl c s hc)
  case page => exact congrArg Host.Outcome.next (runCommand_passes catPageLoad rfl c s hc)
  case spare => exact congrArg Host.Outcome.next (runCommand_passes catSpareConfig rfl c s hc)
  case update => exact congrArg Host.Outcome.next (runCommand_passes catFwUpdate rfl c s hc)

end Sys2Proof.Machine
end

section
/-! SUPPORT. Rules of the commands of power (R468, R478, R488, R494), of the supply (R482, R484), of the power arbiter and the
issue gates (R487 to R492), and of the thermal ladder, the dividers and the coolant (R495, R496, R500). -/

namespace Sys2Proof.Machine

/-! ### The commands of power (R468, R478, R488, R494) -/

theorem exec_powerGrants (c : Packet) (s : State) : exec (.powerGrants c) s = .next (runCommand catPowerGrants.opcode c s) := rfl

theorem exec_halfClock (c : Packet) (s : State) : exec (.halfClock c) s = .next (runCommand catHalfClock.opcode c s) := rfl

theorem exec_fieldPower (c : Packet) (s : State) : exec (.fieldPower c) s = .next (runCommand catFieldPower.opcode c s) := rfl

/-- A command of a half's divider changes the clocks' settings alone: the half's code, and the count of changes. -/
theorem State.halfClock_same (s : State) (east : Bool) (code : BitVec 2) :
    s.halfClock east code
      = { s with clk := { s.clk with
            westCmd := if east then s.clk.westCmd else code, eastCmd := if east then code else s.clk.eastCmd
            divChanges := (s.halfClock east code).clk.divChanges } } := by
  cases east <;> rfl

/-- A completion leaves the clocks, the supply and the fields. -/
theorem State.finish_power (s : State) (c : Cmd) (k : Nat) (r : Res) (h : c.packet.src ≠ .peer) :
    (s.finish c k r).clk = s.clk ∧ (s.finish c k r).parts = s.parts ∧ (s.finish c k r).pwr = s.pwr
      ∧ (s.finish c k r).fields = s.fields := by
  rw [s.finish_same c k r h]
  exact ⟨rfl, rfl, rfl, rfl⟩

theorem State.began_power (s : State) (c : Packet) :
    (s.began c).clk = s.clk ∧ (s.began c).parts = s.parts ∧ (s.began c).pwr = s.pwr ∧ (s.began c).fields = s.fields := by
  rw [State.began_same]
  exact ⟨rfl, rfl, rfl, rfl⟩

/-- The power commands, in the order of their codes: on, off at the fence, off now. -/
theorem exec_fieldPower_action (c : Packet) (s : State) (hc : Passes catFieldPower c s) :
    exec (.fieldPower c) s
      = .next (((s.began c).finish ⟨0x62, c⟩ (s.csnOf c) {}).fieldPower (bits c.n 5 0) (bits c.n 7 6)) := by
  rw [exec_fieldPower, runCommand_passes catFieldPower rfl c s hc]
  rfl

/-! ### The supply (R482, R484) -/

theorem Pwr.currentLimit_both (p : Pwr) (ha : 500 ≤ p.vinA) (hb : 500 ≤ p.vinB) : p.currentLimit = 700 := by
  have hpairs : (p.pairOk false && p.pairOk true) = true :=
    Bool.and_eq_true_iff.2 ⟨decide_eq_true ha, decide_eq_true hb⟩
  exact if_pos hpairs

theorem Pwr.currentLimit_one (p : Pwr) (h : p.vinA < 500 ∨ p.vinB < 500) : p.currentLimit = 400 := by
  refine if_neg fun hpairs => ?_
  obtain ⟨ha, hb⟩ := Bool.and_eq_true_iff.1 hpairs
  exact h.elim (Nat.not_lt.2 (of_decide_eq_true ha)) (Nat.not_lt.2 (of_decide_eq_true hb))

/-- Other pair voltages change the supply's part of the state alone. -/
theorem State.setVin_same (s : State) (a b : Nat) :
    s.setVin a b = { s with pwr := { s.pwr with vinA := a, vinB := b, supply := (s.setVin a b).pwr.supply } } := rfl

/-- A band within which the module runs becomes the state of the supply. -/
theorem State.setVin_band (s : State) (a b : Nat) (band : Supply) (hband : supplyBand (max a b) = band)
    (hruns : band = .operating ∨ band = .marginal) :
    s.setVin a b = s.modPwr fun p => { p with vinA := a, vinB := b, supply := band } := by
  subst hband
  have hsupply : (s.setVin a b).pwr.supply = supplyBand (max a b) := if_pos hruns
  rw [State.setVin_same, hsupply]
  rfl

theorem supplyBand_operating {v : Nat} (hlo : 540 ≤ v) (hhi : v ≤ 660) : supplyBand v = .operating := by
  rw [supplyBand, if_neg (by omega), if_neg (by omega), if_pos hhi]

theorem supplyBand_high {v : Nat} (hlo : 660 < v) (hhi : v ≤ 700) : supplyBand v = .marginal := by
  rw [supplyBand, if_neg (by omega), if_neg (by omega), if_neg (by omega), if_pos hhi]

section Pairs
variable (s : State) (volts : Nat)

theorem exec_pairLost_a (hlow : volts < 500) (ha : 500 ≤ s.pwr.vinA) (hb : 500 ≤ s.pwr.vinB) :
    exec (.pairLost 0 volts) s = .next (s.setVin volts s.pwr.vinB) := by
  refine congrArg Host.Outcome.next ((if_neg ?_).trans (if_pos rfl))
  rintro (hhigh | hother | hgone)
  · exact Nat.not_lt.2 hhigh hlow
  · exact of_decide_eq_false hother ha
  · exact of_decide_eq_false hgone hb

theorem exec_pairLost_b (hlow : volts < 500) (ha : 500 ≤ s.pwr.vinA) (hb : 500 ≤ s.pwr.vinB) :
    exec (.pairLost 1 volts) s = .next (s.setVin s.pwr.vinA volts) := by
  refine congrArg Host.Outcome.next ((if_neg ?_).trans ((if_neg (by decide)).trans (if_pos rfl)))
  rintro (hhigh | hother | hgone)
  · exact Nat.not_lt.2 hhigh hlow
  · exact of_decide_eq_false hother hb
  · exact of_decide_eq_false hgone ha

theorem exec_pairRestored_a (hlo : 500 ≤ volts) (hhi : volts ≤ 700) (ha : s.pwr.vinA < 500) :
    exec (.pairRestored 0 volts) s = .next (s.setVin volts s.pwr.vinB) := by
  refine congrArg Host.Outcome.next ((if_neg ?_).trans (if_pos rfl))
  rintro (hlow | hhigh | hthere)
  · exact Nat.not_lt.2 hlo hlow
  · exact Nat.not_lt.2 hhi hhigh
  · exact Nat.not_le.2 ha (of_decide_eq_true hthere)

end Pairs

/-- The input enters another band within which the module runs. -/
theorem exec_marginalBandChange_enters (s : State) (a b : Nat) (band : Supply) (hband : supplyBand (max a b) = band)
    (hruns : band = .operating ∨ band = .marginal) (hother : band ≠ s.pwr.supply)
    (hnow : s.pwr.supply = .operating ∨ s.pwr.supply = .marginal) :
    exec (.marginalBandChange a b) s = .next (s.modPwr fun p => { p with vinA := a, vinB := b, supply := band }) := by
  have henters : exec (.marginalBandChange a b) s = .next (s.setVin a b) := by
    refine congrArg Host.Outcome.next (if_pos ?_)
    rw [hband]
    exact ⟨hruns, hother, hnow⟩
  rw [henters, s.setVin_band a b band hband hruns]

theorem exec_clipAssert_reached (s : State) (amps : Nat) (hoff : s.pwr.clip = false)
    (hreach : 98 * s.pwr.currentLimit ≤ 100 * amps) :
    exec (.clipAssert amps) s = .next { s with
      pwr := { s.pwr with iin := amps, clip := true, clips := satAdd 16 s.pwr.clips 1 }
      life := { s.life with clipsTotal := satAdd 32 s.life.clipsTotal 1 } } := by
  refine congrArg Host.Outcome.next (if_neg ?_)
  rintro (hon | hbelow)
  · exact Bool.false_ne_true (hoff.symm.trans hon)
  · exact Nat.not_lt.2 hreach hbelow

theorem exec_clipRelease_below (s : State) (amps : Nat) (hon : s.pwr.clip = true)
    (hbelow : 100 * amps < 90 * s.pwr.currentLimit) :
    exec (.clipRelease amps) s = .next (s.modPwr fun p => { p with iin := amps, clip := false }) := by
  refine congrArg Host.Outcome.next (if_neg ?_)
  rintro (hoff | hreach)
  · exact Bool.false_ne_true (hoff.symm.trans hon)
  · exact Nat.not_lt.2 hreach hbelow

/-! ### The power arbiter (R487 to R490) -/

theorem exec_powerEvaluation (measures : List Nat) (powers : List (Nat × Nat)) (s : State) :
    exec (.powerEvaluation measures powers) s = .next (s.powerEvaluation measures powers) := rfl

/-- The state with other power regions. -/
def State.withRegions (s : State) (m : Sparse Region) : State := { s with pwr := { s.pwr with regions := m } }

/-- Changes of regions, one after another, leave the rest of the state. -/
theorem State.forAll_modRegion_same {α : Type} (s : State) (l : List α) (i : α → Nat) (f : α → Region → Region) :
    s.forAll l (fun s a => s.modRegion (i a) (f a))
      = s.withRegions (s.forAll l fun s a => s.modRegion (i a) (f a)).pwr.regions :=
  State.forAll_induction (fun t => t = s.withRegions t.pwr.regions) s _ _ rfl fun t a ht => by
    rw [ht]
    rfl

theorem State.grantAll_same (s : State) : s.grantAll = s.withRegions s.grantAll.pwr.regions :=
  s.forAll_modRegion_same _ _ _

/-- The supply's part of the state after an evaluation, but for the regions: what has been measured, with the waiting tables in
force, and the budget of both. -/
def Pwr.evaluated (p : Pwr) (measures : List Nat) (supply : Supply) : Pwr :=
  Pwr.evaluate (Pwr.takeTables { p.measure measures with supply := supply })

theorem State.withRegions_withRegions (s : State) (m n : Sparse Region) : (s.withRegions m).withRegions n = s.withRegions n := rfl

/-- The state once an evaluation has measured and weighed, before it shares the budget out. -/
def State.weighed (s : State) (measures : List Nat) : State :=
  let t := s.modPwr fun p => p.measure measures
  (t.setVin t.pwr.vinA t.pwr.vinB).modPwr fun p => p.takeTables.evaluate

theorem State.weighed_same (s : State) (measures : List Nat) :
    ∃ supply, s.weighed measures = { s with pwr := s.pwr.evaluated measures supply } := by
  unfold State.weighed
  dsimp only
  rw [State.setVin_same]
  exact ⟨_, rfl⟩

/-- An evaluation then changes the regions alone. -/
theorem State.powerEvaluation_weighed (s : State) (measures : List Nat) (powers : List (Nat × Nat)) :
    ∃ regions, s.powerEvaluation measures powers = (s.weighed measures).withRegions regions := by
  have hunfold : s.powerEvaluation measures powers
      = ((s.weighed measures).forAll (powers.filter fun q => q.1 < 80)
          fun s q => s.modRegion q.1 fun r => { r with power := q.2 }).grantAll := rfl
  rw [hunfold, State.grantAll_same, State.forAll_modRegion_same, State.withRegions_withRegions]
  exact ⟨_, rfl⟩

/-- An evaluation changes the supply's part of the state alone. -/
theorem State.powerEvaluation_same (s : State) (measures : List Nat) (powers : List (Nat × Nat)) :
    ∃ supply regions, s.powerEvaluation measures powers
      = { s with pwr := { s.pwr.evaluated measures supply with regions := regions } } := by
  obtain ⟨supply, hweighed⟩ := s.weighed_same measures
  obtain ⟨regions, heval⟩ := s.powerEvaluation_weighed measures powers
  rw [hweighed] at heval
  exact ⟨supply, regions, heval⟩

section Evaluated
variable (p : Pwr) (measures : List Nat) (supply : Supply)

/-- Waiting tables take effect, and nothing waits. -/
theorem Pwr.takeTables_same (p : Pwr) :
    p.takeTables = { p with
      cap := (p.newGrants.map (·.1)).getD p.cap, grants := (p.newGrants.map (·.2)).getD p.grants, newGrants := none
      limits := p.newLimits.getD p.limits, newLimits := none } := by
  obtain ⟨⟩ := p
  next newGrants newLimits => cases newGrants <;> cases newLimits <;> rfl

theorem Pwr.evaluated_same :
    p.evaluated measures supply = Pwr.evaluate { p.measure measures with
      supply := supply, cap := (p.newGrants.map (·.1)).getD p.cap, grants := (p.newGrants.map (·.2)).getD p.grants
      newGrants := none, limits := p.newLimits.getD p.limits, newLimits := none } :=
  congrArg Pwr.evaluate (Pwr.takeTables_same _)

end Evaluated

/-! ### Issue gates (R492) -/

theorem exec_issueGateSample (i p : Nat) (s : State) (hi : i < 80) :
    exec (.issueGateSample i p) s = .next (s.issueSample i p) := congrArg Host.Outcome.next (if_pos hi)

/-- The gate of a region after a sample of `p`: what the sample makes of ISSUE, CLIP's ceiling and stage 3's. -/
def Region.sampled (r : Region) (clip : Bool) (p : Nat) : Region :=
  let low := if p ≤ r.effective ∧ 10 * p < 9 * r.effective then min 8 (r.lowSamples + 1) else 0
  let n := if r.effective < p then max 8 (r.issue * r.effective / p) else if low = 8 then min 64 (r.issue + 4) else r.issue
  let n := if clip then min n 16 else n
  { r with issue := if r.stage = 3 then min n 8 else n, lowSamples := low }

theorem State.issueSample_eq (s : State) (i p : Nat) : s.issueSample i p = s.modRegion i (·.sampled s.pwr.clip p) := rfl

section Gate
variable (r : Region) (p : Nat)

theorem Region.sampled_above (h : r.effective < p) (hstage : r.stage ≠ 3) :
    r.sampled false p = { r with issue := max 8 (r.issue * r.effective / p), lowSamples := 0 } := by
  simp only [Region.sampled, h, Nat.not_le.2 h, false_and, if_true, if_false, Bool.false_eq_true, hstage]

theorem Region.sampled_low (h : p ≤ r.effective) (hlow : 10 * p < 9 * r.effective) (hcount : r.lowSamples = 7)
    (hstage : r.stage ≠ 3) : r.sampled false p = { r with issue := min 64 (r.issue + 4), lowSamples := 8 } := by
  simp only [Region.sampled, h, Nat.not_lt.2 h, hlow, hcount, and_self, if_true, if_false, Bool.false_eq_true, hstage,
    Nat.reduceAdd, min_self]

theorem Region.sampled_clip : (r.sampled true p).issue ≤ 16 := by
  unfold Region.sampled
  dsimp only
  split
  · exact (Nat.min_le_right _ 8).trans (by decide)
  · exact Nat.min_le_right _ 16

theorem Region.sampled_hot (clip : Bool) (hstage : r.stage = 3) : (r.sampled clip p).issue ≤ 8 := by
  simp only [Region.sampled, hstage, if_true]
  exact Nat.min_le_right _ 8

end Gate

/-! ### The thermal ladder (R495) -/

theorem exec_sensorRead_one (code t : Nat) (s : State) : exec (.sensorRead [(code, t)]) s = .next (s.reading code t) := rfl

theorem State.reading_field (s : State) (f t : Nat) (hf : f < 64) : s.reading f t = s.fieldReading f t := if_pos hf

theorem exec_thermalCapStep (f : Nat) (s : State) (hf : f < 64) : exec (.thermalCapStep f) s = .next (s.capStep f) :=
  congrArg Host.Outcome.next (if_pos hf)

theorem exec_thermalStageExit (f : Nat) (s : State) (hf : f < 64) : exec (.thermalStageExit f) s = .next (s.stageExit f) :=
  congrArg Host.Outcome.next (if_pos hf)

section Reading
variable (s : State) (f t : Nat) (hoff : t < s.pwr.limits.off) (hemerg : t < s.pwr.limits.emerg)
include hoff hemerg

/-- Below OFF and EMERG a powered field is throttled where it reaches stage 1, and no more. -/
theorem State.fieldReading_below (hpower : (s.field f).dark = false) :
    s.fieldReading f t
      = if (s.region f).stage = 0 ∧ (s.throttleAt f ≤ t ∨ (s.field f).band = 3) then
          (s.modRegion f fun r => { r with temp := t }).throttle f
        else s.modRegion f fun r => { r with temp := t } := by
  have hstage : ((s.modRegion f fun r => { r with temp := t }).region f).stage = (s.region f).stage := by
    rw [State.region_modRegion_same]
  have hkept (u lost hot : State) (hu : u.pwr.limits = s.pwr.limits) :
      (if u.pwr.limits.emerg ≤ t then lost else if u.pwr.limits.off ≤ t ∧ (u.region f).stage < 3 then hot else u) = u := by
    rw [hu, if_neg (Nat.not_le.2 hemerg), if_neg (not_and_of_not_left _ (Nat.not_le.2 hoff))]
  refine (if_neg fun hdark => Bool.false_ne_true (hpower.symm.trans hdark)).trans ?_
  refine (hkept _ _ _ ?_).trans ?_
  · split <;> rfl
  · rw [hstage]
    rfl

/-- A reading at THROTTLE of a field in stage 0. -/
theorem State.fieldReading_throttles (hreach : s.throttleAt f ≤ t) (hstage : (s.region f).stage = 0)
    (hon : (s.field f).isOff = false) :
    s.fieldReading f t = s.modRegion f fun r =>
      { r with
        temp := t, stage := 1, g0 := (s.region f).effective
        cap := some (max (s.pwr.entry f).floor ((s.region f).effective - (s.region f).effective / 16)) } := by
  have hpower : (s.field f).dark = false := by rw [Field.dark, hon, Bool.false_and]
  rw [s.fieldReading_below f t hoff hemerg hpower, if_pos ⟨hstage, .inl hreach⟩, State.throttle, State.modRegion_modRegion]
  exact s.modRegion_congr f _ _ rfl

/-- A reading below THROTTLE of a field whose store is below band 3. -/
theorem State.fieldReading_cool (hcool : t < s.throttleAt f) (hband : (s.field f).band ≠ 3) :
    s.fieldReading f t = s.modRegion f fun r => { r with temp := t } := by
  by_cases hdark : (s.field f).dark = true
  · exact if_pos hdark
  · rw [s.fieldReading_below f t hoff hemerg (Bool.eq_false_iff.2 hdark), if_neg]
    rintro ⟨-, hreach | hhot⟩
    · exact Nat.not_le.2 hcool hreach
    · exact hband hhot

end Reading

section Cap
variable (s : State) (f c : Nat) (hcap : (s.region f).cap = some c)
include hcap

theorem State.capStep_falls (hstage : (s.region f).stage = 1 ∨ (s.region f).stage = 3) :
    s.capStep f = s.modRegion f fun r =>
      { r with cap := some (max (s.pwr.entry f).floor (c - (s.region f).g0 / 16)) } := by
  refine s.modRegion_congr f _ _ ?_
  simp only [hcap, hstage, if_true]

theorem State.capStep_rises (hstage : (s.region f).stage = 0) :
    s.capStep f = s.modRegion f fun r =>
      { r with cap := if (s.region f).g0 ≤ c + (s.region f).g0 / 16 then none else some (c + (s.region f).g0 / 16) } := by
  refine s.modRegion_congr f _ _ ?_
  simp only [hcap, hstage, Nat.reduceEqDiff, or_self, if_false, if_true]

end Cap

theorem State.stageExit_three (s : State) (f : Nat) (hstage : (s.region f).stage = 3)
    (hcool : (s.region f).temp + 3 ≤ s.pwr.limits.off) : s.stageExit f = s.modRegion f fun r => { r with stage := 1 } :=
  if_pos ⟨hstage, hcool⟩

theorem State.stageExit_one (s : State) (f : Nat) (hstage : (s.region f).stage = 1)
    (hcool : (s.region f).temp + 3 ≤ s.throttleAt f) (hband : (s.field f).band < 3) :
    s.stageExit f = s.modRegion f fun r => { r with stage := 0 } :=
  (if_neg fun h => absurd (hstage.symm.trans h.1) (by decide)).trans (if_pos ⟨hstage, hcool, hband⟩)

/-! ### The thermal divider and coolant faults (R496, R500) -/

theorem exec_thermalDividerStep (east : Bool) (s : State) : exec (.thermalDividerStep east) s = .next (s.dividerStep east) := rfl

theorem State.dividerStep_slows (s : State) (east : Bool) (f : Nat) (hf : f ∈ s.halfFields east)
    (hhot : s.pwr.limits.half ≤ (s.region f).temp) (hmore : s.clk.therm east < s.pwr.limits.maxDiv) :
    s.dividerStep east = s.setTherm east (s.clk.therm east + 1) := by
  have hany : (s.halfFields east).any (fun f => s.pwr.limits.half ≤ (s.region f).temp || s.atFloor f) = true :=
    List.any_eq_true.2 ⟨f, hf, by rw [decide_eq_true hhot, Bool.true_or]⟩
  exact (if_pos hany).trans (if_pos hmore)

theorem State.dividerStep_speeds (s : State) (east : Bool)
    (hcool : ∀ f ∈ s.halfFields east, (s.region f).temp + 5 ≤ s.pwr.limits.half ∧ s.atFloor f = false) :
    s.dividerStep east = s.setTherm east (s.clk.therm east - 1) := by
  have hnone : ¬ (s.halfFields east).any (fun f => s.pwr.limits.half ≤ (s.region f).temp || s.atFloor f) = true := by
    rw [List.any_eq_true]
    rintro ⟨f, hf, hhot⟩
    obtain ⟨htemp, hfloor⟩ := hcool f hf
    rw [hfloor, Bool.or_false, decide_eq_true_eq] at hhot
    omega
  have hall : (s.halfFields east).all (fun f => (s.region f).temp + 5 ≤ s.pwr.limits.half) = true :=
    List.all_eq_true.2 fun f hf => decide_eq_true (hcool f hf).1
  exact (if_neg hnone).trans (if_pos hall)

theorem exec_coolantFault_none (s : State) (flow a b : Nat) (h : 30 ≤ flow ∧ a ≤ 60 ∧ b ≤ 60) :
    exec (.coolantFault flow a b) s = .next s := congrArg Host.Outcome.next (if_pos h)

/-- A fatal fault of a module with an ID that has not fenced itself. -/
theorem State.fatalFault_fences (s : State) (hid : s.idAssigned = true) (hfenced : s.recov.selfFenced = false) :
    s.fatalFault = s.moduleFence s.selfId (s.gen s.selfId + 1) none :=
  (if_pos hid).trans (if_neg fun h => Bool.false_ne_true (hfenced.symm.trans h))

end Sys2Proof.Machine
end

section
/-! The statements about power: its commands, the supply, the arbiter and heat. -/

namespace Sys2Proof.Machine

/-- Settles O15: a table waits or is refused; a half's divider takes its code; a field by its action. -/
theorem powerCommands : Obligations.PowerCommands := by
  unfold Obligations.PowerCommands
  refine ⟨?tables, ?fields⟩
  case tables =>
    intro s c b k
    refine ⟨fun hc => ?grants, fun off hadm hbad => ?badGrants, fun hc => ?limits, fun hc hsrc => ?half⟩
    case grants => exact congrArg Host.Outcome.next (runCommand_passes catPowerGrants rfl c s hc)
    case badGrants =>
      have hpre : catPowerGrants.pre (s.began c) c = { status := 0x2004, result := off } := by
        change tableRes (grantFault (c.bytes 704)) = _
        rw [hbad]
        rfl
      rw [exec_powerGrants, runCommand_fails catPowerGrants rfl c s hadm (by rw [hpre]; exact Nat.succ_ne_zero _), hpre]
      rfl
    case limits => exact congrArg Host.Outcome.next (runCommand_passes catThermalLimits rfl c s hc)
    case half =>
      have hexec : exec (.halfClock c) s
          = .next (((s.began c).halfClock (c.n.testBit 0) (BitVec.ofNat 2 (bits c.n 2 1))).finish ⟨0x61, c⟩ k {}) := by
        rw [exec_halfClock, runCommand_passes catHalfClock rfl c s hc]
        rfl
      obtain ⟨hclk, hparts, hpwr, hfields⟩ :=
        ((s.began c).halfClock (c.n.testBit 0) (BitVec.ofNat 2 (bits c.n 2 1))).finish_power ⟨0x61, c⟩ k {} hsrc
      obtain ⟨hbClk, hbParts, hbPwr, hbFields⟩ := s.began_power c
      refine ⟨_, hexec, ?_⟩
      beta_reduce
      rw [hclk, hparts, hpwr, hfields, State.halfClock_same, hbClk]
      exact ⟨rfl, rfl, rfl, rfl, rfl, hbParts, hbPwr, hbFields⟩
  case fields =>
    intro s c hc f b
    have hexec := exec_fieldPower_action c s hc
    refine ⟨fun haction => ?on, fun haction => ?atFence, fun haction => ?now⟩
    case on => rw [hexec, haction]; rfl
    case atFence => rw [hexec, haction]; rfl
    case now => rw [hexec, haction]; rfl

/-- Settles O51: a pair, a band or CLIP by the voltage or the current that it meets. -/
theorem supplyEvents : Obligations.SupplyEvents := by
  unfold Obligations.SupplyEvents
  intro s
  refine ⟨fun volts hlow ha hb pair hpair => ?lost, fun volts hlo hhi ha hb => ?restored, fun a b hnow hlo hhi => ?leaves,
    fun a b hnow hlo hhi => ?returns, fun amps hoff hreach => ?clips, fun amps hon hbelow => ?released⟩
  case lost =>
    obtain rfl | rfl : pair = 0 ∨ pair = 1 := by omega
    · exact ⟨_, exec_pairLost_a s volts hlow ha hb, Pwr.currentLimit_one _ (.inl hlow), rfl, rfl, rfl⟩
    · exact ⟨_, exec_pairLost_b s volts hlow ha hb, Pwr.currentLimit_one _ (.inr hlow), Nat.max_comm _ _, rfl, rfl⟩
  case restored => exact ⟨_, exec_pairRestored_a s volts hlo hhi ha, Pwr.currentLimit_both _ hlo hb, rfl, rfl⟩
  case leaves =>
    exact exec_marginalBandChange_enters s a b .marginal (supplyBand_high hlo hhi) (.inr rfl) (by rw [hnow]; decide) (.inl hnow)
  case returns =>
    exact exec_marginalBandChange_enters s a b .operating (supplyBand_operating hlo hhi) (.inl rfl) (by rw [hnow]; decide) (.inr hnow)
  case clips => exact ⟨_, exec_clipAssert_reached s amps hoff hreach, rfl, rfl, rfl⟩
  case released => exact exec_clipRelease_below s amps hon hbelow

/-- Settles O52: an evaluation is that of what it has measured and of the tables in force; a sample sets the gate of its region. -/
theorem powerArbiter : Obligations.PowerArbiter := by
  unfold Obligations.PowerArbiter
  refine ⟨?evaluation, ?gates⟩
  case evaluation =>
    intro s measures powers
    obtain ⟨supply, regions, heval⟩ := s.powerEvaluation_same measures powers
    rw [Pwr.evaluated_same] at heval
    refine ⟨_, (exec_powerEvaluation measures powers s).trans (congrArg Host.Outcome.next heval), ?_⟩
    exact ⟨rfl, rfl, rfl, rfl, rfl, rfl, rfl, rfl, rfl, rfl⟩
  case gates =>
    intro s i p hi r
    have hexec := (exec_issueGateSample i p s hi).trans (congrArg Host.Outcome.next (s.issueSample_eq i p))
    refine ⟨fun habove hclip hstage => ?above, fun hle hlow hcount hclip hstage => ?low, _, hexec, ?_⟩
    case above =>
      rw [hexec, hclip]
      refine congrArg Host.Outcome.next (s.modRegion_congr i _ _ ?_)
      exact r.sampled_above p habove hstage
    case low =>
      rw [hexec, hclip]
      refine congrArg Host.Outcome.next (s.modRegion_congr i _ _ ?_)
      exact r.sampled_low p hle hlow hcount hstage
    beta_reduce
    rw [State.region_modRegion_same]
    refine ⟨fun hclip => ?_, fun hstage => r.sampled_hot p _ hstage⟩
    rw [hclip]
    exact r.sampled_clip p

/-- Settles O53: the ladder, the cap and the dividers by their thresholds; a coolant fault is a fatal one. -/
theorem thermal : Obligations.Thermal := by
  unfold Obligations.Thermal
  refine ⟨?ladder, ?dividers⟩
  case ladder =>
    intro s f t hf r g floor
    refine ⟨fun hreach hoff hemerg hstage hon => ?throttles, fun hcool hoff hemerg hband => ?cool, fun c hcap hstage => ?falls,
      fun c hcap hstage => ?rises, fun hstage hcool => ?three, fun hstage hcool hband => ?one⟩
    case throttles =>
      rw [exec_sensorRead_one, s.reading_field f t hf, s.fieldReading_throttles f t hoff hemerg hreach hstage hon]
    case cool => rw [exec_sensorRead_one, s.reading_field f t hf, s.fieldReading_cool f t hoff hemerg hcool hband]
    case falls =>
      rw [exec_thermalCapStep f s hf, s.capStep_falls f c hcap hstage]
      exact congrArg Host.Outcome.next (s.modRegion_congr f _ _ rfl)
    case rises =>
      rw [exec_thermalCapStep f s hf, s.capStep_rises f c hcap hstage]
      exact congrArg Host.Outcome.next (s.modRegion_congr f _ _ rfl)
    case three => rw [exec_thermalStageExit f s hf, s.stageExit_three f hstage hcool]
    case one => rw [exec_thermalStageExit f s hf, s.stageExit_one f hstage hcool hband]
  case dividers =>
    intro s
    refine ⟨fun east f hf hhot hmore => ?slows, fun east hcool => ?speeds, fun flow a b hflow ha hb => ?none,
      fun flow a b hbad hid hfenced => ?fences⟩
    case slows => rw [exec_thermalDividerStep, s.dividerStep_slows east f hf hhot hmore]
    case speeds => rw [exec_thermalDividerStep, s.dividerStep_speeds east hcool]
    case none => exact exec_coolantFault_none s flow a b ⟨hflow, ha, hb⟩
    case fences =>
      intro t
      have hexec : exec (.coolantFault flow a b) s = .next t.fatalFault :=
        congrArg Host.Outcome.next (if_neg fun h => by omega)
      rw [hexec, t.fatalFault_fences hid hfenced]

end Sys2Proof.Machine
end

section
/-! SUPPORT. Rules of the reports and of telemetry (R524 to R531, R537, R540, R541), of wear and the lifetime records (R532 to R536,
R542), and of the commands of fences, admissions and replays (R429, R434 to R438, R447, R448). -/

namespace Sys2Proof.Machine

/-! ### Telemetry of a master (R528) -/

theorem State.began_telem (s : State) (c : Packet) (src : Source) : (s.began c).telem src = s.telem src := by
  unfold State.began State.enter
  cases c.src <;> cases src <;> rfl

section Master
variable (s : State) (src : Source) (h : src ≠ .peer)
include h

theorem State.telem_master : s.telem src = if src = .mgmt then s.mgmt.mgmtTelem else s.mgmt.hostTelem := by
  cases src
  case peer => exact absurd rfl h
  all_goals rfl

theorem State.setTelem_master (t : Telem) :
    s.setTelem src t
      = { s with mgmt := if src = .mgmt then { s.mgmt with mgmtTelem := t } else { s.mgmt with hostTelem := t } } := by
  cases src
  case peer => exact absurd rfl h
  all_goals rfl

theorem State.sendSnapshot_master (tag : BitVec 8) (forced : Bool) :
    s.sendSnapshot src tag forced
      = (s.setTelem src { s.telem src with seq := (s.telem src).seq + 1 }).emit
          (if src = .mgmt then .mgmtMsg 4 tag (s.snapshot ((s.telem src).seq + 1) forced)
            else .hostWrite ((s.telem src).addr.toNat + 16384 * (((s.telem src).seq + 1) % (s.telem src).slots))
              (s.snapshot ((s.telem src).seq + 1) forced)) := by
  cases src
  case peer => exact absurd rfl h
  all_goals rfl

end Master

theorem State.deliver_master (s : State) (c : Packet) (h : c.src ≠ .peer) (addr kind : Nat) (bs : List Byte) :
    s.deliver c addr kind bs = s.emit (if c.src = .mgmt then .mgmtMsg kind c.tag bs else .hostWrite addr bs) := by
  unfold State.deliver
  cases hsrc : c.src
  case peer => exact absurd hsrc h
  all_goals rfl

/-! ### The report commands -/

theorem exec_telemetryConfig (c : Packet) (s : State) :
    exec (.telemetryConfig c) s = .next (runCommand catTelemetryConfig.opcode c s) := rfl

theorem exec_snapshot (c : Packet) (s : State) : exec (.snapshot c) s = .next (runCommand catSnapshot.opcode c s) := rfl

theorem exec_lifeRead (c : Packet) (s : State) : exec (.lifeRead c) s = .next (runCommand catLifeRead.opcode c s) := rfl

theorem exec_attest (c : Packet) (s : State) : exec (.attest c) s = .next (runCommand catAttest.opcode c s) := rfl

theorem exec_idRead (c : Packet) (s : State) : exec (.idRead c) s = .next (runCommand catIdRead.opcode c s) := rfl

section Attest
variable (c : Packet) (s : State) (h : Passes catAttest c s)
include h

theorem exec_attest_signed (report : List Byte) (t : State)
    (hsign : (s.began c).attest (leBytes 32 (bits c.n 255 0)) = some (report, t)) :
    exec (.attest c) s = .next ((t.deliver c (bits c.n 319 256) 5 report).finish ⟨0x80, c⟩ (s.csnOf c) {}) := by
  rw [exec_attest, runCommand_passes catAttest rfl c s h]
  simp only [catAttest, hsign]

/-- The identity key is spent (R540). -/
theorem exec_attest_spent (hsign : (s.began c).attest (leBytes 32 (bits c.n 255 0)) = none) :
    exec (.attest c) s = .next ((s.began c).finish ⟨0x80, c⟩ (s.csnOf c) { status := 0x5005 }) := by
  rw [exec_attest, runCommand_passes catAttest rfl c s h]
  simp only [catAttest, hsign]

end Attest

/-! ### Snapshots that come due, and calibration (R528, R531) -/

theorem State.snapshotDue_off (s : State) (src : Source) (busy : Bool) (h : (s.telem src).enable = false) :
    s.snapshotDue src busy = s := by
  simp only [State.snapshotDue, h, Bool.not_false, if_true]

section Due
variable (s : State) (h : s.mgmt.hostTelem.enable = true)
include h

theorem State.snapshotDue_busy :
    s.snapshotDue .host true = s.modMgmt fun m =>
      { m with hostTelem := { s.mgmt.hostTelem with due := s.mgmt.hostTelem.due + 1, skipped := satAdd 8 s.mgmt.hostTelem.skipped 1 } } := by
  have hon : ¬ (!(s.telem .host).enable) = true := by rw [show (s.telem .host).enable = true from h]; decide
  exact if_neg hon

theorem State.snapshotDue_free :
    s.snapshotDue .host false
      = (s.setTelem .host { s.mgmt.hostTelem with due := s.mgmt.hostTelem.due + 1 }).sendSnapshot .host 0 false := by
  have hon : ¬ (!(s.telem .host).enable) = true := by rw [show (s.telem .host).enable = true from h]; decide
  exact if_neg hon

end Due

/-- With the port's stream off, a snapshot comes due for the host alone. -/
theorem exec_snapshotAssembly_host (s : State) (a b : Bool) (h : s.mgmt.mgmtTelem.enable = false)
    (hkept : (s.snapshotDue .host a).mgmt.mgmtTelem = s.mgmt.mgmtTelem) :
    exec (.snapshotAssembly a b) s = .next (s.snapshotDue .host a) :=
  congrArg Host.Outcome.next (State.snapshotDue_off _ _ _ ((congrArg Telem.enable hkept).trans h))

/-- A snapshot begins with its number. -/
theorem State.snapshot_number (s : State) (seq : Nat) (forced : Bool) : (s.snapshot seq forced).take 8 = leBytes 8 seq := by
  simp only [State.snapshot, record, List.flatMap_cons, List.append_assoc]
  exact List.take_left' (length_leBytes 8 seq)

theorem exec_sensorCalibration (sensor : Nat) (s : State) : exec (.sensorCalibration sensor) s = .next (s.calibrate sensor) := rfl

section Sensor
variable (s : State) (f : Nat) (hf : f < 64)
include hf

/-- What bars the first sensor of a field. -/
theorem State.calibrate_field :
    s.calibrate (64 * f)
      = if decide (3 ≤ (s.region f).stage) = true
          ∨ ((s.life.calHold = true ∨ s.paused = true) ∧ s.clk.rootTime - sget 0 s.life.calibrated (64 * f) < 600 * 7200000000) then s
        else s.modLife fun l => { l with calibrated := sset 0 l.calibrated (64 * f) s.clk.rootTime } := by
  have hplace : 64 * f / 64 = f := Nat.mul_div_cancel_left f (by decide)
  simp only [State.calibrate, hplace, hf, if_true]

theorem State.calibrate_barred (hhot : 3 ≤ (s.region f).stage) : s.calibrate (64 * f) = s := by
  rw [s.calibrate_field f hf, if_pos (.inl (decide_eq_true hhot))]

theorem State.calibrate_free (hcool : (s.region f).stage < 3) (hhold : s.life.calHold = false) (hpaused : s.paused = false) :
    s.calibrate (64 * f) = s.modLife fun l => { l with calibrated := sset 0 l.calibrated (64 * f) s.clk.rootTime } := by
  rw [s.calibrate_field f hf, if_neg]
  rintro (hhot | ⟨hheld | hheld, -⟩)
  · exact Nat.not_le.2 hcool (of_decide_eq_true hhot)
  · exact Bool.false_ne_true (hhold.symm.trans hheld)
  · exact Bool.false_ne_true (hpaused.symm.trans hheld)

end Sensor

/-! ### Wear and lifetime records (R532 to R536) -/

/-- The state with other lifetime records. -/
def State.withLife (s : State) (l : Life) : State := { s with life := l }

/-- Powered time counted by `n` seconds, of `ticks`. -/
def State.countSeconds (s : State) (n ticks : Nat) : State :=
  if n = 0 then s
  else
    let s := s.modLife fun l =>
      { l with
        mark := l.mark + ticks, poweredSeconds := satAdd 32 l.poweredSeconds n
        marginalSeconds := if s.pwr.marginal then satAdd 32 l.marginalSeconds n else l.marginalSeconds }
    s.forAll (if s.unpowered then [] else List.range 8) fun s k =>
      s.kprLife k fun l =>
        { l with
          powered := satAdd 32 l.powered n
          double := (List.range 4).foldl (fun m j =>
            if (s.stack (4 * k + j)).refresh2x then smod 0 m j fun v => satAdd 32 v n else m) l.double }

theorem State.countPowered_eq (s : State) :
    s.countPowered = s.countSeconds ((s.clk.rootTime - s.life.mark) / 7200000000)
      ((s.clk.rootTime - s.life.mark) / 7200000000 * 7200000000) := rfl

/-- Of `s`, only the lifetime records have changed, and of them neither the wear of a field nor what the log holds. -/
def State.Counted (s t : State) : Prop :=
  ∃ l : Life, t = s.withLife l ∧ l.wear = s.life.wear ∧ l.writeFail = s.life.writeFail ∧ l.lastSeq = s.life.lastSeq

theorem State.counted_countSeconds (s : State) (n ticks : Nat) : s.Counted (s.countSeconds n ticks) := by
  unfold State.countSeconds
  dsimp only
  split
  · exact ⟨s.life, rfl, rfl, rfl, rfl⟩
  · refine State.forAll_induction s.Counted _ _ _ ⟨_, rfl, rfl, rfl, rfl⟩ ?_
    rintro t k ⟨l, rfl, hkept⟩
    exact ⟨_, rfl, hkept⟩

theorem State.counted_countPowered (s : State) : s.Counted s.countPowered := by
  rw [State.countPowered_eq]
  exact s.counted_countSeconds _ _

/-- The wear of a powered second. -/
def Wear.second (w : Wear) (band temp centiamps excess : Nat) : Wear :=
  let hot := if 85 < temp then w.hot + 1 else w.hot
  let em := w.em + emUnits centiamps temp
  { w with
    powered := satAdd 32 w.powered 1, band := smod 0 w.band band fun n => satAdd 32 n 1
    hot := hot, em := em, stress := w.stress + excess
    warn := w.warn || decide (90 * 20000 * 3600 ≤ 100 * hot) || decide (90 * 100000 * emHour ≤ 100 * em)
    derated := w.derated || decide (20000 * 3600 ≤ hot) || decide (100000 * emHour ≤ em) }

theorem State.wearSecond_dark (s : State) (f amps : Nat) (h : (s.field f).isOff = true ∨ s.unpowered = true) :
    s.wearSecond f amps = s := if_pos (by simpa only [Bool.or_eq_true] using h)

/-- A second of a powered field changes the lifetime records alone, and of the wear of the fields only its own. -/
theorem State.wearSecond_powered (s : State) (f amps : Nat) (hon : (s.field f).isOff = false) (hpower : s.unpowered = false) :
    ∃ l : Life, s.wearSecond f amps = s.withLife l
      ∧ l.wear = smod {} s.life.wear f fun w => w.second (s.field f).band (s.region f).temp amps (s.pwr.vin - 600) := by
  obtain ⟨counted, hsame, hwear, -⟩ := s.counted_countPowered
  unfold State.wearSecond
  simp only [hon, hpower, Bool.or_self, Bool.false_eq_true, if_false]
  rw [hsame]
  refine State.forAll_induction (fun t => ∃ l, t = s.withLife l ∧ l.wear = _) _ _ _ ⟨_, rfl, ?_⟩ ?_
  · rw [← hwear]
    rfl
  · rintro t st ⟨l, rfl, hl⟩
    exact ⟨_, rfl, hl⟩

/-- Of `s`, only the lifetime records have changed: a failed write has set WRITE_FAIL, and the module's counter record stands in the
log under the next number. -/
def State.WroteSet (s : State) (ok : Bool) (t : State) : Prop :=
  ∃ l : Life, t = s.withLife l ∧ l.writeFail = (s.life.writeFail || !ok)
    ∧ ∃ r ∈ l.records, r.type = 1 ∧ r.subject = 0 ∧ r.seq = s.life.lastSeq + 1

theorem State.WroteSet.lifeRecord {s t : State} {ok : Bool} (h : s.WroteSet ok t) (type subject : Nat) (body : List Byte) :
    s.WroteSet ok (t.lifeRecord type subject body) := by
  obtain ⟨l, rfl, hl, r, hr, hrecord⟩ := h
  exact ⟨_, rfl, hl, r, List.mem_cons_of_mem _ hr, hrecord⟩

theorem State.WroteSet.forAll {α : Type} {s t : State} {ok : Bool} (h : s.WroteSet ok t) (l : List α) (type : Nat) (subject : α → Nat)
    (body : State → α → List Byte) : s.WroteSet ok (t.forAll l fun s a => s.lifeRecord type (subject a) (body s a)) :=
  State.forAll_induction (s.WroteSet ok) t l _ h fun _ _ hu => hu.lifeRecord _ _ _

/-- The log with the module's own record; of the older of two sets it keeps no record. -/
def State.writeHead (s : State) (ok : Bool) : State :=
  let s := s.countPowered
  let s := if ok then s else s.modLife fun l => { l with writeFail := true }
  let second (r : LifeRec) : Bool := r.type < 0x10 && s.life.records.any fun q => q.type == r.type && q.subject == r.subject && r.seq < q.seq
  let s := s.modLife fun l => { l with records := l.records.filter fun r => !second r }
  s.lifeRecord 1 0 s.moduleCounters

theorem State.wroteSet_writeHead (s : State) (ok : Bool) : s.WroteSet ok (s.writeHead ok) := by
  obtain ⟨l, hsame, -, hfail, hseq⟩ := s.counted_countPowered
  unfold State.writeHead
  rw [hsame]
  cases ok
  · exact ⟨_, rfl, (Bool.or_true _).symm, _, List.mem_cons_self, rfl, rfl, congrArg (· + 1) hseq⟩
  · exact ⟨_, rfl, hfail.trans (Bool.or_false _).symm, _, List.mem_cons_self, rfl, rfl, congrArg (· + 1) hseq⟩

/-- The records of the fields, the Keepers and the ports follow. -/
theorem State.writeCounters_eq (s : State) (ok : Bool) :
    s.writeCounters ok
      = (((s.writeHead ok).forAll (List.range 64) fun s f => s.lifeRecord 2 f (s.wear f).counters).forAll (List.range 8)
          fun s k => s.lifeRecord 3 k (sget {} s.life.kprs k).counters).forAll
            ((List.range 64).filter (((s.writeHead ok).forAll (List.range 64) fun s f => s.lifeRecord 2 f (s.wear f).counters).forAll
              (List.range 8) fun s k => s.lifeRecord 3 k (sget {} s.life.kprs k).counters).portPresent)
          fun s p => s.lifeRecord 4 p (sget {} s.life.ports p).counters := rfl

theorem State.wroteSet_writeCounters (s : State) (ok : Bool) : s.WroteSet ok (s.writeCounters ok) := by
  rw [State.writeCounters_eq]
  exact (((s.wroteSet_writeHead ok).forAll _ 2 id _).forAll _ 3 id _).forAll _ 4 id _

section Budget
variable (w : Wear) (band temp centiamps excess : Nat)

/-- 90 % of the budget of hot time. -/
theorem Wear.second_warns (h : 90 * 20000 * 3600 ≤ 100 * (w.second band temp centiamps excess).hot) :
    (w.second band temp centiamps excess).warn = true := by
  have hwarn : decide (90 * 20000 * 3600 ≤ 100 * if 85 < temp then w.hot + 1 else w.hot) = true := decide_eq_true h
  simp only [Wear.second, hwarn, Bool.or_true, Bool.true_or]

theorem Wear.second_derates (h : 20000 * 3600 ≤ (w.second band temp centiamps excess).hot) :
    (w.second band temp centiamps excess).derated = true := by
  have hspent : decide (20000 * 3600 ≤ if 85 < temp then w.hot + 1 else w.hot) = true := decide_eq_true h
  simp only [Wear.second, hspent, Bool.or_true, Bool.true_or]

end Budget

/-! ### Requests for attestation (R542) -/

theorem exec_attReq_opened (s : State) (i head : Nat) (h : (s.ctx i).state = .opened) :
    exec (.attReq i head) s = .next (s.attRequest i head) := congrArg Host.Outcome.next (if_pos h)

theorem State.attRequest_off (s : State) (i head : Nat) (hoff : s.life.attEn = false) :
    s.attRequest i head = (s.took i 4 1).modLife fun l => { l with attDropped := satAdd 16 l.attDropped 1 } :=
  if_pos (.inl hoff)

/-- The first request that is answered. -/
theorem State.attRequest_answers (s : State) (i head : Nat) (report : List Byte) (t : State) (hon : s.life.attEn = true)
    (hfirst : s.life.lastAtt = none) (hsign : (s.took i 4 1).attest (leBytes 32 head) = some (report, t)) :
    s.attRequest i head = (t.modLife fun l => { l with lastAtt := some t.clk.rootTime }).send i 4 0x51 (report.take 512) true
      (report.drop 512 ++ List.replicate (2560 - (report.drop 512).length) 0) := by
  have hanswers : ¬ ((s.took i 4 1).life.attEn = false
      ∨ ((s.took i 4 1).life.lastAtt.any fun t => decide ((s.took i 4 1).clk.rootTime < t + 72000000000)) = true) := by
    rintro (hoff | hrecent)
    · exact Bool.false_ne_true (hoff.symm.trans hon)
    · rw [show (s.took i 4 1).life.lastAtt = none from hfirst] at hrecent
      exact Bool.false_ne_true hrecent
  refine (if_neg hanswers).trans ?_
  rw [hsign]

/-! ### A reset of the management port (R526) -/

theorem exec_mgmtPortReset_served (s : State) (h : s.mgmtServed = true) : exec .mgmtPortReset s = .next { s with
    arb := { s.arb with
      inflight := s.arb.inflight.map fun f => if f.cmd.packet.src = .mgmt then { f with muted := true } else f }
    mgmt := { s.mgmt with
      linked := false, portResets := satAdd 16 s.mgmt.portResets 1, dataIn := none, queue := [], events := {}
      mgmtTelem := { seq := s.mgmt.mgmtTelem.seq, skipped := s.mgmt.mgmtTelem.skipped } } } :=
  congrArg Host.Outcome.next (if_neg fun hout => Bool.false_ne_true (hout.symm.trans h))

/-- A muted command of the management port ends with nothing but its place given back. -/
theorem State.final_muted (u : State) (f : InFlight) (r : Res) (hsrc : f.cmd.packet.src = .mgmt)
    (hf : u.flight f.csn = some { f with muted := true }) :
    u.final f.csn r = { u with
      arb := { u.arb with inflight := u.arb.inflight.filter fun g => g.csn != f.csn }
      mgmt := { u.mgmt with outstanding := u.mgmt.outstanding - 1 } } := by
  simp only [State.final, hf, if_true, State.mgmtDone, hsrc]

/-! ### Fences, admissions and replays -/

theorem exec_moduleFence (c : Packet) (s : State) : exec (.moduleFence c) s = .next (runCommand catModuleFence.opcode c s) := rfl

theorem exec_spareAdmit (c : Packet) (s : State) : exec (.spareAdmit c) s = .next (runCommand catSpareAdmit.opcode c s) := rfl

theorem exec_spareRelease (c : Packet) (s : State) : exec (.spareRelease c) s = .next (runCommand catSpareRelease.opcode c s) := rfl

@[simp] theorem State.began_recov (s : State) (c : Packet) : (s.began c).recov = s.recov := by rw [State.began_same]

/-- A fence's generation is not above the one held. -/
theorem exec_moduleFence_stale (c : Packet) (s : State) (h : Admitted 0x50 c s) (hstale : bits c.n 27 12 ≤ s.gen (bits c.n 11 0)) :
    exec (.moduleFence c) s
      = .next ((s.began c).finish ⟨0x50, c⟩ (s.csnOf c) { status := 0x4003, result := s.gen (bits c.n 11 0) }) := by
  have hpre : catModuleFence.pre (s.began c) c = { status := 0x4003, result := s.gen (bits c.n 11 0) } := by
    simp only [catModuleFence, State.gen, State.began_recov]
    exact if_neg (Nat.not_lt.2 hstale)
  rw [exec_moduleFence, runCommand_fails catModuleFence rfl c s h (by rw [hpre]; exact Nat.succ_ne_zero _), hpre]
  rfl

/-- An admission's generation is not above the one admitted. -/
theorem exec_spareAdmit_stale (c : Packet) (s : State) (h : Admitted 0x51 c s)
    (hstale : bits c.n 27 12 ≤ (sget (0, 0, 0) s.recov.admitted (bits c.n 11 0)).1) :
    exec (.spareAdmit c) s = .next ((s.began c).finish ⟨0x51, c⟩ (s.csnOf c)
      { status := 0x4003, result := (sget (0, 0, 0) s.recov.admitted (bits c.n 11 0)).2.1 }) := by
  have hpre : catSpareAdmit.pre (s.began c) c
      = { status := 0x4003, result := (sget (0, 0, 0) s.recov.admitted (bits c.n 11 0)).2.1 } := by
    simp only [catSpareAdmit, State.began_recov]
    exact if_neg (Nat.not_lt.2 hstale)
  rw [exec_spareAdmit, runCommand_fails catSpareAdmit rfl c s h (by rw [hpre]; exact Nat.succ_ne_zero _), hpre]
  rfl

/-- The versions that bound a replay are those before it is accepted. -/
theorem State.began_past (s : State) (c : Packet) : (s.began c).past = s.past := by rw [State.began_same]; rfl

theorem State.began_snoopedVersion (s : State) (c : Packet) : (s.began c).snoopedVersion = s.snoopedVersion := by
  rw [State.began_same]; rfl

section Replay
variable (s : State) (csn : Nat) (c : Packet)

/-- The replay's plan is of other rows, or its step below the versions kept. -/
theorem State.diagReplay_refused
    (h : bits (Plan.ofImage (c.bytes (bits c.n 159 128))).header 55 48 ≠ (s.part (bits c.n 2 0)).rows.toNat
      ∨ bits c.n 54 15 + s.past < max (s.part (bits c.n 2 0)).hver s.snoopedVersion) :
    s.diagReplay csn ⟨0x54, c⟩ = { s with freeCtr := s.freeCtr + 1 }.finish ⟨0x54, c⟩ csn
      { status := 0x5000 + (Config.freeValue s.freeCtr).toNat % 4096 } := if_pos h

/-- Else the plan's check decides. -/
theorem State.diagReplay_accepted
    (hrows : bits (Plan.ofImage (c.bytes (bits c.n 159 128))).header 55 48 = (s.part (bits c.n 2 0)).rows.toNat)
    (hkept : max (s.part (bits c.n 2 0)).hver s.snoopedVersion ≤ bits c.n 54 15 + s.past) :
    s.diagReplay csn ⟨0x54, c⟩
      = match (s.accept ⟨0x54, c⟩ csn).planFault (bits c.n 2 0) (s.part (bits c.n 2 0)).rows.toNat (c.bytes (bits c.n 159 128))
            (bits c.n 159 128) with
        | some (status, offset) => (s.accept ⟨0x54, c⟩ csn).final csn { status := status, result := offset }
        | none => (s.accept ⟨0x54, c⟩ csn).startReplay (bits c.n 2 0) csn (bits c.n 14 3) (bits c.n 54 15)
            (Plan.ofImage (c.bytes (bits c.n 159 128)))
            (if bits c.n 223 160 = 0 then [] else (c.data.drop (bits c.n 159 128)).take 8192) := by
  refine if_neg ?_
  rintro (hother | hbelow)
  · exact hother hrows
  · exact Nat.not_lt.2 hkept hbelow

end Replay

end Sys2Proof.Machine
end

section
/-! The statements about reports, telemetry, lifetime and the management port, and about fences and replays by command. -/

namespace Sys2Proof.Machine

/-- Settles O16: each report goes to the master that asks. -/
theorem reportCommands : Obligations.ReportCommands := by
  unfold Obligations.ReportCommands
  intro s c hsrc b k n own keep put
  have hput (u : State) (addr kind : Nat) (bs : List Byte) : u.deliver c addr kind bs = put u addr kind bs :=
    u.deliver_master c hsrc addr kind bs
  have hown : b.telem c.src = own := (s.began_telem c c.src).trans (s.telem_master c.src hsrc)
  have hkeep (t : Telem) : b.setTelem c.src t = keep t := b.setTelem_master c.src hsrc t
  refine ⟨fun hc => ?config, fun hc => ?snapshot, fun hc => ?life, fun report t hc hsign => ?signed,
    fun hc hsign => exec_attest_spent c s hc hsign, fun hc => ?identity⟩
  case config =>
    rw [exec_telemetryConfig, runCommand_passes catTelemetryConfig rfl c s hc, ← hkeep, ← hown]
    rfl
  case snapshot =>
    have heff : catSnapshot.eff k ⟨catSnapshot.opcode, c⟩ b = (b.sendSnapshot c.src c.tag true).finish ⟨0x71, c⟩ k {} := rfl
    rw [exec_snapshot, runCommand_passes catSnapshot rfl c s hc, heff, b.sendSnapshot_master c.src hsrc, hkeep, hown]
  case life =>
    intro r
    rw [exec_lifeRead, runCommand_passes catLifeRead rfl c s hc, ← hput]
    rfl
  case signed => rw [exec_attest_signed c s hc report t hsign, hput]
  case identity =>
    rw [exec_idRead, runCommand_passes catIdRead rfl c s hc, ← hput]
    rfl

/-- Settles O14: a generation that is not above the one held is refused; a replay by the checks on its plan. -/
theorem fenceAndReplayCommands : Obligations.FenceAndReplayCommands := by
  unfold Obligations.FenceAndReplayCommands
  refine ⟨?fences, ?replays⟩
  case fences =>
    intro s c f g k
    refine ⟨fun hc => ?fence, fun hc hstale => exec_moduleFence_stale c s hc hstale, fun hc => ?admission,
      fun hc hstale => exec_spareAdmit_stale c s hc hstale, fun hc => ?release⟩
    case fence => exact congrArg Host.Outcome.next (runCommand_passes catModuleFence rfl c s hc)
    case admission => exact congrArg Host.Outcome.next (runCommand_passes catSpareAdmit rfl c s hc)
    case release =>
      intro b
      have hb : (s.began c).forAll (s.began c).recov.standbyCtxs (fun s i => s.closeCtx i) = b := by
        rw [State.began_recov]
        rfl
      rw [exec_spareRelease, runCommand_passes catSpareRelease rfl c s hc, ← hb]
      rfl
  case replays =>
    intro s c hc hsrc p length img plan x hv step mask
    have hexec : exec (.diagReplay c) s = .next ((s.began c).diagReplay (s.csnOf c) ⟨0x54, c⟩) :=
      congrArg Host.Outcome.next (runCommand_passes catDiagReplay rfl c s hc)
    refine ⟨fun hrefused => ?refused, fun hrows hkept => ?accepted⟩
    case refused =>
      rw [hexec, State.diagReplay_refused, State.began_freeCtr]
      rw [State.began_part, State.began_past, State.began_snoopedVersion]
      exact hrefused
    case accepted =>
      intro b
      rw [hexec, State.diagReplay_accepted, State.began_part]
      · exact ⟨fun st off hfault => by rw [hfault], fun hfault => by rw [hfault]⟩
      · rw [State.began_part]
        exact hrows
      · rw [State.began_part, State.began_past, State.began_snoopedVersion]
        exact hkept

/-- Settles O48: outside the port, a reset leaves all but the marks of the port's commands. -/
theorem managementPortReset : Obligations.ManagementPortReset := by
  unfold Obligations.ManagementPortReset
  intro s hserved
  exact ⟨exec_mgmtPortReset_served s hserved, fun f _ hsrc =>
    ⟨fun u addr data => if_pos ⟨rfl, hsrc⟩, fun u r hf => u.final_muted f r hsrc hf⟩⟩

/-- Settles O49: data in, samples, due snapshots and calibration. -/
theorem telemetry : Obligations.Telemetry := by
  unfold Obligations.Telemetry
  refine ⟨?dataIn, ?samples, ?snapshots, ?sensors⟩
  case dataIn =>
    intro s tag data hready hsome hfits
    refine congrArg Host.Outcome.next (if_neg ?_)
    rintro (hout | hnone | hlong)
    · rw [State.mgmtServed, hready] at hout
      exact Bool.false_ne_true hout.symm
    · exact hsome hnone
    · exact Nat.not_lt.2 hfits hlong
  case samples =>
    intro s place bs hrecord
    refine congrArg Host.Outcome.next ?_
    rw [State.sample, hrecord]
  case snapshots =>
    intro s hport t
    refine ⟨fun hoff a b => ?_, fun hon => ⟨fun b => ?_, fun b => ?_⟩⟩
    · have hsame : s.snapshotDue .host a = s := s.snapshotDue_off .host a hoff
      rw [exec_snapshotAssembly_host s a b hport (by rw [hsame]), hsame]
    · have hbusy := s.snapshotDue_busy hon
      rw [exec_snapshotAssembly_host s true b hport (by rw [hbusy]; rfl), hbusy]
    · have hfree := s.snapshotDue_free hon
      refine ⟨_, exec_snapshotAssembly_host s false b hport (by rw [hfree]; rfl), ?_⟩
      rw [hfree]
      exact ⟨rfl, rfl, _, rfl, State.snapshot_number _ _ _⟩
  case sensors =>
    intro s f hf
    refine ⟨fun hhot => ?_, fun hcool hhold hpaused => ?_⟩
    · rw [exec_sensorCalibration, s.calibrate_barred f hf hhot]
    · rw [exec_sensorCalibration, s.calibrate_free f hf hcool hhold hpaused]

/-- Settles O50: wear of a second, the record of a counter set, and the requests of peers. -/
theorem lifetime : Obligations.Lifetime := by
  unfold Obligations.Lifetime
  refine ⟨?wear, ?sets, ?requests⟩
  case wear =>
    intro s f amps hf
    have hexec : exec (.wearAccumulate f amps) s = .next (s.wearSecond f amps) := congrArg Host.Outcome.next (if_pos hf)
    refine ⟨fun hdark => ?_, fun hon hpower => ?_⟩
    · rw [hexec, s.wearSecond_dark f amps hdark]
    · obtain ⟨l, hsame, hwear⟩ := s.wearSecond_powered f amps hon hpower
      have hown : (s.withLife l).wear f = (s.wear f).second (s.field f).band (s.region f).temp amps (s.pwr.vin - 600) := by
        change sget {} l.wear f = _
        rw [hwear, sget_smod, if_pos rfl]
        rfl
      refine ⟨_, hexec.trans (congrArg Host.Outcome.next hsame), ?_⟩
      beta_reduce
      rw [hown]
      refine ⟨rfl, rfl, rfl, (s.wear f).second_warns _ _ _ _, (s.wear f).second_derates _ _ _ _, fun g hg => ?_, rfl, rfl⟩
      change sget {} l.wear g = _
      rw [hwear, sget_smod, if_neg hg]
      rfl
  case sets =>
    intro s ok
    obtain ⟨l, hsame, hfail, hrecord⟩ := s.wroteSet_writeCounters ok
    exact ⟨_, congrArg Host.Outcome.next hsame, hfail, rfl, rfl, rfl, hrecord⟩
  case requests =>
    intro s i head hopen
    rw [exec_attReq_opened s i head hopen]
    refine ⟨fun hoff => ?_, fun report t hon hfirst hsign => ?_⟩
    · rw [s.attRequest_off i head hoff]
    · rw [s.attRequest_answers i head report t hon hfirst hsign]

end Sys2Proof.Machine
end

section
/-! SUPPORT. The board of a state: its fuses, its start-up part, and which eFuses have tripped or locked out; and the operations that
leave it: one rule for each, in the order of the model's files. -/

namespace Sys2Proof.Machine

/-- Of every power region, whether its eFuse has tripped and whether it is locked out (R485, R486). -/
def Pwr.efuses (p : Pwr) : Nat → Bool × Bool := fun i => ((sget {} p.regions i).tripped, (sget {} p.regions i).lockout)

/-- What only start-up, reset, firmware update and the eFuses change. -/
structure Board where
  fuses : Fuses
  boot : Boot
  efuses : Nat → Bool × Bool

def State.board (s : State) : Board := ⟨s.fuses, s.boot, s.pwr.efuses⟩

/-! ### Reading the board -/

@[simp] theorem board_mk (fuses boot clk host arb parts kprs stations fields net store banks hbm mlv recov pwr mgmt life out
    freeCtr pending) :
    (State.mk fuses boot clk host arb parts kprs stations fields net store banks hbm mlv recov pwr mgmt life out freeCtr
      pending).board = ⟨fuses, boot, pwr.efuses⟩ := by rfl

@[simp] theorem board_eta (s : State) : Board.mk s.fuses s.boot s.pwr.efuses = s.board := by rfl

@[simp] theorem board_ite (c : Prop) [Decidable c] (s t : State) :
    (if c then s else t).board = if c then s.board else t.board := apply_ite _ _ _ _

@[simp] theorem State.forAll_board {α : Type} (s : State) (l : List α) {f : State → α → State}
    (hf : ∀ s a, (f s a).board = s.board) : (s.forAll l f).board = s.board := foldl_keeps State.board f hf l s

section Boards
variable (s : State)

/-! ### Parts of the state, completions and leases -/

@[simp] theorem State.setPart_board (p x) : (s.setPart p x).board = s.board := by rfl
@[simp] theorem State.modPart_board (p f) : (s.modPart p f).board = s.board := by rfl
@[simp] theorem State.modKpr_board (k f) : (s.modKpr k f).board = s.board := by rfl
@[simp] theorem State.modKpart_board (k p f) : (s.modKpart k p f).board = s.board := by rfl
@[simp] theorem State.modStation_board (i f) : (s.modStation i f).board = s.board := by rfl
@[simp] theorem State.modField_board (i f) : (s.modField i f).board = s.board := by rfl
@[simp] theorem State.modBank_board (i f) : (s.modBank i f).board = s.board := by rfl
@[simp] theorem State.modStack_board (i f) : (s.modStack i f).board = s.board := by rfl
@[simp] theorem State.modTier_board (i f) : (s.modTier i f).board = s.board := by rfl
@[simp] theorem State.modPort_board (i f) : (s.modPort i f).board = s.board := by rfl
@[simp] theorem State.modCtx_board (i f) : (s.modCtx i f).board = s.board := by rfl
@[simp] theorem State.modRing_board (q f) : (s.modRing q f).board = s.board := by rfl
@[simp] theorem State.modDq_board (i f) : (s.modDq i f).board = s.board := by rfl
@[simp] theorem State.emit_board (o) : (s.emit o).board = s.board := by rfl
@[simp] theorem State.writeSlot_board (q c) : (s.writeSlot q c).board = s.board := by rfl

@[simp] theorem State.postWaiting_board (q c) : (s.postWaiting q c).1.board = s.board := by
  rw [State.postWaiting_same]
  rfl

@[simp] theorem State.postRing0_board (c) : (s.postRing0 c).board = s.board := by simp [State.postRing0]
@[simp] theorem State.postLater_board (q c) : (s.postLater q c).board = s.board := by simp [State.postLater]
@[simp] theorem State.postReserved_board (q c) : (s.postReserved q c).board = s.board := by simp [State.postReserved]
@[simp] theorem State.event_board (j result) : (s.event j result).board = s.board := by simp [State.event]
@[simp] theorem State.lifeRecord_board (type subject body) : (s.lifeRecord type subject body).board = s.board := by rfl
@[simp] theorem State.modWear_board (f g) : (s.modWear f g).board = s.board := by rfl
@[simp] theorem State.setHolder_board (r w) : (s.setHolder r w).board = s.board := by simp [State.setHolder]
@[simp] theorem State.giveLease_board (r w) : (s.giveLease r w).board = s.board := by simp [State.giveLease]
@[simp] theorem State.changeLease_board (r w) : (s.changeLease r w).board = s.board := by simp [State.changeLease]

/-! ### Links and contexts -/

@[simp] theorem State.pumpPort_board (p n) : (State.pumpPort p n s).board = s.board := by
  rw [State.pumpPort_same]
  rfl

@[simp] theorem State.dealTo_board (p c) : (s.dealTo p c).board = s.board := by simp [State.dealTo]
@[simp] theorem State.dealAgain_board (p c) : (s.dealAgain p c).board = s.board := by simp [State.dealAgain]

@[simp] theorem State.pumpCtx_board (i cls n) : (State.pumpCtx i cls n s).board = s.board := by
  rw [State.pumpCtx_same]
  rfl

@[simp] theorem State.pump_board (i cls) : (s.pump i cls).board = s.board := by simp [State.pump]

@[simp] theorem State.send_board (i cls msg head pay data) : (s.send i cls msg head pay data).board = s.board := by
  simp [State.send]

@[simp] theorem State.sendCpl_board (i e) : (s.sendCpl i e).board = s.board := by simp [State.sendCpl]
@[simp] theorem State.replyPeer_board (c csn e) : (s.replyPeer c csn e).board = s.board := by simp [State.replyPeer]

@[simp] theorem State.reply_board (first dest c csn r) : (s.reply first dest c csn r).board = s.board := by
  unfold State.reply
  dsimp only
  split <;> simp

@[simp] theorem State.mgmtDone_board (c) : (s.mgmtDone c).board = s.board := by simp [State.mgmtDone]

@[simp] theorem State.final_board (csn r) : (s.final csn r).board = s.board := by
  unfold State.final
  split <;> simp

@[simp] theorem State.forgetPeer_board (i) : (s.forgetPeer i).board = s.board := by rfl
@[simp] theorem State.purge_board (i) : (s.purge i).board = s.board := by simp [State.purge]
@[simp] theorem State.openCtx_board (i) : (s.openCtx i).board = s.board := by simp [State.openCtx]
@[simp] theorem State.dropCtx_board (i st) : (s.dropCtx i st).board = s.board := by simp [State.dropCtx]

@[simp] theorem State.requeue_board (p) : (s.requeue p).board = s.board := by
  unfold State.requeue
  dsimp only
  refine State.forAll_board _ _ fun s a => ?_
  split
  · simp
  · split <;> simp

@[simp] theorem State.startTraining_board (p) : (s.startTraining p).board = s.board := by simp [State.startTraining]

/-! ### Stations, Keepers and pages -/

@[simp] theorem State.modCore_board (st f) : (s.modCore st f).board = s.board := by rfl
@[simp] theorem State.modOpage_board (k p g f) : (s.modOpage k p g f).board = s.board := by rfl
@[simp] theorem State.finalAll_board (op p r) : (s.finalAll op p r).board = s.board := by simp [State.finalAll]

@[simp] theorem State.pullPage_board (k p g comps) : (s.pullPage k p g comps).board = s.board := by
  unfold State.pullPage
  dsimp only
  split <;> simp

@[simp] theorem State.beginTransfer_board (port n r) : (s.beginTransfer port n r).board = s.board := by rfl
@[simp] theorem State.transfer_board (port n r) : (s.transfer port n r).board = s.board := by simp [State.transfer]
@[simp] theorem State.loseComp_board (k p g c) : (s.loseComp k p g c).board = s.board := by simp [State.loseComp]
@[simp] theorem State.startFetch_board (k p g c) : (s.startFetch k p g c).board = s.board := by simp [State.startFetch]

@[simp] theorem State.need_board (k p g c) : (s.need k p g c).1.board = s.board := by
  unfold State.need
  split <;> simp

@[simp] theorem State.needAll_board (k p g cs) : (s.needAll k p g cs).1.board = s.board := by
  unfold State.needAll
  exact List.foldlRecOn (motive := fun r : State × Bool => r.1.board = s.board) _ _ rfl fun r h c _ => by simpa using h

@[simp] theorem State.restoreFromHusk_board (k p g) : (s.restoreFromHusk k p g).board = s.board := by
  simp [State.restoreFromHusk]

@[simp] theorem State.copyMismatch_board (k p g v requester) : (s.copyMismatch k p g v requester).board = s.board := by
  simp [State.copyMismatch]

@[simp] theorem State.servePage_board (k p g v requester) : (s.servePage k p g v requester).board = s.board := by
  unfold State.servePage
  dsimp only
  split <;> simp

@[simp] theorem State.serveWaiting_board (k p g) : (s.serveWaiting k p g).board = s.board := by simp [State.serveWaiting]

@[simp] theorem State.requestPage_board (k p g v requester) : (s.requestPage k p g v requester).board = s.board := by
  simp [State.requestPage]

@[simp] theorem State.gatherPage_board (p eval g v) : (s.gatherPage p eval g v).board = s.board := by
  unfold State.gatherPage
  dsimp only
  split
  · simp
  · split
    · simp
    · split <;> simp

@[simp] theorem State.gather_board (p eval v) : (s.gather p eval v).board = s.board := by simp [State.gather]
@[simp] theorem State.startEvict_board (k p g c) : (s.startEvict k p g c).board = s.board := by simp [State.startEvict]
@[simp] theorem State.keepProbe_board (st) : (s.keepProbe st).board = s.board := by rfl
@[simp] theorem State.restartOver_board (f) : (s.restartOver f).board = s.board := by simp [State.restartOver]
@[simp] theorem State.endProbe_board (p) : (s.endProbe p).board = s.board := by simp [State.endProbe]
@[simp] theorem State.progress_board (p) : (s.progress p).board = s.board := by simp [State.progress]

@[simp] theorem State.giveCredits_board (n l) : (State.giveCredits n l s).board = s.board := by
  induction l generalizing n s with
  | nil => rfl
  | cons q l ih => simp [State.giveCredits, ih]

@[simp] theorem State.returnHeld_board (k) : (s.returnHeld k).board = s.board := by simp [State.returnHeld]

@[simp] theorem State.sendPage_board (i p g v comps stamped img) : (s.sendPage i p g v comps stamped img).board = s.board := by
  simp [State.sendPage]

@[simp] theorem State.mirrorPage_board (k p g) : (s.mirrorPage k p g).board = s.board := by
  unfold State.mirrorPage
  dsimp only
  split <;> simp

/-! ### Partitions, steps and rounds -/

@[simp] theorem State.chooseRoutes_board (p) : (s.chooseRoutes p).board = s.board := by rfl
@[simp] theorem State.leaveLayout_board (f p) : (s.leaveLayout f p).board = s.board := by rfl
@[simp] theorem State.loseLayout_board (f p) : (s.loseLayout f p).board = s.board := by rfl
@[simp] theorem State.offRoutes_board (p) : (s.offRoutes p).board = s.board := by simp [State.offRoutes]

@[simp] theorem State.releaseHold_board (p) : (s.releaseHold p).board = s.board := by
  unfold State.releaseHold
  split <;> simp

@[simp] theorem State.stepEvent_board (j p) : (s.stepEvent j p).board = s.board := by simp [State.stepEvent]
@[simp] theorem State.eachKpr_board (p f) : (s.eachKpr p f).board = s.board := by simp [State.eachKpr]
@[simp] theorem State.heldGone_board (p) : (s.heldGone p).board = s.board := by simp [State.heldGone]
@[simp] theorem State.clearNet_board (p) : (s.clearNet p).board = s.board := by rfl
@[simp] theorem State.dropWafer_board (p) : (s.dropWafer p).board = s.board := by simp [State.dropWafer]
@[simp] theorem State.computeStart_board (p) : (s.computeStart p).board = s.board := by simp [State.computeStart]
@[simp] theorem State.beginStep_board (p n micro) : (s.beginStep p n micro).board = s.board := by simp [State.beginStep]

@[simp] theorem State.sumUp_board (i step herd kind recs) : (s.sumUp i step herd kind recs).board = s.board := by
  simp [State.sumUp]

@[simp] theorem State.answer_board (p child r) : (s.answer p child r).board = s.board := by
  unfold State.answer
  split <;> simp

@[simp] theorem State.restorePage_board (k p g) : (s.restorePage k p g).board = s.board := by
  unfold State.restorePage
  dsimp only
  split <;> simp

@[simp] theorem applyRollback_board (p r) : (applyRollback s p r).board = s.board := by simp [applyRollback]
@[simp] theorem State.remirrorPage_board (k p g) : (s.remirrorPage k p g).board = s.board := by simp [State.remirrorPage]

/-! ### Fields and their stations -/

@[simp] theorem State.setRemap_board (st r) : (s.setRemap st r).board = s.board := by rfl
@[simp] theorem State.updateRemap_board (st r) : (s.updateRemap st r).board = s.board := by rfl
@[simp] theorem State.modBankBind_board (st g) : (s.modBankBind st g).board = s.board := by rfl

@[simp] theorem State.logFault_board (f cause outcome st prow pcol) :
    (s.logFault f cause outcome st prow pcol).board = s.board := by rfl

@[simp] theorem State.endReset_board (l) : (s.endReset l).board = s.board := by simp [State.endReset]

@[simp] theorem State.useAlternates_board (p site) : (s.useAlternates p site).board = s.board := by
  unfold State.useAlternates
  split
  · simp
  · split
    · simp
    · split <;> simp

@[simp] theorem State.markHome_board (st) : (s.markHome st).board = s.board := by simp [State.markHome]

@[simp] theorem State.takeAlternates_board : s.takeAlternates.board = s.board := by
  unfold State.takeAlternates
  refine (State.forAll_board _ _ fun s f => ?_).trans (by simp)
  exact State.forAll_board _ _ fun s d => by simp

/-! ### Fences, admissions and start-up -/

@[simp] theorem State.modRecov_board (f) : (s.modRecov f).board = s.board := by rfl
@[simp] theorem State.setUnrecoverable_board : s.setUnrecoverable.board = s.board := by simp [State.setUnrecoverable]

@[simp] theorem State.peerSend_board (i opcode params) : (s.peerSend i opcode params).board = s.board := by
  simp [State.peerSend]

@[simp] theorem State.selfFence_board : s.selfFence.board = s.board := by simp [State.selfFence]
@[simp] theorem State.ownerFenced_board (f) : (s.ownerFenced f).board = s.board := by simp [State.ownerFenced]
@[simp] theorem State.installStations_board (p) : (s.installStations p).board = s.board := by simp [State.installStations]

@[simp] theorem State.startTakeover_board (f g) : (s.startTakeover f g).board = s.board := by
  unfold State.startTakeover
  split
  · simp
  · split
    · simp
    · dsimp only
      split <;> simp

@[simp] theorem State.secondFailure_board (f) : (s.secondFailure f).board = s.board := by simp [State.secondFailure]
@[simp] theorem State.openPartner_board (e) : (s.openPartner e).board = s.board := by simp [State.openPartner]
@[simp] theorem State.openPartners_board (p) : (s.openPartners p).board = s.board := by simp [State.openPartners]
@[simp] theorem State.openStandbyCtx_board (e) : (s.openStandbyCtx e).board = s.board := by simp [State.openStandbyCtx]

@[simp] theorem State.openStandby_board (c) : (s.openStandby c).board = s.board := by
  unfold State.openStandby
  refine (State.forAll_board _ _ fun s m => ?_).trans (by simp)
  split <;> simp

@[simp] theorem State.initBank_board (i) : (s.initBank i).board = s.board := by rfl
@[simp] theorem State.eraseField_board (f) : (s.eraseField f).board = s.board := by rfl

/-- A change of a region that is none of its eFuse. -/
theorem State.modRegion_board (i : Nat) (f : Region → Region) (htripped : (f (s.region i)).tripped = (s.region i).tripped)
    (hlockout : (f (s.region i)).lockout = (s.region i).lockout) : (s.modRegion i f).board = s.board := by
  have hefuses : (s.modRegion i f).pwr.efuses = s.pwr.efuses := by
    funext j
    change (((s.modRegion i f).region j).tripped, ((s.modRegion i f).region j).lockout) = ((s.region j).tripped, (s.region j).lockout)
    rw [State.region_modRegion]
    split
    · next h => rw [htripped, hlockout, h]
    · rfl
  exact congrArg (Board.mk s.fuses s.boot) hefuses

/-- A field that is switched off loses its grant, and stage 3 becomes stage 4. -/
@[simp] theorem State.withdraw_board (f : Nat) :
    (s.modRegion f fun r => { r with grant := 0, stage := if r.stage = 3 then 4 else r.stage }).board = s.board :=
  s.modRegion_board f _ rfl rfl

@[simp] theorem State.fieldOff_board (f) : (s.fieldOff f).board = s.board := by
  unfold State.fieldOff
  dsimp only
  split <;> simp

@[simp] theorem State.offAtFence_board (p) : (s.offAtFence p).board = s.board := by
  unfold State.offAtFence
  refine (State.forAll_board _ _ fun s a => ?_).trans (by simp)
  simp

@[simp] theorem State.settle_board (p) : (s.settle p).board = s.board := by
  unfold State.settle
  simp

@[simp] theorem State.rollbackLocal_board (p) : (s.rollbackLocal p).board = s.board := by
  unfold State.rollbackLocal
  simp

@[simp] theorem State.commitPip_board (p) : (s.commitPip p).board = s.board := by
  unfold State.commitPip
  dsimp only
  split <;> simp

section Round
variable {apply : State → Nat → RoundResult → State} (happly : ∀ s p r, (apply s p r).board = s.board)
include happly

theorem State.takeResult_board (p r) : (State.takeResult apply s p r).board = s.board := by
  simp [State.takeResult, happly]

theorem State.runRound_board (p step kind) : (State.runRound apply s p step kind).board = s.board := by
  unfold State.runRound
  extract_lets x self kids mark
  have hmark : (mark s).board = s.board := by simp [mark]
  split
  · rfl
  · extract_lets ready recs
    split
    · rfl
    · split
      · exact ((mark s).takeResult_board happly _ _).trans hmark
      · split <;> simp [hmark]

theorem State.post_board (p kind own) : (State.post apply s p kind own).board = s.board := by
  unfold State.post
  extract_lets step stale s₁ s₂
  have hs₁ : s₁.board = s.board := by simp [s₁]
  split
  · exact (happly _ _ _).trans hs₁
  · split
    · exact hs₁
    · exact (s₂.runRound_board happly _ _ _).trans (by simp [s₂, hs₁])

end Round

@[simp] theorem applyCommit_board (p r) : (applyCommit s p r).board = s.board := by
  unfold applyCommit
  simp

@[simp] theorem State.shares_board (p) : (s.shares p).board = s.board := by
  unfold State.shares
  split
  · rfl
  · extract_lets ks s₁
    have hs₁ : s₁.board = s.board := State.forAll_board _ _ fun s k => by simp
    split
    · exact (State.post_board _ (fun s p r => by simp) p 1 none).trans (by simpa using hs₁)
    · exact hs₁

@[simp] theorem State.startRollback_board (p cause) : (s.startRollback p cause).board = s.board :=
  (State.post_board _ (fun s p r => by simp) p 2 none).trans (by simp)

@[simp] theorem State.rollbackWafer_board (p) : (s.rollbackWafer p).board = s.board := by
  unfold State.rollbackWafer
  simp

@[simp] theorem State.pageClean_board (k p g) : (s.pageClean k p g).board = s.board := by
  unfold State.pageClean
  simp

@[simp] theorem State.loseFor_board (f p) : (s.loseFor f p).board = s.board := by
  unfold State.loseFor
  simp

@[simp] theorem State.fieldLoss_board (f cause st prow pcol) : (s.fieldLoss f cause st prow pcol).board = s.board := by
  unfold State.fieldLoss
  split
  · simp
  · dsimp only
    refine (State.forAll_board _ _ fun s a => ?_).trans (by simp)
    simp

@[simp] theorem State.rebindStation_board (st) : (s.rebindStation st).board = s.board := by
  unfold State.rebindStation
  dsimp only
  split
  · simp
  · split <;> simp

@[simp] theorem State.buddyFenced_board (f) : (s.buddyFenced f).board = s.board := by
  unfold State.buddyFenced
  dsimp only
  refine (State.forAll_board _ _ fun s a => ?_).trans (by simp)
  refine (State.forAll_board _ _ fun s a => ?_).trans (by simp)
  refine (State.forAll_board _ _ fun s a => ?_).trans (by simp)
  simp

@[simp] theorem State.moduleFence_board (f g came) : (s.moduleFence f g came).board = s.board := by
  unfold State.moduleFence
  simp

@[simp] theorem State.detectFence_board (f) : (s.detectFence f).board = s.board := by
  unfold State.detectFence
  simp

@[simp] theorem State.fatalFault_board : s.fatalFault.board = s.board := by
  unfold State.fatalFault
  simp

@[simp] theorem State.resumeRollbacks_board : s.resumeRollbacks.board = s.board := by
  unfold State.resumeRollbacks
  refine (State.forAll_board _ _ fun s a => ?_).trans (by simp)
  split <;> simp

@[simp] theorem State.relink_board : s.relink.board = s.board := by
  unfold State.relink
  dsimp only
  split
  · simp
  · rw [State.resumeRollbacks_board]
    split <;> simp

@[simp] theorem State.offWhenIdle_board (f) : (s.offWhenIdle f).board = s.board := by
  unfold State.offWhenIdle
  split
  · rfl
  · split <;> simp

@[simp] theorem State.refill_board (stk) : (s.refill stk).board = s.board := by rfl
@[simp] theorem State.installRegs_board (p) : (s.installRegs p).board = s.board := by simp [State.installRegs]
@[simp] theorem State.rebindField_board (f) : (s.rebindField f).board = s.board := by simp [State.rebindField]

end Boards

end Sys2Proof.Machine
end

section
/-! SUPPORT. Rules of resets, of start-up and its failures, of switching off and on, and of firmware updates (R479, R483 to R485,
R504 to R516, R551). -/

namespace Sys2Proof.Machine

/-! ### Reading the board of a state -/

theorem State.boot_of_board {s t : State} (h : t.board = s.board) : t.boot = s.boot := congrArg Board.boot h

theorem State.fuses_of_board {s t : State} (h : t.board = s.board) : t.fuses = s.fuses := congrArg Board.fuses h

/-- The eFuse of a region. -/
theorem State.efuse_of_board {s t : State} (h : t.board = s.board) (i : Nat) :
    (t.region i).tripped = (s.region i).tripped ∧ (t.region i).lockout = (s.region i).lockout :=
  Prod.ext_iff.1 (congrFun (congrArg Board.efuses h) i)

/-! ### Firmware updates (R512, R513) -/

theorem exec_fwImageHeld (image : List Byte) (s : State) : exec (.fwImageHeld image) s = .next (s.imageHeld image) := rfl

theorem exec_fwProgramDone (success : Bool) (s : State) : exec (.fwProgramDone success) s = .next (s.programDone success) := rfl

/-- Without a reset that waits, and outside recovery mode, an update ends with nothing more. -/
theorem State.afterUpdate_none (s : State) (good : Bool) (hheld : s.boot.heldReset = none) (hmode : good = false ∨ s.boot.mode ≠ 2) :
    s.afterUpdate good = s := by
  unfold State.afterUpdate
  rw [hheld]
  refine if_neg ?_
  rintro ⟨hgood, hrecovery⟩
  exact hmode.elim (fun hbad => Bool.false_ne_true (hbad.symm.trans hgood)) fun hother => hother hrecovery

theorem State.imageHeld_none (s : State) (image : List Byte) (h : s.boot.update = none) : s.imageHeld image = s := by
  rw [State.imageHeld, h]

theorem State.programDone_none (s : State) (success : Bool) (h : s.boot.update = none) : s.programDone success = s := by
  rw [State.programDone, h]

/-- The update holds an image, which is to be programmed. -/
def State.holdImage (s : State) (u : FwUpdate) (image : List Byte) : State := { s with
  boot := { s.boot with
    update := some { u with stage := .programming false, held := image }, intent := true, updateRunning := true } }

section Update
variable (s : State) (u : FwUpdate) (hu : s.boot.update = some u)
include hu

theorem State.imageHeld_late (image : List Byte) (h : u.stage ≠ .reading) : s.imageHeld image = s := by
  simp only [State.imageHeld, hu, h, ne_eq, not_false_eq_true, if_true]

theorem State.programDone_early (success : Bool) (h : u.stage = .reading) : s.programDone success = s := by
  simp only [State.programDone, hu, h]

/-- An update whose command is no more in flight. -/
theorem State.imageHeld_alone (image : List Byte) (h : u.stage = .reading) (hgone : s.flight u.csn = none)
    (hgood : imageFault s.fuses image = none) : s.imageHeld image = s.holdImage u image := by
  simp only [State.imageHeld, hu, h, hgone, hgood, ne_eq, not_true_eq_false, if_false]
  rfl

section Flight
variable (image : List Byte) (fl : InFlight) (h : u.stage = .reading) (hfl : s.flight u.csn = some fl)
include h hfl

/-- The class 1 completion goes out, unless the command is muted. -/
theorem State.imageHeld_flight (bs : List Byte) (hbs : bs = fl.read image (bits fl.cmd.packet.params.toNat 95 64)) (a : State)
    (ha : a = if fl.muted then s else s.reply true fl.dest fl.cmd u.csn { status := 0x1000 }) :
    s.imageHeld image
      = match imageFault a.fuses bs with
        | some (reason, offset) =>
          { a with boot := { a.boot with update := none } }.final u.csn
            (if reason ≤ 3 then { status := 0x2004, result := offset } else { status := 0x7003 })
        | none => a.holdImage u bs := by
  subst hbs ha
  simp only [State.imageHeld, hu, h, hfl, ne_eq, not_true_eq_false, if_false]
  rfl

end Flight

section Programming
variable (retried : Bool) (h : u.stage = .programming retried)
include h

theorem State.programDone_good :
    s.programDone true = (({ s with
        boot := { s.boot with
          intent := false, updateRunning := false, updatePending := true, update := none, flash := flashOf u.held
          pendingBuild := BitVec.ofNat 32 (imageBits u.held 127 96) }
        life := { s.life with fwUpdates := satAdd 16 s.life.fwUpdates 1 } }.final u.csn {}).afterUpdate true) := by
  simp only [State.programDone, hu, h]
  rfl

theorem State.programDone_bad :
    s.programDone false
      = if retried then
          ({ s with boot := { s.boot with updateRunning := false, update := none } }.final u.csn { status := 0x6002 }).afterUpdate false
        else { s with boot := { s.boot with update := some { u with stage := .programming true } } } := by
  simp only [State.programDone, hu, h]
  cases retried <;> rfl

end Programming

end Update

/-! ### Resets (R514 to R516) -/

/-- Start-up has bound stations of `s` anew, which concerns fields, banks, store and lifetime records alone; an empty store stays. -/
structure State.Rebound (s t : State) : Prop where
  boot : t.boot = s.boot
  fuses : t.fuses = s.fuses
  parts : t.parts = s.parts
  hbm : t.hbm = s.hbm
  pwr : t.pwr = s.pwr
  clk : t.clk = s.clk
  store : s.store = [] → t.store = []

theorem State.rebound_self (s : State) : s.Rebound s := ⟨rfl, rfl, rfl, rfl, rfl, rfl, id⟩

theorem State.Rebound.trans {s t u : State} (h : s.Rebound t) (k : t.Rebound u) : s.Rebound u :=
  ⟨k.boot.trans h.boot, k.fuses.trans h.fuses, k.parts.trans h.parts, k.hbm.trans h.hbm, k.pwr.trans h.pwr, k.clk.trans h.clk,
    fun hs => k.store (h.store hs)⟩

theorem State.rebound_modField (s : State) (f : Nat) (g : Field → Field) : s.Rebound (s.modField f g) :=
  ⟨rfl, rfl, rfl, rfl, rfl, rfl, id⟩

theorem State.rebound_modWear (s : State) (f : Nat) (g : Wear → Wear) : s.Rebound (s.modWear f g) :=
  ⟨rfl, rfl, rfl, rfl, rfl, rfl, id⟩

theorem State.rebound_initBank (s : State) (i : Nat) : s.Rebound (s.initBank i) :=
  ⟨rfl, rfl, rfl, rfl, rfl, rfl, fun hs => congrArg (List.filter _) hs⟩

theorem State.rebound_rebindStation (s : State) (st : Nat) : s.Rebound (s.rebindStation st) := by
  unfold State.rebindStation
  dsimp only
  split
  · exact s.rebound_modField _ _
  · split
    · exact (s.rebound_modField _ _).trans (State.rebound_modField _ _ _)
    · exact ((((s.rebound_modField _ _).trans (State.rebound_modField _ _ _)).trans (State.rebound_modField _ _ _)).trans
        (State.rebound_initBank _ _)).trans (State.rebound_modWear _ _ _)

theorem State.rebound_rebindField (s : State) (f : Nat) : s.Rebound (s.rebindField f) :=
  State.forAll_induction s.Rebound s _ _ s.rebound_self fun t _ ht => ht.trans (t.rebound_rebindStation _)

theorem State.rebound_rebindFields (s : State) (l : List Nat) : s.Rebound (s.forAll l State.rebindField) :=
  State.forAll_induction s.Rebound s _ _ s.rebound_self fun t f ht => ht.trans (t.rebound_rebindField f)

/-- What a cold reset leaves but for the fields that start-up binds anew. -/
theorem State.coldReset_same (s : State) (kind : ResetKind) (cause : Nat) :
    (s.coldReset kind cause).boot = s.boot.restarted kind cause ∧ (s.coldReset kind cause).fuses = s.fuses
      ∧ (s.coldReset kind cause).parts = [] ∧ (s.coldReset kind cause).hbm.mem = [] ∧ (s.coldReset kind cause).store = []
      ∧ (s.coldReset kind cause).pwr.enable = s.pwr.enable ∧ (s.coldReset kind cause).clk.lock = true := by
  unfold State.coldReset
  extract_lets p clk t
  obtain ⟨hboot, hfuses, hparts, hhbm, hpwr, hclk, hstore⟩ := t.rebound_rebindFields (List.range 64)
  rw [hboot, hfuses, hparts, hhbm, hpwr, hclk, hstore rfl]
  exact ⟨rfl, rfl, rfl, rfl, rfl, rfl, rfl⟩

/-- A warm reset restarts the boot part of the board alone. -/
theorem State.warmReset_board (s : State) (cause : Nat) :
    (s.warmReset cause).board = ⟨s.fuses, s.boot.restarted .warm cause, s.pwr.efuses⟩ := by
  unfold State.warmReset
  extract_lets states off ctx p t₁ t₂ t₃
  have h₁ : t₁.board = ⟨s.fuses, s.boot.restarted .warm cause, s.pwr.efuses⟩ := rfl
  have h₂ : t₂.board = t₁.board := State.forAll_board _ _ fun t f => t.rebindField_board f
  have h₃ : t₃.board = t₂.board := State.forAll_board _ _ fun t p => by simp
  have h₄ : (t₃.takeAlternates.forAll (List.range 64) State.offWhenIdle).board = t₃.takeAlternates.board :=
    State.forAll_board _ _ fun t f => t.offWhenIdle_board f
  rw [h₄, State.takeAlternates_board, h₃, h₂, h₁]

theorem State.pending_of_allowed {s t : State} (h : s.frame.Allows t.frame) : t.pending = s.pending := h.pending

theorem State.warmReset_pending (s : State) (cause : Nat) : (s.warmReset cause).pending = s.pending :=
  State.pending_of_allowed (State.warmReset_allowed s.frame.allows_self cause)

/-! ### Switching off and on (R479, R483, R485) -/

theorem State.switchOff_again (s : State) (h : s.boot.stage = .off) : s.switchOff = s := if_pos h

/-- A module that is switched off: what a cold reset leaves of it, without power. -/
theorem State.switchOff_on (s : State) (h : s.boot.stage ≠ .off) :
    s.switchOff = (s.fatalFault.coldReset .powerUp s.boot.cause).modBoot fun b => { b with stage := .off } := if_neg h

theorem State.switchOff_same (s : State) :
    s.switchOff.boot.stage = .off ∧ s.switchOff.fuses = s.fuses ∧ s.switchOff.boot.flash = s.boot.flash
      ∧ (s.boot.stage ≠ .off → s.switchOff.parts = [] ∧ s.switchOff.hbm.mem = [] ∧ s.switchOff.store = []) := by
  by_cases hoff : s.boot.stage = .off
  · rw [s.switchOff_again hoff]
    exact ⟨hoff, rfl, rfl, fun hon => absurd hoff hon⟩
  · obtain ⟨hboot, hfuses, hparts, hmem, hstore, -, -⟩ := s.fatalFault.coldReset_same .powerUp s.boot.cause
    have hflash : (s.fatalFault.coldReset .powerUp s.boot.cause).boot.flash = s.boot.flash := by
      rw [hboot, State.boot_of_board s.fatalFault_board]
      rfl
    rw [s.switchOff_on hoff]
    generalize s.fatalFault.coldReset .powerUp s.boot.cause = t at *
    exact ⟨rfl, hfuses.trans (State.fuses_of_board s.fatalFault_board), hflash, fun _ => ⟨hparts, hmem, hstore⟩⟩

theorem exec_supplyUndervoltage_low (s : State) (a b : Nat) (h : max a b < 500) :
    exec (.supplyUndervoltage a b) s
      = .next (s.switchOff.modPwr fun p => { p with vinA := a, vinB := b, supply := if p.latched then p.supply else .lockout }) :=
  congrArg Host.Outcome.next (if_neg (Nat.not_le.2 h))

theorem State.powerUp_same (s : State) (cause : Nat) :
    (s.powerUp cause).boot = { s.boot.restarted .powerUp cause with wdStreak := 0 } ∧ (s.powerUp cause).parts = []
      ∧ (s.powerUp cause).pwr.enable = s.pwr.enable ∧ (s.powerUp cause).clk.lock = true := by
  obtain ⟨hboot, -, hparts, -, -, henable, hlock⟩ := s.coldReset_same .powerUp cause
  unfold State.powerUp
  generalize s.coldReset .powerUp cause = t at *
  exact ⟨congrArg (fun b : Boot => { b with wdStreak := 0 }) hboot, hparts, henable, hlock⟩

/-- The enable pin starts a module whose supply meets the restart condition. -/
theorem exec_powerUp_starts (s : State) (a b : Nat) (hoff : s.boot.stage = .off) (hlatched : s.pwr.latched = false)
    (hlock : s.clk.lock = true) (hlo : 520 < max a b) (hhi : max a b ≤ 700) :
    exec (.powerUp a b) s = .next (((s.setVin a b).modPwr fun p => { p with enable := true }).powerUp
      (if s.pwr.supply = .overvoltage then 5 else 0)) :=
  congrArg Host.Outcome.next (if_pos ⟨hoff, hlatched, hlock, by omega, hhi, .inr hlo⟩)

/-- The root PLL has its lock again. -/
def State.relocked (s : State) : State := { s with clk := { s.clk with lock := true } }

/-- REF_LOST stays, as the record of the cause of a start. -/
def State.markLost (s : State) : State := { s with clk := { s.clk with refLost := true } }

theorem exec_refRestored (s : State) :
    exec .refRestored s = .next (if s.clk.lock then s
      else if s.boot.stage = .off ∧ s.pwr.enable = true ∧ (s.pwr.supply = .operating ∨ s.pwr.supply = .marginal) then
        (s.relocked.powerUp 6).markLost
      else s.relocked) := by
  change execRefRestored s = _
  simp only [execRefRestored, State.relocked, State.markLost]

/-- The lock's return starts a module that has a supply. -/
theorem exec_refRestored_starts (s : State) (hlost : s.clk.lock = false) (hoff : s.boot.stage = .off) (henable : s.pwr.enable = true)
    (hsupply : s.pwr.supply = .operating) : exec .refRestored s = .next (s.relocked.powerUp 6).markLost := by
  rw [exec_refRestored, if_neg (by rw [hlost]; decide), if_pos ⟨hoff, henable, .inl hsupply⟩]

/-- A field's eFuse has tripped; one that had been armed within the last second locks the field out (R486). -/
def State.tripFuse (s : State) (f : Nat) : State :=
  let again := (s.region f).rearmed.any fun t => decide (s.clk.rootTime < t + 7200000000)
  s.modRegion f fun r => { r with tripped := true, lockout := r.lockout || again, grant := 0 }

theorem State.tripFuse_first (s : State) (f : Nat) (hrearmed : (s.region f).rearmed = none) :
    ((s.tripFuse f).region f).tripped = true ∧ ((s.tripFuse f).region f).lockout = (s.region f).lockout := by
  rw [State.tripFuse, State.region_modRegion_same, hrearmed]
  exact ⟨rfl, Bool.or_false _⟩

/-- The trip is recorded, and the field is lost. -/
theorem State.efuseTrip_field (s : State) (f : Nat) (hf : f < 64) (htripped : (s.region f).tripped = false)
    (hon : (s.field f).isOff = false) :
    s.efuseTrip f = ((((s.tripFuse f).regionRecord f).modWear f fun w => { w with trips := satAdd 16 w.trips 1 }).fieldLoss
      f 0xA 0 0 0).modField f fun x => { x with starting := false, state := .lost } := by
  have hdark : (s.field f).dark = false := by rw [Field.dark, hon, Bool.false_and]
  have hfirst : ¬ ((s.region f).tripped = true ∨ (s.field f).dark = true) := by
    rw [htripped, hdark]
    decide
  exact (if_pos hf).trans (if_neg hfirst)

/-- A control processor that fails fences a ready module that has not fenced itself; its partitions stay. -/
theorem State.watchdogFence_ready (s : State) (h : s.boot.stage = .ready) :
    s.watchdogFence = { s.fatalFault with parts := s.parts } := if_pos h

theorem State.watchdogFence_none (s : State) (h : s.boot.stage ≠ .ready ∨ s.idAssigned = false ∨ s.recov.selfFenced = true) :
    s.watchdogFence = s := by
  by_cases hready : s.boot.stage = .ready
  · have hstays : s.fatalFault = s := by
      obtain hstage | hid | hfenced := h
      · exact absurd hready hstage
      · exact if_neg fun hassigned => Bool.false_ne_true (hid.symm.trans hassigned)
      · unfold State.fatalFault State.detectFence
        rw [if_pos hfenced, ite_self]
    rw [s.watchdogFence_ready hready, hstays]
  · exact if_neg hready

/-! ### Bring-up (R504 to R511) -/

theorem exec_bringupReady (flashOk : Bool) (ms : Nat) (failed : List Nat) (s : State) :
    exec (.bringupReady flashOk ms failed) s = .next (s.bringupReady flashOk ms failed) := rfl

theorem exec_bringupStageTimeout (u : Nat) (s : State) : exec (.bringupStageTimeout u) s = .next (s.stageTimeout u) := rfl

/-- `c` is `b` with more fields held off, or FAULTED. -/
structure Boot.HeldOff (b c : Boot) : Prop where
  same : c = { b with fieldsHeld := c.fieldsHeld, faulted := c.faulted }
  faulted : b.faulted = true → c.faulted = true

theorem Boot.heldOff_self (b : Boot) : b.HeldOff b := ⟨rfl, id⟩

theorem Boot.HeldOff.trans {b c d : Boot} (h : b.HeldOff c) (k : c.HeldOff d) : b.HeldOff d :=
  ⟨k.same.trans (congrArg (fun x : Boot => { x with fieldsHeld := d.fieldsHeld, faulted := d.faulted }) h.same),
    fun hb => k.faulted (h.faulted hb)⟩

section Held
variable (s : State)

theorem State.holdField_heldOff (f cause : Nat) : s.boot.HeldOff (s.holdField f cause).boot := by
  unfold State.holdField
  split
  · exact s.boot.heldOff_self
  · dsimp only
    split <;> exact ⟨rfl, id⟩

/-- Operations that leave the board hold no field off. -/
theorem State.heldOff_of_board {t : State} (h : t.board = s.board) : s.boot.HeldOff t.boot := by
  rw [State.boot_of_board h]
  exact s.boot.heldOff_self

theorem State.rebindFrom_heldOff (f prow pcol : Nat) : s.boot.HeldOff (s.rebindFrom f prow pcol).boot := by
  unfold State.rebindFrom
  dsimp only
  split
  · exact s.boot.heldOff_self
  · next st _ =>
    split
    · exact (s.heldOff_of_board (s.rebindStation_board st)).trans (State.holdField_heldOff _ _ _)
    · exact s.heldOff_of_board (s.rebindStation_board st)

theorem State.failRouter_heldOff (i : Nat) : s.boot.HeldOff (s.failRouter i).boot := by
  unfold State.failRouter
  extract_lets f prow pcol t
  have ht : s.boot.HeldOff t.boot := s.heldOff_of_board (by simp [t])
  split
  · exact s.boot.heldOff_self
  · split
    · exact s.holdField_heldOff _ _
    · refine Boot.HeldOff.trans ?_ (State.rebindFrom_heldOff _ _ _ _)
      split
      · exact ht
      · exact ht.trans (t.holdField_heldOff _ _)

theorem State.failCore_heldOff (i : Nat) : s.boot.HeldOff (s.failCore i).boot := by
  unfold State.failCore
  exact (s.heldOff_of_board (by simp)).trans (State.rebindFrom_heldOff _ _ _ _)

theorem State.failSite_heldOff (i : Nat) : s.boot.HeldOff (s.failSite i).boot := by
  unfold State.failSite
  exact (s.heldOff_of_board (by simp)).trans (State.rebindFrom_heldOff _ _ _ _)

theorem State.failUnit_heldOff (u : Nat) : s.boot.HeldOff (s.failUnit u).boot := by
  unfold State.failUnit
  split
  · exact s.holdField_heldOff _ _
  split
  · exact ⟨rfl, fun _ => rfl⟩
  split
  · split <;> exact s.boot.heldOff_self
  split
  · exact s.failCore_heldOff _
  split
  · exact s.failRouter_heldOff _
  split
  · exact s.failSite_heldOff _
  · exact s.boot.heldOff_self

/-- A Keeper that fails. -/
theorem State.failUnit_keeper (k : Nat) (hlo : 64 ≤ k) (hhi : k < 72) : (s.failUnit k).boot.faulted = true := by
  rw [State.failUnit, if_neg (by omega), if_pos hhi]
  rfl

/-- A field that is in service is lost. -/
theorem State.failUnit_field (f : Nat) (hf : f < 64) (hin : (s.field f).state = .inService) : ((s.failUnit f).field f).state = .lost := by
  have hlost : (((s.logFault f 0xC 5 0 0 0).modField f fun x => { x with state := .lost }).field f).state = .lost := by
    rw [State.field_modField_same]
  rw [State.failUnit, if_pos hf, State.holdField, if_neg (not_not_intro hin)]
  dsimp only
  split <;> exact hlost

theorem State.failUnit_stack (u : Nat) (hlo : 128 ≤ u) (hhi : u < 160) (hthere : s.stackPresent (u - 128) = true) :
    ((s.failUnit u).stack (u - 128)).fault = true := by
  rw [State.failUnit, if_neg (by omega), if_neg (by omega), if_pos ⟨hlo, hhi⟩, if_pos hthere, State.stack_modStack_same]

end Held

/-- Units that fail, one after another. -/
theorem State.failAll_heldOff (s : State) (failed : List Nat) : s.boot.HeldOff (s.forAll failed State.failUnit).boot :=
  State.forAll_induction (fun t => s.boot.HeldOff t.boot) s _ _ s.boot.heldOff_self fun t u ht => ht.trans (t.failUnit_heldOff u)

theorem State.failAll_keeper (s : State) (failed : List Nat) (k : Nat) (hk : k ∈ failed) (hlo : 64 ≤ k) (hhi : k < 72) :
    (s.forAll failed State.failUnit).boot.faulted = true := by
  induction failed generalizing s with
  | nil => exact absurd hk List.not_mem_nil
  | cons u failed ih =>
    change ((s.failUnit u).forAll failed State.failUnit).boot.faulted = true
    obtain rfl | hk := List.mem_cons.1 hk
    · exact (State.failAll_heldOff _ failed).faulted (s.failUnit_keeper k hlo hhi)
    · exact ih _ hk

/-- The start-up part once bring-up has ended with an image. -/
def Boot.ready (b : Boot) (ms : Nat) : Boot :=
  { b with
    stage := .ready, mode := if b.faulted then 3 else 1, reason := 0, readyMs := min 65535 ms, wdStreak := 0
    secVersion := b.flash.secVersion, build := b.flash.build, imageDigest := b.flash.digest }

theorem Boot.ready_mode (b : Boot) (ms : Nat) : (b.ready ms).mode = 1 ∨ (b.ready ms).mode = 3 := by
  cases h : b.faulted
  · exact .inl (if_neg (by rw [h]; decide))
  · exact .inr (if_pos h)

theorem Boot.ready_faulted (b : Boot) (ms : Nat) (h : b.faulted = true) : (b.ready ms).mode = 3 := if_pos h

theorem State.ready_boot (s : State) (ms : Nat) : (s.ready ms).boot = s.boot.ready ms := by
  unfold State.ready
  dsimp only
  split <;> rfl

theorem State.ready_mlv (s : State) (ms : Nat) : (s.ready ms).mlv = s.mlv := by
  unfold State.ready
  dsimp only
  split <;> rfl

/-- Bring-up with every unit brought up, or failed. -/
theorem State.readyNormal_boot (s : State) (ms : Nat) (failed : List Nat) :
    ∃ b : Boot, (s.readyNormal ms failed).boot = b.ready ms ∧ s.boot.HeldOff b
      ∧ ((∃ k ∈ failed, 64 ≤ k ∧ k < 72) → b.faulted = true) := by
  unfold State.readyNormal
  extract_lets t u
  have hfailed : s.boot.HeldOff t.boot := s.failAll_heldOff failed
  have hheld : t.boot.HeldOff u.boot :=
    State.forAll_induction (fun v => t.boot.HeldOff v.boot) t _ _ t.boot.heldOff_self fun v f hv => hv.trans (v.holdField_heldOff f _)
  refine ⟨u.boot, (State.boot_of_board (State.relink_board _)).trans (u.ready_boot ms), hfailed.trans hheld, ?_⟩
  rintro ⟨k, hk, hlo, hhi⟩
  exact hheld.faulted (s.failAll_keeper failed k hk hlo hhi)

/-- Bring-up without coolant. -/
theorem State.readyDry_boot (s : State) (ms : Nat) :
    (s.readyDry ms).boot = Boot.ready { s.boot with faulted := true, dry := true } ms ∧ (s.readyDry ms).mlv = s.mlv :=
  ⟨State.ready_boot _ ms, State.ready_mlv _ ms⟩

section Bring
variable (s : State) (flashOk : Bool) (ms : Nat) (failed : List Nat)

theorem State.bringupReady_idle (h : s.boot.stage = .off ∨ s.boot.stage = .ready) : s.bringupReady flashOk ms failed = s := by
  unfold State.bringupReady
  obtain h | h := h <;> rw [h]

theorem State.bringupReady_recovery (h : s.boot.stage = .carrier) (hreason : s.bootReason flashOk ≠ 0) :
    s.bringupReady flashOk ms failed = (s.readyRecovery (s.bootReason flashOk) ms).linkTrained := by
  simp only [State.bringupReady, h, hreason, ne_eq, not_false_eq_true, if_true]

/-- From the carrier stage the link trains as bring-up ends. -/
theorem State.bringupReady_carrier (h : s.boot.stage = .carrier) (hreason : s.bootReason flashOk = 0) :
    s.bringupReady flashOk ms failed = (if s.lowFlow then s.readyDry ms else s.readyNormal ms failed).linkTrained := by
  simp only [State.bringupReady, h, hreason, ne_eq, not_true_eq_false, if_false]

theorem State.bringupReady_later (hoff : s.boot.stage ≠ .off) (hready : s.boot.stage ≠ .ready) (hcarrier : s.boot.stage ≠ .carrier) :
    s.bringupReady flashOk ms failed = s.readyNormal ms failed := by
  unfold State.bringupReady
  split
  · next h => exact absurd h hoff
  · next h => exact absurd h hready
  · next h => exact absurd h hcarrier
  · rfl

/-- Bring-up with an image ends in the start-up part of a ready module, FAULTED where a Keeper has failed or coolant does not flow. -/
theorem State.bringupReady_boot (hoff : s.boot.stage ≠ .off) (hready : s.boot.stage ≠ .ready)
    (hreason : s.boot.stage = .carrier → s.bootReason flashOk = 0) :
    ∃ b : Boot, (s.bringupReady flashOk ms failed).boot = b.ready ms ∧ b.flash = s.boot.flash
      ∧ (s.boot.faulted = true → b.faulted = true)
      ∧ ((∃ k ∈ failed, 64 ≤ k ∧ k < 72) → b.faulted = true)
      ∧ (s.boot.stage = .carrier → s.lowFlow = true →
          b.faulted = true ∧ b.dry = true ∧ (s.bringupReady flashOk ms failed).mlv = s.mlv) := by
  obtain ⟨b, hboot, hheld, hkeeper⟩ := s.readyNormal_boot ms failed
  have hflash : b.flash = s.boot.flash := by rw [hheld.same]
  by_cases hcarrier : s.boot.stage = .carrier
  · rw [s.bringupReady_carrier flashOk ms failed hcarrier (hreason hcarrier)]
    by_cases hflow : s.lowFlow = true
    · obtain ⟨hdry, hmlv⟩ := s.readyDry_boot ms
      rw [if_pos hflow, State.linkTrained_same]
      exact ⟨_, hdry, rfl, fun _ => rfl, fun _ => rfl, fun _ _ => ⟨rfl, rfl, hmlv⟩⟩
    · rw [if_neg hflow, State.linkTrained_same]
      exact ⟨b, hboot, hflash, hheld.faulted, hkeeper, fun _ h => absurd h hflow⟩
  · rw [s.bringupReady_later flashOk ms failed hoff hready hcarrier]
    exact ⟨b, hboot, hflash, hheld.faulted, hkeeper, fun h => absurd h hcarrier⟩

end Bring

/-! ### Stages that overrun (R504, R506) -/

/-- A unit has failed, and bring-up goes on with a stage. -/
def State.goOn (s : State) (u : Nat) (g : Stage) : State := (s.failUnit u).modBoot fun b => { b with stage := g }

/-- The stages before the waves: that of the Keepers, or the carrier's with an image and coolant. -/
def State.early (s : State) : Prop :=
  s.boot.stage = .keepers ∨ (s.boot.stage = .carrier ∧ s.bootReason true = 0 ∧ s.lowFlow = false)

section Overrun
variable (s : State) (u : Nat)

theorem State.stageTimeout_idle (h : s.boot.stage = .ready) : s.stageTimeout u = s := by
  simp only [State.stageTimeout, h, reduceCtorEq, Bool.false_eq_true, false_and, or_self, and_false, if_false, ite_self]

section Field
variable (hu : u < 64)
include hu

theorem State.stageTimeout_links (h : s.boot.stage = .links) : s.stageTimeout u = s.goOn u .links := by
  simp only [State.stageTimeout, hu, h, if_true, State.goOn]

theorem State.stageTimeout_ahead (h : s.early ∨ ∃ c, c ≤ u % 8 ∧ s.boot.stage = .wave c) :
    s.stageTimeout u = s.goOn u (if u % 8 = 7 then .links else .wave (u % 8 + 1)) := by
  obtain (hstage | ⟨hstage, himage⟩) | ⟨c, hc, hstage⟩ := h
  · simp only [State.stageTimeout, hu, hstage, if_true, reduceCtorEq, if_false, State.goOn]
  · simp only [State.stageTimeout, hu, hstage, himage, and_self, decide_true, if_true, reduceCtorEq, if_false, State.goOn]
  · simp only [State.stageTimeout, hu, hstage, hc, decide_true, if_true, reduceCtorEq, if_false, State.goOn]

theorem State.stageTimeout_past (h : ∃ c, u % 8 < c ∧ s.boot.stage = .wave c) : s.stageTimeout u = s := by
  obtain ⟨c, hc, hstage⟩ := h
  simp only [State.stageTimeout, hu, hstage, Nat.not_le.2 hc, decide_false, if_true, reduceCtorEq, if_false, Bool.false_eq_true]

end Field

/-- A Keeper or a stack, before the waves. -/
theorem State.stageTimeout_first (hu : 64 ≤ u ∧ u < 72 ∨ 128 ≤ u ∧ u < 160) (h : s.early) : s.stageTimeout u = s.goOn u (.wave 0) := by
  have hfield : ¬ u < 64 := by omega
  have hunit : u < 72 ∨ 128 ≤ u ∧ u < 160 := hu.imp_left And.right
  have hstages : (s.boot.stage = .carrier ∧ s.bootReason true = 0 ∧ s.lowFlow = false) ∨ s.boot.stage = .keepers := h.symm
  exact (if_neg hfield).trans (if_pos ⟨hunit, hstages⟩)

end Overrun

end Sys2Proof.Machine
end

section
/-! The statements about switching off and on, bring-up and firmware updates. -/

namespace Sys2Proof.Machine

/-- Settles O54: what switches the module off, and what starts it again. -/
theorem switchingOffAndOn : Obligations.SwitchingOffAndOn := by
  unfold Obligations.SwitchingOffAndOn
  refine ⟨?goesOff, ?comesBack⟩
  case goesOff =>
    intro s off
    refine ⟨fun a b hlow => ?under, fun a b hhigh => congrArg Host.Outcome.next (if_pos hhigh),
      fun a b hover => congrArg Host.Outcome.next (if_neg (Nat.not_le.2 hover)), rfl, rfl, rfl, fun f hf htripped hon hrearmed => ?trips⟩
    case under =>
      obtain ⟨hstage, hfuses, hflash, hgone⟩ := s.switchOff_same
      exact ⟨_, exec_supplyUndervoltage_low s a b hlow, hstage, hgone, hfuses, rfl, rfl, hflash⟩
    case trips =>
      have hboard : (s.efuseTrip f).board = (s.tripFuse f).board := by
        rw [s.efuseTrip_field f hf htripped hon, State.modField_board, State.fieldLoss_board, State.modWear_board]
        exact State.lifeRecord_board _ _ _ _
      obtain ⟨htrippedNow, hlockoutNow⟩ := State.efuse_of_board hboard f
      obtain ⟨hfuse, hlockout⟩ := s.tripFuse_first f hrearmed
      refine ⟨_, rfl, htrippedNow.trans hfuse, hlockoutNow.trans hlockout, ?_⟩
      rw [s.efuseTrip_field f hf htripped hon, State.field_modField_same]
  case comesBack =>
    intro s
    refine ⟨fun hoff hlockout henable hlock a b hlo hhi => ?uvlo, fun hon => ⟨fun a b => ?_, fun a b => ?_⟩,
      fun hoff hlatched hlock a b hlo hhi => ?pin, fun hlock => by rw [exec_refRestored, if_pos hlock],
      fun hlock hoff henable hsupply => ?lock, fun hoff => congrArg Host.Outcome.next (if_pos hoff), fun hon => ?watchdog,
      fun t ht => congrArg Host.Outcome.next (if_pos ht)⟩
    case uvlo => exact congrArg Host.Outcome.next (if_pos ⟨hoff, hlockout, henable, hlock, hlo, hhi⟩)
    · exact congrArg Host.Outcome.next (if_neg fun h => hon h.1)
    · exact congrArg Host.Outcome.next (if_neg fun h => hon h.1)
    case pin =>
      obtain ⟨hboot, hparts, henable, -⟩ := ((s.setVin a b).modPwr fun p => { p with enable := true }).powerUp_same
        (if s.pwr.supply = .overvoltage then 5 else 0)
      refine ⟨_, exec_powerUp_starts s a b hoff hlatched hlock hlo hhi, ?_⟩
      beta_reduce
      rw [hboot, hparts, henable]
      exact ⟨rfl, rfl, rfl, rfl, rfl, rfl⟩
    case lock =>
      obtain ⟨hboot, -, -, hlocked⟩ := s.relocked.powerUp_same 6
      refine ⟨_, exec_refRestored_starts s hlock hoff henable hsupply, ?_⟩
      generalize s.relocked.powerUp 6 = t at *
      exact ⟨congrArg Boot.stage hboot, congrArg Boot.cause hboot, hlocked⟩
    case watchdog =>
      have hboard := s.watchdogFence.warmReset_board 3
      have hpending := s.watchdogFence.warmReset_pending 3
      refine ⟨_, congrArg Host.Outcome.next (if_neg hon), ?_⟩
      generalize s.watchdogFence.warmReset 3 = t at *
      have hboot : t.boot = s.watchdogFence.boot.restarted .warm 3 := congrArg Board.boot hboard
      refine ⟨congrArg Boot.stage hboot, congrArg Boot.kind hboot, congrArg Boot.cause hboot, ?_, congrArg Board.fuses hboard,
        hpending, s.watchdogFence_none, fun hready hid hfenced => ?_⟩
      · change min 3 (t.boot.wdStreak + 1) = _
        rw [hboot]
        rfl
      · exact (s.watchdogFence_ready hready).trans (by rw [s.fatalFault_fences hid hfenced])

/-- Settles O55: bring-up ends with an image or in recovery mode, and goes on where a stage overruns. -/
theorem bringUp : Obligations.BringUp := by
  unfold Obligations.BringUp
  refine ⟨?ends, ?stages⟩
  case ends =>
    intro s flashOk ms
    refine ⟨fun hready failed => ?_, fun hcarrier hreason failed => ?_, fun hcarrier hreason failed => ?_, fun hkeepers k hk => ?_,
      fun hready u => ?_⟩
    · rw [exec_bringupReady, s.bringupReady_idle flashOk ms failed (.inr hready)]
    · refine ⟨_, (exec_bringupReady flashOk ms failed s).trans
        (congrArg Host.Outcome.next (s.bringupReady_recovery flashOk ms failed hcarrier hreason)), ?_⟩
      exact ⟨rfl, rfl, rfl, rfl, rfl, rfl⟩
    · obtain ⟨b, hboot, hflash, -⟩ := s.bringupReady_boot flashOk ms failed (by rw [hcarrier]; decide) (by rw [hcarrier]; decide)
        fun _ => hreason
      refine ⟨_, exec_bringupReady flashOk ms failed s, ?_⟩
      beta_reduce
      rw [hboot, ← hflash]
      exact ⟨rfl, b.ready_mode ms, rfl⟩
    · have hfails : (s.failUnit (64 + k)) = s.modBoot fun b => { b with faulted := true } := by
        rw [State.failUnit, if_neg (by omega), if_pos (by omega)]
      rw [exec_bringupStageTimeout, s.stageTimeout_first (64 + k) (.inl ⟨by omega, by omega⟩) (.inl hkeepers), State.goOn, hfails]
      rfl
    · rw [exec_bringupStageTimeout, s.stageTimeout_idle u hready]
  case stages =>
    intro s flashOk ms failed r
    refine ⟨fun hcarrier hreason => ?_, fun hoff hready hreason => ?_, fun hidle => ?_, fun u => ?_⟩
    · rw [exec_bringupReady, s.bringupReady_recovery flashOk ms failed hcarrier hreason]
    · obtain ⟨b, hboot, hflash, hfaulted, hkeeper, hdry⟩ := s.bringupReady_boot flashOk ms failed hoff hready hreason
      refine ⟨_, exec_bringupReady flashOk ms failed s, ?_⟩
      rw [hboot, ← hflash]
      refine ⟨rfl, rfl, b.ready_mode ms, fun h => b.ready_faulted ms (hfaulted h), fun h => b.ready_faulted ms (hkeeper h),
        fun hcarrier hflow => ?_, rfl, rfl, rfl, rfl⟩
      obtain ⟨hbFaulted, hbDry, hmlv⟩ := hdry hcarrier hflow
      exact ⟨b.ready_faulted ms hbFaulted, hbDry, hmlv⟩
    · rw [exec_bringupReady, s.bringupReady_idle flashOk ms failed hidle]
    · intro at' early
      refine ⟨fun hu hlinks => ?_, fun hu hahead => ?_, fun hu hpast => ?_, fun hu hearly => ?_, fun hu hin g => ?_,
        fun hlo hhi g => ?_, fun hlo hhi hthere g => s.failUnit_stack u hlo hhi hthere⟩
      · rw [exec_bringupStageTimeout, s.stageTimeout_links u hu hlinks]
        rfl
      · rw [exec_bringupStageTimeout, s.stageTimeout_ahead u hu hahead]
        rfl
      · rw [exec_bringupStageTimeout, s.stageTimeout_past u hu hpast]
      · rw [exec_bringupStageTimeout, s.stageTimeout_first u hu hearly]
        rfl
      · exact ⟨s.failUnit_field u hu hin, rfl⟩
      · exact ⟨s.failUnit_keeper u hlo hhi, rfl⟩

/-- Settles O56: an update by the stage that it has reached. -/
theorem firmwareUpdate : Obligations.FirmwareUpdate := by
  unfold Obligations.FirmwareUpdate
  intro s u hu
  refine ⟨fun image hreading hgone hgood => ?alone, fun image fl hreading hfl => ?flight, fun hlate image => ?late,
    fun hreading success => ?early, fun v hv image success => ?none, fun r hr => ?ends, fun hfirst => ?retries,
    fun hsecond hheld => ?fails, fun r hr hheld hmode => ?succeeds⟩
  case alone => rw [exec_fwImageHeld, s.imageHeld_alone u hu image hreading hgone hgood, State.holdImage]
  case flight =>
    intro n bs img a
    have himage := s.imageHeld_flight u hu image fl hreading hfl img rfl a rfl
    refine ⟨fun hgood => ?_, fun reason offset hbad => ?_⟩
    · rw [exec_fwImageHeld, himage, hgood]
      rfl
    · rw [exec_fwImageHeld, himage, hbad]
  case late => rw [exec_fwImageHeld, s.imageHeld_late u hu image hlate]
  case early => rw [exec_fwProgramDone, s.programDone_early u hu success hreading]
  case none => rw [exec_fwImageHeld, exec_fwProgramDone, v.imageHeld_none image hv, v.programDone_none success hv]; exact ⟨rfl, rfl⟩
  case ends =>
    refine ⟨?_, fun hretried => ?_⟩
    · rw [exec_fwProgramDone, s.programDone_good u hu r hr]
    · rw [exec_fwProgramDone, s.programDone_bad u hu r hr, if_pos hretried]
  case retries =>
    rw [exec_fwProgramDone, s.programDone_bad u hu false hfirst]
    rfl
  case fails =>
    rw [exec_fwProgramDone, s.programDone_bad u hu true hsecond, if_pos rfl, State.afterUpdate_none]
    · rw [State.boot_of_board (State.final_board _ _ _)]
      exact hheld
    · exact .inl rfl
  case succeeds =>
    rw [exec_fwProgramDone, s.programDone_good u hu r hr, State.afterUpdate_none]
    · rw [State.boot_of_board (State.final_board _ _ _)]
      exact hheld
    · rw [State.boot_of_board (State.final_board _ _ _)]
      exact .inr hmode

end Sys2Proof.Machine
end

section
/-! SUPPORT. Rules of the messages of an owner at its buddy (R422 to R427, R442). -/

namespace Sys2Proof.Machine

/-- A gradient mirrored for a page, before it is computed. -/
def State.mirrorGrad (s : State) (k p g : Nat) (data : List Byte) : State :=
  s.modHpage k p g fun h => { h with grad := some (writeBytes [] 0 data) }

/-- What a buddy does with a gradient: nothing for a page of which no copy has come; else it mirrors it, and once the verdict is in the
page is computed, after those that wait. -/
def State.huskGrad (s : State) (k p g : Nat) (data : List Byte) : State :=
  if (s.kpart k p).lacking.contains g then s
  else
    let c := s.mirrorGrad k p g data
    if ((c.part p).phase = .commit ∨ (c.part p).phase = .flipWait) ∧ (c.part p).nullCommit = false then
      match (c.kpart k p).huskDue with
      | [] => c.huskUpdate k p g (c.part p).herdSum
      | due => c.modKpart k p fun y => { y with huskDue := sortedBy (· ≤ ·) (insertOnce g due) }
    else c

section Grad
variable (s : State) (k p g : Nat) (data : List Byte)

theorem State.huskGrad_lacking (h : (s.kpart k p).lacking.contains g = true) : s.huskGrad k p g data = s := if_pos h

theorem State.huskGrad_waits (h : (s.kpart k p).lacking.contains g = false)
    (hcommit : ((s.mirrorGrad k p g data).part p).phase ≠ .commit) (hflip : ((s.mirrorGrad k p g data).part p).phase ≠ .flipWait) :
    s.huskGrad k p g data = s.mirrorGrad k p g data := by
  rw [State.huskGrad, if_neg (by rw [h]; decide)]
  exact if_neg fun hlater => hlater.1.elim hcommit hflip

section Verdict
variable (h : (s.kpart k p).lacking.contains g = false)
  (hphase : ((s.mirrorGrad k p g data).part p).phase = .commit ∨ ((s.mirrorGrad k p g data).part p).phase = .flipWait)
  (hnull : ((s.mirrorGrad k p g data).part p).nullCommit = false)
include h hphase hnull

theorem State.huskGrad_computes (hdue : ((s.mirrorGrad k p g data).kpart k p).huskDue = []) :
    s.huskGrad k p g data = (s.mirrorGrad k p g data).huskUpdate k p g ((s.mirrorGrad k p g data).part p).herdSum := by
  rw [State.huskGrad, if_neg (by rw [h]; decide)]
  refine (if_pos ⟨hphase, hnull⟩).trans ?_
  rw [hdue]

theorem State.huskGrad_queues (hdue : ((s.mirrorGrad k p g data).kpart k p).huskDue ≠ []) :
    s.huskGrad k p g data = (s.mirrorGrad k p g data).modKpart k p fun y =>
      { y with huskDue := sortedBy (· ≤ ·) (insertOnce g ((s.mirrorGrad k p g data).kpart k p).huskDue) } := by
  rw [State.huskGrad, if_neg (by rw [h]; decide)]
  refine (if_pos ⟨hphase, hnull⟩).trans ?_
  split
  · next hnone => exact absurd hnone hdue
  · rfl

end Verdict

end Grad

section Messages
variable (s : State) (i head p : Nat) (hopen : (s.ctx i).state = .opened)
include hopen

theorem exec_huskGrad (data : List Byte)
    (hp : (s.took i 3 2049).herdPart (bits head 47 40) (fun p x => x.phase ≠ .idle && x.step == bits head 39 0
      && (s.mirrored (s.ctx i).kpr p).contains (bits head 75 48) && data.length == 2 ^ 20) = some p) :
    exec (.huskGrad i head data) s = .next ((s.took i 3 2049).huskGrad (s.ctx i).kpr p (bits head 75 48) data) :=
  congrArg Host.Outcome.next (s.huskMessage_named i 2049 head p (fun k p x => x.phase ≠ .idle && x.step == bits head 39 0
    && (s.mirrored k p).contains (bits head 75 48) && data.length == 2 ^ 20) (fun s k p => s.huskGrad k p (bits head 75 48) data)
    hopen hp)

theorem exec_huskNull
    (hp : (s.took i 3 1).herdPart (bits head 47 40) (fun p x => x.phase ≠ .idle && x.step == bits head 39 0
      && (s.mirrored (s.ctx i).kpr p).contains (bits head 75 48)) = some p) :
    exec (.huskNull i head) s
      = .next (if ((s.took i 3 1).kpart (s.ctx i).kpr p).lacking.contains (bits head 75 48) then s.took i 3 1
          else (s.took i 3 1).huskNull (s.ctx i).kpr p (bits head 75 48)) :=
  congrArg Host.Outcome.next (s.huskMessage_named i 1 head p (fun k p x => x.phase ≠ .idle && x.step == bits head 39 0
    && (s.mirrored k p).contains (bits head 75 48)) (fun s k p => if (s.kpart k p).lacking.contains (bits head 75 48) then s
      else s.huskNull k p (bits head 75 48)) hopen hp)

theorem exec_huskPage (data : List Byte)
    (hp : (s.took i 3 (1 + (data.length + 511) / 512)).herdPart (bits head 47 40) (fun _ x => s.pageFor i (bits head 75 48) x
      && x.huskLength s.past (bits head 79 76) (bits head 511 256) data) = some p) :
    exec (.huskPage i head data) s
      = .next ((s.took i 3 (1 + (data.length + 511) / 512)).huskPageArrives (s.ctx i).kpr p head data) :=
  congrArg Host.Outcome.next (s.huskMessage_named i (1 + (data.length + 511) / 512) head p (fun _ _ x =>
    s.pageFor i (bits head 75 48) x && x.huskLength s.past (bits head 79 76) (bits head 511 256) data)
    (fun s k p => s.huskPageArrives k p head data) hopen hp)

theorem exec_huskSched (data : List Byte)
    (hp : (s.took i 3 (1 + (data.length + 511) / 512)).herdPart (bits head 47 40) (fun _ x => data.length == bits head 95 64
      && s.recordFor i x && s.recordStep x (bits head 39 0)
      && ((s.ctx i).role ≠ 4 || bits head 50 48 == (s.ctx i).partnerKpr)) = some p) :
    exec (.huskSched i head data) s
      = .next ((s.took i 3 (1 + (data.length + 511) / 512)).schedArrives i (s.ctx i).kpr p head data) :=
  congrArg Host.Outcome.next (s.huskMessage_named i (1 + (data.length + 511) / 512) head p (fun _ _ x =>
    data.length == bits head 95 64 && s.recordFor i x && s.recordStep x (bits head 39 0)
      && ((s.ctx i).role ≠ 4 || bits head 50 48 == (s.ctx i).partnerKpr))
    (fun s k p => s.schedArrives i k p head data) hopen hp)

theorem exec_huskProg
    (hp : (s.took i 3 1).herdPart (bits head 47 40) (fun _ x => s.recordFor i x && s.recordStep x (bits head 39 0)
      && (x.bucketDef (if (s.ctx i).role = 4 then (s.ctx i).partnerKpr else (s.ctx i).kpr) (bits head 59 48)).isSome) = some p) :
    exec (.huskProg i head) s = .next ((s.took i 3 1).noteArrives i (s.ctx i).kpr p head) :=
  congrArg Host.Outcome.next (s.huskMessage_named i 1 head p (fun k _ x => s.recordFor i x && s.recordStep x (bits head 39 0)
    && (x.bucketDef (if (s.ctx i).role = 4 then (s.ctx i).partnerKpr else k) (bits head 59 48)).isSome)
    (fun s k p => s.noteArrives i k p head) hopen hp)

end Messages

/-- A page that is owned elsewhere reaches a partition that replays nothing: its owner's buddy. -/
theorem State.huskPageArrives_buddy (s : State) (k p head : Nat) (data : List Byte)
    (howner : s.ownerKpr p (bits head 75 48) ≠ some k) (hreplay : (s.part p).replayKey = none) :
    s.huskPageArrives k p head data = s.mirrorArrives k p (bits head 75 48) (bits head 39 0) (bits head 511 256) data := by
  have hnone : (s.part p).replays = false := by rw [Part.replays, hreplay]; rfl
  refine (if_neg howner).trans (if_neg ?_)
  rw [hnone]
  exact Bool.false_ne_true

/-- A record reaches a partition that restores and replays nothing: it joins those of its owner's last step fences. -/
theorem State.schedArrives_buddy (s : State) (i k p head : Nat) (data : List Byte) (hrole : s.recov.role ≠ .taking)
    (hreplay : (s.part p).replayKey = none) :
    s.schedArrives i k p head data = s.modKpart k p fun y =>
      let owner := 8 * (s.ctx i).partner + (s.ctx i).partnerKpr
      let notes := ((y.scheds.find? fun r => r.owner == owner && r.step == bits head 39 0).map (·.notes)).getD []
      let mine := lastFences (s.past + 1)
        (⟨owner, bits head 39 0, data, notes⟩ :: y.scheds.filter fun r => r.owner == owner && r.step ≠ bits head 39 0)
      { y with scheds := mine ++ y.scheds.filter fun r => r.owner ≠ owner } := by
  refine (if_neg fun h => hrole h.1).trans (if_neg fun h => ?_)
  rw [hreplay] at h
  exact Bool.false_ne_true h.1

end Sys2Proof.Machine
end

section
/-! The statement about what a buddy keeps of its owners. -/

namespace Sys2Proof.Machine

/-- Settles O40: each message of an owner by the page, the phase and the mirror that it meets. -/
theorem huskMirrors : Obligations.HuskMirrors := by
  unfold Obligations.HuskMirrors
  intro s i head p data hopen k herd g
  refine ⟨?gradients, ?nulls, ?pages, ?notes⟩
  case gradients =>
    intro b hp c
    rw [exec_huskGrad s i head p hopen data hp]
    refine ⟨fun hlack => ?_, fun hlack => ⟨fun hcommit hflip => ?_, fun hphase hnull => ⟨fun hdue => ?_, fun hdue => ?_⟩⟩⟩
    · rw [State.huskGrad_lacking _ _ _ _ _ hlack]
    · exact congrArg Host.Outcome.next (b.huskGrad_waits k p g data hlack hcommit hflip)
    · exact congrArg Host.Outcome.next (b.huskGrad_computes k p g data hlack hphase hnull hdue)
    · exact congrArg Host.Outcome.next (b.huskGrad_queues k p g data hlack hphase hnull hdue)
  case nulls => exact exec_huskNull s i head p hopen
  case pages =>
    intro b
    refine ⟨fun hp howner hreplay => ?_, fun hp hrole hreplay => ?_⟩
    · rw [exec_huskPage s i head p hopen data hp, State.huskPageArrives_buddy _ _ _ _ _ howner hreplay]
    · intro owner
      rw [exec_huskSched s i head p hopen data hp, State.schedArrives_buddy _ _ _ _ _ _ hrole hreplay]
  case notes => exact exec_huskProg s i head p hopen

end Sys2Proof.Machine
end

section
/-! SUPPORT. Fields of a packed header (R222), and rules of fills (R398 to R405). -/

namespace Sys2Proof.Machine

/-! ### Fields of a packed number (R222) -/

/-- Fields {lowest bit, width, value} stand in rising order and apart, none below bit `b`. -/
def fieldsFrom : Nat → List (Nat × Nat × Nat) → Bool
  | _, [] => true
  | b, (lo, w, _) :: l => decide (b ≤ lo) && fieldsFrom (lo + w) l

theorem fieldsFrom_cons (b lo w v : Nat) (l : List (Nat × Nat × Nat)) :
    fieldsFrom b ((lo, w, v) :: l) = true ↔ b ≤ lo ∧ fieldsFrom (lo + w) l = true := by
  rw [fieldsFrom, Bool.and_eq_true, decide_eq_true_eq]

theorem packBits_cons (lo w v : Nat) (l : List (Nat × Nat × Nat)) :
    packBits ((lo, w, v) :: l) = v % 2 ^ w * 2 ^ lo + packBits l := rfl

/-- What stands from bit `b` on is a multiple of 2^b. -/
theorem packBits_dvd (b : Nat) (l : List (Nat × Nat × Nat)) (h : fieldsFrom b l = true) : 2 ^ b ∣ packBits l := by
  induction l generalizing b with
  | nil => exact dvd_zero _
  | cons q l ih =>
    obtain ⟨lo, w, v⟩ := q
    obtain ⟨hlo, hl⟩ := (fieldsFrom_cons b lo w v l).1 h
    rw [packBits_cons]
    exact dvd_add (dvd_mul_of_dvd_right (pow_dvd_pow 2 hlo) _) ((pow_dvd_pow 2 (by omega)).trans (ih (lo + w) hl))

/-- Bits below those read do not matter. -/
theorem bits_add_low (a r hi lo b : Nat) (ha : a < 2 ^ b) (hr : 2 ^ b ∣ r) (hb : b ≤ lo) : bits (a + r) hi lo = bits r hi lo := by
  obtain ⟨q, rfl⟩ := hr
  obtain ⟨c, rfl⟩ := Nat.exists_eq_add_of_le hb
  have hhigh : (a + 2 ^ b * q) / 2 ^ (b + c) = 2 ^ b * q / 2 ^ (b + c) := by
    rw [pow_add, ← Nat.div_div_eq_div_mul, ← Nat.div_div_eq_div_mul, Nat.add_mul_div_left _ _ (Nat.two_pow_pos b),
      Nat.div_eq_of_lt ha, zero_add, Nat.mul_div_cancel_left _ (Nat.two_pow_pos b)]
  rw [bits, bits, Nat.shiftRight_eq_div_pow, Nat.shiftRight_eq_div_pow, hhigh]

/-- A field with nothing below it. -/
theorem bits_first (lo w v r : Nat) (hw : 0 < w) (hr : 2 ^ (lo + w) ∣ r) :
    bits (v % 2 ^ w * 2 ^ lo + r) (lo + w - 1) lo = v % 2 ^ w := by
  obtain ⟨q, rfl⟩ := hr
  have hwidth : lo + w - 1 + 1 - lo = w := by omega
  rw [bits, hwidth, Nat.shiftRight_eq_div_pow, pow_add, mul_assoc, mul_comm (v % 2 ^ w), ← mul_add, Nat.mul_div_cancel_left _ (Nat.two_pow_pos lo),
    Nat.add_mul_mod_self_left, Nat.mod_mod]

theorem fieldsFrom_le (b lo w v : Nat) (before after : List (Nat × Nat × Nat))
    (h : fieldsFrom b (before ++ (lo, w, v) :: after) = true) : b ≤ lo := by
  induction before generalizing b with
  | nil => exact ((fieldsFrom_cons b lo w v after).1 h).1
  | cons q before ih =>
    obtain ⟨hle, hrest⟩ := (fieldsFrom_cons b q.1 q.2.1 q.2.2 _).1 h
    exact (hle.trans (Nat.le_add_right _ _)).trans (ih _ hrest)

/-- A field of a packed number reads as its value. -/
theorem bits_packBits (b lo w v : Nat) (before after : List (Nat × Nat × Nat)) (hw : 0 < w)
    (h : fieldsFrom b (before ++ (lo, w, v) :: after) = true) :
    bits (packBits (before ++ (lo, w, v) :: after)) (lo + w - 1) lo = v % 2 ^ w := by
  induction before generalizing b with
  | nil => exact bits_first lo w v _ hw (packBits_dvd _ _ ((fieldsFrom_cons b lo w v after).1 h).2)
  | cons q before ih =>
    obtain ⟨lo', w', v'⟩ := q
    rw [List.cons_append] at h ⊢
    obtain ⟨-, hrest⟩ := (fieldsFrom_cons b lo' w' v' _).1 h
    have hlow : v' % 2 ^ w' * 2 ^ lo' < 2 ^ (lo' + w') := by
      rw [pow_add, mul_comm]
      exact Nat.mul_lt_mul_of_pos_left (Nat.mod_lt _ (Nat.two_pow_pos w')) (Nat.two_pow_pos lo')
    rw [packBits_cons, bits_add_low _ _ _ _ _ hlow (packBits_dvd _ _ hrest) (fieldsFrom_le _ _ _ _ _ _ hrest)]
    exact ih _ hrest

section Header
variable (h : BulkHeader)

theorem BulkHeader.encode_type : bits h.encode 3 0 = h.type % 2 ^ 4 :=
  bits_packBits 0 0 4 h.type [] _ (by decide) rfl

theorem BulkHeader.encode_order : bits h.encode 6 6 = b2n h.order % 2 :=
  bits_packBits 0 6 1 (b2n h.order) [(0, 4, h.type)] _ (by decide) rfl

theorem BulkHeader.encode_age : bits h.encode 175 170 = h.age % 2 ^ 6 :=
  bits_packBits 0 170 6 h.age [(0, 4, h.type), (6, 1, b2n h.order), (7, 1, b2n h.gw), (8, 16, h.dst), (24, 16, h.src),
    (40, 16, h.stream), (56, 48, h.seq), (104, 10, h.len), (114, 10, h.group), (124, 6, h.tree), (130, 16, h.fmt),
    (146, 24, h.offset)] _ (by decide) rfl

end Header

/-! ### Fills (R398 to R405), which leave the clocks -/

theorem exec_fillComplete (f : Nat) (s : State) : exec (.fillComplete f) s = .next (s.fillComplete f).serveReads := rfl

section Clock
variable (s : State) (st : Nat)

theorem State.awaitsOver_clk (p node ch : Nat) : (s.awaitsOver p node ch).clk = s.clk := by
  unfold State.awaitsOver
  split
  · rfl
  · exact State.forAll_keeps State.clk s _ _ fun _ _ => rfl

theorem State.resultPasses_clk (p node ch value : Nat) : (s.resultPasses p node ch value).clk = s.clk := by
  unfold State.resultPasses
  dsimp only
  rw [State.awaitsOver_clk]
  split <;> rfl

theorem State.nodeReady_clk (p node ch : Nat) : (s.nodeReady p node ch).clk = s.clk := by
  unfold State.nodeReady
  dsimp only
  split
  · rfl
  · split
    · exact State.resultPasses_clk _ _ _ _ _
    · rfl

theorem State.moveLeaf_clk (old new : Remap) : (s.moveLeaf st old new).clk = s.clk := by
  unfold State.moveLeaf
  split
  · rfl
  · dsimp only
    split
    · rfl
    · exact State.forAll_keeps State.clk s _ _ fun t ch => (State.nodeReady_clk _ _ _ _).trans (State.nodeReady_clk _ _ _ _)

theorem State.setMoved_rootTime (prow pcol : Nat) : (s.setMoved st prow pcol).clk.rootTime = s.clk.rootTime :=
  congrArg Clk.rootTime (State.moveLeaf_clk (s.updateRemap st _) st _ _)

theorem State.restoreStation_rootTime (p : Nat) : (s.restoreStation p st).clk.rootTime = s.clk.rootTime := rfl

end Clock

/-- What a fill of a station has to bring: its last shadow (R398). -/
def State.shadowBytes (s : State) (st : Nat) : Nat := match (s.station st).lastShadow with | some sh => sh.bytes | none => 0

section Fill
variable (s : State) (st : Nat) (l : Fill) (hfill : (s.field (stField st)).fill = some l) (hst : l.station = st)
include hfill

theorem exec_fillTransfer_other (offset : Nat) (data : List Byte) (h : offset ≠ l.bytes) :
    exec (.fillTransfer st offset data) s = .next s := by
  refine congrArg Host.Outcome.next ?_
  rw [hfill]
  exact if_neg fun hnext => h hnext.2.symm

include hst

/-- The next bytes of a fill go to the core that is filled. -/
theorem exec_fillTransfer_next (data : List Byte) :
    exec (.fillTransfer st l.bytes data) s
      = .next ((s.emit (.fill st l.bytes (fillHeader st (s.station st).copy l.bytes data.length))).modField (stField st) fun x =>
          { x with fill := some { l with bytes := l.bytes + data.length } }) := by
  refine congrArg Host.Outcome.next ?_
  rw [hfill]
  exact if_pos ⟨hst, rfl⟩

section Complete
variable (p : Nat) (hp : s.stPart st = some p)
include hp

/-- A fill ends once the shadow has arrived. -/
theorem State.fillComplete_eq :
    s.fillComplete (stField st)
      = let f := stField st
        if l.bytes < s.shadowBytes st then s
        else if s.lostTile l then
          ((s.logFaultAt l.time f l.cause 2 st l.failRow l.failCol).dropFills f none).fieldRollback f
        else
          let s := if l.own then s else s.setMoved st l.prow l.pcol
          let s := (s.restoreStation p st).endReset l
          let s := if l.start + 180000 < s.clk.rootTime then s.modField f fun x => { x with overrun := true } else s
          let s := s.modStation st fun y =>
            { y with holds := y.holds ++ (l.receiver.toList.map (·.1)).filter fun r => r < 65536 }
          (s.endHalt st).nextFill f := by
  subst hst
  simp only [State.fillComplete, hfill, hp]
  rfl

section Arrived
variable (hbytes : s.shadowBytes st ≤ l.bytes)
include hbytes

/-- The receiver lacks a tile from before the shadow (R404). -/
theorem State.fillComplete_lost (hlost : s.lostTile l = true) :
    s.fillComplete (stField st)
      = ((s.logFaultAt l.time (stField st) l.cause 2 st l.failRow l.failCol).dropFills (stField st) none).fieldRollback (stField st) :=
  (s.fillComplete_eq st l hfill hst p hp).trans ((if_neg (Nat.not_lt.2 hbytes)).trans (if_pos hlost))

/-- A fill to a spare ends within its budget. -/
theorem State.fillComplete_restores (hlost : s.lostTile l = false) (hown : l.own = false) (hreset : l.reset = false)
    (htime : s.clk.rootTime ≤ l.start + 180000) :
    s.fillComplete (stField st)
      = ((((s.setMoved st l.prow l.pcol).restoreStation p st).modStation st fun y =>
          { y with holds := y.holds ++ (l.receiver.toList.map (·.1)).filter fun r => r < 65536 }).endHalt st).nextFill
            (stField st) := by
  have hend : ((s.setMoved st l.prow l.pcol).restoreStation p st).endReset l = (s.setMoved st l.prow l.pcol).restoreStation p st :=
    if_neg (by rw [hreset]; decide)
  have hclk : ((s.setMoved st l.prow l.pcol).restoreStation p st).clk.rootTime = s.clk.rootTime := by
    rw [State.restoreStation_rootTime, State.setMoved_rootTime]
  refine (s.fillComplete_eq st l hfill hst p hp).trans ((if_neg (Nat.not_lt.2 hbytes)).trans ?_)
  simp only [hlost, hown, Bool.false_eq_true, if_false, hend, hclk, Nat.not_lt.2 htime]

end Arrived

end Complete

end Fill

end Sys2Proof.Machine
end

section
/-! The statement about fills. -/

namespace Sys2Proof.Machine

/-- Settles O28: a fill by the bytes that have arrived and by the tile that its receiver lacks. -/
theorem fills : Obligations.Fills := by
  unfold Obligations.Fills
  intro s st p l hfill hst hp f need
  refine ⟨exec_fillTransfer_next s st l hfill hst, fun copy offset n => ?header, exec_fillTransfer_other s st l hfill,
    fun hearly => ?early, fun hbytes hlost => ?lost, fun hbytes hlost hown hreset htime => ?restores⟩
  case header =>
    refine ⟨(BulkHeader.encode_order _).trans rfl, (BulkHeader.encode_type _).trans rfl, (BulkHeader.encode_age _).trans rfl⟩
  case early =>
    have hwaits : s.fillComplete f = s := (s.fillComplete_eq st l hfill hst p hp).trans (if_pos hearly)
    rw [exec_fillComplete, hwaits]
  case lost => rw [exec_fillComplete, s.fillComplete_lost st l hfill hst p hp hbytes hlost]
  case restores => rw [exec_fillComplete, s.fillComplete_restores st l hfill hst p hp hbytes hlost hown hreset htime]

end Sys2Proof.Machine
end
